-- ==== Sys2Proof/Word.lean ====
section
/-! DEFINITION. The word types of the Flirid core and the plain types of instruction fields and event payloads
(R30, R47 to R52; the payload types are shared by the events of Syntax.lean). -/

namespace Sys2Proof

/-- One byte of memory or of a register-space granule (R11). -/
abbrev Byte := BitVec 8

/-- One 32-bit instruction word (R13, R47). -/
abbrev IWord := BitVec 32

/-- One 64-bit scalar register or control register (R30, R43). -/
abbrev W64 := BitVec 64

/-- The G field of an S slot (R48): the slot executes when the predicate XOR `neg` is 1. -/
structure SGuard where
  neg : Bool
  p : BitVec 3
  deriving DecidableEq, Repr

/-- The G field of a V slot whose destination is a vector or a lane mask (R48, R32). -/
structure VMask where
  z : Bool
  k : BitVec 3
  deriving DecidableEq, Repr

/-- The token word of an M or C slot (R52, Table 3-5). -/
structure TokWord where
  imm12 : BitVec 12
  pe : Bool
  po : BitVec 4
  ce : Bool
  cc : BitVec 4
  be : Bool
  cb : BitVec 4
  ae : Bool
  ca : BitVec 4
  deriving DecidableEq, Repr

/-- The G field of an M or C slot with the token word that T = 1 owns (R48, R52). -/
structure EGuard where
  p : BitVec 3
  tok : Option TokWord
  deriving DecidableEq, Repr

/-- An immediate of `n` bits in the slot word, or the literal word that replaces it (R50, R51). -/
inductive Imm (n : Nat) where
  | short (v : BitVec n)
  | lit (v : BitVec 32)
  deriving DecidableEq, Repr

/-- The source of VBCAST: the scalar register of field A, or the literal (R163). -/
inductive BcSrc where
  | reg (a : BitVec 6)
  | lit (v : BitVec 32)
  deriving DecidableEq, Repr

/-- What an access does, for the permission check of a page (R101, R255, R372). -/
inductive AccMode where
  | read
  | write
  | fetch
  deriving DecidableEq, Repr

/-- A write that reaches its home (R246): a pending access of this core by its place in the access list, or
another agent's write to global memory, to the cistern, or to the basin of a logical core of a launch that this core runs or holds
parked; the start (entries FILLING) and the end (entries READY) of another core's engine write into such a basin (R243, R280);
another core's XS.OPEN, or its close, of a die stream into this core (R285); the credit of a slot of a die stream of this core (R244);
a write of a management core to memory or to the basin (R364). -/
inductive HomeWrite where
  | own (idx : Nat)
  | memory (key : Nat) (data : List (BitVec 8))
  | cistern (addr : Nat) (data : List (BitVec 8))
  | scratchpad (lid : BitVec 32) (lcore : BitVec 9) (addr : Nat) (data : List (BitVec 8))
  | regspace (lid : BitVec 32) (lcore : BitVec 9) (addr : Nat) (tag : BitVec 4) (data : List (BitVec 8))
  | tilesFill (lid : BitVec 32) (lcore : BitVec 9) (entries : List Nat)
  | tilesReady (lid : BitVec 32) (lcore : BitVec 9) (entries : List Nat)
  | streamOpen (lid : BitVec 32) (lcore : BitVec 9) (tag : Nat) (regspace : Bool) (base stride size count entry : Nat)
  | streamClose (lid : BitVec 32) (lcore : BitVec 9) (tag : Nat)
  | streamCredit (lid : BitVec 32) (lcore : BitVec 9) (tag slot : Nat)
  | management (key : Nat) (data : List (BitVec 8))
  | managementBasin (addr : Nat) (data : List (BitVec 8))
  deriving DecidableEq, Repr

/-- Who sends a request that a home serves (R296, R297, R325): a started instruction of this core, by its place in
the started list, or a logical core of some package with its operands. -/
inductive Caller where
  | own (idx : Nat)
  | other (pkg : BitVec 19) (lcore : BitVec 9)
  deriving DecidableEq, Repr

/-- What a byte credit to a record stands for (R302, R345): bytes of a copy, peer drain or collective; data bytes of
an exchange; the bytes of a closing flit; the grant of an arbiter, the only message that raises a count (R299). One of a copy or a peer
drain that has written into the basin of a logical core of the record's launch says where: its space (0 the register space, 1 the
accumulator storage, 2 the scratchpad), address and length of each run (R265). -/
inductive CreditKind where
  | plain
  | basin (lcore : BitVec 9) (runs : List (Nat × Nat × Nat))
  | exchange
  | closing
  | grant
  deriving DecidableEq, Repr

/-- The blocks whose words are checked (R370): the SRAMs, and the HBM controllers. -/
inductive SramBlock where
  | basin
  | dieCache
  | cistern
  | remoteReadCache
  | tlb
  | recordStore
  | hbm
  deriving DecidableEq, Repr

/-- What a link retrains for (R371). -/
inductive RetrainKind where
  | width
  | frequency
  deriving DecidableEq, Repr

/-- A firmware image as the boot ROM sees it (R361, R362): its digest, whether its signature verifies, the digest of
the key it verifies under, and its security version. -/
structure BootImage where
  digest : BitVec 256
  signatureValid : Bool
  keyDigest : BitVec 256
  version : Nat
  deriving DecidableEq, Repr

end Sys2Proof
end

