-- ==== Sys2Proof/Machine/Bits.lean ====
section
/-! DEFINITION. Bit fields, sign extension, byte order and integer square root. -/

namespace Sys2Proof.Machine

/-- The low `n` bytes of a number, the least significant first (R11). -/
def leBytes (n v : Nat) : List Byte := (List.range n).map fun i => BitVec.ofNat 8 (v / 2 ^ (8 * i))

/-- The number that bytes make, the first the least significant (R11). -/
def ofLe (bs : List Byte) : Nat := bs.foldr (fun b acc => b.toNat + 256 * acc) 0

/-- Bits `lo + n - 1 : lo` of a number. -/
def bitsAt (v lo n : Nat) : Nat := v / 2 ^ lo % 2 ^ n

/-- SEXT(v, n) as an integer (R63). -/
def sextInt (n v : Nat) : Int :=
  if v % 2 ^ n < 2 ^ (n - 1) then (v % 2 ^ n : Nat) else ((v % 2 ^ n : Nat) : Int) - (2 ^ n : Nat)

/-- An integer modulo 2^n. -/
def wrapInt (n : Nat) (x : Int) : Nat := (x % ((2 ^ n : Nat) : Int)).toNat

/-- An integer within bounds. -/
def clampInt (lo hi x : Int) : Int := if x < lo then lo else if hi < x then hi else x

/-- The number of one bits among the low `n` bits. -/
def popCount (n v : Nat) : Nat := ((List.range n).filter fun i => v.testBit i).length

/-- The number of zero bits above the highest one bit of a value of `n` bits; `n` for zero. -/
def leadingZeros (n v : Nat) : Nat := if v == 0 then n else n - 1 - v.log2

/-- Newton's step toward the integer square root, from above, at most `fuel` times. -/
def isqrtGo (n : Nat) : (fuel r : Nat) → Nat
  | 0, r => r
  | fuel + 1, r =>
    let r' := (r + n / r) / 2
    if r' < r then isqrtGo n fuel r' else r

/-- The integer square root, rounded down. -/
def isqrt (n : Nat) : Nat := if n == 0 then 0 else isqrtGo n (n.log2 + 2) (2 ^ (n.log2 / 2 + 1))

/-- Pairs of bytes as 16-bit lanes (R123). -/
def lanes16 : List Byte → List Nat
  | a :: b :: rest => (a.toNat + 256 * b.toNat) :: lanes16 rest
  | _ => []

/-- Groups of four bytes as 32-bit lanes (R123). -/
def lanes32 : List Byte → List Nat
  | a :: b :: c :: d :: rest =>
    (a.toNat + 256 * b.toNat + 65536 * c.toNat + 16777216 * d.toNat) :: lanes32 rest
  | _ => []

/-- Bytes as pairs of 4-bit lanes, the low half first (R123). -/
def lanes4 (bs : List Byte) : List Nat := bs.flatMap fun b => [b.toNat % 16, b.toNat / 16]

/-- The lanes of width `w` that bytes hold (R123). -/
def lanesOf (w : Nat) (bs : List Byte) : List Nat :=
  match w with
  | 4 => lanes4 bs
  | 16 => lanes16 bs
  | 32 => lanes32 bs
  | _ => bs.map BitVec.toNat

/-- Pairs of 4-bit lanes as bytes (R123). -/
def bytes4 : List Nat → List Byte
  | a :: b :: rest => BitVec.ofNat 8 (a % 16 + 16 * (b % 16)) :: bytes4 rest
  | [a] => [BitVec.ofNat 8 (a % 16)]
  | [] => []

/-- The bytes that lanes of width `w` make (R123). -/
def bytesOf (w : Nat) (xs : List Nat) : List Byte :=
  match w with
  | 4 => bytes4 xs
  | _ => xs.flatMap fun x => leBytes (w / 8) x

/-- The elements of `xs` from place `k` on, `n` of them. -/
def sliceOf {α : Type} (xs : List α) (k n : Nat) : List α := (xs.drop k).take n

/-- `xs` with `f` applied to place `k`. -/
def modifyAt {α : Type} (k : Nat) (f : α → α) : List α → List α
  | [] => []
  | x :: xs =>
    match k with
    | 0 => f x :: xs
    | k + 1 => x :: modifyAt k f xs

/-- `xs` without place `k`. -/
def removeAt {α : Type} : Nat → List α → List α
  | _, [] => []
  | 0, _ :: xs => xs
  | k + 1, x :: xs => x :: removeAt k xs

/-- Insertion of a number into a rising list of numbers without repeats. -/
def insertNat (n : Nat) : List Nat → List Nat
  | [] => [n]
  | x :: xs => if n < x then n :: x :: xs else if n == x then x :: xs else x :: insertNat n xs

/-- The value at a key of an association list. -/
def lookupKey {α β : Type} [BEq α] (k : α) : List (α × β) → Option β
  | [] => none
  | (k', v) :: rest => if k' == k then some v else lookupKey k rest

/-- An association list with one entry for `k`. -/
def setKey {α β : Type} [BEq α] (k : α) (v : β) : List (α × β) → List (α × β)
  | [] => [(k, v)]
  | (k', v') :: rest => if k' == k then (k, v) :: rest else (k', v') :: setKey k v rest

/-- Insertion by key into a list whose keys rise. -/
def insertKey {β : Type} (k : Nat) (v : β) : List (Nat × β) → List (Nat × β)
  | [] => [(k, v)]
  | (k', v') :: rest =>
    if k < k' then (k, v) :: (k', v') :: rest
    else if k == k' then (k, v) :: rest
    else (k', v') :: insertKey k v rest

end Sys2Proof.Machine
end

