-- ==== Sys2Proof/Machine/Formats.lean ====
section
/-! DEFINITION. Number formats, exact values, rounding and the random generator (R123 to R142). -/

namespace Sys2Proof.Machine

/-- The format tags (Table 2-5). -/
inductive Fmt where
  | raw
  | fp32
  | bf16
  | fp16
  | e4m3
  | e5m2
  | mxfp8
  | mxfp4
  | qc4
  | int32
  | int16
  | int8
  | uint8
  | ang16
  | bits
  deriving DecidableEq, Repr

/-- The code of a tag (Table 2-5). -/
def Fmt.code (f : Fmt) : Nat :=
  match f with
  | .raw => 0
  | .fp32 => 1
  | .bf16 => 2
  | .fp16 => 3
  | .e4m3 => 4
  | .e5m2 => 5
  | .mxfp8 => 6
  | .mxfp4 => 7
  | .qc4 => 8
  | .int32 => 9
  | .int16 => 10
  | .int8 => 11
  | .uint8 => 12
  | .ang16 => 13
  | .bits => 14

/-- The tag of a code; code 15 is never stored (R38). -/
def Fmt.ofCode (c : BitVec 4) : Fmt :=
  match c.toNat with
  | 1 => .fp32
  | 2 => .bf16
  | 3 => .fp16
  | 4 => .e4m3
  | 5 => .e5m2
  | 6 => .mxfp8
  | 7 => .mxfp4
  | 8 => .qc4
  | 9 => .int32
  | 10 => .int16
  | 11 => .int8
  | 12 => .uint8
  | 13 => .ang16
  | 14 => .bits
  | _ => .raw

/-- The width of an element in bits; a lane of bits is a byte (R123, R151), and raw counts bytes. -/
def Fmt.width (f : Fmt) : Nat :=
  match f with
  | .fp32 => 32
  | .int32 => 32
  | .bf16 => 16
  | .fp16 => 16
  | .int16 => 16
  | .ang16 => 16
  | .mxfp4 => 4
  | .qc4 => 4
  | .raw => 8
  | .e4m3 => 8
  | .e5m2 => 8
  | .mxfp8 => 8
  | .int8 => 8
  | .uint8 => 8
  | .bits => 8

/-- LANES(fmt) (R32, R151). -/
def Fmt.lanes (f : Fmt) : Nat := 2048 / f.width

/-- Class FLT of Table 10-1. -/
def Fmt.isFlt (f : Fmt) : Bool := f == .fp32 || f == .bf16 || f == .fp16

/-- Class INT of Table 10-1. -/
def Fmt.isInt (f : Fmt) : Bool := f == .int32 || f == .int16 || f == .int8 || f == .uint8

/-- Class ARI of Table 10-1. -/
def Fmt.isAri (f : Fmt) : Bool := f.isFlt || f.isInt

/-- Class LOG of Table 10-1. -/
def Fmt.isLog (f : Fmt) : Bool := f.isAri || f == .e4m3 || f == .e5m2 || f == .ang16 || f == .bits

/-- A block format, whose granules use the sideband (R39). -/
def Fmt.isBlk (f : Fmt) : Bool := f == .mxfp8 || f == .mxfp4 || f == .qc4

/-! ### Flags and rounding modes -/

/-- The bits of FFLAGS (Table 2-7). -/
abbrev Flags := BitVec 5

/-- Invalid. -/
def fNV : Flags := 1
/-- Divide by zero. -/
def fDZ : Flags := 2
/-- Overflow. -/
def fOF : Flags := 4
/-- Underflow. -/
def fUF : Flags := 8
/-- Inexact. -/
def fNX : Flags := 16

/-- The rounding modes of Table 8-2; SR carries the output of the generator at the element's coordinate. -/
inductive RMode where
  | rne
  | rtz
  | rdn
  | rup
  | sr (z : W64)
  deriving DecidableEq, Repr

/-- The mode that RMODE selects (Table 2-7). -/
def RMode.ofReg (r : W64) : RMode :=
  match r.toNat % 4 with
  | 0 => .rne
  | 1 => .rtz
  | 2 => .rdn
  | _ => .rup

/-- The generator (R141). -/
def generator (seed tensor coord : W64) : W64 :=
  let z := seed + tensor * 0x9E3779B97F4A7C15#64 + coord * 0xD1B54A32D192ED03#64
  let z := (z ^^^ (z >>> 30)) * 0xBF58476D1CE4E5B9#64
  let z := (z ^^^ (z >>> 27)) * 0x94D049BB133111EB#64
  z ^^^ (z >>> 31)

/-! ### Values -/

/-- A real value (−1)^neg · m · 2^e with the sign of a zero, an infinity, or a NaN. -/
inductive FVal where
  | nan
  | inf (neg : Bool)
  | fin (neg : Bool) (m : Nat) (e : Int)
  deriving DecidableEq, Repr

/-- The layout of a floating-point element format (Table 8-1): width, exponent and fraction bits, bias, the largest
finite code, the code of infinity where there is one, and the canonical NaN. -/
structure FltFmt where
  w : Nat
  ebits : Nat
  fbits : Nat
  bias : Nat
  maxCode : Nat
  infCode : Option Nat
  nanCode : Nat
  deriving DecidableEq, Repr

/-- fp32 (Table 8-1). -/
def fp32F : FltFmt := ⟨32, 8, 23, 127, 0x7F7FFFFF, some 0x7F800000, 0x7FC00000⟩
/-- bf16 (Table 8-1). -/
def bf16F : FltFmt := ⟨16, 8, 7, 127, 0x7F7F, some 0x7F80, 0x7FC0⟩
/-- fp16 (Table 8-1). -/
def fp16F : FltFmt := ⟨16, 5, 10, 15, 0x7BFF, some 0x7C00, 0x7E00⟩
/-- e4m3 (Table 8-1). -/
def e4m3F : FltFmt := ⟨8, 4, 3, 7, 0x7E, none, 0x7F⟩
/-- e5m2 (Table 8-1). -/
def e5m2F : FltFmt := ⟨8, 5, 2, 15, 0x7B, some 0x7C, 0x7E⟩
/-- The element of mxfp4 (Table 8-1); it has no NaN and its NaN code is never used. -/
def e2m1F : FltFmt := ⟨4, 2, 1, 1, 7, none, 0⟩

/-- The layout of a tag whose elements are floating-point values of their own. -/
def Fmt.flt (f : Fmt) : Option FltFmt :=
  match f with
  | .fp32 => some fp32F
  | .bf16 => some bf16F
  | .fp16 => some fp16F
  | .e4m3 => some e4m3F
  | .e5m2 => some e5m2F
  | .raw => none
  | .mxfp8 => none
  | .mxfp4 => none
  | .qc4 => none
  | .int32 => none
  | .int16 => none
  | .int8 => none
  | .uint8 => none
  | .ang16 => none
  | .bits => none

/-- The value of an encoding (R124). -/
def FltFmt.decode (f : FltFmt) (v : Nat) : FVal :=
  let neg := v.testBit (f.w - 1)
  let mag := v % 2 ^ (f.w - 1)
  let ef := mag / 2 ^ f.fbits
  let fr := mag % 2 ^ f.fbits
  if mag ≤ f.maxCode then
    if ef == 0 then .fin neg fr (1 - (f.bias : Int) - f.fbits)
    else .fin neg (2 ^ f.fbits + fr) ((ef : Int) - f.bias - f.fbits)
  else if some mag == f.infCode then .inf neg
  else .nan

/-- A magnitude code with its sign. -/
def FltFmt.signed (f : FltFmt) (neg : Bool) (mag : Nat) : Nat := if neg then 2 ^ (f.w - 1) + mag else mag

/-- The magnitude that an overflow delivers (Table 8-3); `up` says that the generator rounded up. -/
def FltFmt.overflow (f : FltFmt) (mode : RMode) (neg up : Bool) : Nat :=
  match f.infCode with
  | none => f.maxCode
  | some inf =>
    match mode with
    | .rne => inf
    | .rtz => f.maxCode
    | .rdn => if neg then inf else f.maxCode
    | .rup => if neg then f.maxCode else inf
    | .sr _ => if up then inf else f.maxCode

/-- Whether a truncated magnitude `t` with the rest `rem / 2^k` of a unit rounds up (Table 8-2, R142). -/
def roundsUp (mode : RMode) (neg : Bool) (t rem k : Nat) : Bool :=
  match mode with
  | .rne => 2 ^ k < 2 * rem || (2 ^ k == 2 * rem && t % 2 == 1)
  | .rtz => false
  | .rdn => neg && rem != 0
  | .rup => !neg && rem != 0
  | .sr z => (z >>> 40).toNat < rem * 2 ^ 24 / 2 ^ k

/-- RND of the finite value (−1)^neg · m · 2^e with its flags (R126 to R128, R142). -/
def FltFmt.roundFin (f : FltFmt) (mode : RMode) (neg : Bool) (m : Nat) (e : Int) : Nat × Flags :=
  if m == 0 then (f.signed neg 0, 0)
  else
    let top : Int := (m.log2 : Int) + e
    let emin : Int := 1 - (f.bias : Int)
    let q : Int := (if top < emin then emin else top) - f.fbits
    let k := (q - e).toNat
    let m' := m * 2 ^ (e - q).toNat
    let t := m' / 2 ^ k
    let rem := m' % 2 ^ k
    let up := roundsUp mode neg t rem k
    let code := (q - (emin - f.fbits)).toNat * 2 ^ f.fbits + t + up.toNat
    if f.maxCode < code then (f.signed neg (f.overflow mode neg up), fOF ||| fNX)
    else (f.signed neg code, if rem == 0 then 0 else if top < emin then fUF ||| fNX else fNX)

/-- RND(x, fmt, mode) (R126, R127); an infinity meets a saturating format as R128 says. -/
def FltFmt.round (f : FltFmt) (mode : RMode) (x : FVal) : Nat × Flags :=
  match x with
  | .nan => (f.nanCode, 0)
  | .inf neg =>
    match f.infCode with
    | some inf => (f.signed neg inf, 0)
    | none => (f.signed neg f.maxCode, fOF ||| fNX)
  | .fin neg m e => f.roundFin mode neg m e

/-- (−1)^neg · m · 2^e as an integer in units of 2^q, for q at most e. -/
def unitsOf (neg : Bool) (m : Nat) (e q : Int) : Int :=
  let v : Int := ((m * 2 ^ (e - q).toNat : Nat) : Int)
  if neg then -v else v

/-- The value n · 2^q of an integer; an exact zero has the sign given. -/
def finOfInt (n : Int) (q : Int) (zeroNeg : Bool) : FVal :=
  if n == 0 then .fin zeroNeg 0 0 else .fin (decide (n < 0)) n.natAbs q

/-- x + y, exact, with the flag NV where a NaN is created; the sign of a zero follows IEEE 754 (R125). -/
def addExact (mode : RMode) (x y : FVal) : FVal × Flags :=
  match x, y with
  | .nan, _ => (.nan, 0)
  | _, .nan => (.nan, 0)
  | .inf n, .inf n' => if n == n' then (.inf n, 0) else (.nan, fNV)
  | .inf n, .fin _ _ _ => (.inf n, 0)
  | .fin _ _ _, .inf n => (.inf n, 0)
  | .fin n m e, .fin n' m' e' =>
    let q := if e < e' then e else e'
    let zeroNeg := if m == 0 && m' == 0 && n == n' then n else mode == .rdn
    (finOfInt (unitsOf n m e q + unitsOf n' m' e' q) q zeroNeg, 0)

/-- −x (R154). -/
def FVal.negate (x : FVal) : FVal :=
  match x with
  | .nan => .nan
  | .inf n => .inf (!n)
  | .fin n m e => .fin (!n) m e

/-- x · y, exact, with NV for 0 × ∞ (R125). -/
def mulExact (x y : FVal) : FVal × Flags :=
  match x, y with
  | .nan, _ => (.nan, 0)
  | _, .nan => (.nan, 0)
  | .inf n, .inf n' => (.inf (n != n'), 0)
  | .inf n, .fin n' m _ => if m == 0 then (.nan, fNV) else (.inf (n != n'), 0)
  | .fin n m _, .inf n' => if m == 0 then (.nan, fNV) else (.inf (n != n'), 0)
  | .fin n m e, .fin n' m' e' => (.fin (n != n') (m * m') (e + e'), 0)

/-- x + y rounded, with its flags (R154). -/
def FltFmt.add (f : FltFmt) (mode : RMode) (x y : FVal) : Nat × Flags :=
  let r := addExact mode x y
  let c := f.round mode r.1
  (c.1, c.2 ||| r.2)

/-- x · y rounded, with its flags (R154). -/
def FltFmt.mul (f : FltFmt) (mode : RMode) (x y : FVal) : Nat × Flags :=
  let r := mulExact x y
  let c := f.round mode r.1
  (c.1, c.2 ||| r.2)

/-- d + x · y with one rounding (R155): a NaN operand gives the NaN quietly, unless the product creates one. -/
def FltFmt.fma (f : FltFmt) (mode : RMode) (d x y : FVal) : Nat × Flags :=
  let p := mulExact x y
  let r := addExact mode d p.1
  let c := f.round mode r.1
  (c.1, c.2 ||| r.2 ||| p.2)

/-- The order of two values, NaNs apart: whether x < y; −0 is below +0 only for `zeros` (R154, R159). -/
def FVal.lt (zeros : Bool) (x y : FVal) : Bool :=
  match x, y with
  | .nan, _ => false
  | _, .nan => false
  | .inf n, .inf n' => n && !n'
  | .inf n, .fin _ _ _ => n
  | .fin _ _ _, .inf n => !n
  | .fin n m e, .fin n' m' e' =>
    if m == 0 && m' == 0 then zeros && n && !n'
    else
      let q := if e < e' then e else e'
      unitsOf n m e q < unitsOf n' m' e' q

/-- A NaN. -/
def FVal.isNan (x : FVal) : Bool := x == .nan

/-- A zero of either sign. -/
def FVal.isZero (x : FVal) : Bool :=
  match x with
  | .nan => false
  | .inf _ => false
  | .fin _ m _ => m == 0

/-- A NaN or an infinity. -/
def FVal.isSpecial (x : FVal) : Bool :=
  match x with
  | .nan => true
  | .inf _ => true
  | .fin _ _ _ => false

/-! ### Integers -/

/-- The bounds of an integer format (R130). -/
def Fmt.intLo (f : Fmt) : Int := if f == .uint8 then 0 else -((2 ^ (f.width - 1) : Nat) : Int)

/-- The upper bound of an integer format (R130). -/
def Fmt.intHi (f : Fmt) : Int :=
  if f == .uint8 then 255 else ((2 ^ (f.width - 1) : Nat) : Int) - 1

/-- The value of an integer element (R130). -/
def Fmt.intVal (f : Fmt) (v : Nat) : Int := if f == .uint8 then (v % 256 : Nat) else sextInt f.width v

/-- A finite value rounded to an integer under a mode, and whether it was inexact (R131). -/
def roundToInt (mode : RMode) (neg : Bool) (m : Nat) (e : Int) : Int × Bool :=
  let k := (-e).toNat
  let m' := m * 2 ^ e.toNat
  let t := m' / 2 ^ k
  let rem := m' % 2 ^ k
  let r : Int := ((t + (roundsUp mode neg t rem k).toNat : Nat) : Int)
  (if neg then -r else r, rem != 0)

/-- RND of a floating-point value into an integer format, as bits of its width (R131). A clamped result raises NV and not NX
(DEDUCED, log entry 89). -/
def Fmt.roundInt (f : Fmt) (mode : RMode) (x : FVal) : Nat × Flags :=
  match x with
  | .nan => (0, fNV)
  | .inf neg => (wrapInt f.width (if neg then f.intLo else f.intHi), fNV)
  | .fin neg m e =>
    let r := roundToInt mode neg m e
    if r.1 < f.intLo then (wrapInt f.width f.intLo, fNV)
    else if f.intHi < r.1 then (wrapInt f.width f.intHi, fNV)
    else (wrapInt f.width r.1, if r.2 then fNX else 0)

/-- An integer as a value. -/
def valOfInt (n : Int) : FVal := finOfInt n 0 false

/-- fp32 to ang16 (R138). -/
def angOfVal (mode : RMode) (x : FVal) : Nat × Flags :=
  match x with
  | .nan => (0, fNV)
  | .inf _ => (0, fNV)
  | .fin neg m e =>
    let r := roundToInt mode neg m (e + 16)
    (wrapInt 16 r.1, if r.2 then fNX else 0)

/-- ang16 to a value: code · 2^−16 (R138). -/
def valOfAng (v : Nat) : FVal := .fin false v (-16)

/-! ### Block formats -/

/-- floor(log2) of a finite nonzero magnitude. -/
def expOf (m : Nat) (e : Int) : Int := (m.log2 : Int) + e

/-- The larger of two magnitudes m · 2^e. -/
def magMax (x y : Nat × Int) : Nat × Int :=
  let q := if x.2 < y.2 then x.2 else y.2
  if x.1 * 2 ^ (x.2 - q).toNat < y.1 * 2 ^ (y.2 - q).toNat then y else x

/-- The largest magnitude of values that hold no NaN or infinity. -/
def maxMag (xs : List FVal) : Nat × Int :=
  xs.foldl (fun acc x =>
    match x with
    | .nan => acc
    | .inf _ => acc
    | .fin _ m e => magMax acc (m, e)) (0, 0)

/-- A quantised block: scale code, elements, flags. -/
structure MxBlock where
  scale : Nat
  elems : List Nat
  flags : Flags
  deriving DecidableEq, Repr

/-- The flags of one element of an MX block: saturation raises NX and not OF (R133). -/
def mxFlags (fl : Flags) : Flags := fl &&& ~~~ fOF

/-- Quantisation of 32 values into an MX block (R133); `mode` gives the rounding of element i. A block that holds a NaN or an
infinity raises no flag (DEDUCED, log entry 89). -/
def mxQuant (f : FltFmt) (emax : Int) (mode : Nat → RMode) (xs : List FVal) : MxBlock :=
  if xs.any FVal.isSpecial then ⟨0xFF, xs.map fun _ => 0, 0⟩
  else
    let a := maxMag xs
    if a.1 == 0 then ⟨0, xs.map fun _ => 0, 0⟩
    else
      let e := clampInt 0 254 (expOf a.1 a.2 - emax + 127)
      let rs := xs.zipIdx.map fun p =>
        match p.1 with
        | .nan => (0, 0)
        | .inf _ => (0, 0)
        | .fin n m ee => f.roundFin (mode p.2) n m (ee - (e - 127))
      ⟨e.toNat, rs.map Prod.fst, rs.foldl (fun acc r => acc ||| mxFlags r.2) 0⟩

/-- The value of an element of an MX block with its scale (R134); an mxfp8 NaN element is a NaN. -/
def mxValue (f : FltFmt) (scale elem : Nat) : FVal :=
  if scale == 0xFF then .nan
  else
    match f.decode elem with
    | .nan => .nan
    | .inf n => .inf n
    | .fin n m e => .fin n m (e + scale - 127)

/-- The QC4 levels (Table 8-4) in units of 1/1,024, by code. -/
def qcLevel (code : Nat) : Int :=
  match code with
  | 0 => -1024
  | 1 => -725
  | 2 => -555
  | 3 => -427
  | 4 => -318
  | 5 => -221
  | 6 => -130
  | 7 => -43
  | 8 => 43
  | 9 => 130
  | 10 => 221
  | 11 => 318
  | 12 => 427
  | 13 => 555
  | 14 => 725
  | _ => 1024

/-- RNE of the quotient of two naturals, in units of 2^q, as an fp32 encoding; the divisor is not zero. -/
def rne32Quot (num den : Nat) (e : Int) : Nat :=
  let n := num * 2 ^ 64
  let t := n / den
  (fp32F.roundFin .rne false (4 * t + (if n % den == 0 then 0 else 1)) (e - 66)).1

/-- The block scale bs of a super-scale S and a scale code u (R136). -/
def qcBlockScale (s u : Nat) : Nat :=
  if u == 0 then 0
  else
    match fp32F.decode s with
    | .nan => fp32F.nanCode
    | .inf n => fp32F.signed n 0x7F800000
    | .fin n m e =>
      match fp32F.decode (fp32F.roundFin .rne n (m * u) e).1 with
      | .nan => fp32F.nanCode
      | .inf n' => fp32F.signed n' 0x7F800000
      | .fin n' m' e' => fp32F.signed n' (rne32Quot m' 255 e')

/-- The code of the nearest level to v / bs, ties to the even code (R136): v = n·2^q and bs = d·2^q, d positive. -/
def qcCode (n d : Int) : Nat :=
  (List.range 16).foldl (fun best c =>
    let dist := fun k => (1024 * n - qcLevel k * d).natAbs
    if dist c < dist best then c
    else if dist c == dist best && c % 2 == 0 && best % 2 == 1 then c
    else best) 0

/-- A quantised QC4 super-block: S, the four scale codes, 256 codes, flags (R136). -/
structure QcBlock where
  super : Nat
  scales : List Nat
  codes : List Nat
  flags : Flags
  deriving DecidableEq, Repr

/-- The exact product level × bs of a QC4 element (R137): +0 throughout a block with u = 0, NaN throughout a super-block
whose S is NaN, which comes first (log entry 39); an infinite S makes bs infinite (R136). -/
def qcExact (s u code : Nat) : FVal :=
  match fp32F.decode s with
  | .nan => .nan
  | .inf _ => qcScaled s u code
  | .fin _ _ _ => qcScaled s u code
where
  /-- The product for an S that is no NaN. -/
  qcScaled (s u code : Nat) : FVal :=
    if u == 0 then .fin false 0 0
    else
      match fp32F.decode (qcBlockScale s u) with
      | .nan => .nan
      | .inf n => .inf (n != decide (qcLevel code < 0))
      | .fin n m e => .fin (n != decide (qcLevel code < 0)) (m * (qcLevel code).natAbs) (e - 10)

/-- A QC4 element decoded (R137): RNE32(level × bs). -/
def qcValue (s u code : Nat) : FVal := fp32F.decode (fp32F.round .rne (qcExact s u code)).1

/-- Whether two finite values are equal as numbers. -/
def sameValue (x y : FVal) : Bool := !(x.lt false y) && !(y.lt false x)

/-- Quantisation of a super-block of 256 values (R136); a NaN super-block decodes every other input to a NaN and so
raises NX (DEDUCED, log entry 25). -/
def qcQuant (xs : List FVal) : QcBlock :=
  if xs.any FVal.isSpecial then ⟨0x7FC00000, [255, 255, 255, 255], xs.map fun _ => 8, if xs.all FVal.isNan then 0 else fNX⟩
  else
    let blocks := (List.range 4).map fun b => sliceOf xs (64 * b) 64
    let smag := maxMag xs
    let s := (fp32F.roundFin .rne false smag.1 smag.2).1
    let per := blocks.map fun blk =>
      let m := maxMag blk
      if m.1 == 0 then (0, blk.map fun _ => 8)
      else
        let q := if m.2 < smag.2 then m.2 else smag.2
        let num := 255 * (m.1 * 2 ^ (m.2 - q).toNat)
        let den := smag.1 * 2 ^ (smag.2 - q).toNat
        let t := num / den
        let r := num % den
        let u := if den < 2 * r || (den == 2 * r && t % 2 == 1) then t + 1 else t
        let u := if u < 1 then 1 else if 255 < u then 255 else u
        match fp32F.decode (qcBlockScale s u) with
        | .nan => (u, blk.map fun _ => 8)
        | .inf _ => (u, blk.map fun _ => 8)
        | .fin _ bm be =>
          (u, blk.map fun x =>
            match x with
            | .nan => 8
            | .inf _ => 8
            | .fin n vm ve =>
              if bm == 0 then 8
              else
                let q := if ve < be then ve else be
                qcCode (unitsOf n vm ve q) (unitsOf false bm be q))
    let us := per.map Prod.fst
    let codes := per.flatMap Prod.snd
    let inexact := (xs.zip codes).zipIdx.any fun p =>
      !(sameValue p.1.1 (qcValue s (us.getD (p.2 / 64) 0) p.1.2))
    ⟨s, us, codes, if inexact then fNX else 0⟩

end Sys2Proof.Machine
end

