-- ==== Sys2Proof/Machine/Transc.lean ====
section
/-! DEFINITION. The transcendentals of Table 10-4 (R158): reciprocal and square roots by exact integer division and
square root, exponential and logarithm in fixed point far beyond the precision of a format (log entry 15). -/

namespace Sys2Proof.Machine

/-- A magnitude known up to its last place: m · 2^e exactly, or strictly between m · 2^e and (m + 1) · 2^e, as a value
that rounds the same way wherever m has the bits of the format and two more. -/
def stickyVal (neg : Bool) (m : Nat) (e : Int) (exact : Bool) : FVal :=
  if exact then .fin neg m e else .fin neg (4 * m + 1) (e - 2)

/-- The exact function values of Table 10-4 with the flag of a special case. -/
def rcpVal (x : FVal) : FVal × Flags :=
  match x with
  | .nan => (.nan, 0)
  | .inf n => (.fin n 0 0, 0)
  | .fin n m e =>
    if m == 0 then (.inf n, fDZ)
    else
      let k := m.log2 + 64
      (stickyVal n (2 ^ k / m) (-e - k) (2 ^ k % m == 0), 0)

/-- m · 2^e with an even exponent. -/
def evenExp (m : Nat) (e : Int) : Nat × Int := if e % 2 == 0 then (m, e) else (2 * m, e - 1)

/-- √x (Table 10-4). -/
def sqrtVal (x : FVal) : FVal × Flags :=
  match x with
  | .nan => (.nan, 0)
  | .inf n => if n then (.nan, fNV) else (.inf false, 0)
  | .fin n m e =>
    if m == 0 then (.fin n 0 0, 0)
    else if n then (.nan, fNV)
    else
      let p := evenExp m e
      let v := p.1 * 2 ^ 128
      let r := isqrt v
      (stickyVal false r (p.2 / 2 - 64) (r * r == v), 0)

/-- 1/√x (Table 10-4). -/
def rsqVal (x : FVal) : FVal × Flags :=
  match x with
  | .nan => (.nan, 0)
  | .inf n => if n then (.nan, fNV) else (.fin false 0 0, 0)
  | .fin n m e =>
    if m == 0 then (.inf n, fDZ)
    else if n then (.nan, fNV)
    else
      let p := evenExp m e
      let k := 2 * (p.1.log2 + 64)
      let r := isqrt (2 ^ k / p.1)
      (stickyVal false r (-(p.2 / 2) - ((k / 2 : Nat) : Int)) (r * r * p.1 == 2 ^ k), 0)

/-- The product of the factors 2^(2^−j) that the set bits of `f` choose, bit `n − 1` standing for j = 1; `c` is the
current factor and `acc` the product, both with 192 fraction bits. -/
def exp2Go (f : Nat) : (n c acc : Nat) → Nat
  | 0, _, acc => acc
  | n + 1, c, acc =>
    let c' := isqrt (c * 2 ^ 192)
    exp2Go f n c' (if f.testBit n then acc * c' / 2 ^ 192 else acc)

/-- 2^x (Table 10-4). -/
def exp2Val (x : FVal) : FVal × Flags :=
  match x with
  | .nan => (.nan, 0)
  | .inf n => (if n then .fin false 0 0 else .inf false, 0)
  | .fin n m e =>
    if m == 0 then (.fin false 1 0, 0)
    else if 12 ≤ expOf m e then
      (.fin false 1 (if n then -4096 else 4096), 0)
    else if expOf m e < -40 then
      -- |x| < 2^−40: 2^x is 1 and a little more, or a little less
      (stickyVal false (if n then 2 ^ 60 - 1 else 2 ^ 60) (-60) false, 0)
    else
      let k := (-e).toNat
      let t := unitsOf n m e (if e < 0 then e else 0)
      let ip := t / ((2 ^ k : Nat) : Int)
      let f := (t % ((2 ^ k : Nat) : Int)).toNat
      if f == 0 then (.fin false 1 ip, 0)
      else (stickyVal false (exp2Go f k (2 ^ 193) (2 ^ 192)) (ip - 192) false, 0)

/-- `n` binary digits of log2 of `y` (1 ≤ y < 2, 320 fraction bits), by repeated squaring. -/
def log2Go : (n y acc : Nat) → Nat
  | 0, _, acc => acc
  | n + 1, y, acc =>
    let y' := y * y / 2 ^ 320
    if 2 ^ 321 ≤ y' then log2Go n (y' / 2) (2 * acc + 1) else log2Go n y' (2 * acc)

/-- log2 x (Table 10-4). -/
def log2Val (x : FVal) : FVal × Flags :=
  match x with
  | .nan => (.nan, 0)
  | .inf n => if n then (.nan, fNV) else (.inf false, 0)
  | .fin n m e =>
    if m == 0 then (.inf true, fDZ)
    else if n then (.nan, fNV)
    else
      let l := m.log2
      let ip : Int := (l : Int) + e
      if m == 2 ^ l then (valOfInt ip, 0)
      else
        let t : Int := ip * ((2 ^ 140 : Nat) : Int) + ((log2Go 140 (m * 2 ^ (320 - l)) 0 : Nat) : Int)
        if t < 0 then (stickyVal true ((-t).toNat - 1) (-140) false, 0)
        else (stickyVal false t.toNat (-140) false, 0)

end Sys2Proof.Machine
end

