-- ==== Sys2Proof/Machine/Flags.lean ====
section
/-! DEFINITION. What an element operation computes and the floating-point flags it raises: element arithmetic, compares,
logic and shifts, transcendentals, conversions (R125, R128, R130, R131, R138, R154 to R159, R162, R165, R166). -/

namespace Sys2Proof.Machine

/-- An element result and its flags. -/
abbrev Elem := Nat × Flags

/-- The value of an element of class FLT; other tags have no value here. -/
def Fmt.fval (f : Fmt) (v : Nat) : FVal :=
  match f.flt with
  | some l => l.decode v
  | none => .nan

/-- RND into a tag of class FLT or an eight-bit floating-point tag. -/
def Fmt.rnd (f : Fmt) (mode : RMode) (x : FVal) : Elem :=
  match f.flt with
  | some l => l.round mode x
  | none => (0, 0)

/-- An integer element result, modulo 2^w, without flags (R130). -/
def Fmt.wrap (f : Fmt) (x : Int) : Elem := (wrapInt f.width x, 0)

/-- An element operation chosen by class: floating-point or integer. -/
def Fmt.byClass (f : Fmt) (flt : FltFmt → Elem) (int : Elem) : Elem :=
  match f.flt with
  | some l => flt l
  | none => int

/-- VADD (R154). -/
def elemAdd (f : Fmt) (mode : RMode) (a b : Nat) : Elem :=
  f.byClass (fun l => l.add mode (l.decode a) (l.decode b)) (f.wrap (f.intVal a + f.intVal b))

/-- VSUB (R154). -/
def elemSub (f : Fmt) (mode : RMode) (a b : Nat) : Elem :=
  f.byClass (fun l => l.add mode (l.decode a) (l.decode b).negate) (f.wrap (f.intVal a - f.intVal b))

/-- VMUL (R154). -/
def elemMul (f : Fmt) (mode : RMode) (a b : Nat) : Elem :=
  f.byClass (fun l => l.mul mode (l.decode a) (l.decode b)) (f.wrap (f.intVal a * f.intVal b))

/-- VFMA (R155). -/
def elemFma (f : Fmt) (mode : RMode) (d a b : Nat) : Elem :=
  f.byClass (fun l => l.fma mode (l.decode d) (l.decode a) (l.decode b)) (f.wrap (f.intVal d + f.intVal a * f.intVal b))

/-- VFMS (R155). -/
def elemFms (f : Fmt) (mode : RMode) (d a b : Nat) : Elem :=
  f.byClass (fun l => l.fma mode (l.decode d) (l.decode a).negate (l.decode b))
    (f.wrap (f.intVal d - f.intVal a * f.intVal b))

/-- The smaller or the larger of two floating-point elements; a NaN gives the canonical NaN and −0 is the smaller zero
(R154). -/
def fltPick (l : FltFmt) (larger : Bool) (a b : Nat) : Elem :=
  let x := l.decode a
  let y := l.decode b
  if x.isNan || y.isNan then (l.nanCode, 0)
  else if FVal.lt true x y then (if larger then b else a, 0)
  else (if larger then a else b, 0)

/-- VMIN (R154). -/
def elemMin (f : Fmt) (a b : Nat) : Elem :=
  f.byClass (fun l => fltPick l false a b) (if f.intVal a < f.intVal b then (a, 0) else (b, 0))

/-- VMAX (R154). -/
def elemMax (f : Fmt) (a b : Nat) : Elem :=
  f.byClass (fun l => fltPick l true a b) (if f.intVal a < f.intVal b then (b, 0) else (a, 0))

/-- VABS (R154): only the sign bit of a non-NaN value changes. -/
def elemAbs (f : Fmt) (a : Nat) : Elem :=
  f.byClass (fun l => if (l.decode a).isNan then (l.nanCode, 0) else (a % 2 ^ (l.w - 1), 0))
    (f.wrap (if f.intVal a < 0 then -(f.intVal a) else f.intVal a))

/-- VNEG (R154). -/
def elemNeg (f : Fmt) (a : Nat) : Elem :=
  f.byClass (fun l => if (l.decode a).isNan then (l.nanCode, 0) else (a ^^^ 2 ^ (l.w - 1), 0)) (f.wrap (-(f.intVal a)))

/-- VADDS (R156). -/
def elemAdds (f : Fmt) (a b : Nat) : Elem :=
  (wrapInt f.width (clampInt f.intLo f.intHi (f.intVal a + f.intVal b)), 0)

/-- A shift count taken as an unsigned w-bit value, and a shift left, right logical, right arithmetic (R157); uint8 and
bits shift in zeros. -/
def elemShl (f : Fmt) (a b : Nat) : Elem := (if f.width ≤ b then 0 else a * 2 ^ b % 2 ^ f.width, 0)

/-- VSHR (R157). -/
def elemShr (f : Fmt) (a b : Nat) : Elem := (if f.width ≤ b then 0 else a / 2 ^ b, 0)

/-- VSAR (R157). -/
def elemSar (f : Fmt) (a b : Nat) : Elem :=
  if f == .uint8 || f == .bits then elemShr f a b
  else f.wrap (sextInt f.width a / ((2 ^ (if f.width ≤ b then f.width else b) : Nat) : Int))

/-- A transcendental rounded RNE, with the flags of R128 (R158). -/
def elemTransc (g : FVal → FVal × Flags) (f : Fmt) (a : Nat) : Elem :=
  let r := g (f.fval a)
  let c := f.rnd .rne r.1
  (c.1, c.2 ||| r.2)

/-- The condition of VCMP on two elements (Table 10-5). -/
def elemCmp (f : Fmt) (cond : Nat) (a b : Nat) : Bool :=
  let nan := match f.flt with
    | some l => (l.decode a).isNan || (l.decode b).isNan
    | none => false
  let lt := fun (x y : Nat) => match f.flt with
    | some l => FVal.lt false (l.decode x) (l.decode y)
    | none => decide (f.intVal x < f.intVal y)
  let eq := !nan && !(lt a b) && !(lt b a)
  match cond with
  | 0 => eq
  | 1 => !eq
  | 2 => lt a b
  | 3 => lt a b || eq
  | 4 => lt b a
  | 5 => lt b a || eq
  | 6 => nan
  | _ => !nan

/-- The pairs of Table 10-6. -/
def cvtPair (src tgt : Fmt) : Bool :=
  match src with
  | .fp32 => tgt == .int32 || tgt == .bf16 || tgt == .fp16 || tgt == .int16 || tgt == .ang16
  | .int32 => tgt == .fp32 || tgt == .int16
  | .bf16 => tgt == .fp16 || tgt == .int16 || tgt == .fp32 || tgt == .e4m3 || tgt == .e5m2 || tgt == .int8 || tgt == .uint8
  | .fp16 => tgt == .bf16 || tgt == .int16 || tgt == .fp32 || tgt == .e4m3 || tgt == .e5m2 || tgt == .int8 || tgt == .uint8
  | .int16 => tgt == .bf16 || tgt == .fp16 || tgt == .fp32 || tgt == .int32 || tgt == .int8 || tgt == .uint8
  | .ang16 => tgt == .fp32
  | .e4m3 => tgt == .e5m2 || tgt == .bf16 || tgt == .fp16
  | .e5m2 => tgt == .e4m3 || tgt == .bf16 || tgt == .fp16
  | .int8 => tgt == .uint8 || tgt == .bf16 || tgt == .fp16 || tgt == .int16
  | .uint8 => tgt == .int8 || tgt == .bf16 || tgt == .fp16 || tgt == .int16
  | .raw => false
  | .mxfp8 => false
  | .mxfp4 => false
  | .qc4 => false
  | .bits => false

/-- The conversion of one element (R166). -/
def elemCvt (src tgt : Fmt) (mode : RMode) (v : Nat) : Elem :=
  let x : FVal :=
    if src == .ang16 then valOfAng v
    else if src.isInt then valOfInt (src.intVal v)
    else src.fval v
  if tgt == .ang16 then angOfVal mode x
  else if tgt.isInt then
    if src.isInt then (wrapInt tgt.width (clampInt tgt.intLo tgt.intHi (src.intVal v)), 0)
    else tgt.roundInt mode x
  else tgt.rnd mode x

/-- Neighbours combined pairwise, once (R162). -/
def pairUp (op : Nat → Nat → Elem) : List Nat → List Elem
  | a :: b :: rest => op a b :: pairUp op rest
  | _ => []

/-- The fixed tree of R162 over 2^n lanes. -/
def treeReduce (op : Nat → Nat → Elem) : (n : Nat) → List Nat → Flags → Elem
  | 0, xs, fl => (xs.headD 0, fl)
  | n + 1, xs, fl =>
    let ys := pairUp op xs
    treeReduce op n (ys.map Prod.fst) (ys.foldl (fun acc y => acc ||| y.2) fl)

end Sys2Proof.Machine
end

