-- ==== Sys2Proof/Machine/Trig.lean ====
section
/-! DEFINITION. The 18-fraction-bit cosine and sine of an ang16 code (R139), from the Taylor series in fixed point with
96 fraction bits. -/

namespace Sys2Proof.Machine

/-- π · 2^96, rounded down. -/
def piFix : Nat := 0x3243f6a8885a308d313198a2e

/-- The terms of the series at angle `th` (96 fraction bits): term `t` of degree `k`, sums of the even and of the odd
terms with alternating signs. -/
def taylorGo (th : Nat) : (fuel k t : Nat) → (c s : Int) → Int × Int
  | 0, _, _, c, s => (c, s)
  | fuel + 1, k, t, c, s =>
    let t' := t * th / 2 ^ 96 / (k + 1)
    let ti : Int := t
    match k % 4 with
    | 0 => taylorGo th fuel (k + 1) t' (c + ti) s
    | 1 => taylorGo th fuel (k + 1) t' c (s + ti)
    | 2 => taylorGo th fuel (k + 1) t' (c - ti) s
    | _ => taylorGo th fuel (k + 1) t' c (s - ti)

/-- A value with 96 fraction bits rounded to 18 fraction bits, to nearest. No code lies near a tie (log entry 16). -/
def round18 (x : Int) : Nat := ((x + 2 ^ 77) / 2 ^ 78).toNat

/-- Cosine and sine of 2π·r/65,536 with 18 fraction bits, for r in the first octant. -/
def octant (r : Nat) : Nat × Nat :=
  let p := taylorGo (2 * piFix * r / 65536) 30 0 (2 ^ 96) 0 0
  (round18 p.1, round18 p.2)

/-- Cosine and sine of a code of the first quadrant. -/
def quadrant (r : Nat) : Nat × Nat :=
  if r ≤ 8192 then octant r
  else
    let p := octant (16384 - r)
    (p.2, p.1)

/-- c and s of a code as integers in units of 2^−18 (R139). -/
def cosSin (code : Nat) : Int × Int :=
  let r := code % 16384
  let p := quadrant r
  let c : Int := p.1
  let s : Int := p.2
  match code / 16384 % 4 with
  | 0 => (c, s)
  | 1 => (-s, c)
  | 2 => (-c, -s)
  | _ => (s, -c)

/-- The code of the negated angle (R139). -/
def negCode (code : Nat) : Nat := (65536 - code) % 65536

end Sys2Proof.Machine
end

