-- ==== Sys2Proof/Machine/CascArith.lean ====
section
/-! DEFINITION. The arithmetic of the cascade on fp32 codes: rotations, drift, gradients, the tail, sweeps and product-mode
groups (R139, R143 to R147, R191, R192, R200 to R207, R212). -/

namespace Sys2Proof.Machine

/-- The value of an fp32 code. -/
def val32 (x : Nat) : FVal := fp32F.decode x

/-- RNE32 of an exact value with the flags gathered so far. -/
def rne32 (r : FVal × Flags) : Elem :=
  let c := fp32F.round .rne r.1
  (c.1, c.2 ||| r.2)

/-- The sum of two values that carry flags. -/
def addFl (x y : FVal × Flags) : FVal × Flags :=
  let r := addExact .rne x.1 y.1
  (r.1, r.2 ||| x.2 ||| y.2)

/-- A fixed-point coefficient in units of 2^−18 (R139). -/
def coef (n : Int) : FVal := finOfInt n (-18) false

/-- RNE32(c·x + s·y); with `skip`, a term whose coefficient is zero is left out (R203, R191). DESIGN CHOICE (log entry 106): a product
that creates a NaN raises NV also where the other term has a NaN input. -/
def lin32 (skip : Bool) (c : FVal) (x : Nat) (s : FVal) (y : Nat) : Elem :=
  let p := mulExact c (val32 x)
  let q := mulExact s (val32 y)
  if skip && s.isZero then rne32 p
  else if skip && c.isZero then rne32 q
  else rne32 (addFl p q)

/-- A pair rotated: RNE32(c·a + s·b) and RNE32(−s·a + c·b) (R191, R204). -/
def rotPair (skip : Bool) (c s : FVal) (a b : Nat) : Nat × Nat × Flags :=
  let x := lin32 skip c a s b
  let y := lin32 skip s.negate a c b
  (x.1, y.1, x.2 ||| y.2)

/-! ### Patterns (R200) -/

/-- The pairs of butterfly pattern k (R200). -/
def butterfly (k : Nat) : List (Nat × Nat) :=
  ((List.range 128).filter fun i => !(i.testBit k)).map fun i => (i, i ^^^ 2 ^ k)

/-- The pairs of a 128-byte image. -/
def imagePairs (img : BitVec 1024) : List (Nat × Nat) :=
  (List.range 64).map fun p => ((img.extractLsb' (16 * p) 8).toNat, (img.extractLsb' (16 * p + 8) 8).toNat)

/-- Whether an image is valid: every byte below 128, every lane once (R200). -/
def imageOk (img : BitVec 1024) : Bool :=
  let bs := (List.range 128).map fun i => (img.extractLsb' (8 * i) 8).toNat
  (List.range 128).all fun l => bs.contains l

/-! ### One stage over a vector of 128 lanes (R203, R204, R205) -/

/-- A stage: its pairs, each with its code. -/
abbrev StagePairs := List ((Nat × Nat) × Nat)

/-- ROTP's update by c, s is the update of R191 by c, −s; ROTI negates the code (R203, R204). -/
def stageStep (inverse : Bool) (st : StagePairs) (xs : List Nat) : List Nat × Flags :=
  st.foldl (fun acc p =>
    let cs := cosSin p.2
    let s := if inverse then cs.2 else -cs.2
    let r := rotPair true (coef cs.1) (coef s) (xs.getD p.1.1 0) (xs.getD p.1.2 0)
    ((acc.1.set p.1.1 r.1).set p.1.2 r.2.1, acc.2 ||| r.2.2)) (xs, 0)

/-- Stages in the order given. -/
def stagesStep (inverse : Bool) (sts : List StagePairs) (xs : List Nat) : List Nat × Flags :=
  sts.foldl (fun acc st =>
    let r := stageStep inverse st acc.1
    (r.1, acc.2 ||| r.2)) (xs, 0)

/-- The fp32 code of 1.0. -/
def one32 : Nat := 0x3F800000

/-- RNE32(c² + s²) of a code (R205). -/
def driftQ (code : Nat) : Nat :=
  let cs := cosSin code
  (rne32 (finOfInt (cs.1 * cs.1 + cs.2 * cs.2) (-36) false, 0)).1

/-- The drift vector of stages in ascending order (R205). -/
def driftOf (sts : List StagePairs) : List Nat :=
  sts.foldl (fun d st =>
    st.foldl (fun d p =>
      let q := val32 (driftQ p.2)
      let up := fun (x : Nat) => (fp32F.mul .rne (val32 x) q).1
      (d.set p.1.1 (up (d.getD p.1.1 0))).set p.1.2 (up (d.getD p.1.2 0))) d) (List.replicate 128 one32)

/-! ### The reversible backward pass (R206) -/

/-- One stage of ROTG on y, g and its 64 gradient entries (R206). DESIGN CHOICE (log entry 107): both rotations leave out a term whose
coefficient is zero, as R203 and R204 have it for ROTP and ROTI. -/
def gradStep (st : StagePairs) (y g : List Nat) (grad : List Nat) : List Nat × List Nat × List Nat × Flags :=
  st.zipIdx.foldl (fun acc q =>
    let p := q.1
    let cs := cosSin p.2
    let c := coef cs.1
    let s := coef cs.2
    let ya := y.getD p.1.1 0
    let yb := y.getD p.1.2 0
    let ga := g.getD p.1.1 0
    let gb := g.getD p.1.2 0
    let m := rne32 (addFl (mulExact (val32 ya) (val32 gb)) (mulExact (val32 yb).negate (val32 ga)))
    let n := fp32F.add .rne (val32 (grad.getD q.2 0)) (val32 m.1)
    let x := rotPair true c s ya yb
    let h := rotPair true c s ga gb
    ((acc.1.set p.1.1 x.1).set p.1.2 x.2.1, (acc.2.1.set p.1.1 h.1).set p.1.2 h.2.1, acc.2.2.1.set q.2 n.1,
      acc.2.2.2 ||| m.2 ||| n.2 ||| x.2.2 ||| h.2.2)) (y, g, grad, 0)

/-! ### The tail (R207, R208) -/

/-- The tail of a pass or an ACC.OUT: enables (Table 13-2, bits 4:0), QFMT, QSR, g, b, and the activation table. -/
structure TailCfg where
  en : BitVec 5
  qfmt : Fmt
  qsr : Bool
  g : BitVec 4096
  b : BitVec 4096
  act : BitVec 16512

/-- Word i of a vector of fp32 codes. -/
def word32 {w : Nat} (x : BitVec w) (i : Nat) : Nat := (x.extractLsb' (32 * i) 32).toNat

/-- g times the exact reciprocal square root of d, rounded once (R207); d is finite and positive. -/
def scaleBy (g d : Nat) : Elem :=
  match val32 g, val32 d with
  | .fin n m e, .fin _ md ed =>
    if m == 0 then rne32 (.fin n 0 0, 0)
    else
      let sh : Int := if (2 * e - ed) % 2 == 0 then 200 else 201
      let num := m * m * 2 ^ sh.toNat
      let t := num / md
      let r := isqrt t
      rne32 (stickyVal n r ((2 * e - ed - sh) / 2) (r * r == t && num % md == 0), 0)
  | x, _ => rne32 (x, 0)

/-- SCALE of lane l with drift d (R207). -/
def tailScale (c : TailCfg) (l d x : Nat) : Elem :=
  let scale := c.en.getLsbD 0
  let norm := c.en.getLsbD 1
  if !scale && !norm then (x, 0)
  else
    let g := if scale then word32 c.g l else one32
    let f := if norm then scaleBy g d else (g, 0)
    let r := fp32F.mul .rne (val32 x) (val32 f.1)
    (r.1, r.2 ||| f.2)

/-- BIAS of lane l. -/
def tailBias (c : TailCfg) (l x : Nat) : Elem :=
  if c.en.getLsbD 2 then fp32F.add .rne (val32 x) (val32 (word32 c.b l)) else (x, 0)

/-- The segment that an index value falls in (R207). -/
def segmentOf (v : FVal) : Nat :=
  match v with
  | .nan => 0
  | .inf n => if n then 0 else 255
  | .fin n m e =>
    if n then 0
    else
      let k := if e < 0 then m / 2 ^ (-e).toNat else m * 2 ^ e.toNat
      if 255 < k then 255 else k

/-- ACT (R207). -/
def tailAct (c : TailCfg) (x : Nat) : Elem :=
  if !(c.en.getLsbD 3) then (x, 0)
  else
    let v := val32 x
    let lo := val32 (word32 c.act 0)
    let step := val32 (word32 c.act 1)
    let inv := val32 (word32 c.act 2)
    if v.isNan then (fp32F.nanCode, 0)
    else
      let diff := addExact .rne v lo.negate
      let iv := mulExact diff.1 inv
      if iv.1.isNan then (fp32F.nanCode, diff.2 ||| iv.2)
      else
        let i := segmentOf iv.1
        let y0 := val32 (word32 c.act (4 + 2 * i))
        let slope := val32 (word32 c.act (5 + 2 * i))
        if slope.isZero then rne32 (y0, 0)
        else if v.isSpecial then
          (if slope.isNan then (fp32F.nanCode, 0) else rne32 (mulExact slope v))
        else
          let off := mulExact (valOfInt i) step
          let arg := addFl diff (off.1.negate, off.2)
          let term := mulExact slope arg.1
          rne32 (addFl (y0, 0) (term.1, term.2 ||| arg.2))

/-- SCALE, BIAS and ACT of lane l. -/
def tailElem (c : TailCfg) (l d x : Nat) : Elem :=
  let a := tailScale c l d x
  let b := tailBias c l a.1
  let r := tailAct c b.1
  (r.1, a.2 ||| b.2 ||| r.2)

/-- The output format of a tail (R207, R221). -/
def TailCfg.out (c : TailCfg) : Fmt := if c.en.getLsbD 4 then c.qfmt else .fp32

/-- The bytes of a run of output values, the scale bytes of its blocks where the format has them, and flags (R207, R209).
`mode i` is the stochastic mode of element i of the run. -/
def tailQuant (c : TailCfg) (mode : Nat → RMode) (xs : List Nat) : List Byte × List Byte × Flags :=
  let m := fun i => if c.qsr then mode i else .rne
  let f := c.out
  if f == .mxfp8 || f == .mxfp4 then
    let lf := if f == .mxfp8 then e4m3F else e2m1F
    let emax : Int := if f == .mxfp8 then 8 else 2
    let blocks := (List.range ((xs.length + 31) / 32)).map fun k =>
      mxQuant lf emax (fun i => m (32 * k + i)) ((sliceOf xs (32 * k) 32).map val32)
    (bytesOf f.width (blocks.flatMap MxBlock.elems), blocks.map fun b => BitVec.ofNat 8 b.scale,
      blocks.foldl (fun acc b => acc ||| b.flags) 0)
  else if f == .fp32 then (bytesOf 32 xs, [], 0)
  else
    let rs := xs.zipIdx.map fun x => f.rnd (m x.2) (val32 x.1)
    (bytesOf f.width (rs.map Prod.fst), [], rs.foldl (fun acc r => acc ||| r.2) 0)

/-! ### Sweeps (R191, R192) -/

/-- The rotations (column j, lower row i) of a sweep over `m` rows and `n` columns, in order (R191). -/
def sweepSeq (m n : Nat) : List (Nat × Nat) :=
  (List.range (if n < m - 1 then n else m - 1)).flatMap fun j =>
    ((List.range (m - 1 - j)).map fun k => (j, m - 1 - k))

/-- hypot, correctly rounded (R191). -/
def hypot32 (a b : Nat) : Elem :=
  match val32 a, val32 b with
  | .inf _, _ => (0x7F800000, 0)
  | _, .inf _ => (0x7F800000, 0)
  | .nan, _ => (fp32F.nanCode, 0)
  | _, .nan => (fp32F.nanCode, 0)
  | .fin _ m e, .fin _ m' e' =>
    let q := if e < e' then e else e'
    let x := m * 2 ^ (e - q).toNat
    let y := m' * 2 ^ (e' - q).toNat
    let t := (x * x + y * y) * 2 ^ 64
    let r := isqrt t
    rne32 (stickyVal false r (q - 32) (r * r == t), 0)

/-- RNE32(x / y) (R191); the quotient of two infinities, or of two zeros, is a NaN with NV. -/
def div32 (x y : Nat) : Elem :=
  match val32 x, val32 y with
  | .nan, _ => (fp32F.nanCode, 0)
  | _, .nan => (fp32F.nanCode, 0)
  | .inf _, .inf _ => (fp32F.nanCode, fNV)
  | .inf n, .fin n' _ _ => rne32 (.inf (n != n'), 0)
  | .fin n _ _, .inf n' => rne32 (.fin (n != n') 0 0, 0)
  | .fin n m e, .fin n' m' e' =>
    if m' == 0 then (if m == 0 then (fp32F.nanCode, fNV) else rne32 (.inf (n != n'), fDZ))
    else if m == 0 then rne32 (.fin (n != n') 0 0, 0)
    else
      let num := m * 2 ^ 64
      rne32 (stickyVal (n != n') (num / m') (e - e' - 64) (num % m' == 0), 0)

/-- The (c, s) that TRI derives from a and b, with h and flags; a pair of zeros gives (1.0, +0) and no h (R191). -/
def triAngle (a b : Nat) : Nat × Nat × Option Nat × Flags :=
  if (val32 a).isZero && (val32 b).isZero then (one32, 0, none, 0)
  else
    let h := hypot32 a b
    let c := div32 a h.1
    let s := div32 b h.1
    (c.1, s.1, some h.1, h.2 ||| c.2 ||| s.2)

/-- Columns of two rows rotated by fp32 coefficients (R191, R192). -/
def rotRows (c s : Nat) (xs ys : List Nat) : List Nat × List Nat × Flags :=
  let rs := List.zipWith (fun x y => rotPair false (val32 c) (val32 s) x y) xs ys
  (rs.map fun r => r.1, rs.map fun r => r.2.1, rs.foldl (fun acc r => acc ||| r.2.2) 0)

/-! ### Product mode (R143 to R147) -/

/-- A product of a group as an exact value with the flag of a NaN it creates; a NaN input gives a quiet NaN. -/
abbrev Prod32 := FVal × Flags

/-- The exact sum of finite products in units of 2^q. -/
def sumUnits (q : Int) (xs : List FVal) : Int :=
  xs.foldl (fun acc x =>
    match x with
    | .nan => acc
    | .inf _ => acc
    | .fin n m e => acc + unitsOf n m e q) 0

/-- The least exponent of a list of values. -/
def minExp (xs : List FVal) : Int :=
  xs.foldl (fun acc x =>
    match x with
    | .nan => acc
    | .inf _ => acc
    | .fin _ m e => if m != 0 && e < acc then e else acc) 0

/-- The largest exponent floor(log2 |p|) among nonzero finite products (R146). -/
def maxExpOf (xs : List FVal) : Int :=
  xs.foldl (fun acc x =>
    match x with
    | .nan => acc
    | .inf _ => acc
    | .fin _ m e => if m != 0 && acc < expOf m e then expOf m e else acc) (-1000000)

/-- The sum S of the truncated terms of an FP8 group in units of 2^(Emax − 18), and whether a bit was discarded (R146). -/
def fp8Field (emax : Int) (xs : List FVal) : Int × Bool :=
  xs.foldl (fun acc x =>
    match x with
    | .nan => acc
    | .inf _ => acc
    | .fin n m e =>
      let sh := e + 18 - emax
      let a := if sh < 0 then m / 2 ^ (-sh).toNat else m * 2 ^ sh.toNat
      let lost := sh < 0 && m % 2 ^ (-sh).toNat != 0
      (acc.1 + (if n then -(a : Int) else (a : Int)), acc.2 || lost)) (0, false)

/-- A group added into an accumulator (R144 to R147): the products, the scale exponent of an MX group or a NaN scale, and
whether the group is aligned as FP8. DESIGN CHOICE (log entry 98): a group that has a product of a NaN input beside a created NaN
(0 times infinity, opposite infinities) is the NaN of its input and raises no NV; R144 names no order of the two. Unsafe. -/
def addGroup (fp8 : Bool) (scale : Option Int) (acc : Nat) (ps : List Prod32) : Elem :=
  let vals := ps.map Prod.fst
  let posInf := vals.contains (.inf false)
  let negInf := vals.contains (.inf true)
  match scale with
  | none => (fp32F.nanCode, 0)
  | some sc =>
    if ps.contains (.nan, 0) then (fp32F.nanCode, 0)
    else if vals.contains .nan || (posInf && negInf) then (fp32F.nanCode, fNV)
    else if posInf || negInf then fp32F.add .rne (val32 acc) (.inf negInf)
    else
      let q := minExp vals
      let p := sumUnits q vals
      if p == 0 then (acc, 0)
      else if fp8 then
        let emax := maxExpOf vals
        let f := fp8Field emax vals
        let r := fp32F.add .rne (val32 acc) (finOfInt f.1 (emax - 18) false)
        (r.1, if f.2 then r.2 ||| fNX else r.2)
      else fp32F.add .rne (val32 acc) (finOfInt p (q + sc) false)

/-- The group size of a product-mode format (R143). -/
def groupSize (f : Fmt) : Nat :=
  match f with
  | .bf16 => 4
  | .e4m3 => 16
  | .e5m2 => 16
  | _ => 32

end Sys2Proof.Machine
end

