-- ==== Sys2Proof/Config.lean ====
section
/-! DEFINITION. What the manual leaves open, as constants with no value in the model (free values), and what one module
fixes. Nothing can be proved of the value of an opaque constant here. -/

namespace Sys2Proof

/-- `w` free bits, for the `site`-th use of counter value `ctr`: data read in a landing window, the choice between two
results that may both stand, data racing an engine, and every other value the manual does not state (log entry 4). -/
opaque Config.free : (ctr site : Nat) → (w : Nat) → BitVec w

/-- A free natural number: cycles, nanoseconds (log entry 8). -/
opaque Config.freeNat : (ctr site : Nat) → Nat

/-- What a byte that nothing has written reads as, by space (0 register space, 1 accumulators, 2 scratchpad, 3 global
memory, 4 cistern, 5 sidebands) and address (R41, log entry 2). -/
opaque Config.unwritten : (space addr : Nat) → BitVec 8

/-- Where the level-0 page table of an address space lies, in units of its 128 KiB alignment (R254): the manual does not
say how the walker learns it (log entry 10). -/
opaque Config.pageRoot : (asid : BitVec 16) → Nat

/-- The feature bits 7:0 this module offers (R366, Table 23-3). -/
opaque Config.offered : BitVec 8

/-- SHA-256 digest of the public key whose digest is fused (R361, R362). -/
opaque Config.fusedKeyDigest : BitVec 256

/-- SHA-256 digest of the boot ROM (R363). -/
opaque Config.bootRomDigest : BitVec 256

/-- The package id fused into the module and locked at boot (R7, R362). -/
opaque Config.packageId : BitVec 19

/-- The RSA-3072 signature by the device identity key over a SHA-256 digest of a report (R363). -/
opaque Config.sign : List (BitVec 256) → BitVec 3072

/-- The kinds that a virtual channel defines (R305, Table 20-2): the manual gives the channels and not the codes. -/
opaque Config.kindDefined : (vc kind : Nat) → Bool

/-- The ashlar die of the physical core that this model shows in full (R1, R43). -/
opaque Config.die : BitVec 3

/-- Its number within the die, one of 44 (R2, R43). -/
opaque Config.core : Fin 44

/-- The physical core that this model shows in full, as PCORE has it (R43): die in bits 8:6, core in bits 5:0. -/
def Config.pcore : BitVec 9 := Config.die ++ BitVec.ofNat 6 Config.core.val

/-- The packages, beside this one, that the fabric knows (R232, R255). -/
opaque Config.knownPackage : (pkg : BitVec 19) → Bool

/-- Other physical cores, as die and core, that are missing on this part (R2, R20): fixed when it leaves the factory. At least 336 of
the 352 are enabled, so no more than 16 of this list count (`missingCores`). -/
opaque Config.missing : List (BitVec 3 × BitVec 6)

/-- The surviving engines of the modelled core: bits 0 and 1 the vector engines, 2 and 3 the copy engines (R20). -/
opaque Config.surviving : BitVec 4

/-- Whether the scalar engine or the cascade of the modelled core has failed (R20). -/
opaque Config.coreFailed : Bool

/-- The packages that management has named in the trigger list of a partition by step `ctr` (R339): no event of the table brings
them. -/
opaque Config.triggerPackages : (ctr partn : Nat) → List (BitVec 19)

/-- Whether management has disabled task triggers for a partition by step `ctr` (R339). -/
opaque Config.triggersDisabled : (ctr partn : Nat) → Bool

/-- The reduction window that another package has by step `ctr`: base and length (R257, log entry 17). -/
opaque Config.remoteWindow : (ctr : Nat) → (pkg : BitVec 19) → Nat × Nat

/-- The blocks with snapshot registers: the ashlar die of each, none for the keystone die (R369, log entry 91). -/
opaque Config.snapshotBlocks : List (Option (BitVec 3))

/-- The temperature limit of a die (R365), in the unit of the readings. -/
opaque Config.dieLimit : (die : Nat) → Nat

/-- The lanes of a mortar link (R1, R6): the manual gives its rate and not its lanes. -/
opaque Config.mortarLanes : Nat

/-- The KIND of the flits of a collective chunk on VC 2 (R305, R316): the manual gives no code. -/
opaque Config.chunkKind : BitVec 8

/-- CXL bytes populated from the bottom of the CXL range (R247). -/
opaque Config.cxlBytes : Nat

/-- The host that the ready message, and messages of no launch, go to (R361): management assigns host ids. -/
opaque Config.managementHost : BitVec 20

/-- The threshold of counted soft errors past which a block reports an event, as the host has set it by step `ctr` (R370): no event
of the table brings it. -/
opaque Config.softErrorThreshold : (ctr : Nat) → Nat

end Sys2Proof
end

