-- ==== Sys2Proof/Syntax.lean ====
section
/-! DEFINITION. The instructions and events of the Flirid: one constructor for each row of the opcode table
(R59 to R62 with the operand forms of Table 3-7, and the steps of 95_what_each_step_holds.md). -/

namespace Sys2Proof

/-- One step of the part: an instruction as its slot word and owned word give it (operand fields by the names of
Table 3-7; E is framing and no part of the instruction), or an event with what it brings from outside. -/
inductive Instr where
  /-- ADD (R82). Adds sA and sB modulo 2^64 into sD with latency 1. -/
  | add (g : SGuard) (d a b : BitVec 6)
  /-- SUB (R82). Subtracts sB from sA modulo 2^64 into sD. -/
  | sub (g : SGuard) (d a b : BitVec 6)
  /-- MUL (R82). Writes the low 64 bits of sA times sB to sD with latency 3. -/
  | mul (g : SGuard) (d a b : BitVec 6)
  /-- MULH (R82). Writes the high 64 bits of the signed 128-bit product to sD. -/
  | mulh (g : SGuard) (d a b : BitVec 6)
  /-- DIV (R84). Divides signed sA by sB toward zero, with a scoreboarded result and DIV_ZERO on a zero divisor. -/
  | div (g : SGuard) (d a b : BitVec 6)
  /-- DIVU (R84). Divides unsigned sA by sB, with a scoreboarded result. -/
  | divu (g : SGuard) (d a b : BitVec 6)
  /-- REM (R84). Writes the signed remainder of sA by sB, with a scoreboarded result. -/
  | rem (g : SGuard) (d a b : BitVec 6)
  /-- AND (R82). Bitwise AND of sA and sB into sD. -/
  | and (g : SGuard) (d a b : BitVec 6)
  /-- OR (R82). Bitwise OR of sA and sB into sD. -/
  | or (g : SGuard) (d a b : BitVec 6)
  /-- XOR (R82). Bitwise XOR of sA and sB into sD. -/
  | xor (g : SGuard) (d a b : BitVec 6)
  /-- SHL (R82). Shifts sA left by sB[5:0] into sD. -/
  | shl (g : SGuard) (d a b : BitVec 6)
  /-- SHR (R82). Shifts sA right logically by sB[5:0] into sD. -/
  | shr (g : SGuard) (d a b : BitVec 6)
  /-- SAR (R82). Shifts sA right arithmetically by sB[5:0] into sD. -/
  | sar (g : SGuard) (d a b : BitVec 6)
  /-- MIN (R82). Writes the signed smaller of sA and sB to sD. -/
  | min (g : SGuard) (d a b : BitVec 6)
  /-- MAX (R82). Writes the signed larger of sA and sB to sD. -/
  | max (g : SGuard) (d a b : BitVec 6)
  /-- CLZ (R82). Counts the leading zero bits of sA into sD. -/
  | clz (g : SGuard) (d a : BitVec 6)
  /-- POPC (R82). Counts the one bits of sA into sD. -/
  | popc (g : SGuard) (d a : BitVec 6)
  /-- SEXT (R82). Sign-extends the low 8, 16 or 32 bits of sA into sD. -/
  | sext (g : SGuard) (d a : BitVec 6) (sz : BitVec 2)
  /-- ADDV (R83). Adds signed sA and sB into sD, trapping with INT_OVERFLOW instead of wrapping. -/
  | addv (g : SGuard) (d a b : BitVec 6)
  /-- ADDI (R85). Adds a signed immediate or literal to sA into sD. -/
  | addi (g : SGuard) (d a : BitVec 6) (imm : Imm 6)
  /-- ANDI (R85). ANDs sA with a signed immediate or literal into sD. -/
  | andi (g : SGuard) (d a : BitVec 6) (imm : Imm 6)
  /-- ORI (R85). ORs sA with a signed immediate or literal into sD. -/
  | ori (g : SGuard) (d a : BitVec 6) (imm : Imm 6)
  /-- SHLI (R85). Shifts sA left by an unsigned imm6 into sD. -/
  | shli (g : SGuard) (d a : BitVec 6) (sh : BitVec 6)
  /-- SHRI (R85). Shifts sA right logically by an unsigned imm6 into sD. -/
  | shri (g : SGuard) (d a : BitVec 6) (sh : BitVec 6)
  /-- SARI (R85). Shifts sA right arithmetically by an unsigned imm6 into sD. -/
  | sari (g : SGuard) (d a : BitVec 6) (sh : BitVec 6)
  /-- LI (R86). Loads a sign-extended imm12 or literal into sD. -/
  | li (g : SGuard) (d : BitVec 6) (imm : Imm 12)
  /-- LIH (R86). Replaces bits 63:32 of sD with its required literal. -/
  | lih (g : SGuard) (d : BitVec 6) (lit : BitVec 32)
  /-- CMP (R87). Compares sA with sB under a condition and writes predicate pD. -/
  | cmp (g : SGuard) (c q : BitVec 3) (a b : BitVec 6)
  /-- CMPI (R87). Compares sA with an immediate or literal and writes predicate pD. -/
  | cmpi (g : SGuard) (c q : BitVec 3) (a : BitVec 6) (imm : Imm 6)
  /-- PLOG (R88). Combines predicates pA and pB with a logic function into pD. -/
  | plog (g : SGuard) (f q x y : BitVec 3)
  /-- BR (R89). Branches to the bundle address plus a signed word offset. -/
  | br (g : SGuard) (imm : Imm 18)
  /-- CALL (R89). Writes the next bundle address to s63 and branches by a signed offset. -/
  | call (g : SGuard) (imm : Imm 18)
  /-- JR (R89). Writes the next bundle address to sD and jumps to sA. -/
  | jr (g : SGuard) (d a : BitVec 6)
  /-- LOOP (R92). Starts hardware loop set n over the following bundles with count sA, branching past the end on a zero count. -/
  | loop (g : SGuard) (n : BitVec 1) (a : BitVec 6) (off : Imm 6)
  /-- TEND (R94). Ends the task once its queues drain and its acknowledgement counter is zero. -/
  | tend (g : SGuard)
  /-- TRAP (R95). Raises a SOFTWARE trap with the imm12 code in TVAL. -/
  | trap (g : SGuard) (code : BitVec 12)
  /-- RTE (R96). Returns to TPC and clears LS0, LS1 and INTRAP. -/
  | rte (g : SGuard)
  /-- BRK (R95). Raises a BREAKPOINT trap with the imm12 code in TVAL. -/
  | brk (g : SGuard) (code : BitVec 12)
  /-- LDS.B (R98). Loads one scratchpad byte zero-extended into sD. -/
  | ldsB (g : SGuard) (d a : BitVec 6) (off : Imm 6)
  /-- LDS.H (R98). Loads a scratchpad halfword zero-extended into sD. -/
  | ldsH (g : SGuard) (d a : BitVec 6) (off : Imm 6)
  /-- LDS.W (R98). Loads a scratchpad word zero-extended into sD. -/
  | ldsW (g : SGuard) (d a : BitVec 6) (off : Imm 6)
  /-- LDS.D (R98). Loads a scratchpad doubleword into sD. -/
  | ldsD (g : SGuard) (d a : BitVec 6) (off : Imm 6)
  /-- STS.B (R98). Stores the low byte of sD to the scratchpad. -/
  | stsB (g : SGuard) (d a : BitVec 6) (off : Imm 6)
  /-- STS.H (R98). Stores the low halfword of sD to the scratchpad. -/
  | stsH (g : SGuard) (d a : BitVec 6) (off : Imm 6)
  /-- STS.W (R98). Stores the low word of sD to the scratchpad. -/
  | stsW (g : SGuard) (d a : BitVec 6) (off : Imm 6)
  /-- STS.D (R98). Stores sD as a doubleword to the scratchpad. -/
  | stsD (g : SGuard) (d a : BitVec 6) (off : Imm 6)
  /-- GLD (R101). Loads from global memory in an ordering class with a scoreboarded result. -/
  | gld (g : SGuard) (d a : BitVec 6) (sz : BitVec 2) (cls : BitVec 4) (off : Option (BitVec 32))
  /-- GST (R101). Stores sD to global memory in an ordering class. -/
  | gst (g : SGuard) (d a : BitVec 6) (sz : BitVec 2) (cls : BitVec 4) (off : Option (BitVec 32))
  /-- MFC (R104). Reads a control register into sD. -/
  | mfc (g : SGuard) (d c : BitVec 6)
  /-- MTC (R104). Writes sA to a control register, trapping CTL_RO on read-only ones. -/
  | mtc (g : SGuard) (c a : BitVec 6)
  /-- TWAIT (R105). Holds its bundle until the captured instance of a token is done. -/
  | twait (g : SGuard) (o : BitVec 4)
  /-- VADD (R154). Adds two vectors lane by lane. -/
  | vadd (m : VMask) (d a b : BitVec 6)
  /-- VSUB (R154). Subtracts two vectors lane by lane. -/
  | vsub (m : VMask) (d a b : BitVec 6)
  /-- VMUL (R154). Multiplies two vectors lane by lane with latency 5. -/
  | vmul (m : VMask) (d a b : BitVec 6)
  /-- VFMA (R155). Fused multiply-add into vD with one rounding. -/
  | vfma (m : VMask) (d a b : BitVec 6)
  /-- VFMS (R155). Fused multiply-subtract from vD with one rounding. -/
  | vfms (m : VMask) (d a b : BitVec 6)
  /-- VMIN (R154). Lane-wise minimum of two vectors. -/
  | vmin (m : VMask) (d a b : BitVec 6)
  /-- VMAX (R154). Lane-wise maximum of two vectors. -/
  | vmax (m : VMask) (d a b : BitVec 6)
  /-- VABS (R154). Lane-wise absolute value. -/
  | vabs (m : VMask) (d a : BitVec 6)
  /-- VNEG (R154). Lane-wise negation. -/
  | vneg (m : VMask) (d a : BitVec 6)
  /-- VRCP (R158). Correctly rounded reciprocal per lane. -/
  | vrcp (m : VMask) (d a : BitVec 6)
  /-- VRSQ (R158). Correctly rounded reciprocal square root per lane. -/
  | vrsq (m : VMask) (d a : BitVec 6)
  /-- VSQRT (R158). Correctly rounded square root per lane. -/
  | vsqrt (m : VMask) (d a : BitVec 6)
  /-- VEXP2 (R158). Correctly rounded base-2 exponential per lane. -/
  | vexp2 (m : VMask) (d a : BitVec 6)
  /-- VLOG2 (R158). Correctly rounded base-2 logarithm per lane. -/
  | vlog2 (m : VMask) (d a : BitVec 6)
  /-- VAND (R157). Lane-wise bitwise AND. -/
  | vand (m : VMask) (d a b : BitVec 6)
  /-- VOR (R157). Lane-wise bitwise OR. -/
  | vor (m : VMask) (d a b : BitVec 6)
  /-- VXOR (R157). Lane-wise bitwise XOR. -/
  | vxor (m : VMask) (d a b : BitVec 6)
  /-- VSHL (R157). Lane-wise shift left. -/
  | vshl (m : VMask) (d a b : BitVec 6)
  /-- VSHR (R157). Lane-wise logical shift right. -/
  | vshr (m : VMask) (d a b : BitVec 6)
  /-- VSAR (R157). Lane-wise arithmetic shift right. -/
  | vsar (m : VMask) (d a b : BitVec 6)
  /-- VADDS (R156). Lane-wise saturating integer add. -/
  | vadds (m : VMask) (d a b : BitVec 6)
  /-- VCMP (R159). Compares two vectors lane by lane into lane mask kD. -/
  | vcmp (m : VMask) (c q : BitVec 3) (a b : BitVec 6)
  /-- VSEL (R161). Selects each lane from vA or vB by the mask in G. -/
  | vsel (k : BitVec 3) (d a b : BitVec 6)
  /-- VRSUM (R162). Sums all lanes in a fixed pairwise tree and broadcasts the result. -/
  | vrsum (m : VMask) (d a : BitVec 6)
  /-- VRMAX (R162). Reduces all lanes by maximum in a fixed tree and broadcasts the result. -/
  | vrmax (m : VMask) (d a : BitVec 6)
  /-- VBCAST (R163). Broadcasts a scalar or literal bit pattern to every lane. -/
  | vbcast (m : VMask) (d : BitVec 6) (src : BcSrc) (f : BitVec 4)
  /-- VEXT (R164). Extracts one element of vA into sD. -/
  | vext (d a b : BitVec 6)
  /-- VPERM (R177). Permutes lanes of vA by the indices in vB. -/
  | vperm (m : VMask) (d a b : BitVec 6)
  /-- VROT (R177). Rotates the lanes of vA by sB. -/
  | vrot (m : VMask) (d a b : BitVec 6)
  /-- VINTL (R177). Interleaves the low halves of vA and vB. -/
  | vintl (m : VMask) (d a b : BitVec 6)
  /-- VCVT (R166). Converts between element formats, same-width, widening or narrowing. -/
  | vcvt (m : VMask) (d a : BitVec 6) (sr half : Bool) (f : BitVec 4)
  /-- VQMX (R167). Quantises a run of registers into one mxfp8 or mxfp4 granule with scales. -/
  | vqmx (k : BitVec 3) (d a : BitVec 6) (sr : Bool) (f : BitVec 4)
  /-- VQC4 (R167). Quantises a run of registers into one qc4 granule with scales. -/
  | vqc4 (k : BitVec 3) (d a : BitVec 6) (f : BitVec 4)
  /-- VDQ (R168). Dequantises one block-scaled granule into a run of registers. -/
  | vdq (m : VMask) (d a : BitVec 6) (f : BitVec 4)
  /-- VTAG (R169). Sets the format tag of vD without changing its data. -/
  | vtag (d : BitVec 6) (f : BitVec 4)
  /-- VRAND (R170). Fills int32 lanes from the counter-based generator. -/
  | vrand (m : VMask) (d : BitVec 6)
  /-- VLD (R172). Loads one granule from the scratchpad and tags it. -/
  | vld (m : VMask) (d a : BitVec 6) (f : BitVec 4) (off : Option (BitVec 32))
  /-- VST (R173). Stores the selected lanes of vD to the scratchpad. -/
  | vst (k : BitVec 3) (d a : BitVec 6) (f : BitVec 4) (off : Option (BitVec 32))
  /-- VLDX (R174). Gathers one scratchpad element per lane with a scoreboarded result. -/
  | vldx (m : VMask) (d a b : BitVec 6)
  /-- VSTX (R174). Scatters one element per active lane to the scratchpad. -/
  | vstx (k : BitVec 3) (d a b : BitVec 6)
  /-- VLDM (R176). Loads 64 scratchpad bytes into a lane mask. -/
  | vldm (q : BitVec 3) (a : BitVec 6) (off : Option (BitVec 32))
  /-- KLOG (R178). Combines two lane masks bitwise into kD. -/
  | klog (f q x y : BitVec 3)
  /-- KPOP (R178). Counts the one bits of a lane mask into sD. -/
  | kpop (d : BitVec 6) (x : BitVec 3)
  /-- KSET (R149). Sets the low min(sA,512) bits of kD and clears the rest. -/
  | kset (q : BitVec 3) (a : BitVec 6)
  /-- KMOV (R178). Copies lane mask kA to kD. -/
  | kmov (q x : BitVec 3)
  /-- ANG.LD (R219). Loads the shadow angle plane from an 8,256-byte scratchpad image. -/
  | angLd (t : EGuard) (a : BitVec 6)
  /-- ANG.SWAP (R202). Exchanges the active and shadow angle planes. -/
  | angSwap (t : EGuard)
  /-- PAT.LD (R219). Loads pairing pattern n from a 128-byte image, setting PATERR if invalid. -/
  | patLd (t : EGuard) (n : BitVec 5) (a : BitVec 6)
  /-- ROTP (R221). Streams vectors of a tile forward through the rotation stages and the tail. -/
  | rotp (t : EGuard) (d a b : BitVec 6)
  /-- ROTI (R221). Streams vectors of a tile through the inverse rotation stages and the tail. -/
  | roti (t : EGuard) (d a b : BitVec 6)
  /-- ROTG (R222). Runs the reversible backward pass, reconstructing inputs and accumulating angle gradients. -/
  | rotg (t : EGuard) (d a b : BitVec 6)
  /-- TAIL.SET (R220). Loads the tail command word and the scale and bias vectors. -/
  | tailSet (t : EGuard) (a b : BitVec 6)
  /-- ACT.LD (R219). Loads the activation table from a 2,064-byte image. -/
  | actLd (t : EGuard) (a : BitVec 6)
  /-- TRI (R223). Triangularises a tile with data-derived Givens rotations, optionally logging them. -/
  | tri (t : EGuard) (d a b : BitVec 6)
  /-- GROT (R223). Applies the rotations of a log to a tile in sweep order. -/
  | grot (t : EGuard) (d a b : BitVec 6)
  /-- SWP.SV (R224). Interrupts the running pass or sweep at once and writes its sweep-state record. -/
  | swpSv (t : EGuard) (a : BitVec 6)
  /-- SWP.LD (R225). Resumes an instruction from a sweep-state record. -/
  | swpLd (t : EGuard) (a : BitVec 6)
  /-- MPROD (R227). Accumulates a product-mode matrix product into an accumulator. -/
  | mprod (t : EGuard) (q : BitVec 3) (a b : BitVec 6)
  /-- MPRODB (R227). Accumulates a product-mode matrix product under element bitmaps. -/
  | mprodb (t : EGuard) (q : BitVec 3) (a b : BitVec 6)
  /-- ACC.Z (R229). Writes +0 to every element of an accumulator. -/
  | accZ (t : EGuard) (q : BitVec 3)
  /-- ACC.LD (R229). Loads an accumulator from an fp32 image. -/
  | accLd (t : EGuard) (q : BitVec 3) (a : BitVec 6)
  /-- ACC.OUT (R230). Sends accumulator rows through the tail, optionally masked, to an output image. -/
  | accOut (t : EGuard) (q : BitVec 3) (a b : BitVec 6)
  /-- ACC.PEER (R232). Sends an accumulator as a drain to an accumulator of another core. -/
  | accPeer (t : EGuard) (q : BitVec 3) (a b : BitVec 6)
  /-- DRIFT.RD (R233). Writes the drift vector of the last pass to vD and vD+1. -/
  | driftRd (t : EGuard) (d : BitVec 6)
  /-- ARR.Q (R234). Reads an item of cascade state selected by imm6 into sD. -/
  | arrQ (t : EGuard) (d sel : BitVec 6)
  /-- COPY (R280). Moves the elements of a template from one copy address to another. -/
  | copy (t : EGuard) (x : BitVec 4) (a b : BitVec 6)
  /-- COPY.RED (R282). Combines each source element atomically into its destination through the cistern. -/
  | copyRed (t : EGuard) (x : BitVec 4) (a b : BitVec 6)
  /-- GATH (R283). Copies elements read at indices from a vector. -/
  | gath (t : EGuard) (x : BitVec 4) (a b : BitVec 6)
  /-- TPL.LD (R279). Loads a 128-byte copy template into xT. -/
  | tplLd (t : EGuard) (x : BitVec 4) (a : BitVec 6)
  /-- STRM (R284). Binds a stream port to a template and chain word. -/
  | strm (t : EGuard) (r : BitVec 2) (a : BitVec 6) (x : BitVec 4)
  /-- STRM.CL (R284). Closes a stream port, flushing a sink. -/
  | strmCl (t : EGuard) (r : BitVec 2)
  /-- XS.OPEN (R285). Opens or closes a die stream to a core on another ashlar die. -/
  | xsOpen (t : EGuard) (d a b : BitVec 6)
  /-- TT.SET (R286). Re-defines a tile-table entry as an EMPTY unbound range. -/
  | ttSet (t : EGuard) (e a b : BitVec 6)
  /-- TT.READY (R286). Marks a tile-table entry READY, or DRAINING when a collective binding fires. -/
  | ttReady (t : EGuard) (e : BitVec 6)
  /-- TT.REL (R286). Releases a tile-table entry to EMPTY, crediting a bound die-stream slot. -/
  | ttRel (t : EGuard) (e : BitVec 6)
  /-- TT.BIND (R286). Binds a tile-table entry to a collective handle or unbinds it. -/
  | ttBind (t : EGuard) (e a : BitVec 6)
  /-- TT.Q (R287). Reads a tile-table entry or a token's state and status into sD. -/
  | ttQ (t : EGuard) (d e : BitVec 6)
  /-- FENCE (R263). Holds later off-core accesses until masked earlier accesses perform at a scope. -/
  | fence (t : EGuard) (sc : BitVec 2) (mask : BitVec 16)
  /-- DRAIN (R236). Waits for the acknowledgement counter to reach zero, then sends one arrival to a record. -/
  | drain (t : EGuard) (a : BitVec 6)
  /-- ARRIVE (R290). Sends a record a message reducing its arrival and pending byte counts. -/
  | arrive (t : EGuard) (a b : BitVec 6)
  /-- TREC (R291). Creates a task record with counts and a continuation image and returns its handle. -/
  | trec (t : EGuard) (d a b : BitVec 6)
  /-- POST (R292). Posts a continuation image to the global task queue. -/
  | post (t : EGuard) (a : BitVec 6)
  /-- TOK.CL (R293). Gives each masked token a new instance that is already done with status 0. -/
  | tokCl (t : EGuard) (mask : BitVec 16)
  /-- ATOM.ADD (R294). Atomically adds sB to a global word and returns the old value. -/
  | atomAdd (t : EGuard) (d a b : BitVec 6)
  /-- ATOM.MIN (R294). Atomically takes the minimum at a global word and returns the old value. -/
  | atomMin (t : EGuard) (d a b : BitVec 6)
  /-- ATOM.MAX (R294). Atomically takes the maximum at a global word and returns the old value. -/
  | atomMax (t : EGuard) (d a b : BitVec 6)
  /-- ATOM.XCH (R294). Atomically exchanges a global word with sB. -/
  | atomXch (t : EGuard) (d a b : BitVec 6)
  /-- ATOM.AND (R294). Atomically ANDs sB into a global word. -/
  | atomAnd (t : EGuard) (d a b : BitVec 6)
  /-- ATOM.OR (R294). Atomically ORs sB into a global word. -/
  | atomOr (t : EGuard) (d a b : BitVec 6)
  /-- ATOM.CAS (R294). Atomically writes sB when the global word equals sD. -/
  | atomCas (t : EGuard) (d a b : BitVec 6)
  /-- RED.ADD (R294). Adds sB to a global word at its home without returning a value. -/
  | redAdd (t : EGuard) (a b : BitVec 6)
  /-- RED.MIN (R294). Takes the minimum at a global word without returning a value. -/
  | redMin (t : EGuard) (a b : BitVec 6)
  /-- RED.MAX (R294). Takes the maximum at a global word without returning a value. -/
  | redMax (t : EGuard) (a b : BitVec 6)
  /-- COL.SET (R331). Installs a collective entry from an image, or frees one. -/
  | colSet (t : EGuard) (d a b : BitVec 6)
  /-- PAV (R332). Posts a value on a notice board and returns a status and view. -/
  | pav (t : EGuard) (d a b : BitVec 6)
  /-- BRD.RD (R333). Reads a board slot's value or a quadword of a view register. -/
  | brdRd (t : EGuard) (d a b : BitVec 6)
  /-- BRD.LV (R334). Reads the current level of a board. -/
  | brdLv (t : EGuard) (d a : BitVec 6)
  /-- DPOST (R335). Posts a demand block for a round to an exchange group. -/
  | dpost (t : EGuard) (d a b : BitVec 6)
  /-- CAL.RD (R336). Waits for a round's calendar and writes the member's entries. -/
  | calRd (t : EGuard) (d a b : BitVec 6)
  /-- CAL.GO (R337). Runs the member's calendar, sending bytes and closing flits per phase. -/
  | calGo (t : EGuard) (d a b : BitVec 6)
  /-- GTIME (R338). Reads the package's global time into sD. -/
  | gtime (t : EGuard) (d : BitVec 6)
  /-- TRIG (R339). Latches the snapshot registers and optionally sends trigger messages. -/
  | trig (t : EGuard) (a : BitVec 6)
  /-- DEFERRED_TRAP_TAKEN (R109). A detected or held deferred trap is taken at the next bundle boundary. -/
  | deferredTrapTaken
  /-- EXPOSED_RESULT_LANDING (R24). An exposed result lands in its destination within its latency and raises its flags. -/
  | exposedResultLanding (idx : Nat)
  /-- SCOREBOARDED_RESULT_LANDING (R27). A scoreboarded result lands and releases stalled bundles, possibly raising MEM_UNCORR. -/
  | scoreboardedResultLanding (idx : Nat) (uncorrectable : Bool)
  /-- ENGINE_INSTRUCTION_START (R17). A queued engine instruction starts once its tokens, tile entries, template and credits allow. -/
  | engineInstructionStart (eng : Nat)
  /-- TOKEN_DONE (R264). An engine instruction's effects have performed and its produced token becomes done with its status. -/
  | tokenDone (idx count : Nat)
  /-- PRE_EMPTION (R115). A core freezes fetch, lands results, interrupts engines and saves the context to HBM. -/
  | preEmption
  /-- CONTEXT_RESTORE (R118). A saved context is reloaded, sets OVR, replays abandoned copies and resumes the cascade. -/
  | contextRestore (lid : BitVec 32) (wid : W64)
  /-- DISPATCH_DECISION (R353). A physical core chooses the highest-priority ready candidate to run. -/
  | dispatchDecision
  /-- QUANTUM_END (R353). A running task's quantum expires and it is pre-empted if a same-priority candidate is ready. -/
  | quantumEnd
  /-- TASK_END (R94). A task that issued TEND ends once its queues are empty and its counter is zero; `other` names a task
  that another core ran, with its write log (R357). -/
  | taskEnd (other : Option (BitVec 32 × W64 × List (Nat × BitVec 8)))
  /-- KILL (R119). A host request ends a task or launch, discarding unstarted work. -/
  | kill (lid : BitVec 32) (wid : Option W64)
  /-- KILL_COMPLETION (R119). Once the context is quiescent and its writes acknowledged, the kill completes with a fault record. -/
  | killCompletion (lid : BitVec 32) (wid : W64)
  /-- LAUNCH_MESSAGE (R340). A launch header arrives, is checked and accepted or rejected, and its tasks are queued. -/
  | launchMessage (host : BitVec 20) (asid : BitVec 16) (hdr : BitVec 2048)
  /-- LAUNCH_COMPLETION (R351). When no task of a launch remains, unfired records are freed and a completion message is sent. -/
  | launchCompletion (lid : BitVec 32)
  /-- RECORD_ARRIVAL (R345). An arrival message is applied to a task record indivisibly. -/
  | recordArrival (h : W64) (arrivals bytes : BitVec 32)
  /-- RECORD_CREDIT (R345). A byte credit or grant is applied to a record's pending byte count. -/
  | recordCredit (h : W64) (bytes : Nat) (kind : CreditKind)
  /-- PAGE_WALK (R255). A page walk ends in a translation, a miss, an unresolvable fault or a permission failure. -/
  | pageWalk (asid : BitVec 16) (gen : BitVec 20) (va : W64)
  /-- PAGE_REQUEST_ANSWER (R255). The host maps a requested page or refuses it, readying the paused context or making the fault unresolvable. -/
  | pageRequestAnswer (asid : BitVec 16) (page : W64) (mapped : Bool)
  /-- GENERATION_RAISE (R256). A host broadcast raises an ASID generation. -/
  | generationRaise (asid : BitVec 16)
  /-- GENERATION_RAISE_COMPLETION (R256). Once older walks and accesses finish, the raise completes and is acknowledged. -/
  | generationRaiseCompletion (asid : BitVec 16)
  /-- REMOTE_LINE_EXPIRY (R252). A remote read cache line is dropped 50 µs after its fill. -/
  | remoteLineExpiry (line : Nat)
  /-- WRITE_AT_HOME (R246). A write reaches its home, die caches drop the line, and it performs and is acknowledged. -/
  | writeAtHome (wr : HomeWrite)
  /-- ATOM_AT_HOME (R267). An atomic or reduction is applied at its home, possibly combined in the window. -/
  | atomAtHome (idx : Nat) (uncorrectable : Bool)
  /-- ACKNOWLEDGEMENT (R266). An acknowledgement reaches the issuing core and decrements its outstanding counter. -/
  | acknowledgement (idx : Nat)
  /-- PEER_DRAIN_ARRIVAL (R214). An ACC.PEER drain arrives and is applied, buffered, discarded as duplicate or refused: `lcore` is
  the source's logical core and the destination's. -/
  | peerDrainArrival (pkg : BitVec 19) (lcore : BitVec 9 × BitVec 9) (wid : W64) (seq : Nat) (dacc : BitVec 5) (h : W64) (data : List (BitVec 32))
  /-- COLLECTIVE_CHUNK (R314). A collective chunk arrives at a ring sequencer and is reduced, checked and
  forwarded: from the ring, as header, payload and whether its CRC holds, or the next chunk of the member's own tile. -/
  | collectiveChunk (idx : Nat) (arrival : Option (BitVec 256 × List (BitVec 8) × Bool))
  /-- COLLECTIVE_FIRING_END (R318). A member writes its bad-chunk list, makes its result entry READY and credits REC. -/
  | collectiveFiringEnd (idx : Nat)
  /-- ENDPOINT_LOST (R307). The fabric reports an endpoint lost and outstanding requests complete as refusals. -/
  | endpointLost (ep : BitVec 20)
  /-- FLIT_RECEIVE (R305). A port receives a flit, retrying on CRC failure and dropping malformed headers. -/
  | flitReceive (port : BitVec 5) (crcValid : Bool) (hdr : BitVec 128) (payload : List (BitVec 8))
  /-- BOARD_POST_AT_HOME (R296). The board's home serialises a post and answers with a status and view. -/
  | boardPostAtHome (who : Caller) (board : W64) (level : BitVec 32) (value : W64)
  /-- BOARD_READ_AT_HOME (R297). The board's home answers a slot value or level read. -/
  | boardReadAtHome (who : Caller) (board : W64) (slot : Option W64)
  /-- DEMAND_ROW_AT_ARBITER (R325). A stamped demand row reaches an arbiter and is recorded for its round. -/
  | demandRowAtArbiter (who : Caller) (group : W64) (block : BitVec 8704) (stamp : W64)
  /-- DELIVERED_NOTICE (R326). The primary tells the standby that a round's calendar is delivered. -/
  | deliveredNotice (group : W64) (round : BitVec 32)
  /-- STANDBY_TIMEOUT (R326). Without a notice within 5 µs, the standby delivers the calendar itself. -/
  | standbyTimeout (group : W64) (round : BitVec 32)
  /-- PHASE_START (R301). At a send entry's START time, CAL.GO sends that phase's bytes. -/
  | phaseStart (idx : Nat)
  /-- EXCHANGE_DATA_FLIT (R302). An exchange byte is written at the receiver and credits its record. -/
  | exchangeDataFlit (group : W64) (round : BitVec 32) (src dst : Nat) (off : Nat) (data : List (BitVec 8)) (phase : BitVec 10)
  /-- CLOSING_FLIT (R301). A closing flit credits the receiver's record with unsent granted bytes. -/
  | closingFlit (group : W64) (round : BitVec 32) (src dst : Nat) (bytes : Nat) (phase : BitVec 10)
  /-- ROUND_CANCEL (R329). The host cancels an uncalendared round, completing its waiters with REFUSED. -/
  | roundCancel (group : W64) (round : BitVec 32)
  /-- BOARD_CREATE (R322). The host creates a notice board with a slot count. -/
  | boardCreate (handle : W64) (home : BitVec 19) (slots : Nat)
  /-- REGISTER_PARTICIPANT (R295). The host registers a participant to a board slot or group member index. -/
  | registerParticipant (handle : W64) (pkg : BitVec 19) (lcore : BitVec 9) (index : Nat)
  /-- GROUP_CREATE (R325). The host creates an exchange group with primary and standby arbiters. -/
  | groupCreate (handle : W64) (primary standby : BitVec 19) (size : Nat)
  /-- PARTITION_MODE_CHANGE (R368). The host changes partition mode, saving contexts, moving memory, rebinding and resuming or evicting. -/
  | partitionModeChange (parts : Nat)
  /-- BIND_RECORD_WRITE (R352). Firmware writes a bind record, taking effect at the core's next dispatch decision. -/
  | bindRecordWrite (core : BitVec 9) (rec : BitVec 1024)
  /-- REDUCTION_WINDOW_SET (R257). The host sets the reduction window, refused if it overlaps CXL or unmapped space. -/
  | reductionWindowSet (base len : W64)
  /-- GRAPH_REGISTER (R360). The host registers a launch graph, refusing headers with ARGLEN 0. -/
  | graphRegister (host : BitVec 20) (asid : BitVec 16) (hdrs : List (BitVec 2048)) (after : List (List Nat))
  /-- REPLAY_MESSAGE (R360). A replay message snapshots the graph's headers and arguments and starts a replay. -/
  | replayMessage (graph : Nat)
  /-- ATTESTATION_REQUEST (R363). The keystone returns a signed attestation report over a host nonce. -/
  | attestationRequest (nonce : BitVec 256)
  /-- FEATURE_VECTOR_WRITE (R366). The driver writes the feature vector once, setting the accepted features. -/
  | featureVectorWrite (vec : BitVec 128)
  /-- TRIGGER_MESSAGE (R369). A VC 4 trigger message or fault latches the snapshot registers or counts a miss. -/
  | triggerMessage (tagv : BitVec 16) (fromFault : Bool)
  /-- SNAPSHOT_READOUT (R369). The host reads out a held snapshot latch through management. -/
  | snapshotReadout
  /-- TENANT_SEAL (R364). The host seals a partition against management-core access. -/
  | tenantSeal (partn : BitVec 3)
  /-- TENANT_UNSEAL (R364). The host unseals a partition after its contexts are killed and HBM zeroed. -/
  | tenantUnseal (partn : BitVec 3)
  /-- INJECTION_CEILING_SET (R364, R367). The host sets a per-port per-VC injection ceiling, of a partition or of the whole port. -/
  | injectionCeilingSet (port : Option (BitVec 3) × BitVec 5) (vc : BitVec 3) (rate : Nat) (byHost : Bool)
  /-- TIME_MESSAGE (R308). A time message on VC 4 disciplines the keystone's global time. -/
  | timeMessage (now : W64)
  /-- MODULE_RESET (R361). The boot ROM verifies firmware, sets locks and firmware brings up the module. -/
  | moduleReset (img : BootImage) (dies : BitVec 8)
  /-- RECOVERY_IMAGE (R361). In recovery a signed image arrives on VC 4 and is verified. -/
  | recoveryImage (img : BootImage) (dies : BitVec 8)
  /-- VERSION_COUNTER_ADVANCE (R362). Firmware advances the fused version counter after a successful higher-version boot. -/
  | versionCounterAdvance
  /-- CLAMP_STEP_DOWN (R365). Power or temperature above its limit lowers the ashlar core clock by 100 MHz. -/
  | clampStepDown
  /-- CLAMP_STEP_UP (R365). After 1 ms below the limit the clamp raises the clock by 100 MHz. -/
  | clampStepUp
  /-- LANE_FAILURE (R307). A persistently failing lane is removed and the link runs narrower. -/
  | laneFailure (port : BitVec 5)
  /-- LINK_RETRAIN (R371). A link retrains for width or frequency, one at a time in arrival order. -/
  | linkRetrain (link : Nat) (kind : RetrainKind)
  /-- SRAM_ERROR (R370). An SRAM read finds a single- or double-bit error and corrects, refetches or reports it:
  a block is its kind and a number, 0 for the modelled core's or its die's own. -/
  | sramError (block : SramBlock × Nat) (addr : Nat) (double : Bool)
  /-- BACKGROUND_SCRUB (R370). Every SRAM word is read and corrected in the background at least every 60 s. -/
  | backgroundScrub (block : SramBlock) (addr : Nat)
  /-- DIE_RETURN_FROM_RESET (R249). An ashlar die held in reset returns, the keystone re-programs its controllers and the waiting HBM accesses perform in class order. -/
  | dieReturnFromReset (die : BitVec 3)
  /-- CALENDAR_AT_MEMBER (R326). A calendar of round k from the primary or the standby reaches a member, which takes the first copy and ignores any later one. -/
  | calendarAtMember (group : W64) (round : BitVec 32) (fromStandby : Bool)
  /-- GRAPH_PATCH (R360). A host patch to a registered header or argument block is acknowledged and applies only to replays that start later. -/
  | graphPatch (graph : Nat) (node : Nat) (hdr : BitVec 2048)
  /-- EVICTED_CONTEXT_RELAUNCH (R120). A host request resumes or relaunches a context that was marked EVICTED after a partition change. -/
  | evictedContextRelaunch (lid : BitVec 32) (wid : W64)
  /-- LINK_RETRAIN_DONE (R371). A link retrain completes, releasing the flits held in the senders' buffers and starting any queued retrain. -/
  | linkRetrainDone (link : Nat)
  deriving DecidableEq, Repr

end Sys2Proof
end

