-- ==== Sys2Proof/WellFormed.lean ====
section
/-! DEFINITION. The operand values and token words a form accepts (R49, R52, R53, R57, R58 and the entries of the
reference chapters). Zero bits of a form are no part of `Instr`: the decoder checks them by encoding again. -/

namespace Sys2Proof

/-- A vector field that names a register and not a stream port (R49). -/
def isVreg (v : BitVec 6) : Bool := v.toNat < 60

/-- A tile field that names t0 to t15 (R49). -/
def isTile (v : BitVec 6) : Bool := v.toNat < 16

/-- A tile field of MPROD: t0 to t15 or a port (R226). -/
def isTileOrPort (v : BitVec 6) : Bool := v.toNat < 16 || 60 ≤ v.toNat

/-- A tile field of MPRODB: t0 to t7 or a port (R226). -/
def isLowTileOrPort (v : BitVec 6) : Bool := v.toNat < 8 || 60 ≤ v.toNat

/-- The control-register numbers that R43 assigns. -/
def isCreg (c : BitVec 6) : Bool :=
  c.toNat ≤ 0x12 || (0x18 ≤ c.toNat && c.toNat ≤ 0x1D) || (0x20 ≤ c.toNat && c.toNat ≤ 0x25)

/-- The formats VCVT converts to (R165). -/
def isCvtTarget (f : BitVec 4) : Bool :=
  (1 ≤ f.toNat && f.toNat ≤ 5) || (9 ≤ f.toNat && f.toNat ≤ 13)

/-- The formats VBCAST writes (R163). -/
def isBcFormat (f : BitVec 4) : Bool := isCvtTarget f || f.toNat == 14

/-- The formats fp32, bf16 and fp16 (class FLT of Table 10-1). -/
def isFltCode (f : BitVec 4) : Bool := 1 ≤ f.toNat && f.toNat ≤ 3

/-- The block formats mxfp8, mxfp4 and qc4 (R39). -/
def isBlkCode (f : BitVec 4) : Bool := 6 ≤ f.toNat && f.toNat ≤ 8

/-- A token number whose enable is clear is zero (R53). -/
def TokWord.wf (t : TokWord) : Bool :=
  (t.pe || t.po == 0) && (t.ce || t.cc == 0) && (t.be || t.cb == 0) && (t.ae || t.ca == 0)

/-- The extension IMM12 that the instruction sees: zero when T = 0 (R52). -/
def EGuard.imm12 (t : EGuard) : BitVec 12 :=
  match t.tok with
  | none => 0
  | some w => w.imm12

/-- The token word obeys R53 and IMM12 is what the entry accepts. -/
def EGuard.wf (t : EGuard) (ok : Nat → Bool) : Bool :=
  (match t.tok with
   | none => true
   | some w => w.wf) && ok t.imm12.toNat

/-- IMM12 of an entry that defines none (R52). -/
def immNone (n : Nat) : Bool := n == 0

/-- IMM12 of COPY: bit 6 makes bits 5:0 name the destination entry (R280). -/
def immCopy (n : Nat) : Bool := n == 0 || (64 ≤ n && n < 128)

/-- IMM12 of COPY.RED: OP in bits 1:0, TYPE in bits 4:2 (R282). -/
def immCopyRed (n : Nat) : Bool := n < 32 && n % 4 != 3 && n / 4 < 6

/-- IMM12 of GATH: an index vector v0 to v59 (R283). -/
def immGath (n : Nat) : Bool := n < 60

/-- IMM12 of an atomic or reduction: W32 in bit 0, TYPE in bits 2:1 (R294). -/
def immAtom (n : Nat) : Bool := n < 8 && n / 2 != 3 && (n / 2 != 2 || n % 2 == 1)

/-- IMM12 of ATOM.AND and ATOM.OR: as the others, without fp32 (R294). -/
def immAtomBits (n : Nat) : Bool := immAtom n && n / 2 != 2

/-- IMM12 of PAV: the view register (R332). -/
def immPav (n : Nat) : Bool := n < 4

/-- IMM12 of BRD.RD with its field A: board form or view form (R333). -/
def immBrdRd (a : BitVec 6) (n : Nat) : Bool := n == 0 || (4 ≤ n && n < 8 && a == 0)

/-- IMM12 of TT.Q with its field A: entry form or token form (R287). -/
def immTtq (a : BitVec 6) (n : Nat) : Bool := n == 0 || (16 ≤ n && n < 32 && a == 0)

/-- Any IMM12: a count or capacity (R210, R336). -/
def immAny (_ : Nat) : Bool := true

/-- What the form of an instruction asks of its operands; an event has no encoding (R49, R57, R58). -/
def Instr.wf (i : Instr) : Bool :=
  match i with
  | .add _ _ _ _ => true
  | .sub _ _ _ _ => true
  | .mul _ _ _ _ => true
  | .mulh _ _ _ _ => true
  | .div _ _ _ _ => true
  | .divu _ _ _ _ => true
  | .rem _ _ _ _ => true
  | .and _ _ _ _ => true
  | .or _ _ _ _ => true
  | .xor _ _ _ _ => true
  | .shl _ _ _ _ => true
  | .shr _ _ _ _ => true
  | .sar _ _ _ _ => true
  | .min _ _ _ _ => true
  | .max _ _ _ _ => true
  | .clz _ _ _ => true
  | .popc _ _ _ => true
  | .sext _ _ _ sz => sz != 3
  | .addv _ _ _ _ => true
  | .addi _ _ _ _ => true
  | .andi _ _ _ _ => true
  | .ori _ _ _ _ => true
  | .shli _ _ _ _ => true
  | .shri _ _ _ _ => true
  | .sari _ _ _ _ => true
  | .li _ _ _ => true
  | .lih _ _ _ => true
  | .cmp _ _ _ _ _ => true
  | .cmpi _ _ _ _ _ => true
  | .plog _ f _ _ _ => f.toNat < 6
  | .br _ _ => true
  | .call _ _ => true
  | .jr _ _ _ => true
  | .loop _ _ _ _ => true
  | .tend _ => true
  | .trap _ _ => true
  | .rte _ => true
  | .brk _ _ => true
  | .ldsB _ _ _ _ => true
  | .ldsH _ _ _ _ => true
  | .ldsW _ _ _ _ => true
  | .ldsD _ _ _ _ => true
  | .stsB _ _ _ _ => true
  | .stsH _ _ _ _ => true
  | .stsW _ _ _ _ => true
  | .stsD _ _ _ _ => true
  | .gld _ _ _ _ _ _ => true
  | .gst _ _ _ _ _ _ => true
  | .mfc _ _ c => isCreg c
  | .mtc _ c _ => isCreg c
  | .twait _ _ => true
  | .vadd _ _ _ _ => true
  | .vsub _ _ _ _ => true
  | .vmul _ _ _ _ => true
  | .vfma _ d _ _ => isVreg d
  | .vfms _ d _ _ => isVreg d
  | .vmin _ _ _ _ => true
  | .vmax _ _ _ _ => true
  | .vabs _ _ _ => true
  | .vneg _ _ _ => true
  | .vrcp _ _ _ => true
  | .vrsq _ _ _ => true
  | .vsqrt _ _ _ => true
  | .vexp2 _ _ _ => true
  | .vlog2 _ _ _ => true
  | .vand _ _ _ _ => true
  | .vor _ _ _ _ => true
  | .vxor _ _ _ _ => true
  | .vshl _ _ _ _ => true
  | .vshr _ _ _ _ => true
  | .vsar _ _ _ _ => true
  | .vadds _ _ _ _ => true
  | .vcmp _ _ _ _ _ => true
  | .vsel _ _ _ _ => true
  | .vrsum _ _ _ => true
  | .vrmax _ _ _ => true
  | .vbcast _ _ _ f => isBcFormat f
  | .vext _ _ _ => true
  | .vperm _ _ _ _ => true
  | .vrot _ _ _ _ => true
  | .vintl _ _ _ _ => true
  | .vcvt _ _ _ _ _ f => isCvtTarget f
  | .vqmx _ _ _ _ f => f == 6 || f == 7
  | .vqc4 _ _ _ f => f == 8
  | .vdq _ _ _ f => isFltCode f
  | .vtag d f => isVreg d && f != 15
  | .vrand _ _ => true
  | .vld m d _ f _ => isVreg d && f != 15 && (!(f == 0 || isBlkCode f) || (m.k == 0 && !m.z))
  | .vst _ d _ f _ => isVreg d && f != 15
  | .vldx _ d _ b => isVreg d && isVreg b
  | .vstx _ d _ b => isVreg d && isVreg b
  | .vldm _ _ _ => true
  | .klog f _ _ _ => f.toNat < 6
  | .kpop _ _ => true
  | .kset _ _ => true
  | .kmov _ _ => true
  | .angLd t _ => t.wf immNone
  | .angSwap t => t.wf immNone
  | .patLd t n _ => (7 ≤ n.toNat) && t.wf immNone
  | .rotp t d a _ => isTile d && isTile a && t.wf immNone
  | .roti t d a _ => isTile d && isTile a && t.wf immNone
  | .rotg t d a _ => isTile d && isTile a && t.wf immNone
  | .tailSet t _ _ => t.wf immNone
  | .actLd t _ => t.wf immNone
  | .tri t d _ _ => isTile d && t.wf immNone
  | .grot t d _ _ => isTile d && t.wf immNone
  | .swpSv t _ => t.wf immNone
  | .swpLd t _ => t.wf immNone
  | .mprod t _ a b => isTileOrPort a && isTileOrPort b && t.wf immAny
  | .mprodb t _ a b => isLowTileOrPort a && isLowTileOrPort b && t.wf immAny
  | .accZ t _ => t.wf immNone
  | .accLd t _ _ => t.wf immNone
  | .accOut t _ _ _ => t.wf immNone
  | .accPeer t _ _ _ => t.wf immNone
  | .driftRd t d => (d.toNat < 59) && t.wf immNone
  | .arrQ t _ sel => (sel.toNat < 5) && t.wf immNone
  | .copy t _ _ _ => t.wf immCopy
  | .copyRed t _ _ _ => t.wf immCopyRed
  | .gath t _ _ _ => t.wf immGath
  | .tplLd t _ _ => t.wf immNone
  | .strm t _ _ _ => t.wf immNone
  | .strmCl t _ => t.wf immNone
  | .xsOpen t _ _ _ => t.wf immNone
  | .ttSet t _ _ _ => t.wf immNone
  | .ttReady t _ => t.wf immNone
  | .ttRel t _ => t.wf immNone
  | .ttBind t _ _ => t.wf immNone
  | .ttQ t _ e => t.wf (immTtq e)
  | .fence t _ _ => t.wf immNone
  | .drain t _ => t.wf immNone
  | .arrive t _ _ => t.wf immNone
  | .trec t _ _ _ => t.wf immNone
  | .post t _ => t.wf immNone
  | .tokCl t _ => t.wf immNone
  | .atomAdd t _ _ _ => t.wf immAtom
  | .atomMin t _ _ _ => t.wf immAtom
  | .atomMax t _ _ _ => t.wf immAtom
  | .atomXch t _ _ _ => t.wf immAtom
  | .atomAnd t _ _ _ => t.wf immAtomBits
  | .atomOr t _ _ _ => t.wf immAtomBits
  | .atomCas t _ _ _ => t.wf immAtom
  | .redAdd t _ _ => t.wf immAtom
  | .redMin t _ _ => t.wf immAtom
  | .redMax t _ _ => t.wf immAtom
  | .colSet t _ _ _ => t.wf immNone
  | .pav t _ _ _ => t.wf immPav
  | .brdRd t _ a _ => t.wf (immBrdRd a)
  | .brdLv t _ _ => t.wf immNone
  | .dpost t _ _ _ => t.wf immNone
  | .calRd t _ _ _ => t.wf immAny
  | .calGo t _ _ _ => t.wf immNone
  | .gtime t _ => t.wf immNone
  | .trig t _ => t.wf immNone
  | .deferredTrapTaken => false
  | .exposedResultLanding _ => false
  | .scoreboardedResultLanding _ _ => false
  | .engineInstructionStart _ => false
  | .tokenDone _ _ => false
  | .preEmption => false
  | .contextRestore _ _ => false
  | .dispatchDecision => false
  | .quantumEnd => false
  | .taskEnd _ => false
  | .kill _ _ => false
  | .killCompletion _ _ => false
  | .launchMessage _ _ _ => false
  | .launchCompletion _ => false
  | .recordArrival _ _ _ => false
  | .recordCredit _ _ _ => false
  | .pageWalk _ _ _ => false
  | .pageRequestAnswer _ _ _ => false
  | .generationRaise _ => false
  | .generationRaiseCompletion _ => false
  | .remoteLineExpiry _ => false
  | .writeAtHome _ => false
  | .atomAtHome _ _ => false
  | .acknowledgement _ => false
  | .peerDrainArrival _ _ _ _ _ _ _ => false
  | .collectiveChunk _ _ => false
  | .collectiveFiringEnd _ => false
  | .endpointLost _ => false
  | .flitReceive _ _ _ _ => false
  | .boardPostAtHome _ _ _ _ => false
  | .boardReadAtHome _ _ _ => false
  | .demandRowAtArbiter _ _ _ _ => false
  | .deliveredNotice _ _ => false
  | .standbyTimeout _ _ => false
  | .phaseStart _ => false
  | .exchangeDataFlit _ _ _ _ _ _ _ => false
  | .closingFlit _ _ _ _ _ _ => false
  | .roundCancel _ _ => false
  | .boardCreate _ _ _ => false
  | .registerParticipant _ _ _ _ => false
  | .groupCreate _ _ _ _ => false
  | .partitionModeChange _ => false
  | .bindRecordWrite _ _ => false
  | .reductionWindowSet _ _ => false
  | .graphRegister _ _ _ _ => false
  | .replayMessage _ => false
  | .attestationRequest _ => false
  | .featureVectorWrite _ => false
  | .triggerMessage _ _ => false
  | .snapshotReadout => false
  | .tenantSeal _ => false
  | .tenantUnseal _ => false
  | .injectionCeilingSet _ _ _ _ => false
  | .timeMessage _ => false
  | .moduleReset _ _ => false
  | .recoveryImage _ _ => false
  | .versionCounterAdvance => false
  | .clampStepDown => false
  | .clampStepUp => false
  | .laneFailure _ => false
  | .linkRetrain _ _ => false
  | .sramError _ _ _ => false
  | .backgroundScrub _ _ => false
  | .dieReturnFromReset _ => false
  | .calendarAtMember _ _ _ => false
  | .graphPatch _ _ _ => false
  | .evictedContextRelaunch _ _ => false
  | .linkRetrainDone _ => false

end Sys2Proof
end

