-- ==== Sys2Proof/Decode.lean ====
section
/-! DEFINITION. Framing of bundles, the decoder, and the encoder written from the same tables (R47 to R62). -/

namespace Sys2Proof

/-- The fields of a slot word (R47, Table 3-1). -/
structure Raw where
  e : Bool
  k : BitVec 2
  op : BitVec 7
  g : BitVec 4
  d : BitVec 6
  a : BitVec 6
  b : BitVec 6
  deriving DecidableEq, Repr

/-- The word that the fields make (R47). -/
def Raw.word (r : Raw) : IWord :=
  BitVec.ofBool r.e ++ r.k ++ r.op ++ r.g ++ r.d ++ r.a ++ r.b

/-- The fields of a word (R47). -/
def rawOf (w : IWord) : Raw where
  e := w.getLsbD 31
  k := w.extractLsb' 29 2
  op := w.extractLsb' 22 7
  g := w.extractLsb' 18 4
  d := w.extractLsb' 12 6
  a := w.extractLsb' 6 6
  b := w.extractLsb' 0 6

/-- The token word as a word (R52, Table 3-5). -/
def TokWord.word (t : TokWord) : IWord :=
  t.imm12 ++ BitVec.ofBool t.pe ++ t.po ++ BitVec.ofBool t.ce ++ t.cc ++ BitVec.ofBool t.be ++ t.cb ++
    BitVec.ofBool t.ae ++ t.ca

/-- The fields of a token word (R52, Table 3-5). -/
def tokOf (x : IWord) : TokWord where
  imm12 := x.extractLsb' 20 12
  pe := x.getLsbD 19
  po := x.extractLsb' 15 4
  ce := x.getLsbD 14
  cc := x.extractLsb' 10 4
  be := x.getLsbD 9
  cb := x.extractLsb' 5 4
  ae := x.getLsbD 4
  ca := x.extractLsb' 0 4

namespace Raw

/-- The guard of an S slot (R48). -/
def sg (r : Raw) : SGuard := ⟨r.g.getLsbD 3, r.g.extractLsb' 0 3⟩

/-- The mask of a V slot (R48). -/
def vm (r : Raw) : VMask := ⟨r.g.getLsbD 3, r.g.extractLsb' 0 3⟩

/-- The guard and token word of an M or C slot (R48, R52). -/
def eg (r : Raw) (x : IWord) : EGuard :=
  ⟨r.g.extractLsb' 0 3, if r.g.getLsbD 3 then some (tokOf x) else none⟩

/-- L of an S or V slot word (R47). -/
def l (r : Raw) : Bool := r.op.getLsbD 6

/-- The immediate of field B, or the literal (R50, R51). -/
def imm6 (r : Raw) (x : IWord) : Imm 6 := if r.l then .lit x else .short r.b

/-- The immediate of fields A and B, or the literal. -/
def imm12 (r : Raw) (x : IWord) : Imm 12 := if r.l then .lit x else .short (r.a ++ r.b)

/-- The immediate of fields D, A and B, or the literal. -/
def imm18 (r : Raw) (x : IWord) : Imm 18 := if r.l then .lit x else .short (r.d ++ r.a ++ r.b)

/-- The byte offset of SGLB, VMEM and KMEM: a literal or none (R51). -/
def optLit (r : Raw) (x : IWord) : Option (BitVec 32) := if r.l then some x else none

/-- The source of VBCAST (R163). -/
def bcSrc (r : Raw) (x : IWord) : BcSrc := if r.l then .lit x else .reg r.a

end Raw

/-- The immediate field of the slot word: zero when a literal replaces it (R51). -/
def Imm.field {n : Nat} (i : Imm n) : BitVec n :=
  match i with
  | .short v => v
  | .lit _ => 0

/-- The literal word, where there is one. -/
def Imm.litWord {n : Nat} (i : Imm n) : Option IWord :=
  match i with
  | .short _ => none
  | .lit v => some v

/-- Field A of VBCAST (R163). -/
def BcSrc.field (b : BcSrc) : BitVec 6 :=
  match b with
  | .reg a => a
  | .lit _ => 0

/-- The literal word of VBCAST, where there is one. -/
def BcSrc.litWord (b : BcSrc) : Option IWord :=
  match b with
  | .reg _ => none
  | .lit v => some v

/-- The fields of an S slot word with its literal. -/
def encS (e : Bool) (g : SGuard) (op : BitVec 6) (d a b : BitVec 6) (lit : Option IWord) : Raw × Option IWord :=
  (⟨e, 0, BitVec.ofBool lit.isSome ++ op, BitVec.ofBool g.neg ++ g.p, d, a, b⟩, lit)

/-- The fields of a V slot word with its literal. -/
def encV (e : Bool) (m : VMask) (op : BitVec 6) (d a b : BitVec 6) (lit : Option IWord) : Raw × Option IWord :=
  (⟨e, 1, BitVec.ofBool lit.isSome ++ op, BitVec.ofBool m.z ++ m.k, d, a, b⟩, lit)

/-- The fields of an M or C slot word with its token word. -/
def encE (e : Bool) (k : BitVec 2) (t : EGuard) (op : BitVec 7) (d a b : BitVec 6) : Raw × Option IWord :=
  (⟨e, k, op, BitVec.ofBool t.tok.isSome ++ t.p, d, a, b⟩, t.tok.map TokWord.word)

/-- The slot word of an instruction, field by field, and the word it owns (R58 to R62); events have none. -/
def Instr.enc (last : Bool) (i : Instr) : Option (Raw × Option IWord) :=
  match i with
  | .add g d a b => some (encS last g 0x01 d a b none)
  | .sub g d a b => some (encS last g 0x02 d a b none)
  | .mul g d a b => some (encS last g 0x03 d a b none)
  | .mulh g d a b => some (encS last g 0x04 d a b none)
  | .div g d a b => some (encS last g 0x05 d a b none)
  | .divu g d a b => some (encS last g 0x06 d a b none)
  | .rem g d a b => some (encS last g 0x07 d a b none)
  | .and g d a b => some (encS last g 0x08 d a b none)
  | .or g d a b => some (encS last g 0x09 d a b none)
  | .xor g d a b => some (encS last g 0x0a d a b none)
  | .shl g d a b => some (encS last g 0x0b d a b none)
  | .shr g d a b => some (encS last g 0x0c d a b none)
  | .sar g d a b => some (encS last g 0x0d d a b none)
  | .min g d a b => some (encS last g 0x0e d a b none)
  | .max g d a b => some (encS last g 0x0f d a b none)
  | .clz g d a => some (encS last g 0x10 d a 0#6 none)
  | .popc g d a => some (encS last g 0x11 d a 0#6 none)
  | .sext g d a sz => some (encS last g 0x12 d a (0#4 ++ sz) none)
  | .addv g d a b => some (encS last g 0x13 d a b none)
  | .addi g d a imm => some (encS last g 0x14 d a (imm.field) (imm.litWord))
  | .andi g d a imm => some (encS last g 0x15 d a (imm.field) (imm.litWord))
  | .ori g d a imm => some (encS last g 0x16 d a (imm.field) (imm.litWord))
  | .shli g d a sh => some (encS last g 0x17 d a sh none)
  | .shri g d a sh => some (encS last g 0x18 d a sh none)
  | .sari g d a sh => some (encS last g 0x19 d a sh none)
  | .li g d imm => some (encS last g 0x1a d (imm.field.extractLsb' 6 6) (imm.field.extractLsb' 0 6) (imm.litWord))
  | .lih g d lit => some (encS last g 0x1b d 0#6 0#6 (some lit))
  | .cmp g c q a b => some (encS last g 0x1c (c ++ q) a b none)
  | .cmpi g c q a imm => some (encS last g 0x1d (c ++ q) a (imm.field) (imm.litWord))
  | .plog g f q x y => some (encS last g 0x1e (f ++ q) (0#3 ++ x) (0#3 ++ y) none)
  | .br g imm => some (encS last g 0x20 (imm.field.extractLsb' 12 6) (imm.field.extractLsb' 6 6) (imm.field.extractLsb' 0 6) (imm.litWord))
  | .call g imm => some (encS last g 0x21 (imm.field.extractLsb' 12 6) (imm.field.extractLsb' 6 6) (imm.field.extractLsb' 0 6) (imm.litWord))
  | .jr g d a => some (encS last g 0x22 d a 0#6 none)
  | .loop g n a off => some (encS last g 0x23 (0#5 ++ n) a (off.field) (off.litWord))
  | .tend g => some (encS last g 0x24 0#6 0#6 0#6 none)
  | .trap g code => some (encS last g 0x25 0#6 (code.extractLsb' 6 6) (code.extractLsb' 0 6) none)
  | .rte g => some (encS last g 0x26 0#6 0#6 0#6 none)
  | .brk g code => some (encS last g 0x27 0#6 (code.extractLsb' 6 6) (code.extractLsb' 0 6) none)
  | .ldsB g d a off => some (encS last g 0x28 d a (off.field) (off.litWord))
  | .ldsH g d a off => some (encS last g 0x29 d a (off.field) (off.litWord))
  | .ldsW g d a off => some (encS last g 0x2a d a (off.field) (off.litWord))
  | .ldsD g d a off => some (encS last g 0x2b d a (off.field) (off.litWord))
  | .stsB g d a off => some (encS last g 0x2c d a (off.field) (off.litWord))
  | .stsH g d a off => some (encS last g 0x2d d a (off.field) (off.litWord))
  | .stsW g d a off => some (encS last g 0x2e d a (off.field) (off.litWord))
  | .stsD g d a off => some (encS last g 0x2f d a (off.field) (off.litWord))
  | .gld g d a sz cls off => some (encS last g 0x30 d a (sz ++ cls) off)
  | .gst g d a sz cls off => some (encS last g 0x31 d a (sz ++ cls) off)
  | .mfc g d c => some (encS last g 0x38 d c 0#6 none)
  | .mtc g c a => some (encS last g 0x39 c a 0#6 none)
  | .twait g o => some (encS last g 0x3a 0#6 0#6 (0#2 ++ o) none)
  | .vadd m d a b => some (encV last m 0x01 d a b none)
  | .vsub m d a b => some (encV last m 0x02 d a b none)
  | .vmul m d a b => some (encV last m 0x03 d a b none)
  | .vfma m d a b => some (encV last m 0x04 d a b none)
  | .vfms m d a b => some (encV last m 0x05 d a b none)
  | .vmin m d a b => some (encV last m 0x06 d a b none)
  | .vmax m d a b => some (encV last m 0x07 d a b none)
  | .vabs m d a => some (encV last m 0x08 d a 0#6 none)
  | .vneg m d a => some (encV last m 0x09 d a 0#6 none)
  | .vrcp m d a => some (encV last m 0x0a d a 0#6 none)
  | .vrsq m d a => some (encV last m 0x0b d a 0#6 none)
  | .vsqrt m d a => some (encV last m 0x0c d a 0#6 none)
  | .vexp2 m d a => some (encV last m 0x0d d a 0#6 none)
  | .vlog2 m d a => some (encV last m 0x0e d a 0#6 none)
  | .vand m d a b => some (encV last m 0x10 d a b none)
  | .vor m d a b => some (encV last m 0x11 d a b none)
  | .vxor m d a b => some (encV last m 0x12 d a b none)
  | .vshl m d a b => some (encV last m 0x13 d a b none)
  | .vshr m d a b => some (encV last m 0x14 d a b none)
  | .vsar m d a b => some (encV last m 0x15 d a b none)
  | .vadds m d a b => some (encV last m 0x16 d a b none)
  | .vcmp m c q a b => some (encV last m 0x18 (c ++ q) a b none)
  | .vsel k d a b => some (encV last ⟨false, k⟩ 0x19 d a b none)
  | .vrsum m d a => some (encV last m 0x1a d a 0#6 none)
  | .vrmax m d a => some (encV last m 0x1b d a 0#6 none)
  | .vbcast m d src f => some (encV last m 0x1c d (src.field) (0#2 ++ f) (src.litWord))
  | .vext d a b => some (encV last ⟨false, 0⟩ 0x1d d a b none)
  | .vperm m d a b => some (encV last m 0x20 d a b none)
  | .vrot m d a b => some (encV last m 0x21 d a b none)
  | .vintl m d a b => some (encV last m 0x22 d a b none)
  | .vcvt m d a sr half f => some (encV last m 0x24 d a (BitVec.ofBool sr ++ BitVec.ofBool half ++ f) none)
  | .vqmx k d a sr f => some (encV last ⟨false, k⟩ 0x25 d a (BitVec.ofBool sr ++ 0#1 ++ f) none)
  | .vqc4 k d a f => some (encV last ⟨false, k⟩ 0x26 d a (0#2 ++ f) none)
  | .vdq m d a f => some (encV last m 0x27 d a (0#2 ++ f) none)
  | .vtag d f => some (encV last ⟨false, 0⟩ 0x28 d 0#6 (0#2 ++ f) none)
  | .vrand m d => some (encV last m 0x29 d 0#6 0#6 none)
  | .vld m d a f off => some (encV last m 0x30 d a (0#2 ++ f) off)
  | .vst k d a f off => some (encV last ⟨false, k⟩ 0x31 d a (0#2 ++ f) off)
  | .vldx m d a b => some (encV last m 0x32 d a b none)
  | .vstx k d a b => some (encV last ⟨false, k⟩ 0x33 d a b none)
  | .vldm q a off => some (encV last ⟨false, 0⟩ 0x34 (0#3 ++ q) a 0#6 off)
  | .klog f q x y => some (encV last ⟨false, 0⟩ 0x38 (f ++ q) (0#3 ++ x) (0#3 ++ y) none)
  | .kpop d x => some (encV last ⟨false, 0⟩ 0x39 d (0#3 ++ x) 0#6 none)
  | .kset q a => some (encV last ⟨false, 0⟩ 0x3a (0#3 ++ q) a 0#6 none)
  | .kmov q x => some (encV last ⟨false, 0⟩ 0x3b (0#3 ++ q) (0#3 ++ x) 0#6 none)
  | .angLd t a => some (encE last 2 t 0x01 0#6 a 0#6)
  | .angSwap t => some (encE last 2 t 0x02 0#6 0#6 0#6)
  | .patLd t n a => some (encE last 2 t 0x03 (0#1 ++ n) a 0#6)
  | .rotp t d a b => some (encE last 2 t 0x04 d a b)
  | .roti t d a b => some (encE last 2 t 0x05 d a b)
  | .rotg t d a b => some (encE last 2 t 0x06 d a b)
  | .tailSet t a b => some (encE last 2 t 0x07 0#6 a b)
  | .actLd t a => some (encE last 2 t 0x08 0#6 a 0#6)
  | .tri t d a b => some (encE last 2 t 0x09 d a b)
  | .grot t d a b => some (encE last 2 t 0x0a d a b)
  | .swpSv t a => some (encE last 2 t 0x0b 0#6 a 0#6)
  | .swpLd t a => some (encE last 2 t 0x0c 0#6 a 0#6)
  | .mprod t q a b => some (encE last 2 t 0x10 (0#3 ++ q) a b)
  | .mprodb t q a b => some (encE last 2 t 0x11 (0#3 ++ q) a b)
  | .accZ t q => some (encE last 2 t 0x12 (0#3 ++ q) 0#6 0#6)
  | .accLd t q a => some (encE last 2 t 0x13 (0#3 ++ q) a 0#6)
  | .accOut t q a b => some (encE last 2 t 0x14 (0#3 ++ q) a b)
  | .accPeer t q a b => some (encE last 2 t 0x15 (0#3 ++ q) a b)
  | .driftRd t d => some (encE last 2 t 0x18 d 0#6 0#6)
  | .arrQ t d sel => some (encE last 2 t 0x19 d 0#6 sel)
  | .copy t x a b => some (encE last 3 t 0x01 (0#2 ++ x) a b)
  | .copyRed t x a b => some (encE last 3 t 0x02 (0#2 ++ x) a b)
  | .gath t x a b => some (encE last 3 t 0x03 (0#2 ++ x) a b)
  | .tplLd t x a => some (encE last 3 t 0x04 (0#2 ++ x) a 0#6)
  | .strm t r a x => some (encE last 3 t 0x08 (0#4 ++ r) a (0#2 ++ x))
  | .strmCl t r => some (encE last 3 t 0x09 (0#4 ++ r) 0#6 0#6)
  | .xsOpen t d a b => some (encE last 3 t 0x0a d a b)
  | .ttSet t e a b => some (encE last 3 t 0x10 e a b)
  | .ttReady t e => some (encE last 3 t 0x11 e 0#6 0#6)
  | .ttRel t e => some (encE last 3 t 0x12 e 0#6 0#6)
  | .ttBind t e a => some (encE last 3 t 0x13 e a 0#6)
  | .ttQ t d e => some (encE last 3 t 0x14 d e 0#6)
  | .fence t sc mask => some (encE last 3 t 0x18 (sc ++ mask.extractLsb' 12 4) (mask.extractLsb' 6 6) (mask.extractLsb' 0 6))
  | .drain t a => some (encE last 3 t 0x19 0#6 a 0#6)
  | .arrive t a b => some (encE last 3 t 0x1a 0#6 a b)
  | .trec t d a b => some (encE last 3 t 0x1b d a b)
  | .post t a => some (encE last 3 t 0x1c 0#6 a 0#6)
  | .tokCl t mask => some (encE last 3 t 0x1d (0#2 ++ mask.extractLsb' 12 4) (mask.extractLsb' 6 6) (mask.extractLsb' 0 6))
  | .atomAdd t d a b => some (encE last 3 t 0x20 d a b)
  | .atomMin t d a b => some (encE last 3 t 0x21 d a b)
  | .atomMax t d a b => some (encE last 3 t 0x22 d a b)
  | .atomXch t d a b => some (encE last 3 t 0x23 d a b)
  | .atomAnd t d a b => some (encE last 3 t 0x24 d a b)
  | .atomOr t d a b => some (encE last 3 t 0x25 d a b)
  | .atomCas t d a b => some (encE last 3 t 0x26 d a b)
  | .redAdd t a b => some (encE last 3 t 0x28 0#6 a b)
  | .redMin t a b => some (encE last 3 t 0x29 0#6 a b)
  | .redMax t a b => some (encE last 3 t 0x2a 0#6 a b)
  | .colSet t d a b => some (encE last 3 t 0x30 d a b)
  | .pav t d a b => some (encE last 3 t 0x31 d a b)
  | .brdRd t d a b => some (encE last 3 t 0x32 d a b)
  | .brdLv t d a => some (encE last 3 t 0x33 d a 0#6)
  | .dpost t d a b => some (encE last 3 t 0x34 d a b)
  | .calRd t d a b => some (encE last 3 t 0x35 d a b)
  | .calGo t d a b => some (encE last 3 t 0x36 d a b)
  | .gtime t d => some (encE last 3 t 0x37 d 0#6 0#6)
  | .trig t a => some (encE last 3 t 0x38 0#6 a 0#6)
  | .deferredTrapTaken => none
  | .exposedResultLanding _ => none
  | .scoreboardedResultLanding _ _ => none
  | .engineInstructionStart _ => none
  | .tokenDone _ _ => none
  | .preEmption => none
  | .contextRestore _ _ => none
  | .dispatchDecision => none
  | .quantumEnd => none
  | .taskEnd _ => none
  | .kill _ _ => none
  | .killCompletion _ _ => none
  | .launchMessage _ _ _ => none
  | .launchCompletion _ => none
  | .recordArrival _ _ _ => none
  | .recordCredit _ _ _ => none
  | .pageWalk _ _ _ => none
  | .pageRequestAnswer _ _ _ => none
  | .generationRaise _ => none
  | .generationRaiseCompletion _ => none
  | .remoteLineExpiry _ => none
  | .writeAtHome _ => none
  | .atomAtHome _ _ => none
  | .acknowledgement _ => none
  | .peerDrainArrival _ _ _ _ _ _ _ => none
  | .collectiveChunk _ _ => none
  | .collectiveFiringEnd _ => none
  | .endpointLost _ => none
  | .flitReceive _ _ _ _ => none
  | .boardPostAtHome _ _ _ _ => none
  | .boardReadAtHome _ _ _ => none
  | .demandRowAtArbiter _ _ _ _ => none
  | .deliveredNotice _ _ => none
  | .standbyTimeout _ _ => none
  | .phaseStart _ => none
  | .exchangeDataFlit _ _ _ _ _ _ _ => none
  | .closingFlit _ _ _ _ _ _ => none
  | .roundCancel _ _ => none
  | .boardCreate _ _ _ => none
  | .registerParticipant _ _ _ _ => none
  | .groupCreate _ _ _ _ => none
  | .partitionModeChange _ => none
  | .bindRecordWrite _ _ => none
  | .reductionWindowSet _ _ => none
  | .graphRegister _ _ _ _ => none
  | .replayMessage _ => none
  | .attestationRequest _ => none
  | .featureVectorWrite _ => none
  | .triggerMessage _ _ => none
  | .snapshotReadout => none
  | .tenantSeal _ => none
  | .tenantUnseal _ => none
  | .injectionCeilingSet _ _ _ _ => none
  | .timeMessage _ => none
  | .moduleReset _ _ => none
  | .recoveryImage _ _ => none
  | .versionCounterAdvance => none
  | .clampStepDown => none
  | .clampStepUp => none
  | .laneFailure _ => none
  | .linkRetrain _ _ => none
  | .sramError _ _ _ => none
  | .backgroundScrub _ _ => none
  | .dieReturnFromReset _ => none
  | .calendarAtMember _ _ _ => none
  | .graphPatch _ _ _ => none
  | .evictedContextRelaunch _ _ => none
  | .linkRetrainDone _ => none

/-- The words of an instruction: its slot word, then the word it owns; `last` ends the bundle (R47, R51, R52). -/
def encode (last : Bool) (i : Instr) : List IWord :=
  match i.enc last with
  | none => []
  | some (r, none) => [r.word]
  | some (r, some x) => [r.word, x]

/-- The S-class map (Table 3-8): the operation, then what its fields hold; none where the operation is unassigned or L has no form. -/
def parseS (w : Raw) (x : IWord) : Option Instr :=
  match w.l, w.op.extractLsb' 0 6 with
  | false, 0x01 => some (.add w.sg w.d w.a w.b)
  | false, 0x02 => some (.sub w.sg w.d w.a w.b)
  | false, 0x03 => some (.mul w.sg w.d w.a w.b)
  | false, 0x04 => some (.mulh w.sg w.d w.a w.b)
  | false, 0x05 => some (.div w.sg w.d w.a w.b)
  | false, 0x06 => some (.divu w.sg w.d w.a w.b)
  | false, 0x07 => some (.rem w.sg w.d w.a w.b)
  | false, 0x08 => some (.and w.sg w.d w.a w.b)
  | false, 0x09 => some (.or w.sg w.d w.a w.b)
  | false, 0x0a => some (.xor w.sg w.d w.a w.b)
  | false, 0x0b => some (.shl w.sg w.d w.a w.b)
  | false, 0x0c => some (.shr w.sg w.d w.a w.b)
  | false, 0x0d => some (.sar w.sg w.d w.a w.b)
  | false, 0x0e => some (.min w.sg w.d w.a w.b)
  | false, 0x0f => some (.max w.sg w.d w.a w.b)
  | false, 0x10 => some (.clz w.sg w.d w.a)
  | false, 0x11 => some (.popc w.sg w.d w.a)
  | false, 0x12 => some (.sext w.sg w.d w.a (w.b.extractLsb' 0 2))
  | false, 0x13 => some (.addv w.sg w.d w.a w.b)
  | _, 0x14 => some (.addi w.sg w.d w.a (w.imm6 x))
  | _, 0x15 => some (.andi w.sg w.d w.a (w.imm6 x))
  | _, 0x16 => some (.ori w.sg w.d w.a (w.imm6 x))
  | false, 0x17 => some (.shli w.sg w.d w.a w.b)
  | false, 0x18 => some (.shri w.sg w.d w.a w.b)
  | false, 0x19 => some (.sari w.sg w.d w.a w.b)
  | _, 0x1a => some (.li w.sg w.d (w.imm12 x))
  | true, 0x1b => some (.lih w.sg w.d x)
  | false, 0x1c => some (.cmp w.sg (w.d.extractLsb' 3 3) (w.d.extractLsb' 0 3) w.a w.b)
  | _, 0x1d => some (.cmpi w.sg (w.d.extractLsb' 3 3) (w.d.extractLsb' 0 3) w.a (w.imm6 x))
  | false, 0x1e => some (.plog w.sg (w.d.extractLsb' 3 3) (w.d.extractLsb' 0 3) (w.a.extractLsb' 0 3) (w.b.extractLsb' 0 3))
  | _, 0x20 => some (.br w.sg (w.imm18 x))
  | _, 0x21 => some (.call w.sg (w.imm18 x))
  | false, 0x22 => some (.jr w.sg w.d w.a)
  | _, 0x23 => some (.loop w.sg (w.d.extractLsb' 0 1) w.a (w.imm6 x))
  | false, 0x24 => some (.tend w.sg)
  | false, 0x25 => some (.trap w.sg (w.a ++ w.b))
  | false, 0x26 => some (.rte w.sg)
  | false, 0x27 => some (.brk w.sg (w.a ++ w.b))
  | _, 0x28 => some (.ldsB w.sg w.d w.a (w.imm6 x))
  | _, 0x29 => some (.ldsH w.sg w.d w.a (w.imm6 x))
  | _, 0x2a => some (.ldsW w.sg w.d w.a (w.imm6 x))
  | _, 0x2b => some (.ldsD w.sg w.d w.a (w.imm6 x))
  | _, 0x2c => some (.stsB w.sg w.d w.a (w.imm6 x))
  | _, 0x2d => some (.stsH w.sg w.d w.a (w.imm6 x))
  | _, 0x2e => some (.stsW w.sg w.d w.a (w.imm6 x))
  | _, 0x2f => some (.stsD w.sg w.d w.a (w.imm6 x))
  | _, 0x30 => some (.gld w.sg w.d w.a (w.b.extractLsb' 4 2) (w.b.extractLsb' 0 4) (w.optLit x))
  | _, 0x31 => some (.gst w.sg w.d w.a (w.b.extractLsb' 4 2) (w.b.extractLsb' 0 4) (w.optLit x))
  | false, 0x38 => some (.mfc w.sg w.d w.a)
  | false, 0x39 => some (.mtc w.sg w.d w.a)
  | false, 0x3a => some (.twait w.sg (w.b.extractLsb' 0 4))
  | _, _ => none

/-- The V-class map (Table 3-9): the operation, then what its fields hold; none where the operation is unassigned or L has no form. -/
def parseV (w : Raw) (x : IWord) : Option Instr :=
  match w.l, w.op.extractLsb' 0 6 with
  | false, 0x01 => some (.vadd w.vm w.d w.a w.b)
  | false, 0x02 => some (.vsub w.vm w.d w.a w.b)
  | false, 0x03 => some (.vmul w.vm w.d w.a w.b)
  | false, 0x04 => some (.vfma w.vm w.d w.a w.b)
  | false, 0x05 => some (.vfms w.vm w.d w.a w.b)
  | false, 0x06 => some (.vmin w.vm w.d w.a w.b)
  | false, 0x07 => some (.vmax w.vm w.d w.a w.b)
  | false, 0x08 => some (.vabs w.vm w.d w.a)
  | false, 0x09 => some (.vneg w.vm w.d w.a)
  | false, 0x0a => some (.vrcp w.vm w.d w.a)
  | false, 0x0b => some (.vrsq w.vm w.d w.a)
  | false, 0x0c => some (.vsqrt w.vm w.d w.a)
  | false, 0x0d => some (.vexp2 w.vm w.d w.a)
  | false, 0x0e => some (.vlog2 w.vm w.d w.a)
  | false, 0x10 => some (.vand w.vm w.d w.a w.b)
  | false, 0x11 => some (.vor w.vm w.d w.a w.b)
  | false, 0x12 => some (.vxor w.vm w.d w.a w.b)
  | false, 0x13 => some (.vshl w.vm w.d w.a w.b)
  | false, 0x14 => some (.vshr w.vm w.d w.a w.b)
  | false, 0x15 => some (.vsar w.vm w.d w.a w.b)
  | false, 0x16 => some (.vadds w.vm w.d w.a w.b)
  | false, 0x18 => some (.vcmp w.vm (w.d.extractLsb' 3 3) (w.d.extractLsb' 0 3) w.a w.b)
  | false, 0x19 => some (.vsel w.vm.k w.d w.a w.b)
  | false, 0x1a => some (.vrsum w.vm w.d w.a)
  | false, 0x1b => some (.vrmax w.vm w.d w.a)
  | _, 0x1c => some (.vbcast w.vm w.d (w.bcSrc x) (w.b.extractLsb' 0 4))
  | false, 0x1d => some (.vext w.d w.a w.b)
  | false, 0x20 => some (.vperm w.vm w.d w.a w.b)
  | false, 0x21 => some (.vrot w.vm w.d w.a w.b)
  | false, 0x22 => some (.vintl w.vm w.d w.a w.b)
  | false, 0x24 => some (.vcvt w.vm w.d w.a w.b.msb (w.b.getLsbD 4) (w.b.extractLsb' 0 4))
  | false, 0x25 => some (.vqmx w.vm.k w.d w.a w.b.msb (w.b.extractLsb' 0 4))
  | false, 0x26 => some (.vqc4 w.vm.k w.d w.a (w.b.extractLsb' 0 4))
  | false, 0x27 => some (.vdq w.vm w.d w.a (w.b.extractLsb' 0 4))
  | false, 0x28 => some (.vtag w.d (w.b.extractLsb' 0 4))
  | false, 0x29 => some (.vrand w.vm w.d)
  | _, 0x30 => some (.vld w.vm w.d w.a (w.b.extractLsb' 0 4) (w.optLit x))
  | _, 0x31 => some (.vst w.vm.k w.d w.a (w.b.extractLsb' 0 4) (w.optLit x))
  | false, 0x32 => some (.vldx w.vm w.d w.a w.b)
  | false, 0x33 => some (.vstx w.vm.k w.d w.a w.b)
  | _, 0x34 => some (.vldm (w.d.extractLsb' 0 3) w.a (w.optLit x))
  | false, 0x38 => some (.klog (w.d.extractLsb' 3 3) (w.d.extractLsb' 0 3) (w.a.extractLsb' 0 3) (w.b.extractLsb' 0 3))
  | false, 0x39 => some (.kpop w.d (w.a.extractLsb' 0 3))
  | false, 0x3a => some (.kset (w.d.extractLsb' 0 3) w.a)
  | false, 0x3b => some (.kmov (w.d.extractLsb' 0 3) (w.a.extractLsb' 0 3))
  | _, _ => none

/-- The M-class map (Table 3-10): the operation, then what its fields hold; none where the operation is unassigned. -/
def parseM (w : Raw) (x : IWord) : Option Instr :=
  match w.op with
  | 0x01 => some (.angLd (w.eg x) w.a)
  | 0x02 => some (.angSwap (w.eg x))
  | 0x03 => some (.patLd (w.eg x) (w.d.extractLsb' 0 5) w.a)
  | 0x04 => some (.rotp (w.eg x) w.d w.a w.b)
  | 0x05 => some (.roti (w.eg x) w.d w.a w.b)
  | 0x06 => some (.rotg (w.eg x) w.d w.a w.b)
  | 0x07 => some (.tailSet (w.eg x) w.a w.b)
  | 0x08 => some (.actLd (w.eg x) w.a)
  | 0x09 => some (.tri (w.eg x) w.d w.a w.b)
  | 0x0a => some (.grot (w.eg x) w.d w.a w.b)
  | 0x0b => some (.swpSv (w.eg x) w.a)
  | 0x0c => some (.swpLd (w.eg x) w.a)
  | 0x10 => some (.mprod (w.eg x) (w.d.extractLsb' 0 3) w.a w.b)
  | 0x11 => some (.mprodb (w.eg x) (w.d.extractLsb' 0 3) w.a w.b)
  | 0x12 => some (.accZ (w.eg x) (w.d.extractLsb' 0 3))
  | 0x13 => some (.accLd (w.eg x) (w.d.extractLsb' 0 3) w.a)
  | 0x14 => some (.accOut (w.eg x) (w.d.extractLsb' 0 3) w.a w.b)
  | 0x15 => some (.accPeer (w.eg x) (w.d.extractLsb' 0 3) w.a w.b)
  | 0x18 => some (.driftRd (w.eg x) w.d)
  | 0x19 => some (.arrQ (w.eg x) w.d w.b)
  | _ => none

/-- The C-class map (Table 3-11): the operation, then what its fields hold; none where the operation is unassigned. -/
def parseC (w : Raw) (x : IWord) : Option Instr :=
  match w.op with
  | 0x01 => some (.copy (w.eg x) (w.d.extractLsb' 0 4) w.a w.b)
  | 0x02 => some (.copyRed (w.eg x) (w.d.extractLsb' 0 4) w.a w.b)
  | 0x03 => some (.gath (w.eg x) (w.d.extractLsb' 0 4) w.a w.b)
  | 0x04 => some (.tplLd (w.eg x) (w.d.extractLsb' 0 4) w.a)
  | 0x08 => some (.strm (w.eg x) (w.d.extractLsb' 0 2) w.a (w.b.extractLsb' 0 4))
  | 0x09 => some (.strmCl (w.eg x) (w.d.extractLsb' 0 2))
  | 0x0a => some (.xsOpen (w.eg x) w.d w.a w.b)
  | 0x10 => some (.ttSet (w.eg x) w.d w.a w.b)
  | 0x11 => some (.ttReady (w.eg x) w.d)
  | 0x12 => some (.ttRel (w.eg x) w.d)
  | 0x13 => some (.ttBind (w.eg x) w.d w.a)
  | 0x14 => some (.ttQ (w.eg x) w.d w.a)
  | 0x18 => some (.fence (w.eg x) (w.d.extractLsb' 4 2) ((w.d.extractLsb' 0 4) ++ w.a ++ w.b))
  | 0x19 => some (.drain (w.eg x) w.a)
  | 0x1a => some (.arrive (w.eg x) w.a w.b)
  | 0x1b => some (.trec (w.eg x) w.d w.a w.b)
  | 0x1c => some (.post (w.eg x) w.a)
  | 0x1d => some (.tokCl (w.eg x) ((w.d.extractLsb' 0 4) ++ w.a ++ w.b))
  | 0x20 => some (.atomAdd (w.eg x) w.d w.a w.b)
  | 0x21 => some (.atomMin (w.eg x) w.d w.a w.b)
  | 0x22 => some (.atomMax (w.eg x) w.d w.a w.b)
  | 0x23 => some (.atomXch (w.eg x) w.d w.a w.b)
  | 0x24 => some (.atomAnd (w.eg x) w.d w.a w.b)
  | 0x25 => some (.atomOr (w.eg x) w.d w.a w.b)
  | 0x26 => some (.atomCas (w.eg x) w.d w.a w.b)
  | 0x28 => some (.redAdd (w.eg x) w.a w.b)
  | 0x29 => some (.redMin (w.eg x) w.a w.b)
  | 0x2a => some (.redMax (w.eg x) w.a w.b)
  | 0x30 => some (.colSet (w.eg x) w.d w.a w.b)
  | 0x31 => some (.pav (w.eg x) w.d w.a w.b)
  | 0x32 => some (.brdRd (w.eg x) w.d w.a w.b)
  | 0x33 => some (.brdLv (w.eg x) w.d w.a)
  | 0x34 => some (.dpost (w.eg x) w.d w.a w.b)
  | 0x35 => some (.calRd (w.eg x) w.d w.a w.b)
  | 0x36 => some (.calGo (w.eg x) w.d w.a w.b)
  | 0x37 => some (.gtime (w.eg x) w.d)
  | 0x38 => some (.trig (w.eg x) w.a)
  | _ => none

/-- What the fields of a slot word and its owned word say, before the checks of R49 to R53. -/
def parse (w : Raw) (x : IWord) : Option Instr :=
  match w.k with
  | 0 => parseS w x
  | 1 => parseV w x
  | 2 => parseM w x
  | _ => parseC w x

/-- The slot word owns the word after it: L of an S or V word, T of an M or C word (R54). -/
def Raw.owns (r : Raw) : Bool := if r.k.getLsbD 1 then r.g.getLsbD 3 else r.l

/-- Decode one slot word `w` with the word `x` after it: the instruction, when its form accepts every operand and
every zero bit is zero; otherwise the word raises ILLEGAL_OPCODE (R56, R57). -/
def decodeSlot (w x : IWord) : Option Instr :=
  match parse (rawOf w) x with
  | none => none
  | some i =>
    if i.wf && (i.enc (rawOf w).e).map Prod.fst == some (rawOf w) then some i else none

/-- The number of words of an instruction: one, or two with a literal or token word. -/
def Instr.len (i : Instr) : Nat := (encode true i).length

/-- The engine class of a slot: 0 S, 1 V, 2 M, 3 C (R47). -/
def Instr.cls (i : Instr) : Nat :=
  match i.enc true with
  | none => 4
  | some (r, _) => r.k.toNat

/-- A slot of a framed bundle: the index of its word in the bundle, the word, and the owned word (0 when none). -/
structure Framed where
  idx : Nat
  word : IWord
  owned : IWord
  deriving DecidableEq, Repr

/-- The outcome of framing (R54): a bundle of `len` words; a failure with its reason at a word; or a word that could
not be fetched, by its index. -/
inductive FrameRes where
  | ok (len : Nat) (slots : List Framed)
  | illegal (reason idx : Nat)
  | needs (idx : Nat)
  deriving DecidableEq, Repr

/-- LIMIT of R54: slots of one class in a bundle. -/
def classLimit (k : Nat) : Nat := if k == 0 || k == 2 then 1 else 2

/-- The framing loop of R54 over the words fetched so far, `i` the index of the next word, `last` the class before it,
`run` how many slots of that class stand already. Class codes ascend, so the slots of one class stand together.
DEDUCED (log entry 97): word 6 that owns word 7 without E needs word 7 before the bundle is found to have no end, so a word 7 that
cannot be fetched gives its fetch trap or page pause and not reason 3; R54 names no order and R91 fetches every word of a
framed slot. Safe: the bundle runs neither way. -/
def frameGo : List IWord → (i last run : Nat) → List Framed → FrameRes
  | [], i, _, _, _ => .needs i
  | w :: rest, i, last, run, acc =>
    let r := rawOf w
    let k := r.k.toNat
    let run' := if k == last then run + 1 else 1
    if 0 < i && k < last then .illegal 1 i
    else if classLimit k < run' then .illegal 2 i
    else if r.owns then
      if 8 < i + 2 then .illegal 3 i
      else
        match rest with
        | [] => .needs (i + 1)
        | x :: rest' =>
          if r.e then .ok (i + 2) (acc ++ [⟨i, w, x⟩])
          else if i + 2 == 8 then .illegal 3 i
          else frameGo rest' (i + 2) k run' (acc ++ [⟨i, w, x⟩])
    else if r.e then .ok (i + 1) (acc ++ [⟨i, w, 0⟩])
    else if i + 1 == 8 then .illegal 3 i
    else frameGo rest (i + 1) k run' (acc ++ [⟨i, w, 0⟩])

/-- Frame a bundle from its first words (R54). -/
def frame (ws : List IWord) : FrameRes := frameGo ws 0 0 0 []

/-- A decoded slot: the index of its word and the instruction. -/
abbrev Slot := Nat × Instr

/-- A decoded bundle, or the trap of R56 by cause and TVAL, or a word that could not be fetched. -/
inductive BundleRes where
  | ok (len : Nat) (slots : List Slot)
  | trap (cause : Nat) (tval : W64)
  | needs (idx : Nat)
  deriving DecidableEq, Repr

/-- TVAL of ILLEGAL_OPCODE: the offending slot word and its index (R56). -/
def illegalOpcodeTval (w : IWord) (idx : Nat) : W64 := BitVec.ofNat 64 (idx * 2 ^ 32 + w.toNat)

/-- TVAL of ILLEGAL_BUNDLE: the reason and the index of the word being framed (R56). -/
def illegalBundleTval (reason idx : Nat) : W64 := BitVec.ofNat 64 (idx * 16 + reason)

/-- The end offset of LOOP in words: field B or the unsigned literal (R51, R92). -/
def loopOff (off : Imm 6) : Nat :=
  match off with
  | .short v => v.toNat
  | .lit v => v.toNat

/-- A LOOP whose end would lie before the first body bundle raises ILLEGAL_OPCODE (R92). -/
def Instr.fitsBundle (i : Instr) (len : Nat) : Bool :=
  match i with
  | .loop _ _ _ off => len ≤ loopOff off
  | _ => true

/-- Decode the slots of a framed bundle of `len` words; the earliest illegal word is reported (R56). -/
def decodeSlots (len : Nat) : List Framed → List Slot → BundleRes
  | [], acc => .ok len acc
  | f :: fs, acc =>
    match decodeSlot f.word f.owned with
    | none => .trap 0x01 (illegalOpcodeTval f.word f.idx)
    | some i =>
      if i.fitsBundle len then decodeSlots len fs (acc ++ [(f.idx, i)])
      else .trap 0x01 (illegalOpcodeTval f.word f.idx)

/-- Frame and decode a bundle from the words at its address (R54 to R56). -/
def decodeBundle (ws : List IWord) : BundleRes :=
  match frame ws with
  | .needs i => .needs i
  | .illegal reason i => .trap 0x02 (illegalBundleTval reason i)
  | .ok len slots => decodeSlots len slots []

/-- The instruction the decoder reads from the slot word in bits 31:0 of `w` with bits 63:32 as the word after it; bits at
and above `nbits` are zero. Bit 31, E, ends a bundle and is no part of an instruction. -/
def decodeTableWord (nbits w : Nat) : Option Instr :=
  if nbits == 0 then none
  else
    let v := w % 2 ^ nbits
    decodeSlot (BitVec.ofNat 32 v) (BitVec.ofNat 32 (v / 2 ^ 32))

end Sys2Proof
end

