-- ==== Sys2Proof/Machine/State.lean ====
section
/-! DEFINITION. The state of the machine as plain data: the context of the task on the modelled core, the memory system,
the keystone's services, the fabric and management. -/

namespace Sys2Proof.Machine

open Sys2Proof

/-- Bytes by address, addresses strictly rising; an unlisted address holds no written byte. -/
abbrev Mem := List Host.Cell

/-- Why the machine stops. No instruction and no event of the manual stops it. -/
inductive Fault where
  /-- Raised by `step` when the agenda holds an instruction, which no outside agent delivers. Safe: the part has no such
  occurrence. -/
  | agendaNotEvent
  deriving DecidableEq, Repr

/-- Why an instruction has no meaning. -/
inductive Refusal where
  /-- Raised by an arm of `exec` for a row that has no meaning yet. Safe: nothing is claimed of it. -/
  | notModelled (mnemonic : String)
  deriving DecidableEq, Repr

/-! ### The context of a task (R117, Table 6-3) -/

/-- s0 to s63, p0 to p7, k0 to k7, w0 to w3 and the address of the next bundle (R30 to R32, R323, R13). -/
structure Regs where
  s : Vector W64 64
  p : BitVec 8
  k : Vector (BitVec 512) 8
  w : Vector (BitVec 1024) 4
  pc : W64
  deriving DecidableEq, Repr

/-- The control registers of Table 2-6 (R43), and the step at which the task started, which tells it from every other task (R357). -/
structure Ctl where
  wid : W64
  launchArg : W64
  lcore : W64
  part : W64
  prio : W64
  cycle : W64
  viewv : W64
  viewt : W64
  viewa : W64
  rmode : W64
  fflags : W64
  seed : W64
  tensor : W64
  coord : W64
  acl : W64
  spkey : W64
  mshape : W64
  serial : Nat
  deriving DecidableEq, Repr

/-- The trap registers, the loop registers and the core's copy of the last trap entry (R43, R108, R111, R14). -/
structure TrapRegs where
  tvec : W64
  tcause : W64
  tpc : W64
  tnpc : W64
  tval : W64
  tstat : W64
  lcnt0 : W64
  lbeg0 : W64
  lend0 : W64
  lcnt1 : W64
  lbeg1 : W64
  lend1 : W64
  copyCause : W64
  copyPc : W64
  copyVal : W64
  deriving DecidableEq, Repr

/-- The basin: register space, accumulator storage, scratchpad, the tags (raw when unlisted) and sidebands of granules,
and the flags of the 4 KiB blocks (R33 to R42). `epoch` counts the times that unwritten bytes became unspecified
anew, and `epochs` lists the count that the blocks reloaded in use keep (R41, R42; log entry 2); `bad` holds the keys of bytes
in words that fail their check (R370). -/
structure Basin where
  epoch : Nat
  epochs : List (Nat × Nat)
  reg : Mem
  acc : Mem
  spad : Mem
  side : Mem
  tags : List (Nat × BitVec 4)
  inUse : List Nat
  dirty : List Nat
  bad : List Nat
  deriving DecidableEq, Repr

/-- Where an exposed result lands, with the result (R24): scalar register, predicate, lane mask, bytes of vector
registers with the sidebands of their granules, bytes of the scratchpad, flags of FFLAGS, or a deferred trap that is
detected when the data lands (R109). A byte that is `none`, and a mask bit that is 0 in `w`, is not written. -/
inductive PDest where
  | sreg (n : BitVec 6) (v : W64)
  | pred (n : BitVec 3) (v : Bool)
  | kmask (n : BitVec 3) (v w : BitVec 512)
  | vec (addr : Nat) (bytes : List (Option Byte)) (side : List Byte)
  | spad (addr : Nat) (bytes : List (Option Byte))
  | flags (f : BitVec 5)
  | fault (cause tval : W64)
  deriving DecidableEq, Repr

/-- An exposed result in its landing window: it has landed before bundle `due` issues; `landed` says that the bytes
stand already while the window is still open (R24, R25). -/
structure Pending where
  dst : PDest
  due : Nat
  landed : Bool
  deriving DecidableEq, Repr

/-- Where a scoreboarded result lands (R27): a scalar register; a scalar register and a view register (PAV); a vector
register by its address; bytes of the scratchpad (VSTX); nothing (a load to s0). -/
inductive SbDest where
  | sreg (n : BitVec 6)
  | sregView (n : BitVec 6) (w : BitVec 2)
  | vec (addr : Nat)
  | spad
  deriving DecidableEq, Repr

/-- Where the value of a scoreboarded result comes from: it is ready; the load of an access binds it when it lands; an
atomic or an engine instruction has still to supply it; bytes of a gather, with whether some are uncorrectable, or of a scatter, with the number of its bundle; a BOARD fault keeps the old
value (R109). -/
inductive SbSrc where
  | value (v : W64) (view : BitVec 1024)
  | load (acc : Nat)
  | waiting
  | gather (bytes : List (Option Byte)) (bad : Bool)
  | scatter (writes : List (Nat × Byte)) (bundle : Nat)
  | keep
  deriving DecidableEq, Repr

/-- An outstanding scoreboarded result (R27), with the code address of its bundle or its access address for a deferred
trap (R109); an earlier exposed result in an overlapping window stands instead (R25) in its scalar register, as `lost` says, or
at the basin addresses of `under`. -/
structure SbEntry where
  id : Nat
  dst : SbDest
  src : SbSrc
  addr : W64
  lost : Bool
  under : List Nat
  deriving DecidableEq, Repr

/-- A deferred trap that is detected or held (R109). -/
structure DefTrap where
  cause : W64
  tval : W64
  deriving DecidableEq, Repr

/-- The pipeline: the number of the next bundle, results in flight, deferred traps, and the count that names results,
accesses and engine instructions. -/
structure Pipe where
  bundleNo : Nat
  nextId : Nat
  pend : List Pending
  sb : List SbEntry
  deferred : List DefTrap
  deriving DecidableEq, Repr

/-- The state of a token's current instance (R53, R274). -/
structure Token where
  inst : Nat
  done : Bool
  status : W64
  deriving DecidableEq, Repr

/-- The states of a tile entry (R242), numbered as TT.Q shows them. -/
inductive TileState where
  | empty
  | filling
  | ready
  | draining
  deriving DecidableEq, Repr

/-- A tile-table entry (R242): range, state, the collective handle bound (0 for none), the die-stream tag and slot bound,
and whether a failed copy left it FILLING (R281). -/
structure Tile where
  rs : Bool
  base : Nat
  len : Nat
  st : TileState
  col : W64
  slot : Option (Nat × Nat)
  orphan : Bool
  deriving DecidableEq, Repr

/-- The states of a stream port (R179). -/
inductive PortState where
  | unbound
  | source
  | sink
  deriving DecidableEq, Repr

/-- A stream port: state, the STRM that bound it with the number of its bundle, chain word, the template once that STRM has
started, what STRM read at issue, elements delivered or pushed so far, elements of a granule not yet complete and the keys
of its bytes, translated as they were pushed (R185, R187), the element writes of pushed vectors that are not yet made, the first
store error. The rest is what a LOAD sees (R186, R259 to R263): `clob` the values overwritten since, with the step of each
write, newest first; `fixed` the values that it sees in place of any later one, since an access after it in its class or a FENCE
has performed; `shown` bytes of the scratchpad as a load of the STRM's bundle saw them, until a later store; `skip` the stores
still to land that `shown` has accounted for; `closed` that its reads are over; `past` the older values of bytes of other packages that
a line of the remote read cache could serve when its reads could begin (R252); `lost` the packages that were lost while its LOAD was
under way (R307); `loose` that it has run on after a save, so that only tokens order it (R268). -/
structure Port where
  st : PortState
  owner : Nat
  bundle : Nat
  chain : W64
  tmpl : Option (BitVec 1024)
  coord : W64
  seed : W64
  tensor : W64
  rmode : W64
  fill : BitVec 512
  pos : Nat
  part : List Nat
  keys : List Nat
  buf : List (List (Nat × Byte))
  err : W64
  clob : List (Nat × Nat × Byte)
  fixed : List (Nat × Byte)
  shown : List (Nat × Byte)
  skip : List Nat
  closed : Bool
  past : List (Nat × Nat × Byte)
  lost : List (BitVec 19)
  loose : Bool
  deriving DecidableEq, Repr

/-- A byte of the basin that a slot's result overwrote under an engine instruction (R153, R218): in the register space or the
scratchpad, address, the value overwritten, the place of the result among those, whether the instruction must not see the
new value, that of a store of its own bundle, whether that value stands over what the instruction writes, and the number of the next
bundle when it landed. -/
structure Clobber where
  reg : Bool
  addr : Nat
  old : Byte
  store : Nat
  hidden : Bool
  stands : Bool
  next : Nat
  deriving DecidableEq, Repr

/-- An engine instruction that has issued (R17, R18): the instruction, its engine (0 cascade, 1 and 2 copy), the program
position, the operands and registers read at issue (R46), the token instances it consumes, the one it produces, and those of the
instruction that SWP.LD resumed (R225), the
scoreboarded result it owes, its progress (`seen`: the parts of a copy already read; `part`: bytes sent of the calendar entry at
hand), the runs of basin bytes it reads and writes (true for the register space), the bytes that S and V slots wrote under it
(R153, R218), whether it replays with the template it has (R281), whether it has run on after a save (R268), and the step of its issue, which orders the instructions of a core's tasks (R330). -/
structure EngOp where
  id : Nat
  instr : Instr
  eng : Nat
  bundle : Nat
  bpc : W64
  sa : W64
  sb : W64
  sd : W64
  daddr : Nat
  aaddr : Nat
  baddr : Nat
  gaddr : Nat
  dtag : BitVec 4
  atag : BitVec 4
  btag : BitVec 4
  dlen : Nat
  rmode : W64
  seed : W64
  tensor : W64
  coord : W64
  acl : W64
  mshape : W64
  tailCmd : W64
  kmask : BitVec 512
  view : BitVec 1024
  idx : List Byte
  tmpl : BitVec 1024
  waits : List (Nat × Nat)
  prod : Option (Nat × Nat)
  alsoProd : List (Nat × Nat)
  sbId : Option Nat
  begun : Bool
  pos : Nat
  status : W64
  held : List Nat
  plane : Bool
  answered : Bool
  writes : List (List (Nat × Byte))
  rd : List (Bool × Nat × Nat)
  wr : List (Bool × Nat × Nat)
  clob : List Clobber
  seen : List Nat
  part : Nat
  again : Bool
  loose : Bool
  stamp : Nat
  deriving DecidableEq, Repr

/-- An instruction that SWP.SV withdrew (R224, R225): the record written, the token instances that stay pending, and the tile entries
that it holds FILLING. -/
structure Withdrawn where
  record : BitVec 512
  toks : List (Nat × Nat)
  held : List Nat
  deriving DecidableEq, Repr

/-- What an off-core access of an S slot or an atomic does (R101, R237, R294). -/
inductive AccKind where
  | load
  | store
  | atom (op : Nat) (ty : Nat) (x : W64) (cmp : W64) (returns : Bool)
  deriving DecidableEq, Repr

/-- An off-core access in program order (R259, R262): the number of its bundle, class, home key, virtual address, size, store data,
whether its page is remote, cacheable and routed to the reduction window, whether it has performed, the generation it translated
under, and the error status that its home answers (R250, R307). -/
structure Access where
  id : Nat
  bundle : Nat
  kind : AccKind
  cls : Nat
  key : Nat
  va : W64
  size : Nat
  data : List Byte
  remote : Bool
  cacheable : Bool
  rwin : Bool
  performed : Bool
  gen : BitVec 20
  err : W64
  deriving DecidableEq, Repr

/-- A die stream this core has opened (R285): tag, destination logical core, space, base, stride, slot size, count, first
entry, credits, next slot. -/
structure DieStream where
  tag : Nat
  lcore : BitVec 9
  rs : Bool
  base : Nat
  stride : Nat
  size : Nat
  count : Nat
  entry : Nat
  credits : List Nat
  next : Nat
  deriving DecidableEq, Repr

/-- The engine side of the context (Table 6-3): queues, started instructions, `wrote` the runs of the basin that those have written, by
instruction (R153), those that SWP.SV withdrew, tokens, templates, ports, tiles, accesses, streams; and a page that an engine access has
just missed (R255). -/
structure Engines where
  qm : List EngOp
  q0 : List EngOp
  q1 : List EngOp
  started : List EngOp
  wrote : List (Nat × Bool × Nat × Nat)
  withdrawn : List Withdrawn
  tokens : Vector Token 16
  templates : Vector (BitVec 1024) 16
  ports : Vector Port 4
  tiles : Vector Tile 64
  accs : List Access
  streams : List DieStream
  wants : Option Nat
  deriving DecidableEq, Repr

/-- One angle plane: 4,096 ang16 codes, code (stage s, pair p) at bits 16·(64s + p), and 64 pattern selectors (R201). -/
structure Plane where
  codes : BitVec 65536
  sels : BitVec 320
  deriving DecidableEq, Repr

/-- The state of the cascade (R197, R200, R201, R205, R208, R211, R213, R214, R220, R234). Vectors of fp32 values stand
value i at bits 32·i. -/
structure Cascade where
  plane0 : Plane
  plane1 : Plane
  active : Bool
  patterns : Vector (BitVec 1024) 25
  tailCmd : W64
  tailKept : W64
  g : BitVec 4096
  b : BitVec 4096
  act : BitVec 16512
  drift : BitVec 4096
  live : Option Nat
  liveVal : BitVec 131072
  status : BitVec 4
  peerDup : W64
  peerSeq : W64
  deriving DecidableEq, Repr

/-- The context of one task (R117): its launch, and everything the task can observe. -/
structure Ctx where
  lid : BitVec 32
  asid : BitVec 16
  hdr : BitVec 2048
  regs : Regs
  ctl : Ctl
  tr : TrapRegs
  basin : Basin
  pipe : Pipe
  eng : Engines
  casc : Cascade
  log : Mem
  snap : Mem
  deriving DecidableEq, Repr

/-! ### The memory system -/

/-- A TLB entry (R253): ASID, generation, page base, page size in bits, and the leaf entry. -/
structure TlbEntry where
  asid : BitVec 16
  gen : BitVec 20
  base : Nat
  bits : Nat
  leaf : W64
  deriving DecidableEq, Repr

/-- What the remote read cache may hold besides what its homes hold now (R252): a byte of another package that an agent outside this
package has overwritten, with the step and the time of that write, its key and its old value. A line filled before the write and not
dropped since holds the old value; which lines stand at a moment is free, as any agent of the package fills lines and any is evicted. -/
structure RrcByte where
  step : Nat
  time : W64
  key : Nat
  byte : Byte
  deriving DecidableEq, Repr

/-- Memory at its homes, caches, translation (R245 to R257), and code words kept for later fetches, by launch id and code
address (R372): `dieLines` are lines by ashlar die, `tlb1` the first level of this core and `tlb` the second level of its die,
`appliedReds` the elements of a reduction that are applied, by task and instruction (R282). -/
structure MemSys where
  gmem : Mem
  cistern : Mem
  dieLines : List (Nat × Nat)
  rrc : List RrcByte
  tlb1 : List TlbEntry
  tlb : List TlbEntry
  asGen : List (BitVec 16 × BitVec 20)
  raises : List (BitVec 16)
  pageReqs : List (BitVec 16 × Nat)
  refused : List (BitVec 16 × Nat)
  rwinBase : Nat
  rwinLen : Nat
  poison : List Nat
  heldReset : BitVec 8
  waiting : List (Nat × List Byte)
  appliedReds : List ((Nat × Nat) × Nat × Nat)
  kept : List (Nat × IWord)
  deriving DecidableEq, Repr

/-! ### Launches, tasks, records -/

/-- The states of a task (R343, R351, R120, R255). -/
inductive TaskState where
  | queued
  | running
  | parked
  | waitingPage (page : Nat)
  | evicted
  | ended
  deriving DecidableEq, Repr

/-- Where a task comes from (R342, R348, R292). -/
inductive TaskOrigin where
  | launch
  | continuation
  | posted
  deriving DecidableEq, Repr

/-- Basin bytes that a write has put before a continuation (R265): the logical core, the space (0 the register space, 1 the accumulator
storage, 2 the scratchpad), the address and the bytes. -/
structure Given where
  lcore : Nat
  space : Nat
  addr : Nat
  bytes : List Byte
  deriving DecidableEq, Repr

/-- A task of a launch (R340 to R350): work id, logical core, entry, the registers a continuation starts with, whether it
has started, the log it inherits from an end record (R358), and the basin bytes that it is guaranteed to see (R265). -/
structure Task where
  lid : BitVec 32
  wid : W64
  lcore : Nat
  prio : Nat
  entry : W64
  origin : TaskOrigin
  args : List W64
  st : TaskState
  started : Bool
  log : Mem
  given : List Given
  deriving DecidableEq, Repr

/-- A launch accepted (R340, R351): header, host, ASID, tasks run, tasks ended by abort or kill, the records freed once no task is
left, the snapshot of its merge regions, the logs not yet merged of its own tasks and of continuations and posted tasks, each with the serial
and the work id of its task (R350, R357, R358), whether it has completed, and the graph, replay and node that it runs for (R360). -/
structure Launch where
  lid : BitVec 32
  host : BitVec 20
  asid : BitVec 16
  hdr : BitVec 2048
  arg : W64
  run : Nat
  killed : Nat
  killing : Bool
  done : Bool
  freed : Option Nat
  snap : Mem
  logs : List (Nat × W64 × Mem)
  restLogs : List (Nat × W64 × Mem)
  graph : Option (Nat × Nat × Nat)
  deriving DecidableEq, Repr

/-- A drain of ACC.PEER buffered in deterministic mode (R215): source and destination logical core, sequence, accumulator, values. -/
structure Drain where
  lcore : BitVec 9
  dst : BitVec 9
  seq : Nat
  dacc : BitVec 5
  data : List (BitVec 32)
  deriving DecidableEq, Repr

/-- A task record (R235, R345, R346): slot and generation, launch, counts, continuation image, excesses, the bytes of an
exchange, whether a grant credited it, peer sequences applied, buffered drains, the basin bytes of the writes that credited it (R265), the
logical core, work id and serial of the task that created it, and the work ids of its group when it is an end record. -/
structure Record where
  slot : Nat
  gen : Nat
  lid : BitVec 32
  arrivals : Nat
  bytes : Nat
  image : BitVec 512
  exArr : Nat
  exBytes : Nat
  granted : Bool
  data : Nat
  closing : Nat
  peers : List ((BitVec 19 × BitVec 9 × W64) × Nat)
  drains : List Drain
  given : List Given
  creator : Nat
  creatorWid : W64
  creatorSerial : Option Nat
  group : Option (List W64)
  deriving DecidableEq, Repr

/-- Why a saved context is parked (R115, R255, R120); `onCore` stands, while a saved context takes a step, for the one that holds the
core. -/
inductive SaveReason where
  | onCore
  | preempted
  | page (page : Nat)
  | evicted
  deriving DecidableEq, Repr

/-- A context saved in its context area (R115, R117), why, whether its task has issued TEND (R94), and whether it is being
killed (R119). -/
structure Saved where
  ctx : Ctx
  why : SaveReason
  ending : Bool
  killed : Bool
  deriving DecidableEq, Repr

/-- What the core is doing: no task; a task whose bundles issue; a task that issued TEND (R94); a task being killed with
the reason and the two trap groups of its fault record (R111, R119). -/
inductive CoreMode where
  | idle
  | running
  | draining
  | killing (reason : Nat) (cause2 tpc2 tval2 : W64) (cause1 tpc1 tval1 : W64)
  deriving DecidableEq, Repr

/-- The keystone's schedule (R340 to R360): launches, tasks, saved contexts, records, the bind record of this core, the
candidate that it served last in each priority, and the global time at which its running task last took the core. -/
structure Sched where
  launches : List Launch
  tasks : List Task
  saved : List Saved
  nextLid : BitVec 32
  records : List Record
  recGen : List (Nat × Nat)
  bind : BitVec 1024
  served : List (Nat × BitVec 32 × Nat)
  since : W64
  deriving DecidableEq, Repr

/-! ### The fabric -/

/-- A notice board (R295, R296, R322): home, slots, participants by slot, level, posts of this level in order, and the
final posts of the previous level. -/
structure Board where
  handle : W64
  home : BitVec 19
  slots : Nat
  parts : List (Nat × BitVec 19 × BitVec 9)
  level : BitVec 32
  posts : List (Nat × W64)
  prev : List (Nat × W64)
  deriving DecidableEq, Repr

/-- A row of a round at an arbiter (R298, R325): member, demand block, stamp, and the address space of the member's task where it
is known here (R302). -/
structure Row where
  member : Nat
  block : BitVec 8704
  stamp : Nat
  asid : Option (BitVec 16)
  deriving DecidableEq, Repr

/-- One phase of a calendar (R299): start time, length, pairs (sender, receiver). -/
structure Phase where
  start : Nat
  len : Nat
  pairs : List (Nat × Nat)
  deriving DecidableEq, Repr

/-- A round of an exchange group: rows posted, its calendar once computed and when, cancelled, whether the primary has delivered
it, whether the standby knows that, whether the standby delivers it, the members that hold the calendar, and the members
that ran CAL.GO (R298 to R301, R325 to R329, R337). -/
structure Round where
  num : BitVec 32
  rows : List Row
  cal : Option (List Phase)
  calAt : W64
  cancelled : Bool
  delivered : Bool
  notified : Bool
  standby : Bool
  holders : List Nat
  gone : List Nat
  deriving DecidableEq, Repr

/-- An exchange group (R295, R325): arbiters, members by index, rounds, highest round calendared, skew events (R328). -/
structure Group where
  handle : W64
  primary : BitVec 19
  standby : BitVec 19
  size : Nat
  members : List (Nat × BitVec 19 × BitVec 9)
  rounds : List Round
  calendared : List (BitVec 32)
  skew : Nat
  deriving DecidableEq, Repr

/-- A chunk of the firing in progress as this member holds it (R313 to R317): whether its partial has passed, whether its
result is written, and whether it was written as zeros. -/
structure ChunkState where
  idx : Nat
  passed : Bool
  written : Bool
  bad : Bool
  deriving DecidableEq, Repr

/-- A collective entry (R310 to R321, R331): slot, generation, the member that installed it (launch, logical core, address
space), header, member table, collective id, ring position, firings made, the tile entries whose firings are not over
(the first one in progress), each after the launch and the logical core of the task that bound it (R312), the chunks of the contribution read so far with whether they are malformed, chunks of the
firing, landed shards, whether the result is being written, LOST. -/
structure Coll where
  slot : Nat
  gen : Nat
  lid : BitVec 32
  lcore : Nat
  asid : BitVec 16
  hdr : BitVec 512
  members : List (BitVec 128)
  cid : BitVec 32
  pos : Nat
  firing : Nat
  fires : List (BitVec 32 × Nat × Nat)
  contrib : List (List Nat × Bool)
  chunks : List ChunkState
  landed : List Nat
  filling : Bool
  lost : Bool
  deriving DecidableEq, Repr

/-- A link (R303, R307, R371): working lanes, the retrain in progress and the ones that wait in their order, each with the global
time of its request. -/
structure Link where
  lanes : Nat
  active : Option (RetrainKind × W64)
  queue : List (RetrainKind × W64)
  deriving DecidableEq, Repr

/-- A message to another core or package that leaves this package's units (answers, drains, chunks, triggers, flits). -/
inductive OutMsg where
  | boardAnswer (pkg : BitVec 19) (lcore : BitVec 9) (word : W64) (view : BitVec 1024) (fault : Nat)
  | rowAnswer (pkg : BitVec 19) (lcore : BitVec 9) (word : W64)
  | drain (pkg : BitVec 19) (lcore : BitVec 9) (source : BitVec 9) (wid : W64) (seq : W64) (dacc : BitVec 5) (h : W64) (data : BitVec 131072)
  | arrival (h : W64) (counts : W64)
  | credit (h : W64) (bytes : Nat)
  | grant (h : W64) (bytes : Nat)
  | drainAnswer (pkg : BitVec 19) (lcore : BitVec 9) (accepted : Bool)
  | flit (hdr : BitVec 128) (payload : List Byte)
  | memberShort (pkg : BitVec 19) (lcore : BitVec 9) (cid : BitVec 32)
  | row (group : W64) (block : BitVec 8704) (stamp : W64)
  | data (group : W64) (round : BitVec 32) (src dst off : Nat) (bytes : List Byte) (phase : Nat)
  | closing (group : W64) (round : BitVec 32) (src dst : Nat) (bytes : Nat) (phase : Nat)
  | calendar (group : W64) (round : BitVec 32) (member : Nat)
  | trigger (pkg : BitVec 19) (tagv : BitVec 16)
  | dieOpen (lcore : BitVec 9) (tag : Nat) (rs : Bool) (base stride size count entry : Nat)
  | dieClose (lcore : BitVec 9) (tag : Nat)
  | dieCredit (tag slot : Nat)
  | basinWrite (pkg : BitVec 19) (lcore : BitVec 9) (rs : Bool) (addr : Nat) (bytes : List Byte)
  deriving DecidableEq, Repr

/-- A message with the source endpoint id that the port inserts (R305, R362, R364). -/
structure Sent where
  src : BitVec 20
  msg : OutMsg
  deriving DecidableEq, Repr

/-- The fabric side of the package (R303 to R329). Links are numbered: 0 to 31 the Worzar ports, 32 to 39 the mortar links of the
ashlar dies to the keystone die, 40 to 47 the mortar links of the ring of ashlar dies (R1, R6). `inSeq` and `outSeq` hold the next
sequence number of each flow of flits, by the other endpoint and the virtual channel (R305, R306); `out` holds what has been sent,
in order. -/
structure Fabric where
  time : W64
  boards : List Board
  groups : List Group
  colls : List Coll
  collGen : List (Nat × Nat)
  lost : List (BitVec 20)
  portErrors : List (Nat × Nat)
  received : List (BitVec 128 × List Byte)
  links : List (Nat × Link)
  inSeq : List ((BitVec 20 × Nat) × BitVec 16)
  outSeq : List ((BitVec 20 × Nat) × BitVec 16)
  out : List Sent
  deriving DecidableEq, Repr

/-! ### Management -/

/-- The phases of a module's boot (R361, Table 23-1). -/
inductive BootPhase where
  | inReset
  | recovery
  | up
  deriving DecidableEq, Repr

/-- A snapshot held until it is read out (R369): trigger tag and time of the latch, and the values of the snapshot registers of
each block, in the order of the blocks (log entry 91). -/
structure Snapshot where
  tagv : BitVec 16
  time : W64
  values : List W64
  deriving DecidableEq, Repr

/-- A replay of a launch graph (R360): its number, each header with the bytes of its END image that lie in its argument block, the nodes
completed, the nodes started. -/
structure Replay where
  num : Nat
  hdrs : List (BitVec 2048 × List (Option Byte))
  completed : List Nat
  started : List Nat
  deriving DecidableEq, Repr

/-- A launch graph (R360): its host, headers, the headers each one follows, the replay in progress, replay messages waiting, and the
replays begun so far. -/
structure Graph where
  host : BitVec 20
  asid : BitVec 16
  hdrs : List (BitVec 2048)
  after : List (List Nat)
  replay : Option Replay
  waiting : Nat
  begun : Nat
  deriving DecidableEq, Repr

/-- What the host sees (R111, R255, R256, R340, R351, R361, R363, R369, R370). -/
inductive HostMsg where
  | ready (offered : BitVec 128) (cores : Nat) (degraded : Bool)
  | accepted (host : BitVec 20) (lid : BitVec 32)
  | rejected (host : BitVec 20) (code : Nat)
  | completion (lid : BitVec 32) (run freed killed : Nat) (merged : Bool)
  | faultRecord (rec : BitVec 512)
  | pageRequest (asid : BitVec 16) (page : Nat)
  | generationRaised (asid : BitVec 16)
  | attestation (digests : List (BitVec 256)) (signature : BitVec 3072)
  | managed (what : String) (handle : W64) (granted : Bool)
  | snapshot (tagv : BitVec 16) (time : W64) (missed : Nat) (values : List W64)
  | softErrors (block : SramBlock) (place : Nat) (count : Nat)
  | skew (group : W64) (count : Nat)
  | replayDone (graph : Nat) (code : Nat)
  | boardLost (handle : W64)
  deriving DecidableEq, Repr

/-- Boot, trust, limits, partitions, housekeeping (R361 to R371): ceilings by partition (none for the port as a whole), port and
virtual channel; seals, each with the mode under which the host set it; the trigger lists of the partitions and those whose task triggers are off (R339); errors by block and its place (R370); the clock in
MHz, the global time of the last reading above a limit, and the readings at hand, the power in watts and the temperature of each die
(R365). -/
structure Mgmt where
  boot : BootPhase
  locked : Bool
  keyDigest : BitVec 256
  endpoint : BitVec 20
  image : BitVec 256
  version : Nat
  bootVersion : Nat
  cores : Nat
  survive : BitVec 4
  written : Option (BitVec 128)
  parts : Nat
  sealed : List (Nat × BitVec 3)
  ceilings : List ((Option (BitVec 3) × BitVec 5 × BitVec 3) × Nat)
  triggerPkgs : List (Nat × List (BitVec 19))
  triggersOff : List Nat
  snapshot : Option Snapshot
  missed : Nat
  errors : List ((SramBlock × Nat) × Nat)
  clamp : Nat
  hotAt : W64
  power : Nat
  temps : List Nat
  graphs : List Graph
  dispatchOff : Bool
  deriving DecidableEq, Repr

/-- The machine. `freeCtr` counts the steps for the free values and `agenda` lists what the asynchronous agents do next:
both are the model's own (log entries 1 and 4). -/
structure State where
  ctx : Ctx
  mode : CoreMode
  freeCtr : Nat
  agenda : List Instr
  mem : MemSys
  sched : Sched
  fab : Fabric
  mgmt : Mgmt
  host : List HostMsg
  deriving DecidableEq, Repr

/-! ### Reset -/

/-- A token that has never been produced (R274, R344). -/
def Token.start : Token := ⟨0, true, 0⟩

/-- An EMPTY, unbound tile entry (R242, R344). -/
def Tile.start : Tile := ⟨false, 0, 0, .empty, 0, none, false⟩

/-- An UNBOUND port (R179, R344). -/
def Port.start : Port :=
  ⟨.unbound, 0, 0, 0, none, 0, 0, 0, 0, 0, 0, [], [], [], 0, [], [], [], [], false, [], [], false⟩

/-- The registers of R344. -/
def Regs.start : Regs :=
  ⟨Vector.replicate 64 0, 0, Vector.replicate 8 0, Vector.replicate 4 0, 0⟩

/-- The control registers of R344, with the partition word 1 and the default views of scalum (log entry 3). -/
def Ctl.start : Ctl := ⟨0, 0, 0, 1, 0, 0, 0, 14, 0, 0, 0, 0, 0, 0, 0, 0, 0, 0⟩

/-- The trap and loop registers of R344: TVEC is 0xFFFF_FFFF (R108). -/
def TrapRegs.start : TrapRegs := ⟨0xFFFFFFFF, 0, 0, 0, 0, 0, 0, 0, 0, 0, 0, 0, 0, 0, 0⟩

/-- A basin nothing has written: every granule raw, every flag clear (R41, R42). -/
def Basin.start : Basin := ⟨0, [], [], [], [], [], [], [], [], []⟩

/-- An empty pipeline. -/
def Pipe.start : Pipe := ⟨0, 0, [], [], []⟩

/-- Empty queues, tokens done, templates zero, ports UNBOUND, entries EMPTY (R344). -/
def Engines.start : Engines :=
  ⟨[], [], [], [], [], [], Vector.replicate 16 Token.start, Vector.replicate 16 0, Vector.replicate 4 Port.start,
    Vector.replicate 64 Tile.start, [], [], none⟩

/-- The byte image of pattern 0, pairs (0, 1), (2, 3) and so on (R197, R200). -/
def pattern0 : BitVec 1024 :=
  BitVec.ofNat 1024 ((List.range 128).foldl (fun acc i => acc + i * 2 ^ (8 * i)) 0)

/-- The fp32 value 1.0 in each of 128 lanes (R197). -/
def ones128 : BitVec 4096 :=
  BitVec.ofNat 4096 ((List.range 128).foldl (fun acc i => acc + 0x3F800000 * 2 ^ (32 * i)) 0)

/-- The cascade at task start (R197). -/
def Cascade.start : Cascade :=
  ⟨⟨0, 0⟩, ⟨0, 0⟩, false, Vector.replicate 25 pattern0, 0, 0, ones128, 0, 0, ones128, none, 0, 0, 0, 0⟩

/-- A context with no launch. -/
def Ctx.start : Ctx :=
  ⟨0, 0, 0, Regs.start, Ctl.start, TrapRegs.start, Basin.start, Pipe.start, Engines.start, Cascade.start, [], []⟩

/-- Memory and translation at module reset. Every ashlar die is in reset (R361). -/
def MemSys.reset : MemSys := ⟨[], [], [], [], [], [], [], [], [], [], 0, 0, [], 0xFF, [], [], []⟩

/-- No launch, no record; the bind record is clear until firmware writes it (R361 step 4). -/
def Sched.reset : Sched := ⟨[], [], [], 1, [], [], 0, [], 0⟩

/-- No board, group or collective; no link has lost a lane. -/
def Fabric.reset : Fabric := ⟨0, [], [], [], [], [], [], [], [], [], [], []⟩

/-- The module in reset: nothing locked, one partition, every engine surviving, the clock at 3.0 GHz (R3, R361). -/
def Mgmt.reset : Mgmt :=
  ⟨.inReset, false, 0, 0, 0, 0, 0, 0, 0xF, none, 1, [], [], [], [], none, 0, [], 3000, 0, 0, [], [], true⟩

/-- The machine right after module reset (R361; log entry 3 for the registers of the core). -/
def State.reset : State :=
  ⟨Ctx.start, .idle, 0, [], MemSys.reset, Sched.reset, Fabric.reset, Mgmt.reset, []⟩

end Sys2Proof.Machine
end

