-- ==== Sys2Proof/Machine/Ops.lean ====
section
/-! DEFINITION. The named operations over memory, the basin, registers and the pipeline; landing; trap entry, abort and
return (R14, R24 to R46, R99, R108 to R111). -/

namespace Sys2Proof.Machine

open Sys2Proof

/-! ### Bytes by address -/

/-- `n` bytes from address `a` on, of cells that lie at `a` or above. -/
def Mem.pick : (n a : Nat) → Mem → List (Option Byte)
  | 0, _, _ => []
  | n + 1, a, [] => none :: Mem.pick n (a + 1) []
  | n + 1, a, (k, v) :: rest =>
    if k == a then some v :: Mem.pick n (a + 1) rest else none :: Mem.pick n (a + 1) ((k, v) :: rest)

/-- The bytes at `a` to `a + n - 1`: `none` where nothing has written. -/
def Mem.read (m : Mem) (a n : Nat) : List (Option Byte) :=
  match m with
  | [] => Mem.pick n a []
  | (k, v) :: rest => if k < a then Mem.read rest a n else Mem.pick n a ((k, v) :: rest)

/-- The byte at one address. -/
def Mem.get (m : Mem) (a : Nat) : Option Byte :=
  match m with
  | [] => none
  | (k, v) :: rest => if k == a then some v else Mem.get rest a

/-- Bytes laid over cells that lie at `a` or above; `none` leaves what stands. -/
def Mem.overlay : (a : Nat) → List (Option Byte) → Mem → Mem
  | _, [], rest => rest
  | a, b :: bs, [] =>
    match b with
    | some v => (a, v) :: Mem.overlay (a + 1) bs []
    | none => Mem.overlay (a + 1) bs []
  | a, b :: bs, (k, v) :: rest =>
    if k == a then (a, b.getD v) :: Mem.overlay (a + 1) bs rest
    else
      match b with
      | some v' => (a, v') :: Mem.overlay (a + 1) bs ((k, v) :: rest)
      | none => Mem.overlay (a + 1) bs ((k, v) :: rest)

/-- The bytes at `a` and above written; `none` leaves what stands. -/
def Mem.write (m : Mem) (a : Nat) (bs : List (Option Byte)) : Mem :=
  match m with
  | [] => Mem.overlay a bs []
  | (k, v) :: rest => if k < a then (k, v) :: Mem.write rest a bs else Mem.overlay a bs ((k, v) :: rest)

/-- Every byte of a run written. -/
def Mem.writeAll (m : Mem) (a : Nat) (bs : List Byte) : Mem := m.write a (bs.map some)

/-- The canonical form: addresses strictly rising. -/
def Mem.wf (m : Mem) : Bool :=
  match m with
  | [] => true
  | (k, _) :: rest =>
    (match rest with
     | [] => true
     | (k', _) :: _ => k < k') && Mem.wf rest

/-- `n` bytes with what an unwritten byte reads as, in a space (log entry 2). -/
def Mem.bytes (m : Mem) (space a n : Nat) : List Byte :=
  (m.read a n).zipIdx.map fun p => p.1.getD (Config.unwritten space (a + p.2))

/-- Whether two runs of bytes meet. -/
def meets (a n b m : Nat) : Bool := a < b + m && b < a + n

/-- Whether a list of optional bytes at `addr` holds a byte for address `x`. -/
def coversAt (addr : Nat) (bs : List (Option Byte)) (x : Nat) : Bool :=
  addr ≤ x && (bs.getD (x - addr) none).isSome

/-- Whether two lists of optional bytes write a common address. -/
def bytesOverlap (a : Nat) (as : List (Option Byte)) (b : Nat) (bs : List (Option Byte)) : Bool :=
  meets a as.length b bs.length && (as.zipIdx.any fun p => p.1.isSome && coversAt b bs (a + p.2))

/-! ### Geometry of the basin (R33 to R36) -/

/-- REG of the partition word (Table 2-3). -/
def Ctx.regGranules (c : Ctx) : Nat := c.ctl.part.toNat % 256

/-- ACC of the partition word (Table 2-3). -/
def Ctx.accGranules (c : Ctx) : Nat := c.ctl.part.toNat / 256 % 256

/-- Bytes of the register space (R34). -/
def Ctx.regSize (c : Ctx) : Nat := c.regGranules * 65536

/-- Bytes of the accumulator storage (R34). -/
def Ctx.accSize (c : Ctx) : Nat := c.accGranules * 65536

/-- SPSIZE (R98). -/
def Ctx.spSize (c : Ctx) : Nat := (64 - c.regGranules - c.accGranules) * 65536

/-- LOG2 of VIEWT (Table 2-4). -/
def Ctx.tileLog2 (c : Ctx) : Nat := c.ctl.viewt.toNat % 32

/-- Bytes of a tile. -/
def Ctx.tileSize (c : Ctx) : Nat := 2 ^ c.tileLog2

/-- Register-space address of vK (R35). -/
def Ctx.vecAddr (c : Ctx) (k : Nat) : Nat := c.ctl.viewv.toNat + 256 * k

/-- Register-space address of tK (R35, R36). -/
def Ctx.tileAddr (c : Ctx) (k : Nat) : Nat :=
  (c.ctl.viewt.toNat / 4096 * 4096 + k * c.tileSize) % 2 ^ 48

/-- Accumulator address of accK (R35). -/
def Ctx.accAddr (c : Ctx) (k : Nat) : Nat := c.ctl.viewa.toNat + 16384 * k

/-- The first 4 KiB block of the accumulator storage (R34, R42). -/
def Ctx.accBlock (c : Ctx) : Nat := c.regGranules * 16

/-- The first block of the scratchpad. -/
def Ctx.spadBlock (c : Ctx) : Nat := (c.regGranules + c.accGranules) * 16

/-- The blocks that a write touches, in use and dirty (R42): `base` is the block of address 0 of the space, and a block
counts when some byte of it is written. -/
def Basin.touch (b : Basin) (base a : Nat) (bs : List (Option Byte)) : Basin :=
  let lo := a / 4096
  let blocks := ((List.range ((a + bs.length) / 4096 + 1 - lo)).map (· + lo)).filter fun k =>
    bs.zipIdx.any fun p => p.1.isSome && (a + p.2) / 4096 == k
  { b with
    inUse := blocks.foldl (fun acc k => insertNat (base + k) acc) b.inUse
    dirty := blocks.foldl (fun acc k => insertNat (base + k) acc) b.dirty }

/-! ### Tags and sidebands (R38 to R40) -/

/-- The tag of the granule that holds a register-space address. -/
def Basin.tagAt (b : Basin) (a : Nat) : Fmt := Fmt.ofCode ((lookupKey (a / 256) b.tags).getD 0)

/-- The tag list with one granule's tag; raw is not listed. -/
def putTag (g : Nat) (t : BitVec 4) (tags : List (Nat × BitVec 4)) : List (Nat × BitVec 4) :=
  if t == 0 then tags.filter fun p => p.1 != g else insertKey g t tags

/-- The 4 KiB block of the register space that holds an address, in use and dirty (R42). -/
def Basin.mark (b : Basin) (a : Nat) : Basin :=
  { b with inUse := insertNat (a / 4096) b.inUse, dirty := insertNat (a / 4096) b.dirty }

/-- A granule's tag set: its block is in use from now on (R42). -/
def Basin.setTag (b : Basin) (a : Nat) (f : Fmt) : Basin :=
  { (b.mark a) with tags := putTag (a / 256) (BitVec.ofNat 4 f.code) b.tags }

/-- The tags of the granules that hold `n` bytes from `a` on. -/
def Basin.setTags (b : Basin) (a n : Nat) (f : Fmt) : Basin :=
  if n == 0 then b
  else (List.range ((a + n - 1) / 256 + 1 - a / 256)).foldl (fun acc i => acc.setTag (256 * (a / 256 + i)) f) b

/-- The count of which an unwritten byte of a block is a free value (R41, R42; log entry 2). -/
def Basin.epochAt (b : Basin) (block : Nat) : Nat := (lookupKey block b.epochs).getD b.epoch

/-- `n` bytes of a space of the basin from `a` on; `block` is the block of address 0 of the space. -/
def Basin.bytes (b : Basin) (m : Mem) (space block a n : Nat) : List Byte :=
  (m.read a n).zipIdx.map fun p => p.1.getD (Config.unwritten (8 * b.epochAt (block + (a + p.2) / 4096) + space) (a + p.2))

/-- The 16 sideband bytes of the granule that holds an address (R39). -/
def Basin.sideAt (b : Basin) (a : Nat) : List Byte := b.side.bytes (8 * b.epochAt (a / 4096) + 5) (a / 256 * 16) 16

/-- A granule's sideband set. -/
def Basin.setSide (b : Basin) (a : Nat) (s : List Byte) : Basin :=
  { (b.mark a) with side := b.side.writeAll (a / 256 * 16) s }

/-- The sidebands of consecutive granules set, 16 bytes each. -/
def Basin.setSides (b : Basin) (a : Nat) (s : List Byte) : Basin :=
  (List.range (s.length / 16)).foldl (fun b i => b.setSide (a + 256 * i) (sliceOf s (16 * i) 16)) b

/-- Sixteen zero bytes. -/
def zeroSide : List Byte := List.replicate 16 0

/-! ### Writes into the basin -/

/-- The key of a byte of the basin: spaces 0 register space, 1 accumulators, 2 scratchpad (R370). -/
def basinKey (space a : Nat) : Nat := space * 2 ^ 24 + a

/-- Whether some byte of a run lies in a word that fails its check (R100, R370). -/
def Basin.poisoned (b : Basin) (space a n : Nat) : Bool := b.bad.any fun k => meets k 1 (basinKey space a) n

/-- A run of bytes written: those bytes pass their check again. -/
def Basin.heal (b : Basin) (space a : Nat) (bs : List (Option Byte)) : Basin :=
  if b.bad.isEmpty then b
  else { b with bad := b.bad.filter fun k => !(basinKey space a ≤ k && (bs.getD (k - basinKey space a) none).isSome) }

/-- Bytes of the register space written, without tag or sideband. -/
def Ctx.putReg (c : Ctx) (a : Nat) (bs : List (Option Byte)) : Ctx :=
  { c with basin := { ((c.basin.touch 0 a bs).heal 0 a bs) with
      reg := c.basin.reg.write a bs } }

/-- Bytes of the accumulator storage written. -/
def Ctx.putAcc (c : Ctx) (a : Nat) (bs : List Byte) : Ctx :=
  { c with basin := { ((c.basin.touch c.accBlock a (bs.map some)).heal 1 a (bs.map some)) with
      acc := c.basin.acc.writeAll a bs } }

/-- Values overwritten by a write of step `stamp`, by key, kept by a source port (R186): ones that its LOAD may still see, or,
where `must` holds or its reads are over, ones that it sees in place of any later value. -/
def Port.keep (p : Port) (must : Bool) (stamp : Nat) (old : List (Nat × Byte)) : Port :=
  let new := old.filter fun o => (lookupKey o.1 p.fixed).isNone
  if must || p.closed then { p with fixed := new ++ p.fixed } else { p with clob := (new.map fun o => (stamp, o)) ++ p.clob }

/-- One scratchpad byte overwritten under a port bound to the scratchpad: a store that the binding has accounted for changes
nothing, a later one ends what the port saw in its place (R99, R186). -/
def Port.keepByte (stamp : Nat) (p : Port) (o : Nat × Byte) : Port :=
  if p.skip.contains o.1 then { p with skip := p.skip.erase o.1 }
  else { (p.keep false stamp [(o.1, (lookupKey o.1 p.shown).getD o.2)]) with shown := p.shown.filter fun c => c.1 != o.1 }

/-- The values that a LOAD of a port bound to the scratchpad may still see, kept when bytes are overwritten (R186): those of
one store have one stamp. -/
def Port.keepOld (p : Port) (old : List (Nat × Byte)) : Port :=
  if p.st == .source && p.chain.toNat / 2 ^ 60 % 4 == 0 then
    old.foldl (Port.keepByte (((p.clob.head?.map Prod.fst).getD 0) + 1)) p
  else p

/-- Whether a port is bound to read the scratchpad. -/
def Port.loadsSpad (p : Port) : Bool := p.st == .source && p.chain.toNat / 2 ^ 60 % 4 == 0

/-- Stored bytes that a port which reads the scratchpad must see: nothing that stood there before is seen any more. -/
def Port.sees (p : Port) (xs : List Nat) : Port :=
  if p.loadsSpad then
    { p with
      clob := p.clob.filter fun c => !(xs.contains c.2.1)
      fixed := p.fixed.filter fun c => !(xs.contains c.1)
      shown := p.shown.filter fun c => !(xs.contains c.1) }
  else p

/-- Whether the LOAD of a port starts after a token that its STRM waits for: an engine write made before that start is seen (R264). -/
def Engines.startsAfter (e : Engines) (p : Port) : Bool :=
  (e.qm ++ e.q0 ++ e.q1).any fun o => o.id == p.owner && !o.waits.isEmpty

/-- Whether some tile entry covers a byte of the scratchpad: an engine that reads it starts once the entry is READY (R243). -/
def Engines.tiledAt (e : Engines) (a : Nat) : Bool :=
  e.tiles.toList.any fun t => !t.rs && t.base ≤ a && a < t.base + t.len

/-- Scratchpad bytes that an engine or another agent writes, for a port that reads the scratchpad (R186, R264). -/
def Engines.portAfter (e : Engines) (old : List (Nat × Byte)) (p : Port) : Port :=
  let waits := (e.qm ++ e.q0 ++ e.q1).any fun o => o.id == p.owner
  let must := old.filter fun o => e.startsAfter p || (waits && e.tiledAt o.1)
  (p.keepOld (old.filter fun o => !(must.contains o))).sees (must.map Prod.fst)

/-- Bytes of the scratchpad written; `keep` says what a port that reads it makes of the values overwritten. -/
def Ctx.storeSpad (c : Ctx) (keep : List (Nat × Byte) → Port → Port) (a : Nat) (bs : List (Option Byte)) : Ctx :=
  let old := ((c.basin.bytes c.basin.spad 2 c.spadBlock a bs.length).zip bs).zipIdx.filterMap fun p =>
    if p.1.2.isSome then some (a + p.2, p.1.1) else none
  { c with
    basin := { ((c.basin.touch c.spadBlock a bs).heal 2 a bs) with
      spad := c.basin.spad.write a bs }
    eng := { c.eng with ports := c.eng.ports.map (keep old) } }

/-- Bytes of the scratchpad that a slot's store writes: a port may see the old ones (R186). -/
def Ctx.slotSpad (c : Ctx) (a : Nat) (bs : List (Option Byte)) : Ctx := c.storeSpad (fun old p => p.keepOld old) a bs

/-- Bytes of the scratchpad that an engine or another agent writes. -/
def Ctx.putSpad (c : Ctx) (a : Nat) (bs : List (Option Byte)) : Ctx := c.storeSpad c.eng.portAfter a bs

/-- The bytes of the register space that stand. -/
def Ctx.regBytes (c : Ctx) (a n : Nat) : List Byte := c.basin.bytes c.basin.reg 0 0 a n

/-- The bytes of the accumulator storage that stand. -/
def Ctx.accBytes (c : Ctx) (a n : Nat) : List Byte := c.basin.bytes c.basin.acc 1 c.accBlock a n

/-- The bytes of the scratchpad that stand. -/
def Ctx.spadBytes (c : Ctx) (a n : Nat) : List Byte := c.basin.bytes c.basin.spad 2 c.spadBlock a n

/-! ### Registers (R30 to R32) -/

/-- sN as it stands; s0 reads as zero. -/
def Regs.getS (r : Regs) (n : BitVec 6) : W64 := if n == 0 then 0 else r.s.toArray.getD n.toNat 0

/-- sN written; a write to s0 is discarded. -/
def Regs.setS (r : Regs) (n : BitVec 6) (v : W64) : Regs :=
  if n == 0 then r else { r with s := r.s.setIfInBounds n.toNat v }

/-- pN as it stands; p0 reads as true. -/
def Regs.getP (r : Regs) (n : BitVec 3) : Bool := n == 0 || r.p.getLsbD n.toNat

/-- One bit of a bit vector replaced. -/
def setBit {w : Nat} (x : BitVec w) (n : Nat) (b : Bool) : BitVec w :=
  let m : BitVec w := BitVec.ofNat w (2 ^ n)
  if b then x ||| m else x &&& ~~~ m

/-- pN written; a write to p0 is discarded. -/
def Regs.setP (r : Regs) (n : BitVec 3) (b : Bool) : Regs :=
  if n == 0 then r else { r with p := setBit r.p n.toNat b }

/-- kN as it stands; k0 reads as all ones. -/
def Regs.getK (r : Regs) (n : BitVec 3) : BitVec 512 :=
  if n == 0 then BitVec.allOnes 512 else r.k.toArray.getD n.toNat 0

/-- kN written; a write to k0 is discarded. -/
def Regs.setK (r : Regs) (n : BitVec 3) (v : BitVec 512) : Regs :=
  if n == 0 then r else { r with k := r.k.setIfInBounds n.toNat v }

/-- wN as it stands (R323). -/
def Regs.getW (r : Regs) (n : BitVec 2) : BitVec 1024 := r.w.toArray.getD n.toNat 0

/-- wN written. -/
def Regs.setW (r : Regs) (n : BitVec 2) (v : BitVec 1024) : Regs :=
  { r with w := r.w.setIfInBounds n.toNat v }

/-! ### Control registers (R43, R44) -/

/-- Deterministic mode (Table 22-1, DET). -/
def Ctx.det (c : Ctx) : Bool := c.hdr.getLsbD 59

/-- CODELEN of the launch, in words (Table 22-1). -/
def Ctx.codeLen (c : Ctx) : Nat := (c.hdr.extractLsb' 64 32).toNat

/-- FEAT (R43): the surviving engines and bits 55:0 of the accepted features. -/
def featWord (m : Mgmt) : W64 :=
  let offered : BitVec 128 := (0 : BitVec 120) ++ Config.offered
  let acc : BitVec 128 :=
    match m.written with
    | none => offered &&& 3
    | some v => offered &&& v
  acc.extractLsb' 0 56 ++ (0 : BitVec 4) ++ m.survive

/-- Whether a feature is accepted (R366, Table 23-3). -/
def Mgmt.accepted (m : Mgmt) (bit : Nat) : Bool := (featWord m).getLsbD (8 + bit)

/-- A control register as it stands (Table 2-6); an unassigned number never reaches here. -/
def creg (s : State) (n : BitVec 6) : W64 :=
  let c := s.ctx
  match n.toNat with
  | 0x00 => c.ctl.wid
  | 0x01 => c.ctl.launchArg
  | 0x02 => c.ctl.lcore
  | 0x03 => (0 : BitVec 55) ++ Config.pcore
  | 0x04 => c.ctl.part
  | 0x05 => c.ctl.prio
  | 0x06 => featWord s.mgmt
  | 0x07 => c.ctl.cycle
  | 0x08 => c.ctl.viewv
  | 0x09 => c.ctl.viewt
  | 0x0A => c.ctl.viewa
  | 0x0B => c.ctl.rmode
  | 0x0C => c.ctl.fflags
  | 0x0D => c.ctl.seed
  | 0x0E => c.ctl.tensor
  | 0x0F => c.ctl.coord
  | 0x10 => c.ctl.acl
  | 0x11 => c.ctl.spkey
  | 0x12 => c.ctl.mshape
  | 0x18 => c.tr.tvec
  | 0x19 => c.tr.tcause
  | 0x1A => c.tr.tpc
  | 0x1B => c.tr.tnpc
  | 0x1C => c.tr.tval
  | 0x1D => c.tr.tstat
  | 0x20 => c.tr.lcnt0
  | 0x21 => c.tr.lbeg0
  | 0x22 => c.tr.lend0
  | 0x23 => c.tr.lcnt1
  | 0x24 => c.tr.lbeg1
  | 0x25 => c.tr.lend1
  | _ => 0

/-- The numbers of Table 2-6 marked RO. -/
def cregReadOnly (n : BitVec 6) : Bool := n.toNat ≤ 0x07 || n.toNat == 0x11

/-- TSTAT after a write: INTRAP (bit 0) and MERGE (bit 8) stay (R44). -/
def tstatWrite (old v : W64) : W64 := (old &&& 0x101) ||| (v &&& 0xFE)

/-- A control register written within its field rules (R43, R44, R104). -/
def Ctx.setCreg (c : Ctx) (n : BitVec 6) (v : W64) : Ctx :=
  match n.toNat with
  | 0x08 => { c with ctl := { c.ctl with viewv := v &&& 0xFFF00 } }
  | 0x09 => { c with ctl := { c.ctl with viewt := v &&& 0xFF01F } }
  | 0x0A => { c with ctl := { c.ctl with viewa := v &&& 0x7C000 } }
  | 0x0B => { c with ctl := { c.ctl with rmode := v &&& 3 } }
  | 0x0C => { c with ctl := { c.ctl with fflags := v &&& 0x1F } }
  | 0x0D => { c with ctl := { c.ctl with seed := v } }
  | 0x0E => { c with ctl := { c.ctl with tensor := v } }
  | 0x0F => { c with ctl := { c.ctl with coord := v } }
  | 0x10 => { c with ctl := { c.ctl with acl := v &&& 0xF } }
  | 0x12 => { c with ctl := { c.ctl with mshape := v &&& 0x3F3F } }
  | 0x18 => { c with tr := { c.tr with tvec := v } }
  | 0x19 => { c with tr := { c.tr with tcause := v } }
  | 0x1A => { c with tr := { c.tr with tpc := v } }
  | 0x1B => { c with tr := { c.tr with tnpc := v } }
  | 0x1C => { c with tr := { c.tr with tval := v } }
  | 0x1D => { c with tr := { c.tr with tstat := tstatWrite c.tr.tstat v } }
  | 0x20 => { c with tr := { c.tr with lcnt0 := v, tstat := c.tr.tstat &&& ~~~ 2 } }
  | 0x21 => { c with tr := { c.tr with lbeg0 := v } }
  | 0x22 => { c with tr := { c.tr with lend0 := v } }
  | 0x23 => { c with tr := { c.tr with lcnt1 := v, tstat := c.tr.tstat &&& ~~~ 4 } }
  | 0x24 => { c with tr := { c.tr with lbeg1 := v } }
  | 0x25 => { c with tr := { c.tr with lend1 := v } }
  | _ => c

/-- TSTAT.INTRAP. -/
def Ctx.inTrap (c : Ctx) : Bool := c.tr.tstat.getLsbD 0

/-- Whether loop set n is active (R14). -/
def Ctx.loopActive (c : Ctx) (n : Bool) : Bool :=
  if n then c.tr.lcnt1 != 0 && !c.tr.tstat.getLsbD 2 else c.tr.lcnt0 != 0 && !c.tr.tstat.getLsbD 1

/-! ### Landing (R24, R25, R29, R45) -/

/-- The engine instructions that are not done: queued or started. -/
def Engines.undone (e : Engines) : List EngOp := e.qm ++ e.q0 ++ e.q1 ++ e.started

/-- Whether a run of basin bytes holds an address; true names the register space. -/
def inRun (r : Bool × Nat × Nat) (reg : Bool) (x : Nat) : Bool := r.1 == reg && r.2.1 ≤ x && x < r.2.1 + r.2.2

/-- Whether an engine instruction that is not done writes a byte of the register space (`reg`) or scratchpad (R153). -/
def Engines.busyAt (e : Engines) (reg : Bool) (x : Nat) : Bool :=
  e.undone.any fun o => o.wr.any fun r => inRun r reg x

/-- A byte of a slot's result: its address, the value that it overwrites, whether it stands over what engine instructions that are not
done write there (R153), and the number of the next bundle. -/
structure SlotByte where
  addr : Nat
  old : Byte
  stands : Bool
  next : Nat
  deriving DecidableEq, Repr

/-- The bytes of a slot's result recorded in an engine instruction that reads or writes them (R153, R218). -/
def EngOp.clobber (o : EngOp) (reg : Bool) (xs : List SlotByte) : EngOp :=
  let hit := xs.filter fun x => (o.rd ++ o.wr).any fun r => inRun r reg x.addr
  if hit.isEmpty then o
  else { o with clob := hit.map (fun x => ⟨reg, x.addr, x.old, o.clob.length, false, x.stands, x.next⟩) ++ o.clob }

/-- Every instruction that is not done changed. -/
def Engines.mapOps (e : Engines) (f : EngOp → EngOp) : Engines :=
  { e with
    qm := e.qm.map f
    q0 := e.q0.map f
    q1 := e.q1.map f
    started := e.started.map f }

/-- The whole basin, as runs. -/
def wholeBasin : List (Bool × Nat × Nat) := [(true, 0, 2 ^ 32), (false, 0, 2 ^ 32)]

/-- Whether two runs of basin bytes meet. -/
def runsMeet (r q : Bool × Nat × Nat) : Bool := r.1 == q.1 && meets r.2.1 r.2.2 q.2.1 q.2.2

/-- Whether an instruction reads bytes of some runs. -/
def EngOp.readsSome (o : EngOp) (rs : List (Bool × Nat × Nat)) : Bool := o.rd.any fun r => rs.any fun q => runsMeet r q

/-- The template register that an instruction names, and whether it loads it. -/
def templateOf (i : Instr) : Option (BitVec 4 × Bool) :=
  match i with
  | .tplLd _ x _ => some (x, true)
  | .copy _ x _ _ => some (x, false)
  | .copyRed _ x _ _ => some (x, false)
  | .gath _ x _ _ => some (x, false)
  | .strm _ _ _ x => some (x, false)
  | _ => none

/-- The template registers that loads not yet done take from bytes of some runs. -/
def Engines.loadsFrom (e : Engines) (rs : List (Bool × Nat × Nat)) : List (BitVec 4) :=
  e.undone.filterMap fun o =>
    match templateOf o.instr with
    | some (x, true) => if o.readsSome rs then some x else none
    | _ => none

/-- Whether an instruction that has not started finds out only then which bytes it writes, as the bytes that say so lie in some runs: the
record of an SWP.LD, the image of a template in `xs`. A STRM of a source writes none. -/
def EngOp.opened (o : EngOp) (rs : List (Bool × Nat × Nat)) (xs : List (BitVec 4)) : Bool :=
  !o.begun && !o.again &&
    (match o.instr with
     | .swpLd _ _ => o.readsSome rs
     | .strm _ _ _ x => xs.contains x && o.sa.getLsbD 62
     | i =>
       match templateOf i with
       | some (x, false) => xs.contains x
       | _ => false)

/-- Bytes of some runs change while instructions wait that take from them what they will write: from here on any byte of the basin may be
one of those (R153, R193; log entry 101). -/
def Engines.unsettle (e : Engines) (rs : List (Bool × Nat × Nat)) : Engines :=
  let xs := e.loadsFrom rs
  e.mapOps fun o => if o.opened rs xs then { o with wr := wholeBasin } else o

/-- The bytes of a slot's result recorded in every engine instruction that is not done. -/
def Engines.clobber (e : Engines) (reg : Bool) (xs : List SlotByte) : Engines :=
  (e.mapOps fun o => o.clobber reg xs).unsettle (xs.map fun x => (reg, x.addr, 1))

/-- The newest store recorded in an engine instruction is one of its own bundle, which it does not see (R99, R218). -/
def EngOp.hide (o : EngOp) (xs : List Nat) : EngOp :=
  let k := (o.clob.head?.map Clobber.store).getD 0
  { o with clob := o.clob.map fun c => if c.store == k && !c.reg && xs.contains c.addr then { c with hidden := true } else c }

/-- Whether a byte holds what an engine instruction that is not done has written (R153): one has, and no slot's result stands over it. -/
def Engines.holdsAt (e : Engines) (reg : Bool) (x : Nat) : Bool :=
  (e.wrote.any fun r => inRun r.2 reg x) &&
    !(e.undone.any fun o => ((o.clob.find? fun c => c.reg == reg && c.addr == x).map Clobber.stands).getD false)

/-- The bytes that a slot's result overwrites in the register space or the scratchpad, each with the free bit that says whether it stands
over what engine instructions write there (R153). -/
def Ctx.overwritten (ctr : Nat) (c : Ctx) (reg : Bool) (a : Nat) (bs : List (Option Byte)) : List SlotByte :=
  ((if reg then c.regBytes a bs.length else c.spadBytes a bs.length).zip bs).zipIdx.filterMap fun p =>
    if p.1.2.isSome then some ⟨a + p.2, p.1.1, Config.free ctr (2 ^ 40 + a + p.2) 1 == 1, c.pipe.bundleNo⟩
    else none

/-- What lands of a slot's bytes: a byte that an engine instruction has written ends with either value (R153). -/
def Engines.racing (e : Engines) (reg : Bool) (a : Nat) (bs : List (Option Byte)) (xs : List SlotByte) : List (Option Byte) :=
  if e.wrote.isEmpty then bs
  else bs.zipIdx.map fun p =>
    if e.holdsAt reg (a + p.2) && (xs.any fun x => x.addr == a + p.2 && !x.stands) then none else p.1

/-- A slot's bytes land in the register space or the scratchpad (R153). -/
def Ctx.landBytes (ctr : Nat) (c : Ctx) (reg : Bool) (a : Nat) (bs : List (Option Byte)) : Ctx :=
  if c.eng.undone.isEmpty then (if reg then c.putReg a bs else c.slotSpad a bs)
  else
    let xs := c.overwritten ctr reg a bs
    let bs' := c.eng.racing reg a bs xs
    let c' := if reg then c.putReg a bs' else c.slotSpad a bs'
    { c' with eng := c'.eng.clobber reg xs }

/-- The addresses that a list of optional bytes writes. -/
def writtenAddrs (a : Nat) (bs : List (Option Byte)) : List Nat :=
  bs.zipIdx.filterMap fun p => if p.1.isSome then some (a + p.2) else none

/-- A result written to its destination. -/
def Ctx.writeDst (ctr : Nat) (c : Ctx) (d : PDest) : Ctx :=
  match d with
  | .sreg n v => { c with regs := c.regs.setS n v }
  | .pred n v => { c with regs := c.regs.setP n v }
  | .kmask n v w => { c with regs := c.regs.setK n ((c.regs.getK n &&& ~~~ w) ||| (v &&& w)) }
  | .vec addr bytes side =>
    let c' := c.landBytes ctr true addr bytes
    { c' with basin := c'.basin.setSides addr side }
  | .spad addr bytes => c.landBytes ctr false addr bytes
  | .flags f => { c with ctl := { c.ctl with fflags := c.ctl.fflags ||| ((0 : BitVec 59) ++ f) } }
  | .fault cause tval => { c with pipe := { c.pipe with deferred := c.pipe.deferred ++ [⟨cause, tval⟩] } }

/-- The newest store kept by a port that reads the scratchpad is one of the bundle of its STRM, which it does not see (R99, R186). -/
def Port.hide (p : Port) (xs : List Nat) : Port :=
  let k := (p.clob.head?.map Prod.fst).getD 0
  let mine := fun (c : Nat × Nat × Byte) => c.1 == k && xs.contains c.2.1
  { p with
    clob := p.clob.filter fun c => !(mine c)
    shown := (p.clob.filter mine).map Prod.snd ++ p.shown }

/-- A store that has landed is hidden from the engine instructions and the source ports of its own bundle (R99, R186, R218): a store
is due two bundles after its own. -/
def Ctx.hideStore (c : Ctx) (p : Pending) : Ctx :=
  match p.dst with
  | .spad a bs =>
    let xs := writtenAddrs a bs
    let e := c.eng.mapOps fun o => if o.bundle + 2 == p.due then o.hide xs else o
    let hides := fun (q : Port) => q.st == .source && q.chain.toNat / 2 ^ 60 % 4 == 0 && q.bundle + 2 == p.due
    { c with eng := { e with ports := e.ports.map fun q => if hides q then q.hide xs else q } }
  | _ => c

/-- Whether a scatter that reads of bundle `n` must see has still to write: one of a bundle two or more before (R99). -/
def Ctx.scatterOwes (c : Ctx) (n : Nat) : Bool :=
  c.pipe.sb.any fun e =>
    match e.src with
    | .scatter _ m => m + 2 ≤ n
    | _ => false

/-- Scratchpad bytes at any addresses written as one store of bundle `m` (R99, R186): a port bound two or more bundles later sees it, one
of its own bundle does not, any other may. -/
def Ctx.putCells (c : Ctx) (m : Nat) (ws : List (Nat × Byte)) : Ctx :=
  let last := ws.foldl (fun acc w => acc.filter (fun x => x.1 != w.1) ++ [w]) []
  let xs := last.map Prod.fst
  let old := last.map fun w => (w.1, (c.spadBytes w.1 1).headD 0)
  let b := last.foldl (fun (b : Basin) w =>
    { ((b.touch c.spadBlock w.1 [some w.2]).heal 2 w.1 [some w.2]) with spad := b.spad.write w.1 [some w.2] }) c.basin
  let keep := fun (p : Port) =>
    if m + 2 ≤ p.bundle then p.sees xs
    else if p.bundle == m && p.loadsSpad then (p.keepOld old).hide xs
    else p.keepOld old
  { c with
    basin := b
    eng := { c.eng with ports := c.eng.ports.map keep } }

/-- The writes of a scatter of bundle `m` land as one store (R99, R153, R174): an engine instruction issued two or more bundles later
sees it, one of its own bundle does not, any other may (R218). -/
def Ctx.landScatter (ctr : Nat) (c : Ctx) (m : Nat) (ws : List (Nat × Byte)) : Ctx :=
  if c.eng.undone.isEmpty then c.putCells m ws
  else
    let xs := ws.flatMap fun w => c.overwritten ctr false w.1 [some w.2]
    let lost := fun (w : Nat × Byte) => c.eng.holdsAt false w.1 && (xs.any fun x => x.addr == w.1 && !x.stands)
    let c' := c.putCells m (ws.filter fun w => !(lost w))
    let note := fun (o : EngOp) =>
      if m + 2 ≤ o.bundle then o
      else if o.bundle == m then (o.clobber false xs).hide (xs.map SlotByte.addr)
      else o.clobber false xs
    { c' with eng := (c'.eng.mapOps note).unsettle (xs.map fun x => (false, x.addr, 1)) }

/-- A result that lands, unless it already stands. -/
def Ctx.landOne (ctr : Nat) (c : Ctx) (p : Pending) : Ctx := if p.landed then c else (c.writeDst ctr p.dst).hideStore p

/-- Every result in flight whose window closes before bundle `n` lands (R24). -/
def Ctx.landDue (ctr : Nat) (c : Ctx) (n : Nat) : Ctx :=
  let late := c.pipe.pend.filter fun p => n < p.due
  let now := c.pipe.pend.filter fun p => p.due ≤ n
  now.foldl (Ctx.landOne ctr) { c with pipe := { c.pipe with pend := late } }

/-- Every result in flight lands (R29). -/
def Ctx.landAll (ctr : Nat) (c : Ctx) : Ctx :=
  c.pipe.pend.foldl (Ctx.landOne ctr) { c with pipe := { c.pipe with pend := [] } }

/-- Whether two results write the same register, mask bit, byte of the basin (R25). -/
def PDest.overlaps (a b : PDest) : Bool :=
  match a, b with
  | .sreg n _, .sreg m _ => n == m
  | .pred n _, .pred m _ => n == m
  | .kmask n _ _, .kmask m _ _ => n == m
  | .vec x bs _, .vec y cs _ => bytesOverlap x bs y cs
  | .spad x bs, .spad y cs => bytesOverlap x bs y cs
  | _, _ => false

/-- A destination that discards its write (R30 to R32). -/
def PDest.discarded (d : PDest) : Bool :=
  match d with
  | .sreg n _ => n == 0
  | .pred n _ => n == 0
  | .kmask n _ _ => n == 0
  | .vec _ _ _ => false
  | .spad _ _ => false
  | .flags f => f == 0
  | .fault _ _ => false

/-- Whether a result is a store of the scratchpad. -/
def PDest.isSpad (d : PDest) : Bool :=
  match d with
  | .spad _ _ => true
  | _ => false

/-- Whether a result writes the byte at `x` of its space. -/
def PDest.covers (d : PDest) (x : Nat) : Bool :=
  match d with
  | .vec a bs _ => coversAt a bs x
  | .spad a bs => coversAt a bs x
  | _ => false

/-- The bits that a result writes of its lane mask. -/
def PDest.maskBits (d : PDest) : BitVec 512 :=
  match d with
  | .kmask _ _ w => w
  | _ => 0

/-- The sideband of the granule at `g` that the last of some results to write it leaves; `own` where none writes it. -/
def sideOver (stand : List PDest) (g : Nat) (own : List Byte) : List Byte :=
  stand.foldl (fun acc x =>
    match x with
    | .vec a _ side => if a ≤ g && g < a + 256 * (side.length / 16) then sliceOf side (16 * ((g - a) / 256)) 16 else acc
    | _ => acc) own

/-- What a result leaves where the results `stand`, all of its destination, stand over it (R25): bytes, mask bits and sidebands that
none of them writes; of a scalar register and of a predicate nothing. -/
def PDest.yield (d : PDest) (stand : List PDest) : PDest :=
  if stand.isEmpty then d
  else
    let keep := fun a (bs : List (Option Byte)) =>
      bs.zipIdx.map fun b => if stand.any (fun x => x.covers (a + b.2)) then none else b.1
    match d with
    | .spad a bs => .spad a (keep a bs)
    | .vec a bs side =>
      .vec a (keep a bs) ((List.range (side.length / 16)).flatMap fun i => sideOver stand (a + 256 * i) (sliceOf side (16 * i) 16))
    | .kmask n v w => .kmask n v (stand.foldl (fun w x => w &&& ~~~ x.maskBits) w)
    | .sreg _ _ => .flags 0
    | .pred _ _ => .flags 0
    | _ => d

/-- The place of a new result among the results in flight, which stand in the order in which they end up over one another (R25): before
the first one that it meets (`hit`) and that a free bit lets stand over it; else after all of them. -/
def standPlace (ctr site : Nat) (hit : Pending → Bool) (ps : List Pending) : Nat :=
  ((ps.zipIdx.find? fun p => hit p.1 && Config.free ctr (site + p.2) 1 == 1).map fun p => p.2).getD ps.length

/-- A new result takes its place among the results in flight (R25): those that it meets and stands over land now. -/
def Ctx.settleUnder (ctr : Nat) (c : Ctx) (hit : Pending → Bool) (n : Nat) : Ctx :=
  let c' := (c.pipe.pend.take n).foldl (fun acc p => if hit p then acc.landOne ctr p else acc) c
  { c' with pipe := { c'.pipe with
      pend := ((c.pipe.pend.take n).map fun p => { p with landed := p.landed || hit p }) ++ c.pipe.pend.drop n } }

/-- LAND(dest, value, L) (R24, R25): of the results for the same bytes whose windows are still open, each stands under the new one and
lands now, or stands over it, in one order that free bits choose. -/
def Ctx.land (ctr site : Nat) (c : Ctx) (d : PDest) (lat : Nat) : Ctx :=
  if d.discarded then c
  else
    let hit := fun p : Pending => p.dst.overlaps d
    let n := standPlace ctr site hit c.pipe.pend
    let stand := ((c.pipe.pend.drop n).filter hit).map Pending.dst
    let c' := c.settleUnder ctr hit n
    let now := !stand.isEmpty && !d.isSpad
    let c'' := if now then c'.writeDst ctr (d.yield stand) else c'
    let e : Pending := ⟨if d.isSpad then d.yield stand else d, c.pipe.bundleNo + lat, now⟩
    { c'' with pipe := { c''.pipe with pend := c''.pipe.pend.take n ++ e :: c''.pipe.pend.drop n } }

/-! ### Reads of the bundle's operands (R22, R24) -/

/-- sN as an operand: a read inside the landing window of a result for it gives free bits (R24). -/
def readS (s : State) (site : Nat) (n : BitVec 6) : W64 :=
  if n == 0 then 0
  else if s.ctx.pipe.pend.any fun p => (PDest.sreg n 0).overlaps p.dst then Config.free s.freeCtr site 64
  else s.ctx.regs.getS n

/-- kN as an operand (R24, R160). -/
def readK (s : State) (site : Nat) (n : BitVec 3) : BitVec 512 :=
  if n == 0 then BitVec.allOnes 512
  else if s.ctx.pipe.pend.any fun p => (PDest.kmask n 0 0).overlaps p.dst then Config.free s.freeCtr site 512
  else s.ctx.regs.getK n

/-- pN as an operand; compares land within one bundle, so no window is ever open (R87). -/
def readP (s : State) (n : BitVec 3) : Bool := s.ctx.regs.getP n

/-- Whether a result in flight for the register space covers an address. -/
def vecOpenAt (pend : List Pending) (x : Nat) : Bool :=
  pend.any fun p =>
    match p.dst with
    | .vec addr bytes _ => coversAt addr bytes x
    | _ => false

/-- Bytes of the register space as a V slot reads them: bytes of a result in flight, and bytes that an engine
instruction not yet done writes (`busy`), are free (R24, R153). -/
def readVec (s : State) (busy : Nat → Bool) (site a n : Nat) : List Byte :=
  let open' := s.ctx.pipe.pend.filter fun p =>
    match p.dst with
    | .vec addr bytes _ => meets addr bytes.length a n
    | _ => false
  (s.ctx.regBytes a n).zipIdx.map fun p =>
    if vecOpenAt open' (a + p.2) || busy (a + p.2) then Config.free s.freeCtr (site + p.2) 8 else p.1

/-- The sideband of the granule at `a` as a slot reads it: a result in flight for the granule, and an engine instruction not
yet done that writes it (`busy`), leave it free (R24, R153). -/
def readSide (s : State) (busy : Nat → Bool) (site a : Nat) : List Byte :=
  let opened := s.ctx.pipe.pend.any fun p =>
    match p.dst with
    | .vec addr bytes _ => meets addr bytes.length a 256
    | _ => false
  if opened || (List.range 256).any (fun i => busy (a + i)) then
    (List.range 16).map fun i => Config.free s.freeCtr (site + i) 8
  else s.ctx.basin.sideAt a

/-- Bytes of the scratchpad as a load of this bundle sees them (R99): a store of the bundle before stands wholly or not
at all, by one free bit for each store, from site `pick` on; bytes that an engine instruction not yet done writes are free. -/
def readSpadWith (s : State) (busy : Nat → Bool) (pick site a n : Nat) : List Byte :=
  let base := s.ctx.spadBytes a n
  let seen := s.ctx.pipe.pend.zipIdx.foldl (fun acc p =>
    match p.1.dst with
    | .spad addr bytes =>
      if !p.1.landed && meets addr bytes.length a n && Config.free s.freeCtr (pick + p.2) 1 == 1 then
        acc.zipIdx.map fun q =>
          if coversAt addr bytes (a + q.2) then (bytes.getD (a + q.2 - addr) none).getD q.1 else q.1
      else acc
    | _ => acc) base
  seen.zipIdx.map fun p => if busy (a + p.2) then Config.free s.freeCtr (site + p.2) 8 else p.1

/-- Bytes of the scratchpad as a load of consecutive bytes sees them (R99). -/
def readSpad (s : State) (busy : Nat → Bool) (site a n : Nat) : List Byte := readSpadWith s busy (site + 1000) site a n

/-- FFLAGS as MFC reads it: flags of a window still open may or may not be visible (R45). -/
def readFlags (s : State) (site : Nat) : W64 :=
  s.ctx.pipe.pend.zipIdx.foldl (fun acc p =>
    match p.1.dst with
    | .flags f => acc ||| ((0 : BitVec 59) ++ (f &&& Config.free s.freeCtr (site + p.2) 5))
    | _ => acc) s.ctx.ctl.fflags

/-- FFLAGS as MTC leaves it: each flag of a window still open may still be raised, or may have been raised before the
write (R45). DESIGN CHOICE (log entry 6): the flags of a V slot of the MTC's own bundle, which may be set after it, always are. -/
def Ctx.writeFlags (ctr site : Nat) (c : Ctx) (v : W64) : Ctx :=
  let pend' := c.pipe.pend.zipIdx.map fun p =>
    match p.1.dst with
    | .flags f => { p.1 with dst := .flags (f &&& Config.free ctr (site + p.2) 5) }
    | _ => p.1
  { (c.setCreg 0x0C v) with pipe := { c.pipe with pend := pend' } }

/-! ### Time and free values -/

/-- A later reading of global time: readings never decrease, and a counter of 64 bits of nanoseconds does not pass its last value
(R309; log entry 8). -/
def laterTime (t : W64) (ns : Nat) : W64 := BitVec.ofNat 64 (min (t.toNat + ns) (2 ^ 64 - 1))

/-- The count of free values advances, and global time with it (log entries 4 and 8). -/
def State.tick (s : State) : State :=
  { s with
    freeCtr := s.freeCtr + 1
    fab := { s.fab with time := laterTime s.fab.time (Config.freeNat s.freeCtr 1) } }

/-- The cycles that a bundle takes (R43 CYCLE; log entry 8). -/
def State.spend (s : State) : State :=
  { s with ctx := { s.ctx with ctl := { s.ctx.ctl with
      cycle := s.ctx.ctl.cycle + 1 + BitVec.ofNat 64 (Config.freeNat s.freeCtr 0) } } }

/-! ### Abort and kill (R111, R119) -/

/-- An off-core access that no outstanding FENCE holds: no fence before it in program order is queued or started
(R263). -/
def Engines.fences (e : Engines) : List EngOp :=
  (e.qm ++ e.q0 ++ e.q1 ++ e.started).filter fun o =>
    match o.instr with
    | .fence _ _ _ => true
    | _ => false

/-- Whether an instruction of the given place in program order is still queued. -/
def Engines.queued (e : Engines) (id : Nat) : Bool := (e.qm ++ e.q0 ++ e.q1).any fun o => o.id == id

/-- Whether an access of the given place in program order is held behind a FENCE (R263). -/
def Engines.heldAt (e : Engines) (id : Nat) : Bool := e.fences.any fun o => o.id < id

/-- What a kill discards at once (R119): instructions that have not started, with the accesses of atomics among them; off-core accesses
held in the access queue behind a FENCE; and what streams would still store, as started instructions stop issuing writes. -/
def Ctx.discardUnstarted (c : Ctx) : Ctx :=
  let stops := fun (o : EngOp) =>
    match o.instr with
    | .strm _ _ _ _ => true
    | .strmCl _ _ => true
    | _ => false
  { c with eng := { c.eng with
      qm := []
      q0 := []
      q1 := []
      started := c.eng.started.filter fun o => !(stops o)
      ports := Vector.replicate 4 Port.start
      accs := c.eng.accs.filter fun a => !(c.eng.heldAt a.id || c.eng.queued a.id) } }

/-- The task stops and is killed with a reason and the two groups of its fault record (R111, R119). -/
def beginKill (s : State) (reason : Nat) (g2 g1 : W64 × W64 × W64) : State :=
  { s with
    ctx := (s.ctx.landAll s.freeCtr).discardUnstarted
    mode := .killing reason g2.1 g2.2.1 g2.2.2 g1.1 g1.2.1 g1.2.2 }

/-! ### Trap entry and return (R108 to R111, R96) -/

/-- The registers that trap entry writes (R108), and the copy that the core keeps (R111). -/
def Ctx.trapRegs (c : Ctx) (cause tval tpc tnpc : W64) : Ctx :=
  let ls0 : W64 := if c.loopActive false then 2 else 0
  let ls1 : W64 := if c.loopActive true then 4 else 0
  { c with
    tr := { c.tr with
      tpc := tpc
      tnpc := tnpc
      tcause := cause
      tval := tval
      tstat := c.tr.tstat ||| ls0 ||| ls1 ||| 1
      copyCause := cause
      copyPc := tpc
      copyVal := tval }
    regs := { c.regs with pc := c.tr.tvec } }

/-- PROTECTION (Table 6-1). -/
def causeProtection : W64 := 0x0B

/-- Trap entry (R108): exposed results land, the trap registers are written and control goes to TVEC. Inside a handler,
or with TVEC at or beyond the end of the code, the task aborts (R111). -/
def enterTrap (s : State) (cause tval tpc tnpc : W64) : State :=
  let c := s.ctx.landAll s.freeCtr
  if c.inTrap then
    beginKill { s with ctx := c } 1 (cause, tpc, tval) (c.tr.copyCause, c.tr.copyPc, c.tr.copyVal)
  else
    let c' := c.trapRegs cause tval tpc tnpc
    if c.codeLen ≤ c.tr.tvec.toNat then
      beginKill { s with ctx := c' } 1 (causeProtection, c.tr.tvec, c.tr.tvec) (cause, tpc, tval)
    else { s with ctx := c' }

/-- What RTE clears in TSTAT: LS0, LS1 and INTRAP (R96). -/
def Ctx.returnStatus (c : Ctx) : Ctx := { c with tr := { c.tr with tstat := c.tr.tstat &&& ~~~ 7 } }

/-! ### Loops (R90, R93) -/

/-- LCNTn cleared (R90). -/
def Ctx.deactivate (c : Ctx) (n : Bool) : Ctx :=
  if n then { c with tr := { c.tr with lcnt1 := 0 } } else { c with tr := { c.tr with lcnt0 := 0 } }

/-- Whether an address lies in the range of loop set n, inclusive (R90). -/
def TrapRegs.inRange (t : TrapRegs) (n : Bool) (a : W64) : Bool :=
  if n then t.lbeg1.toNat ≤ a.toNat && a.toNat ≤ t.lend1.toNat
  else t.lbeg0.toNat ≤ a.toNat && a.toNat ≤ t.lend0.toNat

/-- A taken BR, JR or zero-count LOOP to `next` deactivates the loops active at the bundle's start (`was`) whose range
does not contain it (R90). -/
def Ctx.leaveLoops (c : Ctx) (was : Bool → Bool) (next : W64) : Ctx :=
  let c := if was false && !(c.tr.inRange false next) then c.deactivate false else c
  if was true && !(c.tr.inRange true next) then c.deactivate true else c

/-- The loop-end action of the bundle at `ba` whose successor is `nb` (R93); `wrote n` says that the bundle writes a
register of set n. -/
def Ctx.loopEnd (c : Ctx) (was wrote : Bool → Bool) (ba nb : W64) : Ctx :=
  let end0 := was false && c.tr.lend0 == ba && !(wrote false)
  let end1 := was true && c.tr.lend1 == ba && !(wrote true)
  let go := fun (c : Ctx) (pc : W64) => { c with regs := { c.regs with pc := pc } }
  let second := fun (c : Ctx) =>
    if end1 then
      if 1 < c.tr.lcnt1.toNat then go { c with tr := { c.tr with lcnt1 := c.tr.lcnt1 - 1 } } c.tr.lbeg1
      else go { c with tr := { c.tr with lcnt1 := 0 } } nb
    else go c nb
  if end0 then
    if 1 < c.tr.lcnt0.toNat then go { c with tr := { c.tr with lcnt0 := c.tr.lcnt0 - 1 } } c.tr.lbeg0
    else second { c with tr := { c.tr with lcnt0 := 0 } }
  else second c

end Sys2Proof.Machine
end

