-- ==== Sys2Proof/Machine/Memory.lean ====
section
/-! DEFINITION. Translation and the homes of memory: page walks, the TLB, the local physical map, the remote read cache,
merge regions and write logs (R238, R245 to R257, R356, R357, R372). -/

namespace Sys2Proof.Machine

open Sys2Proof

/-! ### Home keys -/

/-- The bit that marks the key of another package's byte. -/
def remoteBit : Nat := 2 ^ 63

/-- The key of a byte at a package and local physical address: its local physical address for this package, else a
number above all of them (R251). -/
def homeKey (pkg : BitVec 19) (lpa : Nat) : Nat :=
  if pkg == Config.packageId then lpa else remoteBit + pkg.toNat * 2 ^ 44 + lpa

/-- Whether a key lies in another package. -/
def isRemote (key : Nat) : Bool := remoteBit ≤ key

/-- The package of a key of another package's byte. -/
def keyPackage (key : Nat) : BitVec 19 := BitVec.ofNat 19 ((key - remoteBit) / 2 ^ 44)

/-- Whether the fabric knows a package (R232, R255). -/
def packageKnown (pkg : BitVec 19) : Bool := pkg == Config.packageId || Config.knownPackage pkg

/-! ### The local physical map (Table 16-3) -/

/-- HBM4E bytes. -/
def hbmEnd : Nat := 0xB2D05E0000

/-- Whether a run of local physical addresses lies in HBM. -/
def inHbm (lo n : Nat) : Bool := lo + n ≤ hbmEnd

/-- Whether a run lies in the CXL tier of a package with `cxl` populated bytes. -/
def inCxl (cxl lo n : Nat) : Bool := 0x10000000000 ≤ lo && lo + n ≤ 0x10000000000 + cxl && lo + n ≤ 0xD0000000000

/-- Whether a run lies in the keystone window. -/
def inKeystone (lo n : Nat) : Bool := 0xF0000000000 ≤ lo && lo + n ≤ 0x100000000000

/-! ### Page tables (Tables 16-5 and 16-6) -/

/-- Fields of a page-table entry. -/
def pteV (e : W64) : Bool := e.getLsbD 0
/-- LEAF. -/
def pteLeaf (e : W64) : Bool := e.getLsbD 1
/-- W. -/
def pteW (e : W64) : Bool := e.getLsbD 2
/-- X. -/
def pteX (e : W64) : Bool := e.getLsbD 3
/-- C. -/
def pteC (e : W64) : Bool := e.getLsbD 4
/-- SYS. -/
def pteSys (e : W64) : Nat := e.toNat / 32 % 4
/-- RWIN. -/
def pteRwin (e : W64) : Bool := e.getLsbD 7
/-- FRAME as an address. -/
def pteFrame (e : W64) : Nat := e.toNat / 65536 % 2 ^ 28 * 65536
/-- PKG. -/
def ptePkg (e : W64) : BitVec 19 := e.extractLsb' 44 19

/-- The index of a virtual address at a level (Table 16-5). -/
def walkIndex (level va : Nat) : Nat :=
  match level with
  | 0 => va / 2 ^ 43 % 2 ^ 14
  | 1 => va / 2 ^ 30 % 2 ^ 13
  | 2 => va / 2 ^ 21 % 2 ^ 9
  | _ => va / 2 ^ 16 % 2 ^ 5

/-- Bits of the page that a leaf at a level maps (Table 16-5). -/
def leafBits (level : Nat) : Nat :=
  match level with
  | 1 => 30
  | 2 => 21
  | _ => 16

/-- The CXL bytes of this package: none unless the feature is accepted (R247, R366). -/
def State.cxlBytes (s : State) : Nat := if s.mgmt.accepted 2 then Config.cxlBytes else 0

/-- Whether a leaf at a level is well formed (R255): no reserved bit, an aligned FRAME, SYS below 3, PKG zero unless
SYS = 1, a mapped range, and a known package that is not lost. A local page reaches HBM and the `cxl` bytes of this package, and a
system page the keystone window as well. -/
def leafOk (lost : List (BitVec 20)) (cxl : Nat) (level : Nat) (e : W64) : Bool :=
  let frame := pteFrame e
  let size := 2 ^ leafBits level
  let plain := !e.getLsbD 63 && (e.extractLsb' 8 8 == 0) && frame % size == 0 && pteSys e != 3
  let pkgOk := pteSys e == 1 || ptePkg e == 0
  let own := pteSys e != 1 || ptePkg e == Config.packageId
  let reach := if own then cxl else 0xC0000000000
  let mapped := inHbm frame size || inCxl reach frame size || (pteSys e == 2 && inKeystone frame size)
  let known := pteSys e != 1 || (packageKnown (ptePkg e) && !(lost.contains ((0 : BitVec 1) ++ ptePkg e)))
  plain && pkgOk && mapped && known

/-- Whether a non-leaf entry uses only V and FRAME (R254). -/
def tableOk (e : W64) : Bool := !e.getLsbD 63 && (e.extractLsb' 8 8 == 0) && (e.extractLsb' 2 6 == 0) && ptePkg e == 0

/-- How a walk ends (R255), before the permission check; it waits while a table lies in memory that does not answer (R249). -/
inductive WalkRes where
  | leaf (base bits : Nat) (e : W64)
  | miss
  | unresolvable
  | waits
  deriving DecidableEq, Repr

/-- Bytes at their home, unwritten ones free (log entry 2). -/
def MemSys.homeBytes (m : MemSys) (key n : Nat) : List Byte := m.gmem.bytes 3 key n

/-- The ashlar dies that may serve a local HBM address (R248): die d serves halves 3d to 3d + 2. With one partition the
unit lies in stack u mod 12, in one of its halves; else in the half that the interleaving of the owner's halves names. -/
def servingDies (parts pa : Nat) : List Nat :=
  let m := 8 / parts
  let r := hbmEnd / parts
  let part := pa / r
  if parts == 1 then
    let stack := pa / 4096 % 12
    [2 * stack / 3, (2 * stack + 1) / 3]
  else [(3 * m * part + (pa - part * r) / 4096 % (3 * m)) / 3]

/-- Whether an access to a key waits: its HBM half is served by a die held in reset (R249). -/
def State.homeWaits (s : State) (key : Nat) : Bool :=
  !(isRemote key) && inHbm key 1 && (servingDies s.mgmt.parts key).any fun d => s.mem.heldReset.getLsbD d

/-- The walk from a table at a level, `fuel` levels at most (R254, R255). DESIGN CHOICE (log entry 111): a table outside local HBM is read
as the memory there. -/
def walkGo (s : State) (va : Nat) : (fuel level table : Nat) → WalkRes
  | 0, _, _ => .unresolvable
  | fuel + 1, level, table =>
    let at' := table + 8 * walkIndex level va
    if s.homeWaits at' then .waits
    else
      let e := BitVec.ofNat 64 (ofLe (s.mem.homeBytes at' 8))
      if !pteV e then .miss
      else if pteLeaf e then
        if level == 0 || !(leafOk s.fab.lost s.cxlBytes level e) then .unresolvable
        else .leaf (va / 2 ^ leafBits level * 2 ^ leafBits level) (leafBits level) e
      else if level == 3 || !(tableOk e) then .unresolvable
      else walkGo s va fuel (level + 1) (pteFrame e)

/-- The current generation of an address space (R253, R256). -/
def MemSys.gen (m : MemSys) (asid : BitVec 16) : BitVec 20 := (lookupKey asid m.asGen).getD 0

/-- A page walk of a virtual address (R254). -/
def State.walk (s : State) (asid : BitVec 16) (va : Nat) : WalkRes := walkGo s va 4 0 (Config.pageRoot asid * 0x20000)

/-- The TLB entry that a lookup hits, in the first level, then in the second: the ASID, its current generation, and the page
(R253). -/
def MemSys.hit (m : MemSys) (asid : BitVec 16) (va : Nat) : Option TlbEntry :=
  (m.tlb1 ++ m.tlb).find? fun t => t.asid == asid && t.gen == m.gen asid && t.base ≤ va && va < t.base + 2 ^ t.bits

/-- The outcome of a translation (R255): the home key and the leaf; a miss on a 64 KiB page; a fault that paging cannot
resolve; a permission failure; a walk that waits for a die held in reset (R249). -/
inductive Trans where
  | ok (key : Nat) (leaf : W64)
  | miss (page : Nat)
  | unresolvable
  | protection
  | waits
  deriving DecidableEq, Repr

/-- The key of a virtual address in the page of a leaf (R251). -/
def leafKey (base : Nat) (e : W64) (va : Nat) : Nat :=
  if pteSys e == 1 then homeKey (ptePkg e) (pteFrame e + (va - base)) else pteFrame e + (va - base)

/-- Whether a leaf forbids an access of a task (R101, R255, R372). -/
def leafForbids (e : W64) (mode : AccMode) : Bool :=
  pteSys e == 2 ||
  (match mode with
   | .read => false
   | .write => !pteW e
   | .fetch => !pteX e)

/-- Translation of a virtual address in an address space (R253 to R255). -/
def translateIn (s : State) (asid : BitVec 16) (va : Nat) (mode : AccMode) : Trans :=
  let done := fun (base : Nat) (e : W64) =>
    if leafForbids e mode then .protection else .ok (leafKey base e va) e
  match s.mem.hit asid va with
  | some t => done t.base t.leaf
  | none =>
    match s.walk asid va with
    | .leaf base _ e => done base e
    | .miss => if s.mem.refused.contains (asid, va / 65536) then .unresolvable else .miss (va / 65536)
    | .unresolvable => .unresolvable
    | .waits => .waits

/-- Translation in the task's address space. -/
def translate (s : State) (va : Nat) (mode : AccMode) : Trans := translateIn s s.ctx.asid va mode

/-- Refusals of the host that have made their faults unresolvable: one for each page listed, of an address space (R255). -/
def MemSys.spendRefusals (m : MemSys) (asid : BitVec 16) (pages : List Nat) : MemSys :=
  { m with refused := pages.foldl (fun r p => r.erase (asid, p)) m.refused }

/-- Bits 63:57 of a virtual address must be zero (R101). -/
def vaOk (a : W64) : Bool := a.toNat < 2 ^ 57

/-! ### Merge regions (R356, R357) -/

/-- CODE of a launch header (Table 22-1). -/
def codeBase (hdr : BitVec 2048) : Nat := (hdr.extractLsb' 128 57).toNat

/-- The merge regions of a launch header: base and length (Table 22-1). -/
def mergeRegions (hdr : BitVec 2048) : List (Nat × Nat) :=
  ((List.range 8).map fun i =>
    ((hdr.extractLsb' (1024 + 128 * i) 64).toNat, (hdr.extractLsb' (1088 + 128 * i) 64).toNat)).filter fun r => r.2 != 0

/-- Whether a virtual address lies in a merge region of a deterministic launch. -/
def inMerge (hdr : BitVec 2048) (va : Nat) : Bool :=
  hdr.getLsbD 59 && (mergeRegions hdr).any fun r => r.1 ≤ va && va < r.1 + r.2

/-- A byte of a merge region as the task reads it: its own log, else the snapshot (R357). -/
def Ctx.mergeByte (c : Ctx) (va : Nat) : Byte :=
  match c.log.get va with
  | some b => b
  | none =>
    match c.snap.get va with
    | some b => b
    | none => Config.unwritten 3 va

/-! ### Reads and writes at home -/

/-- The value that a byte had after step `time`, of values overwritten since, newest first, each with the step of its write. -/
def pastOf (old : List (Nat × Nat × Byte)) (time key : Nat) : Option Byte :=
  ((old.filter fun c => time < c.1 && c.2.1 == key).getLast?).map fun c => c.2.2

/-- The overwritten values that a line of the remote read cache may still serve (R252): a line is dropped 50 µs after its fill. -/
def State.rrcSeen (s : State) : List (Nat × Nat × Byte) :=
  (s.mem.rrc.filter fun b => (s.fab.time - b.time).toNat ≤ 50000).map fun b => (b.step, b.key, b.byte)

/-- Whether a package is lost to the fabric: reported lost, or unknown to it from the start (R307). -/
def State.pkgLost (s : State) (pkg : BitVec 19) : Bool := !(packageKnown pkg) || s.fab.lost.contains ((0 : BitVec 1) ++ pkg)

/-- The remote read cache without a line: one filled later holds what its home holds then (R252). -/
def MemSys.dropRrc (m : MemSys) (line : Nat) : MemSys := { m with rrc := m.rrc.filter fun b => b.key / 128 != line }

/-- A line filled at step `time` has been read: no older one serves a later read (R252, R261). -/
def MemSys.readRrc (m : MemSys) (line time : Nat) : MemSys :=
  { m with rrc := m.rrc.filter fun b => b.key / 128 != line || time < b.step }

/-- The die caches without the lines of a run (R246). -/
def MemSys.dropDie (m : MemSys) (key n : Nat) : MemSys :=
  { m with dieLines := m.dieLines.filter fun l => !(meets (l.2 * 128) 128 key n) }

/-- What a write does to the remote read cache (R252): before one that this package sends (`sent`), the lines are dropped; one of another
agent, which overwrites the bytes `old` at step `step`, does not reach it. -/
def MemSys.overRrc (m : MemSys) (sent : Bool) (step : Nat) (time : W64) (old : List (Nat × Byte)) : MemSys :=
  let away := old.filter fun b => isRemote b.1
  if sent then { m with rrc := m.rrc.filter fun x => !(away.any fun b => b.1 / 128 == x.key / 128) }
  else { m with rrc := (away.map fun b => ⟨step, time, b.1, b.2⟩) ++ m.rrc }

/-- A write that performs at its home: die caches drop the line first (R246). Written bytes are no longer poisoned. -/
def MemSys.writeHome (m : MemSys) (key : Nat) (data : List Byte) : MemSys :=
  let m := m.dropDie key data.length
  { m with
    gmem := m.gmem.writeAll key data
    poison := m.poison.filter fun a => !(meets a 1 key data.length) }

/-- A cache of at most `cap` lines with one line more: one that is evicted is any of them (R245). -/
def evictFor {α : Type} (ctr site cap : Nat) (lines : List α) : List α :=
  if lines.length < cap then lines else removeAt (Config.freeNat ctr site % lines.length) lines

/-- The die cache of this core's die, 128 MiB of 128-byte lines, with a line (R6, R245). -/
def State.fillDie (s : State) (line : Nat) : State :=
  let d := Config.die.toNat
  let mine := s.mem.dieLines.filter fun l => l.1 == d && l.2 != line
  let kept := evictFor s.freeCtr (2 ^ 54 + 1) 1048576 mine
  { s with mem := { s.mem with dieLines := (d, line) :: (kept ++ s.mem.dieLines.filter fun l => l.1 != d) } }

/-- The step of the fill of the line that serves a read of another package's memory, in classes 0 to 11 from a cacheable page (R252): a
line of the remote read cache, or what is read at the home now. -/
def State.lineTime (s : State) (site key cls : Nat) (cacheable : Bool) : Option Nat :=
  if isRemote key && cls < 12 && cacheable then some (Config.freeNat s.freeCtr site) else none

/-- A read of at most one line, as a core's access of a class sees it: a line of the remote read cache may serve it, and none older serves
a later read (R252, R261); a local cacheable read fills a die cache (R245). -/
def State.readClassed (s : State) (site key n : Nat) (cls : Nat) (cacheable : Bool) : List Byte × State :=
  let now := s.mem.homeBytes key n
  match s.lineTime site key cls cacheable with
  | some t => (now.zipIdx.map fun b => (pastOf s.rrcSeen t (key + b.2)).getD b.1, { s with mem := s.mem.readRrc (key / 128) t })
  | none => (now, if !(isRemote key) && cacheable then s.fillDie (key / 128) else s)

/-- Whether some byte of a run is uncorrectable (R250, R370). -/
def MemSys.poisoned (m : MemSys) (key n : Nat) : Bool := m.poison.any fun a => meets a 1 key n

end Sys2Proof.Machine
end

