-- ==== Sys2Proof/Machine/Slot.lean ====
section
/-! DEFINITION. What a slot of a bundle does, as data between operand read and issue: where it stands, how it may stop,
what it writes, and its effect (R19, R22, R23, R107). None of it stands in `State`. -/

namespace Sys2Proof.Machine

open Sys2Proof

/-- Where a slot stands: the address and length of its bundle, the index of its word, its place among the slots of its
class, and the ports that earlier slots of the bundle pop, in pop order (R19, R49). -/
structure At where
  ba : W64
  len : Nat
  idx : Nat
  nth : Nat
  popped : List Nat
  deriving DecidableEq, Repr

/-- The address of the bundle after this one (NB). -/
def At.nb (p : At) : W64 := p.ba + BitVec.ofNat 64 p.len

/-- The site of the free values of a field of this slot (log entry 4). -/
def At.site (p : At) (field : Nat) : Nat := (p.idx * 32 + field) * 2 ^ 20

/-- How a slot stops its bundle: a precise trap; a page that the host must map; a fault that paging cannot resolve,
which also sends a fault record (R101, R106, R112, R255); a walk that waits, so that the bundle is left unissued (R249). -/
inductive Stop where
  | trap (cause tval : W64)
  | page (page : Nat)
  | unresolvable (tval : W64)
  | hold
  deriving DecidableEq, Repr

/-- A writer of the collision check (R23, R49, R53, R160, R332). -/
inductive Writer where
  | dst (d : PDest)
  | push (q : Nat)
  | tok (n : BitVec 4)
  | view (n : BitVec 2)
  deriving DecidableEq, Repr

/-- The kind of a writer in TVAL of WRITE_COLLISION (Table 6-1). DESIGN CHOICE (log entry 104): a lane mask and a view register, which the
table does not list, have the kind of a scalar register, 0. -/
def Writer.kind (w : Writer) : Nat :=
  match w with
  | .tok _ => 3
  | .push _ => 1
  | .view _ => 0
  | .dst d =>
    match d with
    | .sreg _ _ => 0
    | .pred _ _ => 0
    | .kmask _ _ _ => 0
    | .vec _ _ _ => 1
    | .spad _ _ => 2
    | .flags _ => 0
    | .fault _ _ => 0

/-- Whether two writers of different slots collide (R23); writes to s0, p0 and k0 take no part. -/
def Writer.collides (a b : Writer) : Bool :=
  match a, b with
  | .dst d, .dst e => !d.discarded && !e.discarded && d.overlaps e
  | .push q, .push r => q == r
  | .tok m, .tok n => m == n
  | .view m, .view n => m == n
  | _, _ => false

/-- A slot read at its bundle's start: whether it stalls the bundle (R17, R27, R105, R175, R183, R185, R263), the first
trap or pause it raises, the writes that take part in the collision check, its effect, a taken control transfer with
whether it leaves loops (R90), the loop sets whose registers it writes (R93), whether it is TEND (R94), the engine queue
it enters (R17), whether it is an off-core access of the access queue (R263), and the ports it
pops, in order (R183). -/
structure SlotSem where
  stall : Bool
  stop : Option Stop
  writers : List Writer
  apply : State → State
  transfer : Option W64
  leaves : Bool
  wrote0 : Bool
  wrote1 : Bool
  ends : Bool
  enq : Option Nat
  offcore : Bool
  pops : List Nat

/-- A slot that does nothing: a false guard (R18, R80). -/
def SlotSem.nop : SlotSem := ⟨false, none, [], id, none, false, false, false, false, none, false, []⟩

/-- A slot that only has an effect. -/
def SlotSem.effect (writers : List Writer) (apply : State → State) : SlotSem :=
  { SlotSem.nop with writers := writers, apply := apply }

/-- A slot that stops its bundle. -/
def SlotSem.stopped (st : Stop) : SlotSem := { SlotSem.nop with stop := some st }

/-- A slot that stalls its bundle. -/
def SlotSem.stalled : SlotSem := { SlotSem.nop with stall := true }

/-- A trap with a numeric cause and TVAL. -/
def trapOf (cause tval : Nat) : Stop := .trap (BitVec.ofNat 64 cause) (BitVec.ofNat 64 tval)

/-- The first stop of a list of checks in order. -/
def firstStop (xs : List (Option Stop)) : Option Stop := xs.findSome? id

end Sys2Proof.Machine
end

