-- ==== Sys2Proof/Machine/Template.lean ====
section
/-! DEFINITION. Copy templates and copy addresses (Tables 18-2 to 18-4, R275 to R277). -/

namespace Sys2Proof.Machine

open Sys2Proof

/-- ESIZE of a template (Table 18-3). -/
def tmEsize (t : BitVec 1024) : Nat := (t.extractLsb' 0 16).toNat
/-- NDIM. -/
def tmNdim (t : BitVec 1024) : Nat := (t.extractLsb' 16 3).toNat
/-- TAG. -/
def tmTag (t : BitVec 1024) : BitVec 4 := t.extractLsb' 20 4
/-- SOFF. -/
def tmSoff (t : BitVec 1024) : W64 := t.extractLsb' 64 64
/-- DOFF. -/
def tmDoff (t : BitVec 1024) : W64 := t.extractLsb' 128 64
/-- REC. -/
def tmRec (t : BitVec 1024) : W64 := t.extractLsb' 192 64
/-- COUNT of dimension d (Table 18-4). -/
def tmCount (t : BitVec 1024) (d : Nat) : Nat := (t.extractLsb' (256 + 128 * d) 32).toNat
/-- SSTRIDE of dimension d, modulo 2^64. -/
def tmSstride (t : BitVec 1024) (d : Nat) : W64 := (t.extractLsb' (288 + 128 * d) 48).signExtend 64
/-- DSTRIDE of dimension d, modulo 2^64. -/
def tmDstride (t : BitVec 1024) (d : Nat) : W64 := (t.extractLsb' (336 + 128 * d) 48).signExtend 64

/-- The dimensions in use. -/
def tmDims (t : BitVec 1024) : List Nat := List.range (tmNdim t)

/-- A template that R277 calls malformed. -/
def tmBad (t : BitVec 1024) : Bool :=
  tmEsize t == 0 || tmNdim t == 0 || tmNdim t == 7 || (tmDims t).any (fun d => tmCount t d == 0) ||
    t.extractLsb' 24 40 != 0 || t.getLsbD 19 || tmTag t == 15

/-- E, the number of elements (R277). -/
def tmElems (t : BitVec 1024) : Nat := (tmDims t).foldl (fun acc d => acc * tmCount t d) 1

/-- Σ i_d · stride_d of element n over the dimensions `ds`, dimension 0 fastest (R277). -/
def tmWalk (t : BitVec 1024) (stride : Nat → W64) : (ds : List Nat) → (n : Nat) → W64
  | [], _ => 0
  | d :: ds, n => BitVec.ofNat 64 (n % tmCount t d) * stride d + tmWalk t stride ds (n / tmCount t d)

/-- src(n) from a base (R277). -/
def tmSrc (t : BitVec 1024) (base : W64) (n : Nat) : W64 := base + tmSoff t + tmWalk t (tmSstride t) (tmDims t) n

/-- dst(n) from a base (R277). -/
def tmDst (t : BitVec 1024) (base : W64) (n : Nat) : W64 := base + tmDoff t + tmWalk t (tmDstride t) (tmDims t) n

/-- SPACE of a copy address (Table 18-2). -/
def caSpace (a : W64) : Nat := a.toNat / 2 ^ 61

/-- Whether the reserved bits of a copy address are zero and its SPACE is valid (R275). -/
def caOk (a : W64) : Bool :=
  match caSpace a with
  | 0 => a.extractLsb' 57 4 == 0
  | 1 => a.extractLsb' 28 33 == 0
  | 2 => a.extractLsb' 28 33 == 0
  | 3 => a.extractLsb' 28 33 == 0
  | 4 => a.extractLsb' 22 10 == 0
  | 5 => a.extractLsb' 8 53 == 0
  | _ => false

/-- The address within its space of a copy address. -/
def caAddr (a : W64) : W64 :=
  match caSpace a with
  | 0 => a &&& 0x01FFFFFFFFFFFFFF
  | 4 => a &&& 0x3FFFFF
  | 5 => 0
  | _ => a &&& 0x0FFFFFFF

/-- PKG of a remote basin address. -/
def caPkg (a : W64) : BitVec 19 := a.extractLsb' 42 19
/-- LCORE of a remote basin address. -/
def caLcore (a : W64) : BitVec 9 := a.extractLsb' 33 9
/-- The register-space bit of a remote basin address. -/
def caReg (a : W64) : Bool := a.getLsbD 32

/-! ### The header of a collective (Table 20-3) -/

/-- NMEM. -/
def chNmem (h : BitVec 512) : Nat := h.toNat % 512
/-- OPR. -/
def chOpr (h : BitVec 512) : Nat := h.toNat / 2 ^ 12 % 8
/-- COMP. -/
def chComp (h : BitVec 512) : Nat := h.toNat / 2 ^ 18 % 4
/-- FUSE. -/
def chFuse (h : BitVec 512) : Bool := h.getLsbD 32
/-- CHUNK. -/
def chChunk (h : BitVec 512) : Nat := h.toNat / 2 ^ 48 % 2 ^ 16
/-- ELEMS. -/
def chElems (h : BitVec 512) : Nat := h.toNat / 2 ^ 64 % 2 ^ 40
/-- BADLIST. -/
def chBadlist (h : BitVec 512) : Nat := h.toNat / 2 ^ 128 % 2 ^ 64
/-- BADCAP. -/
def chBadcap (h : BitVec 512) : Nat := h.toNat / 2 ^ 192 % 2 ^ 64
/-- SEED. -/
def chSeed (h : BitVec 512) : W64 := h.extractLsb' 256 64
/-- TENSOR. -/
def chTensor (h : BitVec 512) : W64 := h.extractLsb' 320 64
/-- REC. -/
def chRec (h : BitVec 512) : W64 := h.extractLsb' 384 64
/-- CBASE. -/
def chCbase (h : BitVec 512) : Nat := h.toNat / 2 ^ 448
/-- Whether the collective gathers (R313). -/
def chGather (h : BitVec 512) : Bool := chOpr h == 4 || chOpr h == 5
/-- Bytes of an element (R318). -/
def chSize (h : BitVec 512) : Nat := if chOpr h == 1 || chOpr h == 5 then 2 else 4

/-- PKG of a member entry (Table 20-4). -/
def memPkg (m : BitVec 128) : BitVec 19 := m.extractLsb' 45 19
/-- LCORE. -/
def memLcore (m : BitVec 128) : BitVec 9 := m.extractLsb' 32 9

end Sys2Proof.Machine
end

