-- ==== Sys2Proof/Machine/Ports.lean ====
section
/-! DEFINITION. Stream ports: the chain word, the element sequence of a source port, pops, and pushes of a sink port
(R179 to R188). -/

namespace Sys2Proof.Machine

open Sys2Proof

/-! ### The chain word (Tables 11-3 and 11-4) -/

/-- DIR of a chain word. -/
def chDir (c : W64) : Nat := c.toNat / 2 ^ 62
/-- SPACE of a chain word. -/
def chSpace (c : W64) : Nat := c.toNat / 2 ^ 60 % 4
/-- CLS of a chain word. -/
def chCls (c : W64) : Nat := c.toNat / 2 ^ 56 % 16
/-- NST of a chain word. -/
def chNst (c : W64) : Nat := c.toNat / 2 ^ 53 % 8

/-- A stage field (R181). -/
structure Stage where
  op : Nat
  sr : Bool
  arg1 : Nat
  arg2 : Nat
  deriving DecidableEq, Repr

/-- Stage n of a chain word. -/
def chStage (c : W64) (n : Nat) : Stage :=
  let v := c.toNat / 2 ^ (12 * n) % 4096
  ⟨v / 512, v / 256 % 2 == 1, v / 16 % 16, v % 16⟩

/-- The stages in use. -/
def chStages (c : W64) : List Stage := (List.range (chNst c)).map (chStage c)

/-- A format argument: any tag 1 to 14. -/
def argFmt (n : Nat) : Option Fmt := if n == 0 || 15 ≤ n then none else some (Fmt.ofCode (BitVec.ofNat 4 n))

/-- The format that leaves a source stage, where the stage accepts its input (Table 11-4, R181). -/
def stageOut (st : Stage) (f : Fmt) : Option Fmt :=
  match st.op with
  | 2 =>
    match argFmt st.arg2 with
    | some t => if !st.sr && st.arg1 == 0 && f.isBlk && t.isFlt then some t else none
    | none => none
  | 3 =>
    match argFmt st.arg2 with
    | some t => if st.arg1 == 0 && cvtPair f t then some t else none
    | none => none
  | 4 => if !st.sr && st.arg1 == 0 && st.arg2 == 0 then some f else none
  | 5 => if !st.sr && st.arg1 < 8 && st.arg2 < 4 && f.isAri then some f else none
  | _ => none

/-- The format that leaves a list of source stages. -/
def stagesOut : List Stage → Fmt → Option Fmt
  | [], f => some f
  | st :: rest, f =>
    match stageOut st f with
    | none => none
    | some g => stagesOut rest g

/-- MASKFILL, when present, comes last, and each kind appears at most once (R181). -/
def stageOrderOk (sts : List Stage) : Bool :=
  (sts.map Stage.op).Nodup && (sts.dropLast.all fun st => st.op != 5)

/-- The formats of a valid chain: memory format, and the stream format of a source or the input format of a sink (R180
to R182); `none` for a chain word that breaks R180 or R181. -/
def chainFormats (c : W64) : Option (Fmt × Fmt) :=
  let sts := chStages c
  let unused := c.toNat / 2 ^ (12 * chNst c) % 2 ^ (48 - 12 * chNst c)
  if 2 ≤ chDir c || chSpace c == 3 || (chSpace c != 1 && chCls c != 0) || chNst c == 0 || 4 < chNst c ||
      c.toNat / 2 ^ 48 % 32 != 0 || unused != 0 then none
  else if chDir c == 0 then
    match sts with
    | [] => none
    | l :: rest =>
      match argFmt l.arg2 with
      | none => none
      | some m =>
        if l.op == 1 && !l.sr && l.arg1 == 0 && stageOrderOk sts then
          match stagesOut rest m with
          | none => none
          | some out => if out.isBlk then none else some (m, out)
        else none
  else
    match sts with
    | [st] =>
      match argFmt st.arg2 with
      | none => none
      | some m => if st.op == 7 && !st.sr && st.arg1 == 0 then some (m, m) else none
    | [q, st] =>
      match argFmt q.arg1, argFmt q.arg2 with
      | some i, some m =>
        if q.op == 6 && i.isFlt && (m == .bf16 || m == .fp16 || m == .e4m3 || m == .mxfp8 || m == .mxfp4) &&
            st.op == 7 && !st.sr && st.arg1 == 0 && st.arg2 == q.arg2 then some (m, i)
        else none
      | _, _ => none
    | _ => none

/-- The element size that a memory format asks of the template (R181). -/
def fmtEsize (f : Fmt) : Nat := if f.isBlk then 272 else f.width / 8

/-- Elements of the format in one template element: 256 or 512 for a record, else 1 (R181). -/
def perRecord (f : Fmt) : Nat := if f.isBlk then f.lanes else 1

/-! ### Bytes that a stream reads (R186, R252, R259 to R262) -/

/-- The address of a merge-region byte among the keys of overwritten values. -/
def mergeKey (va : Nat) : Nat := 2 ^ 62 + va

/-- The key of an uncorrectable byte of the cistern. -/
def cisternKey (a : Nat) : Nat := 2 ^ 60 + a

/-- A byte as a LOAD stage that reads it after step `time` sees it, `old` being the overwritten values that it may see and `now` what
stands: the first value that was overwritten later, else the newest that it may see (R186). -/
def Port.pickOf (p : Port) (old : List (Nat × Nat × Byte)) (time key : Nat) (now : Byte) : Byte :=
  (pastOf old time key).getD ((lookupKey key p.fixed).getD ((lookupKey key p.shown).getD now))

/-- A byte read where it stands. -/
def Port.pick (p : Port) (time key : Nat) (now : Byte) : Byte := p.pickOf p.clob time key now

/-- A byte of another package that a line filled after step `time` serves (R252). -/
def Port.pickLine (p : Port) (time key : Nat) (now : Byte) : Byte := p.pickOf (p.clob ++ p.past) time key now

/-- Whether bytes of the cistern lie in a shard that has not landed (R321): of a collective that this core has installed, or of one that
another core of the package has (a free bit, log entry 17). -/
def shardWaits (s : State) (site a n : Nat) : Bool :=
  (s.fab.colls.any fun c =>
    let len := chElems c.hdr * chSize c.hdr
    chFuse c.hdr && (List.range (chNmem c.hdr)).any fun p =>
      meets a n (chCbase c.hdr + p * len) len && !(c.landed.contains p)) || Config.free s.freeCtr site 1 == 1

/-- A run of bytes in a space, for a stream: the bytes, whether they have still to land, whether some are uncorrectable,
a stop, the lines of a die cache that the read fills, the lines that serve it of other packages, each with the step of its fill, and the
steps of reads of global memory: the one that reads after it come after, and the one that reads before it come before
(R186, R187, R245, R252, R261, R321). -/
structure StreamRead where
  bytes : List Byte
  wait : Bool
  unc : Bool
  stop : Option Stop
  fills : List Nat
  lines : List (Nat × Nat)
  times : List (Nat × Nat)
  deriving DecidableEq, Repr

/-- A read that stops. -/
def StreamRead.stops (st : Stop) : StreamRead := ⟨[0], false, false, some st, [], [], []⟩

/-- The translation of a byte of a LOAD; a read that was under way to a package when that was lost has its translation from before
(R307). -/
def loadTranslate (s : State) (p : Port) (site va : Nat) : Trans :=
  let t := translate s va .read
  if p.lost.isEmpty || Config.free s.freeCtr (site + 3) 1 == 0 then t
  else
    let before := { s with fab := { s.fab with lost := s.fab.lost.filter fun e => !(p.lost.contains (e.setWidth 19)) } }
    match t, translate before va .read with
    | .ok _ _, _ => t
    | _, .ok key leaf => if p.lost.contains (keyPackage key) then .ok key leaf else t
    | _, _ => t

/-- One byte of a global stream LOAD; the bytes of an element that is read at once share `site` (R261). A line of the remote
read cache may serve it (R252). Uncorrectable data, that of a read which a lost package answers included, is unspecified (R187, R307):
whether such a read came back before is free. -/
def streamGlobalByte (s : State) (p : Port) (site free elem va : Nat) : StreamRead :=
  let time := Config.freeNat s.freeCtr (site + 2)
  if 2 ^ 57 ≤ va then .stops (.trap causeProtection (BitVec.ofNat 64 elem))
  else if inMerge s.ctx.hdr va then
    ⟨[p.pick time (mergeKey va) (s.ctx.mergeByte va)], false, false, none, [], [], [(time, time)]⟩
  else
    match loadTranslate s p site va with
    | .ok key leaf =>
      let home := (s.mem.homeBytes key 1).headD 0
      let away := isRemote key && chCls p.chain < 12 && pteC leaf
      let refused := isRemote key && s.pkgLost (keyPackage key) && Config.free s.freeCtr (site + 1) 1 == 1
      let bad := s.mem.poisoned key 1 || refused
      let b := if away then p.pickLine time key home else p.pick time key home
      ⟨[if bad then Config.free s.freeCtr free 8 else b], s.homeWaits key, bad, none,
        if pteC leaf && !(isRemote key) then [key / 128] else [],
        if away then [(key / 128, time)] else [],
        [(time, if away then s.freeCtr else time)]⟩
    | .miss pg => .stops (.page pg)
    | .unresolvable => .stops (.unresolvable (BitVec.ofNat 64 elem))
    | .protection => .stops (.trap causeProtection (BitVec.ofNat 64 elem))
    | .waits => ⟨[0], true, false, none, [], [], []⟩

/-- Whether the bytes of an element of a stream are read at once: an aligned one of up to 8 bytes (R261). -/
def atOnce (a n : Nat) : Bool := n ≤ 8 && a % n == 0

/-- Whether a scatter that the LOAD of a port must see has still to write the scratchpad (R99, R175, R186). -/
def spadOwes (s : State) (p : Port) : Bool := s.ctx.scatterOwes p.bundle

/-- The bytes of one template element of a stream LOAD (R186). A byte outside its space reads free (log entry 27), and so does
one of an element that holds uncorrectable data (R187). -/
def streamRead (s : State) (p : Port) (site a n : Nat) : StreamRead :=
  let own := fun (i : Nat) => site + (if atOnce a n then 0 else 4 * i)
  let spoilt := fun (bad : Bool) (bs : List Byte) =>
    if bad then bs.zipIdx.map fun q => Config.free s.freeCtr (site + 2048 + q.2) 8 else bs
  match chSpace p.chain with
  | 0 =>
    let bs := (s.ctx.spadBytes a n).zipIdx.map fun q =>
      if a + q.2 < s.ctx.spSize then p.pick (Config.freeNat s.freeCtr (own q.2)) (a + q.2) q.1
      else Config.free s.freeCtr (site + 2048 + q.2) 8
    let bad := s.ctx.basin.poisoned 2 a n
    ⟨spoilt bad bs, spadOwes s p, bad, none, [], [], []⟩
  | 1 =>
    let rs := (List.range n).map fun i => streamGlobalByte s p (own i) (site + 2048 + i) a ((a + i) % 2 ^ 64)
    ⟨rs.flatMap StreamRead.bytes, rs.any StreamRead.wait, rs.any StreamRead.unc, rs.findSome? StreamRead.stop,
      (rs.flatMap StreamRead.fills).eraseDups, (rs.flatMap StreamRead.lines).eraseDups,
      (rs.flatMap StreamRead.times).eraseDups⟩
  | _ =>
    let bs := (s.mem.cistern.bytes 4 a n).zipIdx.map fun q =>
      if a + q.2 < 2 ^ 28 then p.pick (Config.freeNat s.freeCtr (own q.2)) (a + q.2) q.1
      else Config.free s.freeCtr (site + 2048 + q.2) 8
    let bad := s.mem.poisoned (cisternKey a) n
    ⟨spoilt bad bs, shardWaits s (site + 1) a n, bad, none, [], [], []⟩

/-! ### The element sequence of a source port (R181, R182) -/

/-- A bytes-to-number slice: bits `lo` on, `w` of them, of little-endian bytes. -/
def bitsOfBytes (bs : List Byte) (lo w : Nat) : Nat := bitsAt (ofLe bs) lo w

/-- The exact value of element j of a record of a block format (R134, R137, R168): 256 data bytes, then the sideband. -/
def blkValue (f : Fmt) (data side : List Byte) (j : Nat) : FVal :=
  let code := bitsOfBytes (sliceOf data (j * f.width / 8) 1) (j * f.width % 8) f.width
  match f with
  | .mxfp8 => mxValue e4m3F ((side.getD (j / 32) 0).toNat) code
  | .mxfp4 => mxValue e2m1F ((side.getD (j / 32) 0).toNat) code
  | _ => qcExact (ofLe (sliceOf side (8 + 4 * (j / 256)) 4)) ((side.getD (j / 64) 0).toNat) code

/-- An element of a sequence: its code, its value where it is an element of a block format, the flags of the stages so
far, whether it has still to land, the stop or uncorrectable byte that its reading meets, with its address, and the lines and times
of its reading. -/
structure StreamElem where
  code : Nat
  val : FVal
  flags : Flags
  wait : Bool
  stop : Option Stop
  unc : Option Nat
  fills : List Nat
  lines : List (Nat × Nat)
  times : List (Nat × Nat)
  deriving DecidableEq, Repr

/-- An element that is padding: +0 (R181, R182). -/
def StreamElem.zero : StreamElem := ⟨0, .fin false 0 0, 0, false, none, none, [], [], []⟩

/-- A sequence of elements: its length, format and elements by index. -/
structure StreamSeq where
  len : Nat
  fmt : Fmt
  get : Nat → StreamElem

/-- The sequence that LOAD yields (Table 11-4). -/
def loadSeq (s : State) (p : Port) (site : Nat) (t : BitVec 1024) (f : Fmt) : StreamSeq :=
  let per := perRecord f
  { len := tmElems t * per
    fmt := f
    get := fun j =>
      let a := (tmSrc t 0 (j / per)).toNat
      let r := streamRead s p ((site + 1) * 2 ^ 40 + 4096 * (j / per)) a (tmEsize t)
      let unc := if r.unc then some a else none
      let v := if f.isBlk then blkValue f (r.bytes.take 256) (r.bytes.drop 256) (j % per) else .nan
      ⟨if f.isBlk then 0 else ofLe r.bytes, v, 0, r.wait, r.stop, unc, r.fills, r.lines, r.times⟩ }

/-- The rounding mode of a stage at an element: SR at COORD + index, else the mode of RMODE at the STRM (R181). -/
def Port.mode (p : Port) (sr : Bool) (i : Nat) : RMode :=
  if sr then .sr (generator p.seed p.tensor (p.coord + BitVec.ofNat 64 i)) else RMode.ofReg p.rmode

/-- The fill of MASKFILL (Table 11-4). -/
def maskFill (f : Fmt) (arg : Nat) : Nat :=
  match f.flt with
  | some l =>
    match arg with
    | 0 => 0
    | 1 => l.signed true (l.infCode.getD l.maxCode)
    | 2 => l.infCode.getD l.maxCode
    | _ => l.nanCode
  | none =>
    match arg with
    | 1 => wrapInt f.width f.intLo
    | 2 => wrapInt f.width f.intHi
    | _ => 0

/-- One source stage applied to a sequence (Table 11-4). -/
def stageSeq (p : Port) (st : Stage) (q : StreamSeq) : StreamSeq :=
  match st.op with
  | 2 =>
    let t := Fmt.ofCode (BitVec.ofNat 4 st.arg2)
    { len := q.len
      fmt := t
      get := fun j =>
        let e := q.get j
        let r := t.rnd .rne e.val
        { e with code := r.1, flags := e.flags ||| r.2 } }
  | 3 =>
    let t := Fmt.ofCode (BitVec.ofNat 4 st.arg2)
    { len := q.len
      fmt := t
      get := fun j =>
        let e := q.get j
        let r := elemCvt q.fmt t (p.mode st.sr j) e.code
        { e with code := r.1, flags := e.flags ||| r.2 } }
  | 4 =>
    { len := (q.len + 127) / 128 * 128
      fmt := q.fmt
      get := fun j =>
        let src := j / 128 * 128 + 16 * (j % 8) + j % 128 / 8
        if src < q.len then q.get src else StreamElem.zero }
  | _ =>
    { len := q.len
      fmt := q.fmt
      get := fun j =>
        let e := q.get j
        if p.fill.getLsbD (j % q.fmt.lanes) then e else { e with code := maskFill q.fmt st.arg2 } }

/-- The element sequence of a source port (R182). -/
def portSeq (s : State) (p : Port) (site : Nat) (t : BitVec 1024) : StreamSeq :=
  match chStages p.chain with
  | [] => ⟨0, .raw, fun _ => StreamElem.zero⟩
  | l :: rest =>
    rest.foldl (fun q st => stageSeq p st q) (loadSeq s p site t (Fmt.ofCode (BitVec.ofNat 4 l.arg2)))

/-! ### Pops (R183, R184, R187) -/

/-- Port q. -/
def Ctx.port (c : Ctx) (q : Nat) : Port := c.eng.ports.toArray.getD q Port.start

/-- Port q replaced. -/
def Ctx.setPort (c : Ctx) (q : Nat) (p : Port) : Ctx :=
  { c with eng := { c.eng with ports := c.eng.ports.setIfInBounds q p } }

/-- A popped vector: whether the port can deliver it, tag, bytes, flags of the stages, whether the pop lies past the
end, a stop, the address of an uncorrectable element, and the lines and times of its reads. -/
structure Popped where
  ready : Bool
  tag : Fmt
  bytes : List Byte
  flags : List Flags
  past : Bool
  stop : Option Stop
  unc : Option Nat
  fills : List Nat
  lines : List (Nat × Nat)
  times : List (Nat × Nat)
  deriving DecidableEq, Repr

/-- The stream format of a bound source port, or the input format of a bound sink port. -/
def Port.fmt (p : Port) : Fmt :=
  match chainFormats p.chain with
  | none => .raw
  | some f => f.2

/-! ### Where a stream stands in program order (R186, R259, R262) -/

/-- Whether an access is a write (R259). -/
def Access.isWrite (a : Access) : Bool := a.kind != .load

/-- Whether an access comes before a source STRM in program order: every read of a bundle precedes its writes. -/
def Access.beforeLoad (a : Access) (id bundle : Nat) : Bool := a.id < id && !(a.isWrite && a.bundle == bundle)

/-- Whether a source STRM comes before an access in program order. -/
def Access.afterLoad (a : Access) (id bundle : Nat) : Bool := id < a.id || (a.isWrite && a.bundle == bundle)

/-- The STRM instructions over global memory of a class that are not done with their accesses. -/
def Engines.strms (e : Engines) (cls : Nat) : List EngOp :=
  e.undone.filter fun o =>
    match o.instr with
    | .strm _ _ _ _ => chSpace o.sa == 1 && chCls o.sa == cls
    | _ => false

/-- Whether a sink of a context may still store: vectors that it holds, or, while bundles may still push (`live`), any to come. -/
def Ctx.sinkOwes (c : Ctx) (live : Bool) (o : EngOp) : Bool :=
  chDir o.sa == 1 && (!o.writes.isEmpty || c.eng.ports.toList.any fun p =>
    p.st == .sink && p.owner == o.id && (live || !p.buf.isEmpty))

/-- Whether the context at hand is a parked one that takes a step. -/
def State.atParked (s : State) : Bool := s.sched.saved.any fun x => x.why == .onCore

/-- Whether bundles of the context at hand may still push before what is held now performs: not those of a parked context, whose pushes
after its restore only tokens order (R268). -/
def State.pushing (s : State) : Bool := s.mode == .running && !s.atParked

/-- Whether some STRM of the class that `before` names has STOREs still to perform: the stores of a sink take the place of its STRM, so
an open sink holds what comes after it in its class (R259, R262). -/
def Ctx.storesBefore (c : Ctx) (live : Bool) (before : EngOp → Bool) (cls : Nat) : Bool :=
  (c.eng.strms cls).any fun o => before o && (c.eng.queued o.id && chDir o.sa == 1 || c.sinkOwes live o)

/-- Whether a STORE of the class, of an STRM before a place in program order, has still to perform; only tokens order those of a stream
that has run on after a save (R268). -/
def Ctx.storesAhead (c : Ctx) (live : Bool) (id cls : Nat) : Bool := c.storesBefore live (fun o => o.id < id && !o.loose) cls

/-- Whether a LOAD of the class that comes before an access has not begun. -/
def Ctx.loadsAhead (c : Ctx) (a : Access) : Bool :=
  (c.eng.strms a.cls).any fun o => chDir o.sa == 0 && a.afterLoad o.id o.bundle && c.eng.queued o.id

/-- Whether an access of a class before a place in program order has still to perform (R102). -/
def Engines.classPending (e : Engines) (id cls : Nat) : Bool :=
  e.accs.any fun a => a.id < id && a.cls == cls && !a.performed

/-- Whether the LOAD of a global port waits: for accesses of its class before its STRM, the reads of a bundle before its writes (R102,
R186, R259). -/
def Ctx.loadWaits (c : Ctx) (live : Bool) (p : Port) : Bool :=
  (c.eng.accs.any fun a => a.beforeLoad p.owner p.bundle && a.cls == chCls p.chain && !a.performed) ||
    c.storesBefore live (fun o => o.id < p.owner && o.bundle != p.bundle && !o.loose) (chCls p.chain)

/-- The overwritten values of some keys that a port sees no more as old ones: it sees those that `late` names in place of later ones. -/
def Port.fix (p : Port) (late : Nat × Nat × Byte → Bool) : Port :=
  { p with
    fixed := (((p.clob ++ p.past).filter late).reverse.map Prod.snd) ++ p.fixed
    clob := p.clob.filter fun c => !(late c)
    past := p.past.filter fun c => !(late c) }

/-- Values read by a LOAD after step `time`, as the reads of its class before it see them (R102): none later. -/
def Port.closeAt (p : Port) (time : Nat) : Port := { p.fix (fun c => time < c.1) with closed := true }

/-- A LOAD reads after step `time`: values overwritten up to it are no longer seen, but for those that a line of the remote read cache
may serve, `lines` where the reads come after now (R252). -/
def Port.openAt (p : Port) (lines : Option (List (Nat × Nat × Byte))) (time : Nat) : Port :=
  { p with
    clob := p.clob.filter fun c => time < c.1
    past := lines.getD ((p.clob.filter fun c => c.1 ≤ time && isRemote c.2.1) ++ p.past) }

/-- The source ports over global memory of a class, changed, but for those that only tokens order (R268). -/
def Ctx.mapLoads (c : Ctx) (cls : Nat) (f : Port → Port) : Ctx :=
  { c with eng := { c.eng with ports := c.eng.ports.map fun p =>
      if p.st == .source && chSpace p.chain == 1 && chCls p.chain == cls && !p.loose then f p else p } }

/-- An access of a class reads at a step from `lo` to `hi`: the LOADs of the class before it in program order (`some true`) read no later,
those after it (`some false`) no earlier (R102, R261). -/
def Ctx.classRead (c : Ctx) (cls : Nat) (lines : Option (List (Nat × Nat × Byte))) (lo hi : Nat) (before : Port → Option Bool) : Ctx :=
  c.mapLoads cls fun p =>
    match before p with
    | some true => p.closeAt hi
    | some false => p.openAt lines lo
    | none => p

/-- A read of a class that a line filled at step `time` serves: the LOADs of the class before it see nothing later in that line, those
after it nothing earlier (R252, R261). -/
def Ctx.lineRead (c : Ctx) (cls line time : Nat) (before : Port → Option Bool) : Ctx :=
  c.mapLoads cls fun p =>
    match before p with
    | some true => p.fix fun x => x.2.1 / 128 == line && time < x.1
    | some false =>
      { p with
        clob := p.clob.filter fun x => x.2.1 / 128 != line || time < x.1
        past := p.past.filter fun x => x.2.1 / 128 != line || time < x.1 }
    | none => p

/-- Which ports come before an access. -/
def Access.before (a : Access) (p : Port) : Option Bool := some (a.afterLoad p.owner p.bundle)

/-- An access of the context at hand has performed. -/
def State.accessPerforms (s : State) (a : Access) : State :=
  { s with ctx := s.ctx.classRead a.cls (some s.rrcSeen) s.freeCtr s.freeCtr a.before }

/-- Which ports come before the LOAD of port `p`, and which after it. -/
def Port.before (p x : Port) : Option Bool := if x.owner == p.owner then none else some (decide (x.owner < p.owner))

/-- The vector that a pop of port q takes after `k` earlier pops of its bundle (R182 to R184). A stream over global memory or
the cistern is held by a FENCE before it, and a global one by accesses of its class (R186, R263). -/
def popVec (s : State) (site q k : Nat) : Popped :=
  let p := s.ctx.port q
  match p.tmpl with
  | none => ⟨false, p.fmt, [], [], false, none, none, [], [], []⟩
  | some t =>
    let seq := portSeq s p site t
    let n := seq.fmt.lanes
    let start := p.pos + k * n
    let waits := (chSpace p.chain == 1 && s.ctx.loadWaits s.pushing p) || (chSpace p.chain != 0 && s.ctx.eng.heldAt p.owner)
    let es := (List.range n).map fun i => if start + i < seq.len then seq.get (start + i) else StreamElem.zero
    let fresh := start < seq.len
    ⟨!((waits || es.any StreamElem.wait) && fresh), seq.fmt, bytesOf seq.fmt.width (es.map StreamElem.code),
      es.map StreamElem.flags, !fresh,
      if fresh then es.findSome? StreamElem.stop else none, if fresh then es.findSome? StreamElem.unc else none,
      if fresh then (es.flatMap StreamElem.fills).eraseDups else [],
      if fresh then (es.flatMap StreamElem.lines).eraseDups else [],
      if fresh then (es.flatMap StreamElem.times).eraseDups else []⟩

/-- QENDn set (R184, R185). -/
def Ctx.setQend (c : Ctx) (q : Nat) : Ctx :=
  { c with tr := { c.tr with tstat := c.tr.tstat ||| BitVec.ofNat 64 (2 ^ (4 + q)) } }

/-- The flags that the chain's stages raise for a popped vector. -/
def Popped.raised (v : Popped) : Flags := v.flags.foldl (fun acc f => acc ||| f) 0

/-- A popped vector as a slot takes it whose mask makes some lanes inactive: their source elements raise no flag (R148). -/
def Popped.under (v : Popped) (live : Nat → Bool) : Popped :=
  { v with flags := v.flags.zipIdx.map fun f => if live f.2 then f.1 else 0 }

/-- The pops of a slot take effect: the port moves on, flags are raised, QENDn is set by a pop past the end, and
uncorrectable data is detected (R183, R184, R187). The flags of the chain's stages land within one bundle (DEDUCED, log entry 89). -/
def Ctx.popPort (ctr site : Nat) (c : Ctx) (q : Nat) (v : Popped) : Ctx :=
  let p := c.port q
  let c := if v.past then c.setQend q else c.setPort q { p with pos := p.pos + v.tag.lanes }
  let c := c.land ctr site (.flags v.raised) 1
  match v.unc with
  | none => c
  | some a => { c with pipe := { c.pipe with deferred := c.pipe.deferred ++ [⟨0x0C, BitVec.ofNat 64 a⟩] } }

/-- What the reads of a popped vector leave (R102, R245, R252, R261): lines of the die cache filled, the lines of other packages no older
than those that served it, and the order that the LOADs of its class now have. -/
def State.popReads (s : State) (q : Nat) (v : Popped) : State :=
  let p := s.ctx.port q
  let cls := chCls p.chain
  let s := v.fills.foldl State.fillDie s
  let c := v.times.foldl (fun c t => c.classRead cls none t.1 t.2 p.before) s.ctx
  { s with
    ctx := v.lines.foldl (fun c l => c.lineRead cls l.1 l.2 p.before) c
    mem := v.lines.foldl (fun m l => m.readRrc l.1 l.2) s.mem }

/-! ### Pushes (R185, R187) -/

/-- Element count of the stream of a sink port: template elements times the elements of a record. -/
def Port.total (p : Port) : Nat :=
  match p.tmpl, chainFormats p.chain with
  | some t, some f => tmElems t * perRecord f.1
  | _, _ => 0

/-- The keys of one template element's bytes in the space of a sink: translated at the push (R187). -/
def sinkKeys (s : State) (p : Port) (a n : Nat) : List (Nat × Option Stop) :=
  (List.range n).map fun i =>
    let va := (a + i) % 2 ^ 64
    if chSpace p.chain == 1 then
      if 2 ^ 57 ≤ va then (0, some (.trap causeProtection (BitVec.ofNat 64 a)))
      else if inMerge s.ctx.hdr va then (mergeKey va, none)
      else
        match translate s va .write with
        | .ok key _ => (key, none)
        | .miss pg => (0, some (.page pg))
        | .unresolvable => (0, some (.unresolvable (BitVec.ofNat 64 a)))
        | .protection => (0, some (.trap causeProtection (BitVec.ofNat 64 a)))
        | .waits => (0, some .hold)
    else (va, none)

/-- QNT of a run of values of the input format into the memory format, or the values as they are: the bytes of each
template element and the flags (Table 11-4, R185). `first` is the index of the first element in the stream. -/
def quantRun (p : Port) (inF memF : Fmt) (first : Nat) (xs : List Nat) : List (List Byte) × Flags :=
  let q := (chStages p.chain).find? fun st => st.op == 6
  match q with
  | none => (xs.map fun x => leBytes (memF.width / 8) x, 0)
  | some st =>
    if memF == .mxfp8 || memF == .mxfp4 then
      let lf := if memF == .mxfp8 then e4m3F else e2m1F
      let emax : Int := if memF == .mxfp8 then 8 else 2
      let blocks := (List.range (memF.lanes / 32)).map fun b =>
        mxQuant lf emax (fun i => if st.sr then p.mode true (first + 32 * b + i) else .rne)
          ((sliceOf xs (32 * b) 32).map inF.fval)
      let data := bytesOf memF.width (blocks.flatMap MxBlock.elems)
      let side := blocks.map fun b => BitVec.ofNat 8 b.scale
      ([data ++ side ++ List.replicate (16 - side.length) 0], blocks.foldl (fun acc b => acc ||| b.flags) 0)
    else
      let rs := xs.zipIdx.map fun x => memF.rnd (p.mode st.sr (first + x.2)) (inF.fval x.1)
      (rs.map fun r => leBytes (memF.width / 8) r.1, rs.foldl (fun acc r => acc ||| r.2) 0)

/-- The elements that a sink port gathers before it writes: those of a granule of QNT's target, else of one pushed vector
(R185). -/
def Port.unit (p : Port) : Nat :=
  match chainFormats p.chain with
  | none => 1
  | some f => if ((chStages p.chain).any fun st => st.op == 6) then f.1.lanes else f.2.lanes

/-- A push as it will take effect: a stop, the element writes, what stays gathered with the keys of its bytes, flags, whether it
is discarded. -/
structure Pushed where
  stop : Option Stop
  writes : List (Nat × Byte)
  part : List Nat
  keys : List Nat
  flags : Flags
  past : Bool
  count : Nat
  deriving DecidableEq, Repr

/-- The template elements that the stream elements `first` to `first + n - 1` fill: the record of an MX block is one element,
which its first vector fills (R185). -/
def sinkElems (p : Port) (memF : Fmt) (first n : Nat) : List Nat :=
  let per := perRecord memF
  if per == 1 then ((List.range n).map (· + first)).filter fun e => e < p.total
  else if first % per == 0 then [first / per]
  else []

/-- The keys of the bytes of template elements, translated as the vector that fills them is pushed (R187). -/
def elemKeys (s : State) (p : Port) (t : BitVec 1024) (es : List Nat) : List (Nat × Option Stop) :=
  es.flatMap fun e => sinkKeys s p (tmDst t 0 e).toNat (tmEsize t)

/-- The push of one vector whose lanes are `xs` (+0 where inactive), or of one block granule with its sideband given as
the bytes of a record (R185, R187). -/
def pushVec (s : State) (q : Nat) (xs : List Nat) (record : List Byte) : Pushed :=
  let p := s.ctx.port q
  match p.tmpl, chainFormats p.chain with
  | some t, some f =>
    let n := f.2.lanes
    if p.total ≤ p.pos then ⟨none, [], p.part, p.keys, 0, true, 0⟩
    else
      let ks := elemKeys s p t (sinkElems p f.1 p.pos n)
      let stop := ks.findSome? Prod.snd
      let keys := p.keys ++ ks.map Prod.fst
      if f.2.isBlk then ⟨stop, keys.zip record, [], [], 0, false, n⟩
      else
        let all := p.part ++ xs
        if all.length < p.unit then ⟨stop, [], all, keys, 0, false, n⟩
        else
          let r := quantRun p f.2 f.1 (p.pos - p.part.length) all
          ⟨stop, keys.zip r.1.flatten, [], [], r.2, false, n⟩
  | _, _ => ⟨none, [], p.part, p.keys, 0, true, 0⟩

/-- A push takes effect (R185). DESIGN CHOICE (log entry 103): the vector is in the sink's buffer from the issue of its bundle on, wherever
in its landing window (R24) it lands. -/
def Ctx.pushPort (ctr site : Nat) (c : Ctx) (q : Nat) (v : Pushed) (lat : Nat) : Ctx :=
  let p := c.port q
  let c := if v.past then c.setQend q
    else c.setPort q { p with
      pos := p.pos + v.count
      part := v.part
      keys := v.keys
      buf := if v.writes.isEmpty then p.buf else p.buf ++ [v.writes] }
  c.land ctr site (.flags v.flags) lat

/-- Vectors that the buffer of a sink port holds: the written ones not yet stored, and those still gathered (R185). -/
def Port.held (p : Port) : Nat :=
  p.buf.length + (p.part.length + p.fmt.lanes - 1) / p.fmt.lanes

/-- The template elements that padding fills when a sink closes (R185), with their keys. -/
def padKeys (s : State) (q : Nat) : List (Nat × Option Stop) :=
  let p := s.ctx.port q
  match p.tmpl, chainFormats p.chain with
  | some t, some f =>
    if p.part.isEmpty then [] else elemKeys s p t (sinkElems p f.1 p.pos (p.unit - p.part.length))
  | _, _ => []

/-- The page that the padding of a closing sink asks for (R187, log entry 90). -/
def padStop (s : State) (q : Nat) : Option Stop :=
  (padKeys s q).findSome? fun k =>
    match k.2 with
    | some (.page pg) => some (.page pg)
    | some .hold => some .hold
    | _ => none

/-- The writes that close a sink, and the flags of their quantisation (R128): a partial granule or block padded with +0 (R185). A padded
element whose destination does not translate is not written, and the fault is a store error (log entry 90). -/
def padWrites (s : State) (q : Nat) : List (Nat × Byte) × Flags × Option Stop :=
  let p := s.ctx.port q
  match chainFormats p.chain with
  | some f =>
    if p.part.isEmpty then ([], 0, none)
    else
      let ks := padKeys s q
      let r := quantRun p f.2 f.1 (p.pos - p.part.length) (p.part ++ List.replicate (p.unit - p.part.length) 0)
      let all := p.keys.map (fun k => (k, (none : Option Stop))) ++ ks
      (((all.zip r.1.flatten).filter fun b => b.1.2.isNone).map fun b => (b.1.1, b.2), r.2, ks.findSome? Prod.snd)
  | none => ([], 0, none)

end Sys2Proof.Machine
end

