-- ==== Sys2Proof/Machine/Operands.lean ====
section
/-! DEFINITION. The operand forms: scalar sources and immediates, scratchpad and global addresses, vector and tile fields
with their range, tag and port checks, masks, and the vectors that results make (R32, R36, R40, R49 to R51, R106, R107,
R151, R152). -/

namespace Sys2Proof.Machine

open Sys2Proof

/-! ### Scalar operands -/

/-- An immediate or literal, sign-extended (R50, R51). -/
def immS {n : Nat} (i : Imm n) : W64 :=
  match i with
  | .short v => v.signExtend 64
  | .lit v => v.signExtend 64

/-- The offset of a scratchpad access of `size` bytes: imm6 scaled, or the literal (R98). -/
def smemOff (size : Nat) (i : Imm 6) : W64 :=
  match i with
  | .short v => BitVec.ofNat 64 (v.toNat * size)
  | .lit v => v.signExtend 64

/-- The byte offset of a global or vector access: the literal, or zero (R51). -/
def litOff (o : Option (BitVec 32)) : W64 :=
  match o with
  | none => 0
  | some v => v.signExtend 64

/-- Whether a bundle must stall on a scalar register: a scoreboarded result for it is outstanding (R27). -/
def sBusy (s : State) (n : BitVec 6) : Bool :=
  n != 0 && s.ctx.pipe.sb.any fun e =>
    match e.dst with
    | .sreg m => m == n
    | .sregView m _ => m == n
    | .vec _ => false
    | .spad => false

/-- Whether a bundle must stall on a view register (R27, R296). -/
def wBusy (s : State) (n : BitVec 2) : Bool :=
  s.ctx.pipe.sb.any fun e =>
    match e.dst with
    | .sreg _ => false
    | .sregView _ m => m == n
    | .vec _ => false
    | .spad => false

/-- Whether a bundle must stall on bytes of the register space that a gather or another scoreboarded result owes (R27,
R174). -/
def vBusy (s : State) (a n : Nat) : Bool :=
  s.ctx.pipe.sb.any fun e =>
    match e.dst with
    | .sreg _ => false
    | .sregView _ _ => false
    | .vec x => meets x 256 a n
    | .spad => false

/-- Whether an S or V scratchpad access must stall: a gather has still to read or a scatter to write (R175). -/
def spadBusy (s : State) : Bool :=
  s.ctx.pipe.sb.any fun e =>
    match e.dst with
    | .sreg _ => false
    | .sregView _ _ => false
    | .vec _ => true
    | .spad => true

/-- Whether the guard of an S slot holds (R31, R48). -/
def sGuard (s : State) (g : SGuard) : Bool := readP s g.p != g.neg

/-- Whether the guard of an M or C slot holds (R31, R48). -/
def eGuard (s : State) (g : EGuard) : Bool := readP s g.p

/-! ### Scratchpad and global addresses -/

/-- ALIGN, then SPAD_RANGE (R98, R107). -/
def spadCheck (s : State) (a : W64) (align size : Nat) : Option Stop :=
  if a.toNat % align != 0 then some (.trap 0x07 a)
  else if s.ctx.spSize < a.toNat + size then some (.trap 0x08 a)
  else none

/-- The stop of a global access, or its key and leaf (R101); an access of a merge region is translated too, and its bytes
go to the log or come from it when it performs (R357). -/
def globalCheck (s : State) (a : W64) (size : Nat) (mode : AccMode) : Option Stop × Nat × W64 :=
  if !(vaOk a) then (some (.trap causeProtection a), 0, 0)
  else if a.toNat % size != 0 then (some (.trap 0x07 a), 0, 0)
  else
    match translate s a.toNat mode with
    | .ok key leaf => (none, key, leaf)
    | .miss pg => (some (.page pg), 0, 0)
    | .unresolvable => (some (.unresolvable a), 0, 0)
    | .protection => (some (.trap causeProtection a), 0, 0)
    | .waits => (some .hold, 0, 0)

/-! ### Trap values of operand checks (Table 6-1) -/

/-- REGSPACE_RANGE of a field: 0 D, 1 A, 2 B; bit 6 for an accumulator. -/
def rangeStop (p : At) (field : Nat) (acc : Bool) (addr : Nat) : Stop :=
  trapOf 0x09 (p.idx + 16 * field + (if acc then 64 else 0) + 65536 * (addr % 2 ^ 48))

/-- FORMAT of a field, with the tag found, the tag expected and the granule. -/
def formatStop (p : At) (field : Nat) (found expected : Fmt) (addr : Nat) : Stop :=
  trapOf 0x04 (p.idx + 16 * field + 256 * found.code + 4096 * expected.code + 65536 * (addr % 2 ^ 20))

/-- STREAM of a field and port. -/
def streamStop (p : At) (field q : Nat) : Stop := trapOf 0x11 (p.idx + 16 * field + 256 * q)

/-! ### Vector fields (R35, R36, R49) -/

/-- The port that a vector or tile field names. -/
def portOf (v : BitVec 6) : Option Nat := if 60 ≤ v.toNat then some (v.toNat - 60) else none

/-- A vector source as the slot reads it: its tag where it has one (a port that is not SOURCE has none, R107), bytes,
sideband, granule address, and what a pop brings. -/
structure VSrc where
  field : Nat
  tag : Option Fmt
  bytes : List Byte
  side : List Byte
  addr : Nat
  pop : Option (Nat × Popped)
  ready : Bool
  deriving DecidableEq, Repr

/-- A vector source of a slot whose mask makes some lanes inactive: their source elements raise no flag (R148). -/
def VSrc.under (x : VSrc) (live : Nat → Bool) : VSrc := { x with pop := x.pop.map fun r => (r.1, r.2.under live) }

/-- Sources whose element `i` belongs to lane `i`. -/
def underMask (mask : BitVec 512) (xs : List VSrc) : List VSrc := xs.map fun x => x.under fun i => mask.getLsbD i

/-- The range check of `n` consecutive vectors from a field (R36). -/
def vecRange (s : State) (p : At) (field : Nat) (v : BitVec 6) (n : Nat) : Option Stop :=
  if 60 ≤ v.toNat then none
  else if s.ctx.regSize < s.ctx.vecAddr v.toNat + 256 * n then
    some (rangeStop p field false (s.ctx.vecAddr v.toNat))
  else none

/-- A vector source: register `v + k`, or the pop after `prior` pops of its port in the bundle. -/
def vecSrc (s : State) (p : At) (field : Nat) (v : BitVec 6) (k : Nat) (prior : List Nat) : VSrc :=
  match portOf v with
  | none =>
    let a := s.ctx.vecAddr (v.toNat + k)
    ⟨field, some (s.ctx.basin.tagAt a),
      readVec s (fun x => s.ctx.eng.busyAt true x) (p.site field + 512 * k) a 256,
      readSide s (fun x => s.ctx.eng.busyAt true x) (p.site field + 512 * k + 256) a, a, none, !(vBusy s a 256)⟩
  | some q =>
    if (s.ctx.port q).st == .source then
      let v := popVec s (p.site field + 2 ^ 16 * (k + 1)) q ((p.popped ++ prior).filter (· == q)).length
      ⟨field, some v.tag, v.bytes, zeroSide, 0, some (q, v), v.ready⟩
    else ⟨field, none, List.replicate 256 0, zeroSide, 0, none, true⟩

/-- The ports that a field pops, once or `n` times. -/
def popsOf (v : BitVec 6) (n : Nat) : List Nat :=
  match portOf v with
  | none => []
  | some q => List.replicate n q

/-- STREAM of a source field (R179). -/
def srcStream (s : State) (p : At) (field : Nat) (v : BitVec 6) : Option Stop :=
  match portOf v with
  | none => none
  | some q => if (s.ctx.port q).st == .source then none else some (streamStop p field q)

/-- STREAM of a destination field (R179). -/
def dstStream (s : State) (p : At) (v : BitVec 6) : Option Stop :=
  match portOf v with
  | none => none
  | some q => if (s.ctx.port q).st == .sink then none else some (streamStop p 0 q)

/-- The stop that a pop meets: translation of its elements (R187). -/
def popStop (v : VSrc) : Option Stop :=
  match v.pop with
  | none => none
  | some r => r.2.stop

/-! ### Tag checks (R40, R106, R151) -/

/-- The expected tag of a class when no tag already checked fixes one: fp32 when the class holds it, else the lowest
(R106). -/
def classDefault (ok : Fmt → Bool) : Fmt :=
  if ok .fp32 then .fp32
  else
    match [Fmt.raw, .bf16, .fp16, .e4m3, .e5m2, .mxfp8, .mxfp4, .qc4, .int32, .int16, .int8, .uint8, .ang16, .bits].find?
      fun f => ok f with
    | some f => f
    | none => .raw

/-- The tag of the first operand that has one (R107). -/
def refTag (xs : List VSrc) : Option Fmt := xs.findSome? VSrc.tag

/-- Sources that must carry one tag of a class, in field order (R106, R107, R151). -/
def checkTags (p : At) (ok : Fmt → Bool) : (xs : List VSrc) → (ref : Option Fmt) → Option Stop
  | [], _ => none
  | x :: xs, ref =>
    match x.tag with
    | none => checkTags p ok xs ref
    | some t =>
      match ref with
      | none => if ok t then checkTags p ok xs (some t) else some (formatStop p x.field t (classDefault ok) x.addr)
      | some r => if t == r then checkTags p ok xs ref else some (formatStop p x.field t r x.addr)

/-- One source that must carry a given tag. -/
def checkIs (p : At) (x : VSrc) (want : Fmt) : Option Stop :=
  match x.tag with
  | none => none
  | some t => if t == want then none else some (formatStop p x.field t want x.addr)

/-- The destination check of `n` registers, or of a push (R40, R185): a masked merge write needs the result tag, and a
pushed tag must be the port's input format. A result tag that the entry does not accept passes the check over. -/
def checkDst (s : State) (p : At) (m : VMask) (v : BitVec 6) (n : Nat) (ok : Fmt → Bool) (rt : Option Fmt) :
    Option Stop :=
  match rt with
  | none => none
  | some t =>
    if !(ok t) then none
    else
      match portOf v with
      | some q =>
        let pt := s.ctx.port q
        if pt.st == .sink && pt.fmt != t then some (formatStop p 0 t pt.fmt 0) else none
      | none =>
        if m.k == 0 || m.z then none
        else
          (List.range n).findSome? fun i =>
            let a := s.ctx.vecAddr (v.toNat + i)
            if s.ctx.basin.tagAt a == t then none else some (formatStop p 0 (s.ctx.basin.tagAt a) t a)

/-! ### Results (R32, R152) -/

/-- The bytes that a masked result writes: active lanes, zeros under a zeroing mask, nothing elsewhere. -/
def maskedBytes (w : Nat) (mask : BitVec 512) (z : Bool) (lanes : List Nat) : List (Option Byte) :=
  lanes.zipIdx.flatMap fun p =>
    if mask.getLsbD p.2 then (leBytes (w / 8) p.1).map some
    else if z then List.replicate (w / 8) (some 0)
    else List.replicate (w / 8) none

/-- The flags of the active lanes (R148). -/
def laneFlags (mask : BitVec 512) (rs : List Elem) : Flags :=
  rs.zipIdx.foldl (fun acc p => if mask.getLsbD p.2 then acc ||| p.1.2 else acc) 0

/-- A vector result: its tag, the masked bytes of each register it writes, their sidebands, and the lanes it would push
(+0 where inactive), or the record of a block granule. -/
structure VRes where
  tag : Fmt
  bytes : List (List (Option Byte))
  sides : List (List Byte)
  lanes : List (List Nat)
  record : List Byte
  flags : Flags
  lat : Nat
  deriving DecidableEq, Repr

/-- A plain result of one vector (WRITEV, R152). -/
def plainRes (tag : Fmt) (mask : BitVec 512) (z : Bool) (rs : List Elem) (lat : Nat) : VRes :=
  ⟨tag, [maskedBytes tag.width mask z (rs.map Prod.fst)], [zeroSide],
    [rs.zipIdx.map fun p => if mask.getLsbD p.2 then p.1.1 else 0], [], laneFlags mask rs, lat⟩

/-- A granule of a block format as a result: data and sideband, all bytes written. -/
def blkRes (tag : Fmt) (data side : List Byte) (fl : Flags) (lat : Nat) : VRes :=
  ⟨tag, [data.map some], [side], [[]], data ++ side, fl, lat⟩

/-- The writers of a vector result in the collision check (R23, R49). -/
def vecWriters (s : State) (v : BitVec 6) (r : VRes) : List Writer :=
  match portOf v with
  | some q => [.push q]
  | none => r.bytes.zipIdx.map fun b => .dst (.vec (s.ctx.vecAddr (v.toNat + b.2)) b.1 [])

/-- A vector result delivered (R24, R40, R185): tags at issue, bytes and flags when they land; or pushed to a port. -/
def deliver (p : At) (v : BitVec 6) (addr : Nat) (r : VRes) (s : State) : State :=
  match portOf v with
  | some q =>
    let s :=
      if r.record.isEmpty then
        r.lanes.foldl (fun s xs =>
          { s with ctx := s.ctx.pushPort s.freeCtr (p.site 20) q (pushVec s q xs []) r.lat }) s
      else { s with ctx := s.ctx.pushPort s.freeCtr (p.site 20) q (pushVec s q [] r.record) r.lat }
    { s with ctx := s.ctx.land s.freeCtr (p.site 22) (.flags r.flags) r.lat }
  | none =>
    let c := { s.ctx with basin := s.ctx.basin.setTags addr (256 * r.bytes.length) r.tag }
    let c := c.land s.freeCtr (p.site 21) (.vec addr r.bytes.flatten r.sides.flatten) r.lat
    { s with ctx := c.land s.freeCtr (p.site 22) (.flags r.flags) r.lat }

/-- The stop that the pushes of a result meet: translation of their destinations (R187). -/
def pushStop (s : State) (p : At) (v : BitVec 6) (r : VRes) : Option Stop :=
  match portOf v with
  | none => none
  | some q =>
    if r.record.isEmpty then
      (r.lanes.foldl (fun acc xs =>
        let u := pushVec acc.1 q xs []
        ({ acc.1 with ctx := acc.1.ctx.pushPort acc.1.freeCtr (p.site 20) q u r.lat }, acc.2.or u.stop))
        (s, (none : Option Stop))).2
    else (pushVec s q [] r.record).stop

/-- Whether a destination field stalls: its register owes a scoreboarded result, or the port has no template yet or no
room for the vectors (R27, R185). -/
def dstBusy (s : State) (v : BitVec 6) (n pushes : Nat) : Bool :=
  match portOf v with
  | none => vBusy s (s.ctx.vecAddr v.toNat) (256 * n)
  | some q =>
    let p := s.ctx.port q
    p.st == .sink && (p.tmpl.isNone || 8 < p.held + pushes)

/-- The pops of the sources take effect. -/
def popAll (p : At) (xs : List VSrc) (s : State) : State :=
  xs.foldl (fun s x =>
    match x.pop with
    | none => s
    | some r =>
      let s := s.popReads r.1 r.2
      { s with ctx := s.ctx.popPort s.freeCtr (p.site (24 + x.field)) r.1 r.2 }) s

/-- The ports that sources pop, in order. -/
def portsOf (xs : List VSrc) : List Nat := xs.filterMap fun x => x.pop.map Prod.fst

/-- A V slot of the common shape (R107, R152): sources in field order, the result, its destination. `own` are the traps
of the entry itself. -/
def vecSlot (s : State) (p : At) (d : BitVec 6) (nd : Nat) (xs : List VSrc) (range format stream : List (Option Stop))
    (own : List (Option Stop)) (r : VRes) : SlotSem :=
  let pops := xs.map popStop
  let stop := firstStop (range ++ format ++ stream ++ own ++ pops)
  let busy := (xs.any fun x => !x.ready) || dstBusy s d nd r.lanes.length
  { SlotSem.nop with
    stall := busy
    stop := stop.or (pushStop s p d r)
    writers := vecWriters s d r
    pops := portsOf xs
    apply := fun t => deliver p d (s.ctx.vecAddr d.toNat) r (popAll p xs t) }

end Sys2Proof.Machine
end

