-- ==== Sys2Proof/Machine/Engine.lean ====
section
/-! DEFINITION. The engine side: tokens, queues, the tile table, scoreboarded results, what an engine instruction captures
at issue, and its completion (R17, R18, R27, R46, R53, R121, R242 to R244, R263, R264, R274). -/

namespace Sys2Proof.Machine

open Sys2Proof

/-! ### Tokens (R52, R53, R274) -/

/-- Token n. -/
def Ctx.token (c : Ctx) (n : Nat) : Token := c.eng.tokens.toArray.getD n Token.start

/-- Token n replaced. -/
def Ctx.setToken (c : Ctx) (n : Nat) (t : Token) : Ctx :=
  { c with eng := { c.eng with tokens := c.eng.tokens.setIfInBounds n t } }

/-- Whether an instance of a token is done: no instruction that is queued, started or withdrawn produces it (R53, R224). -/
def Ctx.instDone (c : Ctx) (x : Nat × Nat) : Bool :=
  !(c.eng.undone.any fun o => o.prod == some x || o.alsoProd.contains x) && !(c.eng.withdrawn.any fun w => w.toks.contains x)

/-- The instances that a slot's token word captures at its bundle's start (R53). -/
def Ctx.captures (c : Ctx) (t : EGuard) : List (Nat × Nat) :=
  match t.tok with
  | none => []
  | some w =>
    let one := fun (e : Bool) (n : BitVec 4) => if e then [(n.toNat, (c.token n.toNat).inst)] else []
    one w.ae w.ca ++ one w.be w.cb ++ one w.ce w.cc

/-- The token that a slot produces (R53). -/
def producesTok (t : EGuard) : Option (BitVec 4) :=
  match t.tok with
  | none => none
  | some w => if w.pe then some w.po else none

/-- A new pending instance of token n. -/
def Ctx.newInstance (c : Ctx) (n : Nat) : (Nat × Nat) × Ctx :=
  let k := (c.token n).inst + 1
  ((n, k), c.setToken n ⟨k, false, 0⟩)

/-- The instance of a token becomes done with a status; a later instance of the same token is unaffected (R53, R274,
R293). -/
def Ctx.finishToken (c : Ctx) (x : Option (Nat × Nat)) (status : W64) : Ctx :=
  match x with
  | none => c
  | some (n, k) =>
    let c := { c with eng := { c.eng with withdrawn := c.eng.withdrawn.map fun w =>
        { w with toks := w.toks.filter fun y => !(y.1 == n && y.2 ≤ k) } } }
    if (c.token n).inst == k then c.setToken n ⟨k, true, status⟩ else c

/-! ### Completion status (Table 18-1) -/

/-- A status of CODE, SIDE and ELEM. -/
def statusOf (code side elem : Nat) : W64 := BitVec.ofNat 64 (code + 256 * side + 65536 * elem)

/-! ### Scoreboarded results (R25, R27) -/

/-- The basin addresses that a result writes. -/
def PDest.addrs (d : PDest) : List Nat :=
  match d with
  | .vec a bs _ => writtenAddrs a bs
  | .spad a bs => writtenAddrs a bs
  | .sreg _ _ => []
  | .pred _ _ => []
  | .kmask _ _ _ => []
  | .flags _ => []
  | .fault _ _ => []

/-- A scoreboarded result for the destinations `ds` begins (R25): of the exposed results for some of them that are still in their
windows, each stands under it and lands now, or stands over it. -/
def Ctx.addSb (ctr site : Nat) (c : Ctx) (e : SbEntry) (ds : List PDest) : Ctx :=
  let hit := fun p : Pending => ds.any fun d => p.dst.overlaps d
  let n := standPlace ctr site hit c.pipe.pend
  let stood := (c.pipe.pend.drop n).filter hit
  let c' := c.settleUnder ctr hit n
  { c' with pipe := { c'.pipe with
      sb := c'.pipe.sb ++ [{ e with lost := !stood.isEmpty, under := stood.flatMap fun p => p.dst.addrs }] } }

/-- The source of an outstanding result replaced (R27). -/
def Ctx.setSb (c : Ctx) (id : Nat) (src : SbSrc) : Ctx :=
  { c with pipe := { c.pipe with sb := c.pipe.sb.map fun e => if e.id == id then { e with src := src } else e } }

/-! ### The tile table (R242 to R244) -/

/-- Tile entry e. -/
def Ctx.tile (c : Ctx) (e : Nat) : Tile := c.eng.tiles.toArray.getD e Tile.start

/-- Tile entry e replaced. -/
def Ctx.setTile (c : Ctx) (e : Nat) (t : Tile) : Ctx :=
  { c with eng := { c.eng with tiles := c.eng.tiles.setIfInBounds e t } }

/-- A tile entry with another state. -/
def Ctx.setTileState (c : Ctx) (e : Nat) (st : TileState) : Ctx := c.setTile e { c.tile e with st := st }

/-- Whether an entry's bytes meet a run of basin bytes. -/
def Tile.meetsRun (t : Tile) (r : Bool × Nat × Nat) : Bool := t.rs == r.1 && meets t.base t.len r.2.1 r.2.2

/-- The entries that overlap some of the runs. -/
def Ctx.tilesOver (c : Ctx) (rs : List (Bool × Nat × Nat)) : List Nat :=
  (List.range 64).filter fun e => rs.any fun r => (c.tile e).meetsRun r

/-- Whether the tile table lets an instruction start: every entry over its reads READY, every entry over its writes alone
EMPTY, entries that it holds already aside (R121, R243). -/
def Ctx.tilesAllow (c : Ctx) (held : List Nat) (rd wr : List (Bool × Nat × Nat)) : Bool :=
  let readers := (c.tilesOver rd).filter fun e => !(held.contains e)
  let writers := (c.tilesOver wr).filter fun e => !(held.contains e) && !(readers.contains e)
  (readers.all fun e => (c.tile e).st == .ready) && (writers.all fun e => (c.tile e).st == .empty)

/-- Whether a collective entry is the one that a handle names (Table 21-1). -/
def Coll.named (c : Coll) (h : W64) : Bool :=
  h.getLsbD 63 && h.extractLsb' 44 19 == Config.packageId && h.toNat / 2 ^ 10 % 2 ^ 34 == c.gen && h.toNat % 2 ^ 10 == c.slot

/-- The messages by which a member that has fired nothing ends the firing of the members on other cores (R312; log entry 17). -/
def State.shortMsgs (s : State) (b : Coll) : List Sent :=
  let here := fun (m : BitVec 128) => s.fab.colls.any fun c =>
    c.cid == b.cid && memPkg m == Config.packageId && (memLcore m).toNat == c.lcore
  (b.members.filter fun m => !(here m)).map fun m => ⟨s.mgmt.endpoint, .memberShort (memPkg m) (memLcore m) b.cid⟩

/-- Whether a handle is no newer than the last entry that this core installed in its slot: a stale one (Table 21-1). -/
def State.staleColl (s : State) (h : W64) : Bool :=
  (lookupKey (h.toNat % 2 ^ 10) s.fab.collGen).any fun g => h.toNat / 2 ^ 10 % 2 ^ 34 ≤ g

/-- Whether a handle may name a collective entry that another core of this package has installed: a free bit (log entry 17), for a handle
of this package in a slot that no entry of this core takes, newer than those that this core installed there. -/
def State.foreignColl (s : State) (h : W64) : Bool :=
  h.getLsbD 63 && h.extractLsb' 44 19 == Config.packageId && !(s.fab.colls.any fun c => h.toNat % 2 ^ 10 == c.slot) &&
    !(s.staleColl h) && Config.free s.freeCtr (2 ^ 44) 1 == 1

/-- An entry becomes READY (R244, R312, R319, R331): one bound to an installed collective becomes DRAINING and fires it; an
entry shorter than the contribution fires nothing, and the firing of every member ends as for a lost one. One bound to an entry of
another core drains until that has read it (log entry 17). -/
def State.tileReady (s : State) (e : Nat) : State :=
  let t := s.ctx.tile e
  match s.fab.colls.find? fun c => c.named t.col with
  | none =>
    let st := if t.col != 0 && s.foreignColl t.col then .draining else .ready
    { s with ctx := s.ctx.setTile e { t with st := st, orphan := false } }
  | some b =>
    let short := t.len < chElems b.hdr * chSize b.hdr
    let fire := fun (c : Coll) =>
      if short then (if c.cid == b.cid then { c with lost := true } else c)
      else if c.named t.col && !c.lost then { c with fires := c.fires ++ [(s.ctx.lid, s.ctx.ctl.lcore.toNat, e)] }
      else c
    { s with
      ctx := s.ctx.setTile e { t with st := .draining, orphan := false }
      fab := { s.fab with
        colls := s.fab.colls.map fire
        out := s.fab.out ++ if short then s.shortMsgs b else [] } }

/-- Entries made READY together (R243). -/
def State.tilesReady (s : State) (es : List Nat) : State := es.foldl State.tileReady s

/-! ### Queues (R17, R20) -/

/-- The copy engine that serves the C slot at place `nth` (R19, R20): 1 or 2. -/
def copyEngine (survive : BitVec 4) (nth : Nat) : Nat :=
  if nth == 0 then (if survive.getLsbD 2 then 1 else 2) else (if survive.getLsbD 3 then 2 else 1)

/-- The queue of an engine: 0 cascade, 1 and 2 copy. -/
def Engines.queue (e : Engines) (n : Nat) : List EngOp :=
  match n with
  | 0 => e.qm
  | 1 => e.q0
  | _ => e.q1

/-- The queue of an engine replaced. -/
def Engines.setQueue (e : Engines) (n : Nat) (q : List EngOp) : Engines :=
  match n with
  | 0 => { e with qm := q }
  | 1 => { e with q0 := q }
  | _ => { e with q1 := q }

/-- An engine instruction with nothing in it. -/
def blankOp (eng : Nat) : EngOp :=
  { id := 0
    instr := .angSwap ⟨0, none⟩
    eng := eng
    bundle := 0
    bpc := 0
    sa := 0
    sb := 0
    sd := 0
    daddr := 0
    aaddr := 0
    baddr := 0
    gaddr := 0
    dtag := 0
    atag := 0
    btag := 0
    dlen := 0
    rmode := 0
    seed := 0
    tensor := 0
    coord := 0
    acl := 0
    mshape := 0
    tailCmd := 0
    kmask := 0
    view := 0
    idx := []
    tmpl := 0
    waits := []
    prod := none
    alsoProd := []
    sbId := none
    begun := false
    pos := 0
    status := 0
    held := []
    plane := false
    answered := false
    writes := []
    rd := []
    wr := []
    clob := []
    seen := []
    part := 0
    again := false
    loose := false
    stamp := 0 }

/-- What an engine instruction captures at issue, beyond its own operands (R46). `s` is the state at the bundle's start. -/
def opOf (s : State) (p : At) (i : Instr) (eng : Nat) (t : EGuard) : EngOp :=
  { blankOp eng with
    instr := i
    bundle := s.ctx.pipe.bundleNo
    bpc := p.ba
    rmode := s.ctx.ctl.rmode
    seed := s.ctx.ctl.seed
    tensor := s.ctx.ctl.tensor
    coord := s.ctx.ctl.coord
    acl := s.ctx.ctl.acl
    mshape := s.ctx.ctl.mshape
    tailCmd := s.ctx.casc.tailKept
    waits := s.ctx.captures t
    plane := s.ctx.casc.active }

/-- Whether scratchpad bytes may still change before an engine instruction that issues now reads them: a store in its window, a scatter
that has not landed, an engine instruction that writes them and is not done. -/
def Ctx.unsettled (c : Ctx) (a n : Nat) : Bool :=
  (c.pipe.pend.any fun p => p.dst.addrs.any (fun x => a ≤ x && x < a + n) && p.dst.isSpad) ||
    (c.pipe.sb.any fun e =>
      match e.src with
      | .scatter ws _ => ws.any fun w => a ≤ w.1 && w.1 < a + n
      | _ => false) ||
    (c.eng.undone.any fun o => o.wr.any fun r => runsMeet r (false, a, n))

/-- An engine instruction enters its queue: it takes its place in program order, its token a new instance, and a
scalar result its scoreboard entry (R17, R27, R53); the bytes it will write are unsettled for those before it. -/
def enqueue (p : At) (t : EGuard) (o : EngOp) (res : Option SbDest) (s : State) : State :=
  let id := s.ctx.pipe.nextId
  let c := { s.ctx with pipe := { s.ctx.pipe with nextId := id + 1 } }
  let pr := match producesTok t with
    | none => (none, c)
    | some n => let r := c.newInstance n.toNat; (some r.1, r.2)
  let c := pr.2
  let c := match res with
    | none => c
    | some d =>
      match d with
      | .sreg n => c.addSb s.freeCtr (p.site 16) ⟨id, d, .waiting, p.ba, false, []⟩ [.sreg n 0]
      | .sregView n _ => c.addSb s.freeCtr (p.site 16) ⟨id, d, .waiting, p.ba, false, []⟩ [.sreg n 0]
      | .vec a => c.addSb s.freeCtr (p.site 16) ⟨id, d, .waiting, p.ba, false, []⟩ [.vec a [] []]
      | .spad => c.addSb s.freeCtr (p.site 16) ⟨id, d, .waiting, p.ba, false, []⟩ []
  let o := { o with id := id, prod := pr.1, sbId := if res.isSome then some id else none, stamp := s.freeCtr }
  let e := if o.wr.isEmpty then c.eng else c.eng.unsettle o.wr
  { s with ctx := { c with eng := e.setQueue o.eng (e.queue o.eng ++ [o]) } }

/-- The register that a scalar result of an engine instruction writes, for the collision check (R23). -/
def resWriters (res : Option SbDest) : List Writer :=
  match res with
  | none => []
  | some d =>
    match d with
    | .sreg n => [.dst (.sreg n 0)]
    | .sregView n w => [.dst (.sreg n 0), .view w]
    | .vec _ => []
    | .spad => []

/-- The token that a slot produces, for the collision check (R53). -/
def tokWriters (t : EGuard) : List Writer :=
  match producesTok t with
  | none => []
  | some n => [.tok n]

/-- Whether the registers of an engine slot stall its bundle (R27). -/
def engBusy (s : State) (reads : List (BitVec 6)) (res : Option SbDest) : Bool :=
  (reads.any fun n => sBusy s n) ||
    (match res with
     | none => false
     | some d =>
       match d with
       | .sreg n => sBusy s n
       | .sregView n w => sBusy s n || wBusy s w
       | .vec a => vBusy s a 256
       | .spad => false)

/-- An M or C slot: discarded when its guard is false (R18); else its checks, and its instruction queued. -/
def engSlot (s : State) (p : At) (t : EGuard) (reads : List (BitVec 6)) (res : Option SbDest) (checks : List (Option Stop))
    (o : EngOp) : SlotSem :=
  if !(eGuard s t) then SlotSem.nop
  else
    { SlotSem.nop with
      stall := engBusy s reads res
      stop := firstStop checks
      writers := resWriters res ++ tokWriters t
      apply := enqueue p t o res
      enq := some o.eng }

/-- The copy engine of a C slot. -/
def cEngine (s : State) (p : At) : Nat := copyEngine s.mgmt.survive p.nth

/-! ### Start and completion -/

/-- The started instruction of the given place in program order replaced. -/
def Engines.setStarted (e : Engines) (o : EngOp) : Engines :=
  { e with started := e.started.map fun x => if x.id == o.id then o else x }

/-- A started instruction removed. -/
def Engines.dropStarted (e : Engines) (id : Nat) : Engines :=
  { e with
    started := e.started.filter fun x => x.id != id
    wrote := e.wrote.filter fun r => r.1 != id }

/-- The tiles over an instruction's writes become FILLING, held by it (R243). -/
def holdTiles (s : State) (o : EngOp) : State × EngOp :=
  let es := (s.ctx.tilesOver o.wr).filter fun e => !(o.held.contains e)
  ({ s with ctx := es.foldl (fun c e => c.setTileState e .filling) s.ctx }, { o with held := o.held ++ es })

/-- An engine instruction completes: its entries become READY, its tokens done with its status, and a scalar result
that it owes becomes ready (R243, R264, R274). -/
def complete (s : State) (o : EngOp) (status : W64) (res : Option SbSrc) : State :=
  let s := { s with ctx := { s.ctx with eng := s.ctx.eng.dropStarted o.id } }
  let s := s.tilesReady o.held
  let c := o.alsoProd.foldl (fun c x => c.finishToken (some x) status) (s.ctx.finishToken o.prod status)
  let c := match o.sbId, res with
    | some id, some v => c.setSb id v
    | _, _ => c
  { s with ctx := c }

/-- An engine instruction ends with an error: its entries stay FILLING until TT.SET re-defines them (R281). -/
def endFailed (s : State) (o : EngOp) (status : W64) (res : Option SbSrc) : State :=
  let c := o.held.foldl (fun c e => c.setTile e { c.tile e with orphan := true }) s.ctx
  complete { s with ctx := c } { o with held := [] } status res

/-! ### Bytes that an engine instruction moves in the basin (R153, R218) -/

/-- What an engine instruction sees of a scratchpad byte that slots' stores overwrote under it, newest first: a store is seen or not,
by one free bit for all its bytes, and the bits of an instruction stay (R99, R218). -/
def seenByte (o : EngOp) (now : Byte) : List Clobber → Byte
  | [] => now
  | c :: rest =>
    if !c.hidden && Config.free o.stamp (2 ^ 52 + o.id % 2 ^ 20 * 2 ^ 16 + c.store) 1 == 1 then now else seenByte o c.old rest

/-- Basin bytes as an engine instruction reads them: of the register space, bytes that a slot wrote under it are free; of the
scratchpad, each store of a slot is seen or not (R153, R218). -/
def engRead (s : State) (o : EngOp) (reg : Bool) (site a n : Nat) : List Byte :=
  let bs := if reg then s.ctx.regBytes a n else s.ctx.spadBytes a n
  if o.clob.isEmpty then bs
  else bs.zipIdx.map fun p =>
    match o.clob.filter fun c => c.reg == reg && c.addr == a + p.2 with
    | [] => p.1
    | cs => if reg then Config.free s.freeCtr (site + p.2) 8 else seenByte o p.1 cs

/-- The bytes that an engine instruction has just written noted, next to the run before them. -/
def Engines.noteWrote (e : Engines) (id : Nat) (reg : Bool) (a : Nat) (bs : List (Option Byte)) : Engines :=
  let put := fun (w : List (Nat × Bool × Nat × Nat)) (x n : Nat) =>
    match w with
    | (i, r, b, k) :: rest => if i == id && r == reg && b + k == x then (i, r, b, k + n) :: rest else (id, reg, x, n) :: w
    | [] => [(id, reg, x, n)]
  if bs.all Option.isSome then { e with wrote := put e.wrote a bs.length }
  else { e with wrote := (writtenAddrs a bs).foldl (fun w x => put w x 1) e.wrote }

/-- Basin bytes that an engine instruction writes: a byte over which a slot's result stands keeps it (R153). -/
def engWrite (s : State) (o : EngOp) (reg : Bool) (a : Nat) (bs : List (Option Byte)) : State :=
  let bs' := if o.clob.isEmpty then bs
    else bs.zipIdx.map fun p =>
      if ((o.clob.find? fun c => c.reg == reg && c.addr == a + p.2).map Clobber.stands).getD false then none else p.1
  let c := if reg then s.ctx.putReg a bs' else s.ctx.putSpad a bs'
  { s with ctx := { c with eng := c.eng.noteWrote o.id reg a bs' } }

/-- FFLAGS raised by an engine instruction (R128, R191). -/
def State.raise (s : State) (f : Flags) : State :=
  { s with ctx := { s.ctx with ctl := { s.ctx.ctl with fflags := s.ctx.ctl.fflags ||| ((0 : BitVec 59) ++ f) } } }

/-- A message to the host. -/
def State.tell (s : State) (m : HostMsg) : State := { s with host := s.host ++ [m] }

end Sys2Proof.Machine
end

