-- ==== Sys2Proof/Machine/CascRun.lean ====
section
/-! DEFINITION. What the cascade engine does when an instruction of its queue executes: planes, passes, sweeps, product mode,
accumulators, queries and the sweep-state record (R189 to R234). -/

namespace Sys2Proof.Machine

open Sys2Proof

/-! ### Control words -/

/-- FIRST of a pass control word (Table 13-1). -/
def passFirst (w : W64) : Nat := w.toNat % 64
/-- LAST. -/
def passLast (w : W64) : Nat := w.toNat / 256 % 64
/-- A 6-bit count where 0 means 64. -/
def or64 (n : Nat) : Nat := if n == 0 then 64 else n
/-- V. -/
def passV (w : W64) : Nat := or64 (w.toNat / 65536 % 64)
/-- GACC. -/
def passGacc (w : W64) : Nat := w.toNat / 2 ^ 24 % 8

/-- M of a sweep control word (Table 12-1). -/
def sweepM (w : W64) : Nat := or64 (w.toNat % 64)
/-- N. -/
def sweepN (w : W64) : Nat := or64 (w.toNat / 256 % 64)
/-- W. -/
def sweepW (w : W64) : Nat := or64 (w.toNat / 65536 % 64)
/-- LOG. -/
def sweepLog (w : W64) : Bool := w.getLsbD 24

/-- QNT, QFMT and QSR of a tail command word (Table 13-2), as the output format. -/
def tailOut (w : W64) : Fmt := if w.getLsbD 4 then Fmt.ofCode (w.extractLsb' 8 4) else .fp32

/-- Whether a tail command word names a valid QFMT where QNT is set (R208). -/
def tailWordOk (w : W64) : Bool :=
  !(w.getLsbD 4) ||
    (match w.toNat / 256 % 16 with
     | 2 => true
     | 3 => true
     | 4 => true
     | 6 => true
     | 7 => true
     | _ => false)

/-- The tail that an instruction uses: the word captured at issue with the values in force (R207, R208, R216). -/
def tailOf (s : State) (o : EngOp) : TailCfg :=
  ⟨o.tailCmd.extractLsb' 0 5, Fmt.ofCode (o.tailCmd.extractLsb' 8 4), o.tailCmd.getLsbD 12, s.ctx.casc.g, s.ctx.casc.b,
    s.ctx.casc.act⟩

/-! ### Planes and patterns (R200, R201) -/

/-- The pairs of pattern n. -/
def patternPairs (c : Cascade) (n : Nat) : List (Nat × Nat) :=
  if n < 7 then butterfly n else imagePairs (c.patterns.toArray.getD (n - 7) pattern0)

/-- A stage of a plane: its pairs with their codes. -/
def stageOf (c : Cascade) (plane : Bool) (st : Nat) : StagePairs :=
  let pl := if plane then c.plane1 else c.plane0
  let sel := (pl.sels.extractLsb' (5 * st) 5).toNat
  (patternPairs c sel).zipIdx.map fun p => (p.1, (pl.codes.extractLsb' (16 * (64 * st + p.2)) 16).toNat)

/-- The stages FIRST to LAST of a pass, ascending; none when FIRST is above LAST (R199). -/
def passStages (c : Cascade) (plane : Bool) (w : W64) : List StagePairs :=
  if passLast w < passFirst w then []
  else (List.range (passLast w - passFirst w + 1)).map fun i => stageOf c plane (passFirst w + i)

/-- The cascade state of a context changed. -/
def State.setCasc (s : State) (f : Cascade → Cascade) : State := { s with ctx := { s.ctx with casc := f s.ctx.casc } }

/-- A bit vector from a list of fp32 codes. -/
def packWords (n : Nat) (xs : List Nat) : BitVec n := BitVec.ofNat n (ofLe (bytesOf 32 xs))

/-! ### Accumulators (R211) -/

/-- The 4,096 values of an accumulator: the live copy, or its storage. -/
def accRead (s : State) (a : Nat) : BitVec 131072 :=
  if s.ctx.casc.live == some a then s.ctx.casc.liveVal
  else BitVec.ofNat 131072 (ofLe (s.ctx.accBytes a 16384))

/-- An accumulator replaced: the live copy, or its storage. -/
def accWrite (s : State) (a : Nat) (v : BitVec 131072) : State :=
  if s.ctx.casc.live == some a then s.setCasc fun c => { c with liveVal := v }
  else { s with ctx := s.ctx.putAcc a (leBytes 16384 v.toNat) }

/-- The live accumulator written back to its storage (R211). A vector of fp32 values as bytes. -/
def Ctx.writeBackLive (c : Ctx) : Ctx :=
  match c.casc.live with
  | none => c
  | some a => { (c.putAcc a (leBytes 16384 c.casc.liveVal.toNat)) with casc := { c.casc with live := none } }

/-- An accumulator made live (R211). -/
def makeLive (s : State) (a : Nat) : State :=
  if s.ctx.casc.live == some a then s
  else
    let v := accRead s a
    let c := s.ctx.writeBackLive
    { s with ctx := { c with casc := { c.casc with live := some a, liveVal := v } } }

/-- `n` bits of a bit vector replaced from bit `lo` on. -/
def putBits {w : Nat} (x : BitVec w) (lo n v : Nat) : BitVec w :=
  let m : BitVec w := BitVec.ofNat w ((2 ^ n - 1) * 2 ^ lo)
  (x &&& ~~~ m) ||| BitVec.ofNat w (v % 2 ^ n * 2 ^ lo)

/-! ### Reads and writes of the basin by an instruction -/

/-- Whether bytes that an instruction reads are uncorrectable (R370). -/
def engBad (s : State) (reg : Bool) (a n : Nat) : Bool := s.ctx.basin.poisoned (if reg then 0 else 2) a n

/-- The granules that an output occupies tagged, with their sidebands zero (R39, R40, R209). -/
def tagOutput (s : State) (a granules : Nat) (f : Fmt) : State :=
  let b := s.ctx.basin.setTags a (256 * granules) f
  { s with ctx := { s.ctx with basin := b.setSides a (List.replicate (16 * granules) 0) } }

/-- Scale bytes of consecutive MX blocks, the first being block `blk` of the output at `a` (R39). -/
def putScales (s : State) (a : Nat) (f : Fmt) (blk : Nat) (bs : List Byte) : State :=
  let per := f.lanes / 32
  let b := bs.zipIdx.foldl (fun (b : Basin) x =>
    let k := blk + x.2
    { (b.mark (256 * (a / 256 + k / per))) with side := b.side.writeAll ((a / 256 + k / per) * 16 + k % per) [x.1] }) s.ctx.basin
  { s with ctx := { s.ctx with basin := b } }

/-! ### Passes (R198 to R209, R221, R222) -/

/-- Bytes of an input vector. -/
def inBytes (f : Fmt) : Nat := 16 * f.width

/-- Granules that an output of `n` elements occupies. -/
def outGranules (f : Fmt) (n : Nat) : Nat := (n + f.lanes - 1) / f.lanes

/-- Whether the input and output of a pass overlap in a way that leaves its data unspecified at vector `v` (R209). -/
def passTorn (o : EngOp) (f out : Fmt) (v : Nat) : Bool :=
  !(o.daddr == o.aaddr && out.width ≤ f.width) && meets o.daddr (v * inBytes out) (o.aaddr + v * inBytes f) (inBytes f)

/-- An input vector as fp32 codes (R198). -/
def passInput (s : State) (o : EngOp) (f out : Fmt) (v : Nat) : List Nat :=
  if passTorn o f out v then
    (List.range 128).map fun l => (Config.free s.freeCtr (2 ^ 20 + l) 32).toNat
  else
    let xs := lanesOf f.width (engRead s o true (2 ^ 21) (o.aaddr + v * inBytes f) (inBytes f))
    if f == .fp32 then xs else xs.map fun x => (fp32F.round .rne (f.fval x)).1

/-- The stochastic mode of a cascade result at COORD plus an index (R141). -/
def opSr (o : EngOp) (i : Nat) : RMode := .sr (generator o.seed o.tensor (o.coord + BitVec.ofNat 64 i))

/-- One vector of ROTP or ROTI (R221). An fp32 NaN that no stage computes on passes as it is, in a pass that rotates nothing with every
tail stage off as in ACC.OUT (DEDUCED, log entry 93). -/
def passUnit (inverse : Bool) (s : State) (o : EngOp) : State :=
  let f := Fmt.ofCode o.atag
  let cfg := tailOf s o
  let out := cfg.out
  let v := o.pos
  let sts := passStages s.ctx.casc o.plane o.sb
  let d := driftOf sts
  let r := stagesStep inverse (if inverse then sts.reverse else sts) (passInput s o f out v)
  let t := r.1.zipIdx.map fun x => tailElem cfg x.2 (d.getD x.2 one32) x.1
  let q := tailQuant cfg (fun i => opSr o (128 * v + i)) (t.map Prod.fst)
  let s := engWrite s o true (o.daddr + v * inBytes out) (q.1.map some)
  let s := putScales s o.daddr out (4 * v) q.2.1
  s.raise (r.2 ||| t.foldl (fun acc x => acc ||| x.2) 0 ||| q.2.2)

/-- The end of a pass: the last granule completed with +0, and the drift vector (R209, R221). -/
def passEnd (s : State) (o : EngOp) : State :=
  let out := tailOut o.tailCmd
  let n := passV o.sb * inBytes out
  let pad := outGranules out (128 * passV o.sb) * 256 - n
  let s := engWrite s o true (o.daddr + n) (List.replicate pad (some 0))
  s.setCasc fun c => { c with drift := packWords 4096 (driftOf (passStages c o.plane o.sb)) }

/-- A vector of ROTG's tiles; bytes of overlapping tiles are unspecified (R206). -/
def gradInput (s : State) (o : EngOp) (a v site : Nat) : List Nat :=
  let n := 512 * passV o.sb
  if meets o.daddr n o.aaddr n then (List.range 128).map fun l => (Config.free s.freeCtr (site + l) 32).toNat
  else lanesOf 32 (engRead s o true site (a + 512 * v) 512)

/-- One vector of ROTG (R206, R222). -/
def gradUnit (s : State) (o : EngOp) : State :=
  let s := makeLive s o.gaddr
  let v := o.pos
  let first := passFirst o.sb
  let sts := (passStages s.ctx.casc o.plane o.sb).zipIdx.reverse
  let go := sts.foldl (fun (acc : List Nat × List Nat × BitVec 131072 × Flags) st =>
    let lo := 2048 * (first + st.2)
    let grad := (List.range 64).map fun p => (acc.2.2.1.extractLsb' (lo + 32 * p) 32).toNat
    let r := gradStep st.1 acc.1 acc.2.1 grad
    (r.1, r.2.1, putBits acc.2.2.1 lo 2048 (ofLe (bytesOf 32 r.2.2.1)), acc.2.2.2 ||| r.2.2.2))
    (gradInput s o o.aaddr v (2 ^ 20), gradInput s o o.daddr v (2 ^ 21), accRead s o.gaddr, (0 : Flags))
  let s := accWrite s o.gaddr go.2.2.1
  let s := engWrite s o true (o.aaddr + 512 * v) ((bytesOf 32 go.1).map some)
  let s := engWrite s o true (o.daddr + 512 * v) ((bytesOf 32 go.2.1).map some)
  s.raise go.2.2.2

/-- The end of ROTG: the drift vector (R222). -/
def gradEnd (s : State) (o : EngOp) : State :=
  s.setCasc fun c => { c with drift := packWords 4096 (driftOf (passStages c o.plane o.sb)) }

/-! ### Sweeps (R189 to R193, R223) -/

/-- The rotations of a sweep. -/
def sweepOf (w : W64) : List (Nat × Nat) := sweepSeq (sweepM w) (sweepN w)

/-- The fp32 codes of row `i` of a sweep's tile. -/
def sweepRow (s : State) (o : EngOp) (site i : Nat) : List Nat :=
  lanesOf 32 (engRead s o true site (o.daddr + 256 * i) 256)

/-- Columns `k` on of row `i` written. -/
def putCols (s : State) (o : EngOp) (i k : Nat) (xs : List Nat) : State :=
  engWrite s o true (o.daddr + 256 * i + 4 * k) ((bytesOf 32 xs).map some)

/-- One rotation of TRI (R191). -/
def triUnit (s : State) (o : EngOp) : State :=
  match (sweepOf o.sa)[o.pos]? with
  | none => s
  | some (j, i) =>
    let n := sweepN o.sa
    let up := sweepRow s o (2 ^ 20) (i - 1)
    let lo := sweepRow s o (2 ^ 21) i
    let ang := triAngle (up.getD j 0) (lo.getD j 0)
    let s := match ang.2.2.1 with
      | none => s
      | some h =>
        let k := n - (j + 1)
        let r := rotRows ang.1 ang.2.1 (sliceOf up (j + 1) k) (sliceOf lo (j + 1) k)
        let s := putCols s o (i - 1) j (h :: r.1)
        (putCols s o i j (0 :: r.2.1)).raise (ang.2.2.2 ||| r.2.2)
    if sweepLog o.sa then
      engWrite s o false (o.sb.toNat + 8 * o.pos) ((bytesOf 32 [ang.1, ang.2.1]).map some)
    else s

/-- One rotation of GROT (R192). -/
def grotUnit (s : State) (o : EngOp) : State :=
  match (sweepOf o.sa)[o.pos]? with
  | none => s
  | some (_, i) =>
    let cs := lanesOf 32 (engRead s o false (2 ^ 24) (o.sb.toNat + 8 * o.pos) 8)
    let w := sweepW o.sa
    let r := rotRows (cs.getD 0 0) (cs.getD 1 0) ((sweepRow s o (2 ^ 20) (i - 1)).take w) ((sweepRow s o (2 ^ 21) i).take w)
    let s := putCols s o (i - 1) 0 r.1
    (putCols s o i 0 r.2.1).raise r.2.2

/-! ### Units of an interruptible instruction (R193, R216) -/

/-- The units of an instruction: vectors, rotations, or one for an instruction that is never interrupted. -/
def cascUnits (o : EngOp) : Nat :=
  match o.instr with
  | .rotp _ _ _ _ => passV o.sb
  | .roti _ _ _ _ => passV o.sb
  | .rotg _ _ _ _ => passV o.sb
  | .tri _ _ _ _ => (sweepOf o.sa).length
  | .grot _ _ _ _ => (sweepOf o.sa).length
  | _ => 1

/-- Whether an instruction can be interrupted between its units. -/
def isSweep (o : EngOp) : Bool :=
  match o.instr with
  | .rotp _ _ _ _ => true
  | .roti _ _ _ _ => true
  | .rotg _ _ _ _ => true
  | .tri _ _ _ _ => true
  | .grot _ _ _ _ => true
  | _ => false

/-- One unit of an interruptible instruction. -/
def sweepUnit (s : State) (o : EngOp) : State :=
  match o.instr with
  | .rotp _ _ _ _ => passUnit false s o
  | .roti _ _ _ _ => passUnit true s o
  | .rotg _ _ _ _ => gradUnit s o
  | .tri _ _ _ _ => triUnit s o
  | .grot _ _ _ _ => grotUnit s o
  | _ => s

/-- What follows the last unit. -/
def sweepEnd (s : State) (o : EngOp) : State :=
  match o.instr with
  | .rotp _ _ _ _ => passEnd s o
  | .roti _ _ _ _ => passEnd s o
  | .rotg _ _ _ _ => gradEnd s o
  | _ => s

/-- The bytes that the next unit reads, as runs of the basin. -/
def unitReads (o : EngOp) : List (Bool × Nat × Nat) :=
  match o.instr with
  | .rotp _ _ _ _ => [(true, o.aaddr + o.pos * inBytes (Fmt.ofCode o.atag), inBytes (Fmt.ofCode o.atag))]
  | .roti _ _ _ _ => [(true, o.aaddr + o.pos * inBytes (Fmt.ofCode o.atag), inBytes (Fmt.ofCode o.atag))]
  | .rotg _ _ _ _ => [(true, o.aaddr + 512 * o.pos, 512), (true, o.daddr + 512 * o.pos, 512)]
  | .tri _ _ _ _ =>
    match (sweepOf o.sa)[o.pos]? with
    | none => []
    | some (_, i) => [(true, o.daddr + 256 * (i - 1), 512)]
  | .grot _ _ _ _ =>
    match (sweepOf o.sa)[o.pos]? with
    | none => []
    | some (_, i) => [(true, o.daddr + 256 * (i - 1), 512), (false, o.sb.toNat + 8 * o.pos, 8)]
  | _ => o.rd

/-- Whether the next unit would read uncorrectable bytes. -/
def unitBad (s : State) (o : EngOp) : Bool := (unitReads o).any fun r => engBad s r.1 r.2.1 r.2.2

/-- An instruction advanced by one unit. -/
def advance (s : State) (o : EngOp) : State × EngOp :=
  let t := sweepUnit s o
  (t, { o with pos := o.pos + 1 })

/-- A started instruction put back with its progress, or completed when no unit is left. -/
def settle (s : State) (o : EngOp) : State :=
  if cascUnits o ≤ o.pos then complete (sweepEnd s o) o 0 none
  else { s with ctx := { s.ctx with eng := s.ctx.eng.setStarted o } }

/-- Up to `n` units of an interruptible instruction, and its completion after the last; uncorrectable bytes end it with
MEM_UNCORR (R281, R370). -/
def runSweep : (n : Nat) → State → EngOp → State
  | 0, s, o => settle s o
  | n + 1, s, o =>
    if cascUnits o ≤ o.pos then settle s o
    else if unitBad s o then endFailed s o (statusOf 3 0 o.pos) none
    else
      let r := advance s o
      runSweep n r.1 r.2

/-! ### The sweep-state record (R194, R216, R224) -/

/-- The M-class operation code of an interruptible instruction. -/
def sweepOp (o : EngOp) : Nat :=
  match o.instr with
  | .rotp _ _ _ _ => 0x04
  | .roti _ _ _ _ => 0x05
  | .rotg _ _ _ _ => 0x06
  | .tri _ _ _ _ => 0x09
  | .grot _ _ _ _ => 0x0A
  | _ => 0

/-- The record of an instruction at its interruption point (Table 12-5); one that SWP.LD resumed (`answered`) keeps the PE and
PO of its own record, in `dlen`. -/
def sweepRecord (o : EngOp) : BitVec 512 :=
  let sweep := sweepOp o == 0x09 || sweepOp o == 0x0A
  let rotg := sweepOp o == 0x06
  let nx := if sweep then (sweepOf o.sa).getD o.pos (0, 0) else (0, 0)
  let pe := if o.answered then 256 * o.dlen else
    match o.prod with
    | none => 0
    | some (n, _) => 4096 + 256 * n
  let q0 := sweepOp o + pe + nx.1 * 2 ^ 16 + nx.2 * 2 ^ 24
  let q1 := if sweep then (if o.plane then 1 else 0)
    else (if o.plane then 1 else 0) + o.tailCmd.toNat % 32 * 2 ^ 24 + passFirst o.sb * 2 ^ 32 + passLast o.sb * 2 ^ 38 +
      (if rotg then 1 else o.atag.toNat) * 2 ^ 44 + o.tailCmd.toNat / 256 % 16 * 2 ^ 48 +
      o.tailCmd.toNat / 4096 % 2 * 2 ^ 52
  let q2 := if rotg then o.gaddr else 0
  let q4 := if sweep then o.pos * 2 ^ 32 else o.pos
  let q5 := (if sweep then 0 else o.aaddr) + o.daddr * 2 ^ 32
  let opa := if sweep then o.sa.toNat else 0
  BitVec.ofNat 512 (q0 + q1 * 2 ^ 64 + q2 * 2 ^ 128 + q4 * 2 ^ 256 + q5 * 2 ^ 320 + opa * 2 ^ 384 + o.sb.toNat * 2 ^ 448)

/-- Whether a record is valid (R225): a known operation, reserved bits zero, progress inside the sweep or the pass. -/
def recordOk (r : BitVec 512) : Bool :=
  let op := r.toNat % 128
  let sweep := op == 0x09 || op == 0x0A
  let opa := r.extractLsb' 384 64
  let opb := r.extractLsb' 448 64
  let reserved := r.getLsbD 7 || r.extractLsb' 13 3 != 0 || r.extractLsb' 22 2 != 0 || r.extractLsb' 30 34 != 0 ||
    r.extractLsb' 65 23 != 0 || r.extractLsb' 93 3 != 0 || r.extractLsb' 117 11 != 0 || r.extractLsb' 160 96 != 0
  let pos := (r.extractLsb' 288 32).toNat
  let next := ((r.extractLsb' 16 6).toNat, (r.extractLsb' 24 6).toNat)
  let known := op == 0x04 || op == 0x05 || op == 0x06 || sweep
  known && !reserved &&
    (if sweep then (sweepOf opa)[pos]? == some next else (r.extractLsb' 256 32).toNat < passV opb)

/-- An instruction taken from a record (R195, R216, R225): it checks no tag and no address again. Its stochastic rounding takes the
SEED, TENSOR and COORD captured at the issue of the SWP.LD, as the record holds none of them (DESIGN CHOICE, log entry 92). -/
def opOfRecord (o : EngOp) (r : BitVec 512) : EngOp :=
  let t : EGuard := ⟨0, none⟩
  let op := r.toNat % 128
  let sweep := op == 0x09 || op == 0x0A
  let instr : Instr := match op with
    | 0x04 => .rotp t 0 0 0
    | 0x05 => .roti t 0 0 0
    | 0x06 => .rotg t 0 0 0
    | 0x09 => .tri t 0 0 0
    | _ => .grot t 0 0 0
  let opa := r.extractLsb' 384 64
  let opb := r.extractLsb' 448 64
  let daddr := (r.extractLsb' 352 32).toNat
  let aaddr := (r.extractLsb' 320 32).toNat
  let cmd := (r.extractLsb' 88 5).toNat + (r.extractLsb' 112 4).toNat * 256 + (r.extractLsb' 116 1).toNat * 4096
  let out := tailOut (BitVec.ofNat 64 cmd)
  let atag := r.extractLsb' 108 4
  let v := passV opb
  let spans : List (Bool × Nat × Nat) × List (Bool × Nat × Nat) :=
    if op == 0x06 then
      ([(true, aaddr, 512 * v), (true, daddr, 512 * v)], [(true, aaddr, 512 * v), (true, daddr, 512 * v)])
    else if sweep then
      let tile := [(true, daddr, 256 * sweepM opa)]
      let log := [(false, opb.toNat, 8 * (sweepOf opa).length)]
      if op == 0x09 then (tile, if sweepLog opa then tile ++ log else tile) else (tile ++ log, tile)
    else ([(true, aaddr, v * inBytes (Fmt.ofCode atag))], [(true, daddr, 256 * outGranules out (128 * v))])
  { o with
    instr := instr
    sa := if sweep then opa else 0
    sb := opb
    daddr := daddr
    aaddr := aaddr
    gaddr := (r.extractLsb' 128 32).toNat
    atag := atag
    tailCmd := BitVec.ofNat 64 cmd
    plane := r.getLsbD 64
    dlen := (r.extractLsb' 8 5).toNat
    pos := if sweep then (r.extractLsb' 288 32).toNat else (r.extractLsb' 256 32).toNat
    rd := spans.1
    wr := spans.2 }

/-- The instruction that SWP.SV interrupts, at its interruption point (R224): one that has started and has such a point
ahead, with no other M instruction waiting. -/
def interruptible (s : State) : Option EngOp :=
  if s.ctx.eng.qm.isEmpty then
    s.ctx.eng.started.find? fun o => o.eng == 0 && isSweep o && o.pos < cascUnits o && 1 < cascUnits o
  else none

/-- SWP.SV acts (R224): the record, or 64 zero bytes, and its token. DESIGN CHOICE (log entry 109): a pass that it withdraws leaves no drift;
DRIFT.RD gives that of the last pass that has ended. -/
def saveSweep (a : Nat) (tok : Option (Nat × Nat)) (s : State) : State :=
  let put := fun (t : State) (r : BitVec 512) =>
    let c := t.ctx.putSpad a ((leBytes 64 r.toNat).map some)
    { t with ctx := c.finishToken tok 0 }
  match interruptible s with
  | none => put s 0
  | some o =>
    if o.pos == 0 && unitBad s o then put (endFailed s o (statusOf 3 0 0) none) 0
    else
      let r := if o.pos == 0 then advance s o else (s, o)
      let gone : Withdrawn := ⟨sweepRecord r.2, r.2.alsoProd ++ r.2.prod.toList, r.2.held⟩
      let t := { r.1 with ctx := { r.1.ctx with eng := { (r.1.ctx.eng.dropStarted o.id) with
          withdrawn := gone :: r.1.ctx.eng.withdrawn } } }
      put t gone.record

/-! ### Product mode (R210, R226, R227) -/

/-- Rows and columns of MSHAPE. -/
def mshapeM (w : W64) : Nat := or64 (w.toNat % 64)
/-- N of MSHAPE. -/
def mshapeN (w : W64) : Nat := or64 (w.toNat / 256 % 64)

/-- An operand of product mode as it executes: its data bytes, its sideband bytes granule by granule, its bitmap. -/
structure ProdSrc where
  fmt : Fmt
  bytes : List Byte
  sides : List Byte
  bits : Option (List Byte)

/-- Element k of row i as an exact value, without its scale (R122, R143). -/
def ProdSrc.elem (x : ProdSrc) (k i j : Nat) : FVal :=
  let n := i * k + j
  let v := bitsAt (ofLe (sliceOf x.bytes (n * x.fmt.width / 8) 2)) (n * x.fmt.width % 8) x.fmt.width
  match x.fmt with
  | .mxfp8 => e4m3F.decode v
  | .mxfp4 => e2m1F.decode v
  | f => f.fval v

/-- The scale code of the block that holds element k of row i (R147). -/
def ProdSrc.scale (x : ProdSrc) (k i j : Nat) : Nat :=
  let blk := (i * k + j) / 32
  let per := x.fmt.lanes / 32
  (x.sides.getD (blk / per * 16 + blk % per) 0).toNat

/-- Whether element k of row i takes part (R122). -/
def ProdSrc.on (x : ProdSrc) (k i j : Nat) : Bool :=
  match x.bits with
  | none => true
  | some bs => (bs.getD ((i * k + j) / 8) 0).getLsbD ((i * k + j) % 8)

/-- One output element: the groups of its row pair added in ascending k (R143 to R147, R227). -/
def prodElem (a b : ProdSrc) (k i j acc : Nat) : Elem :=
  let g := groupSize a.fmt
  let fp8 := a.fmt == .e4m3 || a.fmt == .e5m2
  (List.range ((k + g - 1) / g)).foldl (fun (r : Elem) q =>
    let ks := ((List.range g).map fun x => g * q + x).filter fun x => x < k && a.on k i x && b.on k j x
    let ps := ks.map fun x => mulExact (a.elem k i x) (b.elem k j x)
    let sc : Option Int :=
      if a.fmt.isBlk then
        let ea := a.scale k i (g * q)
        let eb := b.scale k j (g * q)
        if ea == 255 || eb == 255 then none else some ((ea : Int) + eb - 254)
      else some 0
    let n := addGroup fp8 sc r.1 ps
    (n.1, r.2 ||| n.2)) (acc, 0)

/-- The accumulator after a product (R227). -/
def prodAcc (a b : ProdSrc) (m n k : Nat) (acc : BitVec 131072) : BitVec 131072 × Flags :=
  (List.range m).foldl (fun r i =>
    (List.range n).foldl (fun r j =>
      let e := prodElem a b k i j (word32 acc (64 * i + j))
      (putBits r.1 (32 * (64 * i + j)) 32 e.1, r.2 ||| e.2)) r) (acc, 0)

/-- K of a product: IMM12, or the full width of the formats (R210). -/
def fullWidth (f : Fmt) : Option Nat :=
  match f with
  | .bf16 => some 128
  | .e4m3 => some 256
  | .e5m2 => some 256
  | .mxfp8 => some 256
  | .mxfp4 => some 512
  | _ => none

/-- A page that an engine needs: the host is asked for it once (R255). -/
def askPage (s : State) (page : Nat) : State :=
  let s := { s with ctx := { s.ctx with eng := { s.ctx.eng with wants := some page } } }
  if s.mem.pageReqs.contains (s.ctx.asid, page) then s
  else { (s.tell (.pageRequest s.ctx.asid page)) with
    mem := { s.mem with pageReqs := s.mem.pageReqs ++ [(s.ctx.asid, page)] } }

/-- How an instruction goes on: it waits (with what waiting does), it ends with a status, or it ran. -/
inductive EngStep (α : Type) where
  | waits (s : State)
  | failed (s : State) (status : W64)
  | done (s : State) (r : α)

/-- `n` vectors popped from a port by the cascade engine (R210, R226), after `k` of them. -/
def enginePop (q : Nat) : (n k : Nat) → State → List Byte → EngStep (List Byte)
  | 0, _, s, acc => .done s acc
  | n + 1, k, s, acc =>
    let v := popVec s (2 ^ 25 + 2 ^ 20 * k) q 0
    if !v.ready then .waits s
    else
      match v.stop, v.unc with
      | some (.page pg), _ => .waits (askPage s pg)
      | some (.unresolvable _), _ => .failed s (statusOf 1 0 (s.ctx.port q).pos)
      | some (.trap _ _), _ => .failed s (statusOf 2 0 (s.ctx.port q).pos)
      | some .hold, _ => .waits s
      | none, some _ => .failed s (statusOf 3 0 (s.ctx.port q).pos)
      | none, none =>
        let s := s.popReads q v
        let c := if v.past then s.ctx.setQend q
          else s.ctx.setPort q { s.ctx.port q with pos := (s.ctx.port q).pos + v.tag.lanes }
        enginePop q n (k + 1) ({ s with ctx := c }.raise v.raised) (acc ++ v.bytes)

/-- The sidebands of `n` granules from `a` on. -/
def sidesOf (s : State) (a n : Nat) : List Byte := (List.range n).flatMap fun i => s.ctx.basin.sideAt (a + 256 * i)

/-- An operand of product mode read: a tile's bytes, or the vectors of a port (R122, R210, R226). -/
def prodSource (s : State) (o : EngOp) (v : BitVec 6) (addr rows : Nat) (tag : BitVec 4) (bitmap : Option Nat) :
    EngStep ProdSrc :=
  let f := Fmt.ofCode tag
  let n := rows * o.dlen
  match portOf v with
  | some q =>
    match enginePop q ((n + f.lanes - 1) / f.lanes) 0 s [] with
    | .waits t => .waits t
    | .failed t st => .failed t st
    | .done t bs => .done t ⟨f, bs, [], none⟩
  | none =>
    let len := (n * f.width + 7) / 8
    .done s ⟨f, engRead s o true (2 ^ 20) addr len, sidesOf s addr ((len + 255) / 256),
      bitmap.map fun b => engRead s o true (2 ^ 21) b ((n + 7) / 8)⟩

/-- MPROD and MPRODB execute: the operands, then the accumulator in one step; an instruction that waits or fails leaves
ports and accumulator as they were (R216, R227). `ma` and `mb` are the bitmap tiles. -/
def prodRun (s : State) (o : EngOp) (a b : BitVec 6) (ma mb : Option Nat) : State :=
  let m := mshapeM o.mshape
  let n := mshapeN o.mshape
  let fail := fun (t : State) (st : W64) =>
    endFailed { t with ctx := { t.ctx with eng := { t.ctx.eng with ports := s.ctx.eng.ports } } } o st none
  let wait := fun (t : State) =>
    { t with ctx := { t.ctx with eng := { t.ctx.eng with ports := s.ctx.eng.ports }, tr := s.ctx.tr, ctl := s.ctx.ctl } }
  match prodSource s o a o.aaddr m o.atag ma with
  | .waits t => wait t
  | .failed t st => fail t st
  | .done t x =>
    match prodSource t o b o.baddr n o.btag mb with
    | .waits t => wait t
    | .failed t st => fail t st
    | .done t y =>
      if o.rd.any fun r => engBad t r.1 r.2.1 r.2.2 then fail t (statusOf 3 0 0)
      else
        let t := makeLive t o.daddr
        let r := prodAcc x y m n o.dlen (accRead t o.daddr)
        complete ((accWrite t o.daddr r.1).raise r.2) o 0 none

/-! ### ACC.OUT (R212, R230) -/

/-- The output of ACC.OUT, row after row: bytes, scales and flags. -/
def accOutput (cfg : TailCfg) (o : EngOp) (acc : BitVec 131072) (m fill : Nat) (mask : Option (List Byte)) :
    List Byte × List Byte × Flags :=
  let vals : List Elem := (List.range (64 * m)).map fun e =>
    let keep := match mask with
      | none => true
      | some bs => (bs.getD (e / 8) 0).getLsbD (e % 8)
    if keep then tailElem cfg (e % 64) one32 (word32 acc e) else (maskFill .fp32 fill, 0)
  let q := tailQuant cfg (opSr o) (vals.map Prod.fst)
  (q.1, q.2.1, vals.foldl (fun acc v => acc ||| v.2) q.2.2)

/-- SP and ADDR of an accumulator address descriptor (Table 14-2). -/
def descSpad (w : W64) : Bool := w.getLsbD 63
/-- ADDR. -/
def descAddr (w : W64) : Nat := w.toNat % 2 ^ 32

/-- MASK, FILL and MTILE of an ACC.OUT control word (Table 14-3). -/
def outMask (w : W64) : Bool := w.getLsbD 8
/-- FILL. -/
def outFill (w : W64) : Nat := w.toNat / 64 % 4
/-- MTILE. -/
def outTile (w : W64) : Nat := w.toNat % 16

/-- The records of a block-format output in the scratchpad: each granule's bytes, then its sideband (R230). -/
def recordBytes (f : Fmt) (data scales : List Byte) (n : Nat) : List Byte :=
  (List.range n).flatMap fun g =>
    let per := f.lanes / 32
    let sc := sliceOf scales (g * per) per
    let d := sliceOf data (256 * g) 256
    d ++ List.replicate (256 - d.length) 0 ++ sc ++ List.replicate (16 - sc.length) 0

/-- ACC.OUT executes (R230). -/
def accOutRun (s : State) (o : EngOp) : State :=
  let cfg := tailOf s o
  let m := mshapeM o.mshape
  let f := cfg.out
  let mask := if outMask o.sb then some (engRead s o true (2 ^ 20) o.baddr 512) else none
  if outMask o.sb && engBad s true o.baddr 512 then endFailed s o (statusOf 3 0 0) none
  else
    let r := accOutput cfg o (accRead s o.daddr) m (outFill o.sb) mask
    let n := outGranules f (64 * m)
    let torn := outMask o.sb && o.wr.any fun w => w.1 && meets w.2.1 w.2.2 o.baddr 512
    let free := fun (bs : List Byte) => if torn then
        bs.zipIdx.map fun b => if meets (descAddr o.sa + b.2) 1 o.baddr 512 then Config.free s.freeCtr (2 ^ 26 + b.2) 8 else b.1
      else bs
    let s := if descSpad o.sa then
        let bs := if f.isBlk then recordBytes f r.1 r.2.1 n else r.1 ++ List.replicate (256 * n - r.1.length) 0
        engWrite s o false (descAddr o.sa) (bs.map some)
      else
        let s := engWrite s o true (descAddr o.sa)
          ((free (r.1 ++ List.replicate (256 * n - r.1.length) 0)).map some)
        putScales s (descAddr o.sa) f 0 r.2.1
    complete (s.raise r.2.2) o 0 none

/-- A loading instruction ends with MEM_UNCORR where its image is uncorrectable; else it takes the image (R219, R229). -/
def loadRun (s : State) (o : EngOp) (reg : Bool) (a n : Nat) (f : State → List Byte → State) : State :=
  if engBad s reg a n then endFailed s o (statusOf 3 0 0) none
  else complete (f s (engRead s o reg (2 ^ 20) a n)) o 0 none

/-- ANG.LD: the shadow plane from an image (R201). -/
def angLoad (s : State) (bs : List Byte) : State :=
  let codes := BitVec.ofNat 65536 (ofLe (bs.take 8192))
  let sels := BitVec.ofNat 320 ((sliceOf bs 8192 64).foldr (fun b acc => b.toNat % 32 + 32 * acc) 0)
  s.setCasc fun c => if c.active then { c with plane0 := ⟨codes, sels⟩ } else { c with plane1 := ⟨codes, sels⟩ }

/-- PAT.LD (R200). -/
def patLoad (n : Nat) (s : State) (bs : List Byte) : State :=
  let img := BitVec.ofNat 1024 (ofLe bs)
  s.setCasc fun c =>
    if imageOk img then { c with patterns := c.patterns.setIfInBounds (n - 7) img } else { c with status := c.status ||| 1 }

/-- TAIL.SET (R208, R220): an invalid word sets TAILERR and loads nothing. -/
def tailLoad (word : W64) (s : State) (bs : List Byte) : State :=
  s.setCasc fun c =>
    if tailWordOk word then
      { c with
        tailCmd := word
        g := BitVec.ofNat 4096 (ofLe (bs.take 512))
        b := BitVec.ofNat 4096 (ofLe (sliceOf bs 512 512)) }
    else { c with status := c.status ||| 2 }

/-- ACT.LD (R208). -/
def actLoad (s : State) (bs : List Byte) : State := s.setCasc fun c => { c with act := BitVec.ofNat 16512 (ofLe bs) }

/-- ACC.LD (R229). -/
def accLoad (a : Nat) (s : State) (bs : List Byte) : State := accWrite s a (BitVec.ofNat 131072 (ofLe bs))

/-- DRIFT.RD (R233). -/
def driftRun (s : State) (o : EngOp) : State :=
  complete (engWrite s o true o.daddr ((leBytes 512 s.ctx.casc.drift.toNat).map some)) o 0 none

/-- ARR.Q (R234). -/
def queryRun (s : State) (o : EngOp) (sel : Nat) : State :=
  let c := s.ctx.casc
  let v : W64 := match sel with
    | 0 => c.status.setWidth 64
    | 1 => c.status.setWidth 64
    | 2 => c.peerDup
    | 3 => if c.active then 1 else 0
    | _ => c.peerSeq
  let s := if sel == 1 then s.setCasc fun c => { c with status := 0 } else s
  complete s o 0 (some (.value v 0))

/-- What SWP.SV left of the instruction of a record (R224, R225). DESIGN CHOICE (log entry 41): a record equal to none that SWP.SV left is
taken for the latest of those with its PE and PO, on whose held entries the instruction then does not wait. -/
def Ctx.withdrawnOf (c : Ctx) (rec : BitVec 512) : Option Withdrawn :=
  match c.eng.withdrawn.find? fun w => w.record == rec with
  | some w => some w
  | none => c.eng.withdrawn.find? fun w => w.record.extractLsb' 8 5 == rec.extractLsb' 8 5

/-- The instruction of a valid record resumes as SWP.LD (R225): it takes the entries that the withdrawn one holds (R224), waits on
the others as R121 and R243 ask, and produces the recorded token beside its own; none while it waits. -/
def resumeRecord (s : State) (o : EngOp) (rec : BitVec 512) : Option (State × EngOp) :=
  let p := opOfRecord o rec
  let w := s.ctx.withdrawnOf rec
  let held := (w.map Withdrawn.held).getD []
  let tiles := p.wr.filter fun r => r.1
  if !(s.ctx.tilesAllow held p.rd tiles) then none
  else
    let n := (rec.extractLsb' 8 4).toNat
    let c := { s.ctx with eng := { s.ctx.eng with
      withdrawn := match w with
        | none => s.ctx.eng.withdrawn
        | some x => s.ctx.eng.withdrawn.erase x } }
    let r : List (Nat × Nat) × Ctx :=
      match w with
      | some x => (x.toks, c)
      | none =>
        if !(rec.getLsbD 12) then ([], c)
        else if (o.prod.map Prod.fst) == some n then (o.prod.toList, c)
        else let q := c.newInstance n; ([q.1], q.2)
    let h := holdTiles { s with ctx := r.2 } { p with wr := tiles, held := held }
    some (h.1, { h.2 with wr := p.wr, alsoProd := r.1, answered := true, begun := true })

/-- The record that SWP.LD reads, or none of uncorrectable bytes. -/
def recordRead (s : State) (o : EngOp) : Option (BitVec 512) :=
  if engBad s false o.sa.toNat 64 then none
  else some (BitVec.ofNat 512 (ofLe (engRead s o false (2 ^ 20) o.sa.toNat 64)))

/-- The basin bytes that an SWP.LD may write once it executes (R153, R193): by the record that stands, or any while it is still to
arrive. -/
def recordRuns (c : Ctx) (a : Nat) : List (Bool × Nat × Nat) :=
  if c.unsettled a 64 then wholeBasin else
  let rec512 := BitVec.ofNat 512 (ofLe (c.spadBytes a 64))
  if recordOk rec512 then (opOfRecord (blankOp 0) rec512).wr else []

/-! ### A started instruction that is no ACC.PEER goes on -/

/-- A started cascade instruction goes on by up to `n` units; a drain of ACC.PEER goes on elsewhere. -/
def cascRun (n : Nat) (s : State) (o : EngOp) : State :=
  match o.instr with
  | .angLd _ _ => loadRun s o false o.sa.toNat 8256 angLoad
  | .angSwap _ => complete (s.setCasc fun c => { c with active := !c.active }) o 0 none
  | .patLd _ k _ => loadRun s o false o.sa.toNat 128 (patLoad k.toNat)
  | .tailSet _ _ _ => loadRun s o false o.sa.toNat 1024 (tailLoad o.sb)
  | .actLd _ _ => loadRun s o false o.sa.toNat 2064 actLoad
  | .rotp _ _ _ _ => runSweep n s o
  | .roti _ _ _ _ => runSweep n s o
  | .rotg _ _ _ _ => runSweep n s o
  | .tri _ _ _ _ => runSweep n s o
  | .grot _ _ _ _ => runSweep n s o
  | .mprod _ _ a b => prodRun s o a b none none
  | .mprodb _ _ a b => prodRun s o a b (some (o.view.toNat % 2 ^ 64)) (some (o.view.toNat / 2 ^ 64))
  | .accZ _ _ => complete (accWrite s o.daddr 0) o 0 none
  | .accLd _ _ _ => loadRun s o (!(descSpad o.sa)) (descAddr o.sa) 16384 (accLoad o.daddr)
  | .accOut _ _ _ _ => accOutRun s o
  | .driftRd _ _ => driftRun s o
  | .arrQ _ _ sel => queryRun s o sel.toNat
  | _ => s

end Sys2Proof.Machine
end

