-- ==== Sys2Proof/Machine/Save.lean ====
section
/-! DEFINITION. Saving a context to its context area and reloading it, page requests, fault records and the snapshot registers that
they trigger (R42, R111, R112, R115 to R118, R255, R268, R369). -/

namespace Sys2Proof.Machine

open Sys2Proof

/-! ### Tasks -/

/-- The place of the task of a launch, logical core and work id that has not ended, a started one first (work ids of
continuations may repeat, R342). -/
def taskPlace (ts : List Task) (lid : BitVec 32) (lcore : Nat) (wid : W64) : Option Nat :=
  let mine := fun (t : Task) => t.lid == lid && t.lcore == lcore && t.wid == wid && t.st != .ended
  match ts.findIdx? fun t => mine t && t.started with
  | some k => some k
  | none => ts.findIdx? mine

/-- The task of the given launch, logical core and work id changed. -/
def State.setTask (s : State) (lid : BitVec 32) (lcore : Nat) (wid : W64) (f : Task → Task) : State :=
  match taskPlace s.sched.tasks lid lcore wid with
  | none => s
  | some k => { s with sched := { s.sched with tasks := modifyAt k f s.sched.tasks } }

/-- The launch of a context. -/
def State.launchOf (s : State) (lid : BitVec 32) : Option Launch := s.sched.launches.find? fun l => l.lid == lid

/-- The launch of the given id changed. -/
def State.setLaunch (s : State) (lid : BitVec 32) (f : Launch → Launch) : State :=
  { s with sched := { s.sched with launches := s.sched.launches.map fun l => if l.lid == lid then f l else l } }

/-! ### Fault records (Table 6-2) -/

/-- A fault record: reason, work id, logical and physical core, and the two trap groups. -/
def faultRecord (reason : Nat) (wid : W64) (lcore pcore : Nat) (g1 g2 : W64 × W64 × W64) : BitVec 512 :=
  g2.2.2 ++ g2.2.1 ++ g2.1 ++ g1.2.2 ++ g1.2.1 ++ g1.1 ++ (0 : BitVec 16) ++ BitVec.ofNat 16 pcore ++
    BitVec.ofNat 16 lcore ++ BitVec.ofNat 8 reason ++ (0 : BitVec 8) ++ wid

/-- The snapshot registers of every block, the values of the moment (R369, log entry 91). -/
def snapshotValues (ctr : Nat) : List W64 := Config.snapshotBlocks.zipIdx.map fun b => Config.free ctr (2 ^ 60 + b.2) 64

/-- A snapshot latched (R369). -/
def State.latch (s : State) (tagv : BitVec 16) : State :=
  { s with mgmt := { s.mgmt with snapshot := some ⟨tagv, s.fab.time, snapshotValues s.freeCtr⟩ } }

/-- A trigger of a message or a fault latches the snapshot registers, or is counted while a latch is held (R369). -/
def State.trigger (s : State) (tagv : BitVec 16) : State :=
  if s.mgmt.snapshot.isSome then { s with mgmt := { s.mgmt with missed := s.mgmt.missed + 1 } } else s.latch tagv

/-- A fault record goes to the host, and its fault triggers the snapshot registers (R111, R369); the tag of such a trigger is free
(log entry 91). -/
def State.sendFault (s : State) (rec : BitVec 512) : State :=
  (s.tell (.faultRecord rec)).trigger (Config.free s.freeCtr (2 ^ 60 + 2 ^ 30) 16)

/-- The fault record of the running task with a reason and a first group (R112). -/
def State.record (s : State) (reason : Nat) (g1 g2 : W64 × W64 × W64) : State :=
  s.sendFault (faultRecord reason s.ctx.ctl.wid s.ctx.ctl.lcore.toNat Config.pcore.toNat g1 g2)

/-! ### Scoreboarded results that land (R25, R27, R109) -/

/-- An outstanding result that is no longer awaited. -/
def Ctx.dropSb (c : Ctx) (id : Nat) : Ctx := { c with pipe := { c.pipe with sb := c.pipe.sb.filter fun e => e.id != id } }

/-- A deferred trap detected (R109). -/
def Ctx.defer (c : Ctx) (cause tval : W64) : Ctx :=
  { c with pipe := { c.pipe with deferred := c.pipe.deferred ++ [⟨cause, tval⟩] } }

/-- A value lands in the register of a scoreboarded result; an exposed result that stands over it keeps its place (R25). -/
def Ctx.landScalar (c : Ctx) (e : SbEntry) (v : W64) (view : BitVec 1024) : Ctx :=
  let c := c.dropSb e.id
  match e.dst with
  | .sreg n => if e.lost then c else { c with regs := c.regs.setS n v }
  | .sregView n w =>
    let c := if e.lost then c else { c with regs := c.regs.setS n v }
    { c with regs := c.regs.setW w view }
  | .vec _ => c
  | .spad => c

/-- A scoreboarded result whose value is there lands (R25, R27, R109, R175); one that waits for an access or an engine does not. -/
def Ctx.landReady (ctr : Nat) (c : Ctx) (e : SbEntry) : Ctx :=
  match e.src with
  | .waiting => c
  | .load _ => c
  | .value v view => c.landScalar e v view
  | .keep => c.dropSb e.id
  | .gather bytes bad =>
    let c := c.dropSb e.id
    let c := match e.dst with
      | .vec addr => c.landBytes ctr true addr (bytes.zipIdx.map fun b => if e.under.contains (addr + b.2) then none else b.1)
      | _ => c
    if bad then c.defer 0x0C e.addr else c
  | .scatter ws n => (c.dropSb e.id).landScatter ctr n (ws.filter fun w => !(e.under.contains w.1))

/-! ### What a save does to engine instructions (R115) -/

/-- What becomes of a started instruction at a save (R115): a pass or sweep stays with its progress, and so does an
instruction that acts on nothing outside yet; an instruction that owes a write to the basin is abandoned; an
outstanding FENCE or DRAIN is saved unstarted (R268); others run on. -/
inductive SaveKind where
  | keep
  | abandon
  | runOn
  deriving DecidableEq, Repr

/-- Whether a tile field names a port. -/
def fieldIsPort (v : BitVec 6) : Bool := 60 ≤ v.toNat

/-- The fate of a started instruction at a save. -/
def saveKind (o : EngOp) : SaveKind :=
  match o.instr with
  | .mprod _ _ a b => if fieldIsPort a || fieldIsPort b then .abandon else .keep
  | .mprodb _ _ a b => if fieldIsPort a || fieldIsPort b then .abandon else .keep
  | .accPeer _ _ _ _ => .runOn
  | .copy _ _ _ _ => if o.wr.isEmpty then .runOn else .abandon
  | .gath _ _ _ _ => if o.wr.isEmpty then .runOn else .abandon
  | .strm _ _ _ _ => if chSpace o.sa == 0 then .keep else .runOn
  | .strmCl _ _ => .runOn
  | .fence _ _ _ => .abandon
  | .drain _ _ => .abandon
  | .calRd _ _ _ _ => .abandon
  | .colSet _ _ _ _ => .abandon
  | _ => if o.eng == 0 then .keep else .runOn

/-- An instruction abandoned: it starts over, with the entries it made FILLING returned to EMPTY and the template it has (R115, R244, R281). -/
def EngOp.restart (o : EngOp) : EngOp :=
  { o with
    begun := false
    pos := 0
    status := 0
    held := []
    answered := false
    writes := []
    seen := []
    part := 0
    again := true }

/-- Insertion of an instruction into a queue by its place in program order. -/
def insertOp (o : EngOp) : List EngOp → List EngOp
  | [] => [o]
  | x :: xs => if o.id < x.id then o :: x :: xs else x :: insertOp o xs

/-- One started instruction abandoned: its entries return to EMPTY, its queue takes it back in program order. -/
def Ctx.abandonOp (c : Ctx) (o : EngOp) : Ctx :=
  let c := o.held.foldl (fun c e => c.setTileState e .empty) c
  let e := c.eng.dropStarted o.id
  { c with eng := e.setQueue o.eng (insertOp o.restart (e.queue o.eng)) }

/-- Whether a started cascade instruction goes on before the save: it runs to its end, or, a pass or sweep of which nothing has been done,
to its first interruption point (R115 step 4, R193, R216). -/
def finishesFirst (o : EngOp) : Bool :=
  o.eng == 0 && saveKind o == .keep && (if isSweep o then o.pos == 0 else true)

/-- The cascade engine stops at an interruption point (R115 step 4). -/
def settleCascade (s : State) : State := (s.ctx.eng.started.filter finishesFirst).foldl (fun s o => cascRun 1 s o) s

/-- The context as it is saved (R115 steps 2 to 6, R42), the cascade engine at an interruption point. -/
def Ctx.frozen (ctr : Nat) (c : Ctx) : Ctx :=
  let c := c.landAll ctr
  let c := c.pipe.sb.foldl (fun c e => c.landReady ctr e) c
  let c := (c.eng.started.filter fun o => saveKind o == .abandon).foldl Ctx.abandonOp c
  let c := c.writeBackLive
  { c with basin := { c.basin with dirty := [] } }

/-- The running context saved, its task parked, the core free (R115). -/
def saveContext (s : State) (why : SaveReason) (st : TaskState) : State :=
  let s := settleCascade s
  let c := s.ctx.frozen s.freeCtr
  let s := s.setTask c.lid c.ctl.lcore.toNat c.ctl.wid fun t => { t with st := st }
  { s with
    ctx := Ctx.start
    mode := .idle
    sched := { s.sched with
      saved := s.sched.saved ++ [⟨c, why, s.mode == .draining, false⟩]
      served := setKey c.ctl.prio.toNat (c.lid, c.ctl.lcore.toNat) s.sched.served } }

/-- A page that the host must map: the firmware asks for it, and the task is paused with its context saved (R255). -/
def pausePage (s : State) (page : Nat) : State :=
  let req := (s.ctx.asid, page)
  let s := if s.mem.pageReqs.contains req then s
    else { (s.tell (.pageRequest s.ctx.asid page)) with mem := { s.mem with pageReqs := s.mem.pageReqs ++ [req] } }
  saveContext s (.page page) (.waitingPage page)

/-- A saved context reloaded on the core (R42, R118): OVR is set, blocks in use come back as they were saved, unwritten bytes
included, and blocks never in use unspecified, their granules raw. Only tokens order what streams that ran on have still to do (R268). -/
def Ctx.reloaded (ctr : Nat) (c : Ctx) : Ctx :=
  { c with
    tr := { c.tr with tstat := c.tr.tstat ||| 8 }
    eng := { c.eng with
      started := c.eng.started.map fun o => { o with loose := true }
      ports := c.eng.ports.map fun p => { p with loose := p.st != .unbound && p.tmpl.isSome } }
    basin := { c.basin with
      epoch := ctr
      tags := c.basin.tags.filter fun t => c.basin.inUse.contains (t.1 / 16)
      epochs := c.basin.epochs ++ ((c.basin.inUse.filter fun k => (lookupKey k c.basin.epochs).isNone).map fun k => (k, c.basin.epoch))
      dirty := [] } }

/-- Whether an instruction's access has no way to memory yet: the instruction has not started, or a FENCE holds it (R263). -/
def Ctx.heldBack (c : Ctx) (id : Nat) : Bool := c.eng.queued id || c.eng.heldAt id

/-- Whether an access of a class has no way to memory yet: it is held back, or it waits in its class for a stream that has not started
(R102, R262). -/
def Ctx.blocked (c : Ctx) (a : Access) : Bool :=
  c.heldBack a.id || ((c.eng.strms a.cls).any fun o => o.id < a.id && c.eng.queued o.id && chDir o.sa == 1) || c.loadsAhead a

/-- Whether an access of a saved context has not been issued to memory: it has no way there yet, or it waits in its class behind one that
has none (R102, R262, R263, R268). -/
def Ctx.unsent (c : Ctx) (a : Access) : Bool :=
  c.blocked a || (c.eng.accs.any fun b => b.id < a.id && b.cls == a.cls && !b.performed && c.blocked b)

/-- Every off-core access that a context issued before its save has performed (R118, R268). -/
def Ctx.settled (c : Ctx) : Bool := c.eng.accs.all fun a => a.performed || c.unsent a

/-- Every scoreboarded reply that was outstanding at the save has arrived (R115 step 3): one whose access is on its way, or
whose instruction runs on. -/
def Ctx.replied (c : Ctx) : Bool :=
  c.pipe.sb.all fun e =>
    match e.src with
    | .load acc => (c.eng.accs.filter fun a => a.id == acc).all fun a => c.unsent a
    | .waiting => !(c.eng.started.any fun o => o.id == e.id && saveKind o == .runOn)
    | _ => true

/-! ### Parked contexts -/

/-- Whether a task holds the core and can be saved or killed. -/
def canSave (s : State) : Bool :=
  match s.mode with
  | .running => true
  | .draining => true
  | _ => false

/-- A step on the k-th saved context: off-core accesses and instructions that run on after a save belong to their own context (R115).
Meanwhile the context on the core stands in its place among the saved ones, where the step can reach it; a kill that the step brings
takes hold of either. -/
def State.onSaved (s : State) (k : Nat) (f : State → State) : State :=
  match s.sched.saved[k]? with
  | none => s
  | some sv =>
    let t := f { s with
      ctx := sv.ctx
      mode := if sv.ending then .draining else .running
      sched := { s.sched with saved := s.sched.saved.set k ⟨s.ctx, .onCore, s.mode == .draining, false⟩ } }
    let back := (t.sched.saved[k]?).getD ⟨s.ctx, .onCore, false, false⟩
    let u := { t with
      ctx := back.ctx
      mode := s.mode
      sched := { t.sched with saved := t.sched.saved.set k { sv with ctx := t.ctx, killed := sv.killed || !(canSave t) } } }
    if back.killed && canSave u then beginKill u 2 (0, 0, 0) (0, 0, 0) else u

/-- Which context an index over a list of the running context, then of each saved one, falls in: `none` for the running
one, and the index within it. -/
def locateGo (sizes : List Nat) (k idx : Nat) : Option (Nat × Nat) :=
  match sizes with
  | [] => none
  | n :: rest => if idx < n then some (k, idx) else locateGo rest (k + 1) (idx - n)

/-- A step on the context that an index names, by the size of a list in each context. -/
def State.atIndex (s : State) (size : Ctx → Nat) (idx : Nat) (f : Nat → State → State) : State :=
  if idx < size s.ctx then f idx s
  else
    match locateGo (s.sched.saved.map fun sv => size sv.ctx) 0 (idx - size s.ctx) with
    | none => s
    | some (k, i) => s.onSaved k (f i)

end Sys2Proof.Machine
end

