-- ==== Sys2Proof/Machine/Issue.lean ====
section
/-! DEFINITION. The issue of a bundle: stalls, the one trap that is taken, the collision check, the effects of its slots,
and where control goes (R17, R22, R23, R90, R93, R94, R107 to R112). -/

namespace Sys2Proof.Machine

open Sys2Proof

/-- A slot of the bundle with the index of its word. -/
abbrev Placed := Nat × SlotSem

/-- The numbers of instructions that the slots put into a queue (R17). -/
def enqCount (slots : List Placed) (q : Nat) : Nat := (slots.filter fun p => p.2.enq == some q).length

/-- Off-core accesses that a FENCE holds in the access queue, at most 64 (R263). -/
def heldCount (s : State) : Nat := (s.ctx.eng.accs.filter fun a => s.ctx.eng.heldAt a.id && !a.performed).length

/-- Whether an engine queue has no room for what a bundle puts into it (R17). -/
def queueFull (s : State) (slots : List Placed) : Bool :=
  [0, 1, 2].any fun q => 0 < enqCount slots q && 16 < (s.ctx.eng.queue q).length + enqCount slots q

/-- Whether the access queue has no room for the accesses of a bundle that a FENCE would hold (R263). -/
def accessFull (s : State) (slots : List Placed) : Bool :=
  (slots.any fun p => p.2.offcore) && !s.ctx.eng.fences.isEmpty &&
    64 < heldCount s + (slots.filter fun p => p.2.offcore).length

/-- Whether a bundle stalls (R17, R27, R105, R175, R183, R185, R263). -/
def stalls (s : State) (slots : List Placed) : Bool :=
  (slots.any fun p => p.2.stall) || queueFull s slots || accessFull s slots

/-- The stop of a bundle: the first slot's that has one (R107). -/
def firstSlotStop (slots : List Placed) : Option Stop := slots.findSome? fun p => p.2.stop

/-- The kind of the first collision of two slots: where they collide in two kinds, that of the first writer, a register before a
token (DESIGN CHOICE, log entry 14). -/
def collisionKind (a b : SlotSem) : Option Nat :=
  a.writers.findSome? fun w => b.writers.findSome? fun v => if w.collides v then some w.kind else none

/-- The collision of one slot with the first of the later ones that collides with it: WRITE_COLLISION, TVAL by the
indices of the two words (R23, Table 6-1). -/
def collisionFrom (x : Placed) (ys : List Placed) : Option Stop :=
  ys.findSome? fun y =>
    match collisionKind x.2 y.2 with
    | none => none
    | some k => some (trapOf 0x03 (x.1 + 16 * y.1 + 256 * k))

/-- The first collision of a bundle, the lowest first word and then the lowest second (log entry 14). -/
def firstCollision : List Placed → Option Stop
  | [] => none
  | x :: rest =>
    match collisionFrom x rest with
    | some st => some st
    | none => firstCollision rest

/-- What a bundle takes instead of issuing (R107). -/
def bundleStop (slots : List Placed) : Option Stop :=
  match firstSlotStop slots with
  | some st => some st
  | none => firstCollision slots

/-- The stop is taken: trap entry, a page pause, a fault record and TRANSLATION (R108, R112, R255), or, while a walk waits for a die
held in reset, nothing yet (R249). -/
def takeStop (s : State) (st : Stop) (ba nb : W64) : State :=
  match st with
  | .trap cause tval => enterTrap s cause tval ba nb
  | .page page => pausePage s page
  | .hold => s
  | .unresolvable tval =>
    let pages := [tval.toNat / 65536, (codeBase s.ctx.hdr + 4 * tval.toNat) / 65536]
    let s := { s with mem := s.mem.spendRefusals s.ctx.asid pages }
    enterTrap (s.record 3 (0x0A, ba, tval) (0, 0, 0)) 0x0A tval ba nb

/-- The slots take effect in slot order; every operand was read before (R22). -/
def applySlots (s : State) (slots : List Placed) : State := slots.foldl (fun t p => p.2.apply t) s

/-- Where control goes after a bundle (R90, R93, R94). -/
def nextPc (s t : State) (slots : List Placed) (ba nb : W64) : State :=
  let was := fun n => s.ctx.loopActive n
  match slots.findSome? fun p => p.2.transfer with
  | some next =>
    let c := if slots.any fun p => p.2.leaves then t.ctx.leaveLoops was next else t.ctx
    { t with ctx := { c with regs := { c.regs with pc := next } } }
  | none =>
    let wrote := fun (n : Bool) => slots.any fun p => if n then p.2.wrote1 else p.2.wrote0
    { t with ctx := t.ctx.loopEnd was wrote ba nb }

/-- The bundle has issued: its number is taken, results whose window closes land, and after TEND every result; time passes
(R24, R94). -/
def closeBundle (t : State) (slots : List Placed) : State :=
  let n := t.ctx.pipe.bundleNo + 1
  let ends := slots.any fun p => p.2.ends
  let c := { t.ctx with pipe := { t.ctx.pipe with bundleNo := n } }
  let c := if ends then c.landAll t.freeCtr else c.landDue t.freeCtr n
  let t := { t with ctx := c, mode := if ends then .draining else t.mode }
  t.spend.tick

/-- The issue of a bundle that neither stalls nor stops. -/
def commit (s : State) (slots : List Placed) (ba nb : W64) : State :=
  closeBundle (nextPc s (applySlots s slots) slots ba nb) slots

/-- The issue of a bundle of `len` words at `ba` (R22, R107). A bundle that stalls is left unissued. -/
def issueBundle (s : State) (slots : List Placed) (ba nb : W64) : State :=
  if stalls s slots then s.spend.tick
  else
    match bundleStop slots with
    | some st => (takeStop s st ba nb).spend.tick
    | none => commit s slots ba nb

/-- Where a slot stands that is a bundle of its own, at the address of the next bundle. -/
def alone (s : State) (i : Instr) : At := ⟨s.ctx.regs.pc, i.len, 0, 0, []⟩

/-- A bundle of one slot: the meaning of an instruction (R19). -/
def issueOne (s : State) (i : Instr) (sem : State → At → SlotSem) : Host.Outcome State Fault Refusal :=
  let p := alone s i
  .next (issueBundle s [(0, sem s p)] p.ba p.nb)

end Sys2Proof.Machine
end

