-- ==== Sys2Proof/Machine/Fetch.lean ====
section
/-! DEFINITION. The sequencer's fetch: code words through translation, framing, and the traps that fall before a bundle is
framed or decoded (R54 to R56, R91, R255, R372). -/

namespace Sys2Proof.Machine

open Sys2Proof

/-- The key of a kept code word: launch and code address. -/
def keptKey (lid : BitVec 32) (a : Nat) : Nat := lid.toNat * 2 ^ 32 + a

/-- A code word as it is fetched, the stop that fetching it meets, or a home that does not answer yet (R249). -/
inductive WordRes where
  | ok (w : IWord)
  | stop (st : Stop)
  | waits
  deriving DecidableEq, Repr

/-- The word that stands in memory, or one kept from an earlier fetch by a task of the launch (R372): which of them, when
the image was written meanwhile, is free. -/
def keptChoice (s : State) (a : Nat) (now : IWord) : IWord :=
  match (s.mem.kept.filter fun k => k.1 == keptKey s.ctx.lid a && k.2 != now).map Prod.snd with
  | [] => now
  | olds => (now :: olds).getD (Config.freeNat s.freeCtr (2 ^ 50 + a) % (olds.length + 1)) now

/-- The word at code address `a` in memory, through translation (R372). -/
def fetchWord (s : State) (a : Nat) : WordRes :=
  let va := codeBase s.ctx.hdr + 4 * a
  if 2 ^ 57 ≤ va then .stop (.trap causeProtection (BitVec.ofNat 64 a))
  else
    match translate s va .fetch with
    | .ok key _ => if s.homeWaits key then .waits else .ok (BitVec.ofNat 32 (ofLe (s.mem.homeBytes key 4)))
    | .miss pg => .stop (.page pg)
    | .unresolvable => .stop (.unresolvable (BitVec.ofNat 64 a))
    | .waits => .waits
    | .protection => .stop (.trap causeProtection (BitVec.ofNat 64 a))

/-- The words of a bundle fetched so far and how framing ends: enough words (framed or not), a word at or beyond CODELEN
with its address (R91), a stop (R372), or a word that has still to come (R249). -/
inductive FetchRes where
  | words (ws : List IWord) (res : FrameRes)
  | beyond (a : Nat)
  | stop (st : Stop)
  | waits
  deriving DecidableEq, Repr

/-- The words of the bundle at `a` fetched until framing ends, at most `fuel` of them (R54, R91). -/
def fetchGo (s : State) (a : Nat) : (fuel : Nat) → List IWord → FetchRes
  | 0, ws => .words ws (frame ws)
  | fuel + 1, ws =>
    match frame ws with
    | .needs i =>
      if s.ctx.codeLen ≤ a + i then .beyond (a + i)
      else
        match fetchWord s (a + i) with
        | .stop st => .stop st
        | .waits => .waits
        | .ok w => fetchGo s a fuel (ws ++ [keptChoice s (a + i) w])
    | r => .words ws r

/-- The words of the bundle at code address `a`. -/
def fetchAt (s : State) (a : Nat) : FetchRes := fetchGo s a 8 []

/-- A bundle fetched and decoded, what the sequencer takes instead with the TNPC of a trap, or words still to come. -/
inductive Fetched where
  | bundle (ws : List IWord) (slots : List Slot)
  | stop (st : Stop) (tnpc : W64)
  | waits
  deriving DecidableEq, Repr

/-- The bundle at the address of the next bundle (R54 to R56, R91, R372). -/
def fetchBundle (s : State) : Fetched :=
  let pc := s.ctx.regs.pc
  if s.ctx.codeLen ≤ pc.toNat then .stop (.trap causeProtection pc) pc
  else
    match fetchAt s pc.toNat with
    | .beyond a => .stop (.trap causeProtection (BitVec.ofNat 64 a)) pc
    | .stop st => .stop st pc
    | .waits => .waits
    | .words ws _ =>
      match decodeBundle ws with
      | .ok _ slots => .bundle ws slots
      | .trap cause tval =>
        .stop (.trap (BitVec.ofNat 64 cause) tval) (if cause == 1 then pc + BitVec.ofNat 64 ws.length else pc)
      | .needs _ => .stop (.trap causeProtection pc) pc

/-- The words of a bundle kept for later fetches by tasks of the launch (R372). -/
def State.keepWords (s : State) (ws : List IWord) : State :=
  let key := fun (i : Nat) => keptKey s.ctx.lid (s.ctx.regs.pc.toNat + i)
  let new := ws.zipIdx.filterMap fun p =>
    if s.mem.kept.contains (key p.2, p.1) then none else some (key p.2, p.1)
  { s with mem := { s.mem with kept := new ++ s.mem.kept } }

end Sys2Proof.Machine
end

