-- ==== Sys2Proof/Machine/Scalar.lean ====
section
/-! DEFINITION. Integer arithmetic, logic, constants, compares and predicate logic of the S slots (R80 to R88). Each `semX`
is what the instruction does as a slot of a bundle. -/

namespace Sys2Proof.Machine

open Sys2Proof

/-- An S slot: nothing when its guard is false (R80); else it stalls on the scalar registers it reads and writes (R27). -/
def sSlot (s : State) (g : SGuard) (regs : List (BitVec 6)) (body : SlotSem) : SlotSem :=
  if !(sGuard s g) then SlotSem.nop
  else { body with stall := body.stall || regs.any fun n => sBusy s n }

/-- LAND(sD, v, L) as a slot's effect (R24). -/
def landS (p : At) (d : BitVec 6) (v : W64) (lat : Nat) (t : State) : State :=
  { t with ctx := t.ctx.land t.freeCtr (p.site 16) (.sreg d v) lat }

/-- A slot that lands one scalar result. -/
def scalarResult (p : At) (d : BitVec 6) (v : W64) (lat : Nat) : SlotSem :=
  SlotSem.effect [.dst (.sreg d v)] (landS p d v lat)

/-- sD from sA and sB (SRRR). -/
def alu2 (f : W64 → W64 → W64) (lat : Nat) (g : SGuard) (d a b : BitVec 6) (s : State) (p : At) : SlotSem :=
  sSlot s g [d, a, b] (scalarResult p d (f (readS s (p.site 1) a) (readS s (p.site 2) b)) lat)

/-- sD from sA (SRR). -/
def alu1 (f : W64 → W64) (g : SGuard) (d a : BitVec 6) (s : State) (p : At) : SlotSem :=
  sSlot s g [d, a] (scalarResult p d (f (readS s (p.site 1) a)) 1)

/-- The count of a register shift: bits 5:0 (R82). -/
def shiftCount (b : W64) : Nat := b.toNat % 64

/-- Bits 127:64 of the signed product (R82). -/
def mulHigh (a b : W64) : W64 := BitVec.ofInt 64 (a.toInt * b.toInt / 2 ^ 64)

/-- The signed smaller and larger (R82). -/
def minS (a b : W64) : W64 := if a.slt b then a else b

/-- The signed larger. -/
def maxS (a b : W64) : W64 := if a.slt b then b else a

/-- SEXT.B, SEXT.H and SEXT.W (R82). -/
def sextSize (sz : BitVec 2) (a : W64) : W64 :=
  match sz.toNat with
  | 0 => (a.extractLsb' 0 8).signExtend 64
  | 1 => (a.extractLsb' 0 16).signExtend 64
  | _ => (a.extractLsb' 0 32).signExtend 64

/-- ADD (R82). -/
def semAdd (g : SGuard) (d a b : BitVec 6) : State → At → SlotSem := alu2 (fun x y => x + y) 1 g d a b
/-- SUB (R82). -/
def semSub (g : SGuard) (d a b : BitVec 6) : State → At → SlotSem := alu2 (fun x y => x - y) 1 g d a b
/-- MUL (R82). -/
def semMul (g : SGuard) (d a b : BitVec 6) : State → At → SlotSem := alu2 (fun x y => x * y) 3 g d a b
/-- MULH (R82). -/
def semMulh (g : SGuard) (d a b : BitVec 6) : State → At → SlotSem := alu2 mulHigh 3 g d a b
/-- AND (R82). -/
def semAnd (g : SGuard) (d a b : BitVec 6) : State → At → SlotSem := alu2 (fun x y => x &&& y) 1 g d a b
/-- OR (R82). -/
def semOr (g : SGuard) (d a b : BitVec 6) : State → At → SlotSem := alu2 (fun x y => x ||| y) 1 g d a b
/-- XOR (R82). -/
def semXor (g : SGuard) (d a b : BitVec 6) : State → At → SlotSem := alu2 (fun x y => x ^^^ y) 1 g d a b
/-- SHL (R82). -/
def semShl (g : SGuard) (d a b : BitVec 6) : State → At → SlotSem := alu2 (fun x y => x <<< shiftCount y) 1 g d a b
/-- SHR (R82). -/
def semShr (g : SGuard) (d a b : BitVec 6) : State → At → SlotSem := alu2 (fun x y => x >>> shiftCount y) 1 g d a b
/-- SAR (R82). -/
def semSar (g : SGuard) (d a b : BitVec 6) : State → At → SlotSem :=
  alu2 (fun x y => x.sshiftRight (shiftCount y)) 1 g d a b
/-- MIN (R82). -/
def semMin (g : SGuard) (d a b : BitVec 6) : State → At → SlotSem := alu2 minS 1 g d a b
/-- MAX (R82). -/
def semMax (g : SGuard) (d a b : BitVec 6) : State → At → SlotSem := alu2 maxS 1 g d a b
/-- CLZ (R82). -/
def semClz (g : SGuard) (d a : BitVec 6) : State → At → SlotSem :=
  alu1 (fun x => BitVec.ofNat 64 (leadingZeros 64 x.toNat)) g d a
/-- POPC (R82). -/
def semPopc (g : SGuard) (d a : BitVec 6) : State → At → SlotSem :=
  alu1 (fun x => BitVec.ofNat 64 (popCount 64 x.toNat)) g d a
/-- SEXT (R82). -/
def semSext (g : SGuard) (d a : BitVec 6) (sz : BitVec 2) : State → At → SlotSem := alu1 (sextSize sz) g d a

/-- Whether the signed sum leaves the range of 64 bits (R83). -/
def addOverflows (a b : W64) : Bool := (a + b).toInt != a.toInt + b.toInt

/-- ADDV (R83). -/
def semAddv (g : SGuard) (d a b : BitVec 6) (s : State) (p : At) : SlotSem :=
  let x := readS s (p.site 1) a
  let y := readS s (p.site 2) b
  sSlot s g [d, a, b] { scalarResult p d (x + y) 1 with
    stop := if addOverflows x y then some (.trap 0x05 0) else none }

/-- A scalar result that is scoreboarded and ready (R27). -/
def scoreS (p : At) (d : BitVec 6) (v : W64) (t : State) : State :=
  let id := t.ctx.pipe.nextId
  let c := { t.ctx with pipe := { t.ctx.pipe with nextId := id + 1 } }
  if d == 0 then { t with ctx := c }
  else { t with ctx := c.addSb t.freeCtr (p.site 16) ⟨id, .sreg d, .value v 0, p.ba, false, []⟩ [.sreg d 0] }

/-- A division (R84): DIV_ZERO at issue, a scoreboarded result. -/
def divide (f : W64 → W64 → W64) (g : SGuard) (d a b : BitVec 6) (s : State) (p : At) : SlotSem :=
  let x := readS s (p.site 1) a
  let y := readS s (p.site 2) b
  sSlot s g [d, a, b] { SlotSem.effect [.dst (.sreg d 0)] (scoreS p d (f x y)) with
    stop := if y == 0 then some (.trap 0x06 0) else none }

/-- The signed quotient toward zero, modulo 2^64 (R84). -/
def quotS (x y : W64) : W64 := BitVec.ofInt 64 (x.toInt.tdiv y.toInt)

/-- The signed remainder with the sign of the dividend (R84). -/
def remS (x y : W64) : W64 := BitVec.ofInt 64 (x.toInt - x.toInt.tdiv y.toInt * y.toInt)

/-- DIV (R84). -/
def semDiv (g : SGuard) (d a b : BitVec 6) : State → At → SlotSem := divide quotS g d a b
/-- DIVU (R84). -/
def semDivu (g : SGuard) (d a b : BitVec 6) : State → At → SlotSem :=
  divide (fun x y => BitVec.ofNat 64 (x.toNat / y.toNat)) g d a b
/-- REM (R84). -/
def semRem (g : SGuard) (d a b : BitVec 6) : State → At → SlotSem := divide remS g d a b

/-- sD from sA and an immediate. -/
def aluImm (f : W64 → W64) (g : SGuard) (d a : BitVec 6) : State → At → SlotSem := alu1 f g d a

/-- ADDI (R85). -/
def semAddi (g : SGuard) (d a : BitVec 6) (imm : Imm 6) : State → At → SlotSem := aluImm (fun x => x + immS imm) g d a
/-- ANDI (R85). -/
def semAndi (g : SGuard) (d a : BitVec 6) (imm : Imm 6) : State → At → SlotSem := aluImm (fun x => x &&& immS imm) g d a
/-- ORI (R85). -/
def semOri (g : SGuard) (d a : BitVec 6) (imm : Imm 6) : State → At → SlotSem := aluImm (fun x => x ||| immS imm) g d a
/-- SHLI (R85). -/
def semShli (g : SGuard) (d a : BitVec 6) (sh : BitVec 6) : State → At → SlotSem := aluImm (fun x => x <<< sh.toNat) g d a
/-- SHRI (R85). -/
def semShri (g : SGuard) (d a : BitVec 6) (sh : BitVec 6) : State → At → SlotSem := aluImm (fun x => x >>> sh.toNat) g d a
/-- SARI (R85). -/
def semSari (g : SGuard) (d a : BitVec 6) (sh : BitVec 6) : State → At → SlotSem :=
  aluImm (fun x => x.sshiftRight sh.toNat) g d a

/-- LI (R86). -/
def semLi (g : SGuard) (d : BitVec 6) (imm : Imm 12) (s : State) (p : At) : SlotSem :=
  sSlot s g [d] (scalarResult p d (immS imm) 1)

/-- LIH (R86): the literal becomes bits 63:32. -/
def semLih (g : SGuard) (d : BitVec 6) (lit : BitVec 32) (s : State) (p : At) : SlotSem :=
  sSlot s g [d] (scalarResult p d (lit ++ (readS s (p.site 0) d).extractLsb' 0 32) 1)

/-- The conditions of Table 5-4. -/
def condS (c : BitVec 3) (a b : W64) : Bool :=
  match c.toNat with
  | 0 => a == b
  | 1 => a != b
  | 2 => a.slt b
  | 3 => !(a.slt b)
  | 4 => a.ult b
  | 5 => !(a.ult b)
  | 6 => a &&& b != 0
  | _ => a &&& b == 0

/-- A slot that lands one predicate within one bundle (R87). -/
def predResult (p : At) (q : BitVec 3) (v : Bool) : SlotSem :=
  SlotSem.effect [.dst (.pred q v)] fun t => { t with ctx := t.ctx.land t.freeCtr (p.site 16) (.pred q v) 1 }

/-- CMP (R87). -/
def semCmp (g : SGuard) (c q : BitVec 3) (a b : BitVec 6) (s : State) (p : At) : SlotSem :=
  sSlot s g [a, b] (predResult p q (condS c (readS s (p.site 1) a) (readS s (p.site 2) b)))

/-- CMPI (R87). -/
def semCmpi (g : SGuard) (c q : BitVec 3) (a : BitVec 6) (imm : Imm 6) (s : State) (p : At) : SlotSem :=
  sSlot s g [a] (predResult p q (condS c (readS s (p.site 1) a) (immS imm)))

/-- The functions of R88. -/
def plogFn (f : BitVec 3) (x y : Bool) : Bool :=
  match f.toNat with
  | 0 => x && y
  | 1 => x || y
  | 2 => x != y
  | 3 => x && !y
  | 4 => x || !y
  | _ => !(x || y)

/-- PLOG (R88). -/
def semPlog (g : SGuard) (f q x y : BitVec 3) (s : State) (p : At) : SlotSem :=
  sSlot s g [] (predResult p q (plogFn f (readP s x) (readP s y)))

end Sys2Proof.Machine
end

