-- ==== Sys2Proof/Machine/Control.lean ====
section
/-! DEFINITION. Control transfer, hardware loops, task end, software traps and return (R89 to R96). -/

namespace Sys2Proof.Machine

open Sys2Proof

/-- A code address after a signed offset, modulo 2^32 (R89). -/
def branchTo {n : Nat} (ba : W64) (off : Imm n) : W64 := ((ba + immS off).extractLsb' 0 32).setWidth 64

/-- BR (R89, R90). -/
def semBr (g : SGuard) (imm : Imm 18) (s : State) (p : At) : SlotSem :=
  sSlot s g [] { SlotSem.nop with transfer := some (branchTo p.ba imm), leaves := true }

/-- CALL (R89): the link goes to s63. -/
def semCall (g : SGuard) (imm : Imm 18) (s : State) (p : At) : SlotSem :=
  sSlot s g [63] { scalarResult p 63 p.nb 1 with transfer := some (branchTo p.ba imm) }

/-- JR (R89, R90). A transfer counts as leaving loops for BR, JR and a zero-count LOOP alike. -/
def semJr (g : SGuard) (d a : BitVec 6) (s : State) (p : At) : SlotSem :=
  sSlot s g [d, a] { scalarResult p d p.nb 1 with transfer := some (readS s (p.site 1) a), leaves := true }

/-- The loop registers after LOOP (R92). -/
def Ctx.startLoop (c : Ctx) (n : Bool) (count beg fin : W64) : Ctx :=
  if n then
    { c with tr := { c.tr with lcnt1 := count, lbeg1 := beg, lend1 := fin, tstat := c.tr.tstat &&& ~~~ 4 } }
  else
    { c with tr := { c.tr with lcnt0 := count, lbeg0 := beg, lend0 := fin, tstat := c.tr.tstat &&& ~~~ 2 } }

/-- How the framing of the bundle at the loop's end turns out for a zero count (R92): its length, or the stop of the
LOOP's own bundle. A page-level fault of a word there is the LOOP's too, so that TPC is the LOOP's address and TVAL the word's
(DESIGN CHOICE, log entry 94). -/
def loopFrame (s : State) (e : W64) : Option Stop × Nat :=
  match fetchAt s e.toNat with
  | .beyond a => (some (.trap causeProtection (BitVec.ofNat 64 a)), 0)
  | .stop st => (some st, 0)
  | .waits => (none, 0)
  | .words ws res =>
    match res with
    | .ok _ _ => (none, ws.length)
    | .illegal reason i => (some (.trap 0x02 (illegalBundleTval reason i)), 0)
    | .needs _ => (some (.trap 0x02 (illegalBundleTval 3 ws.length)), 0)

/-- Whether the words at the loop's end have still to come (R249). -/
def loopWaits (s : State) (e : W64) : Bool := fetchAt s e.toNat == .waits

/-- The slot word of a LOOP as it stands in its bundle, for TVAL (R56): E is set in the bundle's last slot. -/
def loopWord (i : Instr) (p : At) : IWord := (encode (p.idx + i.len == p.len) i).headD 0

/-- LOOP (R92). -/
def semLoop (g : SGuard) (n : BitVec 1) (a : BitVec 6) (off : Imm 6) (s : State) (p : At) : SlotSem :=
  let i : Instr := .loop g n a off
  if loopOff off < p.len then .stopped (.trap 0x01 (illegalOpcodeTval (loopWord i p) p.idx))
  else
    let count := readS s (p.site 1) a
    let e := p.ba + BitVec.ofNat 64 (loopOff off)
    let set := n == 1
    let start : State → State := fun t => { t with ctx := t.ctx.startLoop set count p.nb e }
    let out := loopFrame s e
    sSlot s g [a] { SlotSem.effect [] start with
      stall := count == 0 && loopWaits s e
      stop := if count == 0 then out.1 else none
      transfer := if count == 0 then some (e + BitVec.ofNat 64 out.2) else none
      leaves := true
      wrote0 := !set
      wrote1 := set }

/-- TEND (R94). -/
def semTend (g : SGuard) (s : State) (_p : At) : SlotSem := sSlot s g [] { SlotSem.nop with ends := true }

/-- TRAP (R95). -/
def semTrap (g : SGuard) (code : BitVec 12) (s : State) (_p : At) : SlotSem :=
  sSlot s g [] (.stopped (.trap 0x0D (code.setWidth 64)))

/-- BRK (R95). -/
def semBrk (g : SGuard) (code : BitVec 12) (s : State) (_p : At) : SlotSem :=
  sSlot s g [] (.stopped (.trap 0x0E (code.setWidth 64)))

/-- RTE (R96). -/
def semRte (g : SGuard) (s : State) (_p : At) : SlotSem :=
  sSlot s g [] { SlotSem.effect [] (fun t => { t with ctx := t.ctx.returnStatus }) with transfer := some s.ctx.tr.tpc }

end Sys2Proof.Machine
end

