-- ==== Sys2Proof/Machine/Cascade.lean ====
section
/-! DEFINITION. The M slots: the checks that each cascade instruction makes at issue and what it captures (R189, R190, R217 to
R234). -/

namespace Sys2Proof.Machine

open Sys2Proof

/-! ### Checks -/

/-- The range check of a tile operand (R36). -/
def tileRange (s : State) (p : At) (field k : Nat) : Option Stop :=
  let lg := s.ctx.tileLog2
  if lg != 12 && lg != 13 && lg != 14 || s.ctx.regSize < s.ctx.tileAddr k + s.ctx.tileSize then
    some (rangeStop p field false (s.ctx.tileAddr k))
  else none

/-- A span that must lie within its tile (R199, R221, R222). -/
def tileSpan (s : State) (p : At) (field k n : Nat) : Option Stop :=
  if s.ctx.tileSize < n then some (rangeStop p field false (s.ctx.tileAddr k)) else none

/-- The range check of an accumulator (R36). -/
def accRange (s : State) (p : At) (field a : Nat) : Option Stop :=
  if s.ctx.accSize < a + 16384 then some (rangeStop p field true a) else none

/-- Granules from `a` on that must carry one tag of a class; `ref` is the tag already fixed (R106, R217). -/
def granTags (s : State) (p : At) (field : Nat) (ok : Fmt → Bool) : (n a : Nat) → (ref : Option Fmt) → Option Stop
  | 0, _, _ => none
  | n + 1, a, ref =>
    let t := s.ctx.basin.tagAt a
    match ref with
    | some r => if t == r then granTags s p field ok n (a + 256) ref else some (formatStop p field t r a)
    | none =>
      if ok t then granTags s p field ok n (a + 256) (some t) else some (formatStop p field t (classDefault ok) a)

/-- Granules that must all carry one given tag. -/
def granIs (s : State) (p : At) (field : Nat) (want : Fmt) (n a : Nat) : Option Stop :=
  granTags s p field (fun _ => true) n a (some want)

/-- ALIGN and SPAD_RANGE of a scratchpad image (R217). -/
def imageCheck (s : State) (a : W64) (align n : Nat) : Option Stop := spadCheck s a align n

/-- A run of the basin that a tile operand covers, as R121 waits on it: the whole tile. -/
def tileRun (s : State) (k : Nat) : Bool × Nat × Nat := (true, s.ctx.tileAddr k, s.ctx.tileSize)

/-! ### Loading the array (R219, R220) -/

/-- A loading instruction with a scratchpad image of `n` bytes at sA. -/
def loadSlot (i : Instr) (t : EGuard) (a : BitVec 6) (n : Nat) (s : State) (p : At) : SlotSem :=
  let va := readS s (p.site 1) a
  engSlot s p t [a] none [imageCheck s va 64 n] { opOf s p i 0 t with sa := va, rd := [(false, va.toNat, n)] }

/-- ANG.LD (R201, R219). -/
def semAngLd (t : EGuard) (a : BitVec 6) : State → At → SlotSem := loadSlot (.angLd t a) t a 8256

/-- ANG.SWAP (R202). -/
def semAngSwap (t : EGuard) (s : State) (p : At) : SlotSem := engSlot s p t [] none [] (opOf s p (.angSwap t) 0 t)

/-- PAT.LD (R200, R219). -/
def semPatLd (t : EGuard) (n : BitVec 5) (a : BitVec 6) : State → At → SlotSem := loadSlot (.patLd t n a) t a 128

/-- TAIL.SET (R208, R220): the sequencer keeps a valid command word at issue. -/
def semTailSet (t : EGuard) (a b : BitVec 6) (s : State) (p : At) : SlotSem :=
  let va := readS s (p.site 1) a
  let word := readS s (p.site 2) b
  let o := { opOf s p (.tailSet t a b) 0 t with sa := va, sb := word, rd := [(false, va.toNat, 1024)] }
  let sem := engSlot s p t [a, b] none [imageCheck s va 64 1024] o
  if !(eGuard s t) || !(tailWordOk word) then sem
  else { sem with apply := fun u => (sem.apply u).setCasc fun c => { c with tailKept := word } }

/-- ACT.LD (R208, R219). -/
def semActLd (t : EGuard) (a : BitVec 6) : State → At → SlotSem := loadSlot (.actLd t a) t a 2064

/-! ### Passes (R221, R222) -/

/-- ROTP and ROTI at issue (R221). -/
def passSlot (i : Instr) (t : EGuard) (d a b : BitVec 6) (s : State) (p : At) : SlotSem :=
  let w := readS s (p.site 2) b
  let aa := s.ctx.tileAddr a.toNat
  let da := s.ctx.tileAddr d.toNat
  let f := s.ctx.basin.tagAt aa
  let out := tailOut s.ctx.casc.tailKept
  let v := passV w
  let ng := outGranules out (128 * v)
  let nIn := if f.isFlt then v * inBytes f else 256
  let o := { opOf s p i 0 t with
    sb := w
    daddr := da
    aaddr := aa
    atag := BitVec.ofNat 4 f.code
    rd := [tileRun s a.toNat]
    wr := [(true, da, 256 * ng)] }
  engSlot s p t [b] none
    [tileRange s p 0 d.toNat, tileSpan s p 0 d.toNat (256 * ng), tileRange s p 1 a.toNat, tileSpan s p 1 a.toNat nIn,
      granTags s p 1 Fmt.isFlt ((nIn + 255) / 256) aa none] o

/-- ROTP (R221). -/
def semRotp (t : EGuard) (d a b : BitVec 6) : State → At → SlotSem := passSlot (.rotp t d a b) t d a b
/-- ROTI (R221). -/
def semRoti (t : EGuard) (d a b : BitVec 6) : State → At → SlotSem := passSlot (.roti t d a b) t d a b

/-- ROTG (R222). -/
def semRotg (t : EGuard) (d a b : BitVec 6) (s : State) (p : At) : SlotSem :=
  let w := readS s (p.site 2) b
  let aa := s.ctx.tileAddr a.toNat
  let da := s.ctx.tileAddr d.toNat
  let v := passV w
  let ga := s.ctx.accAddr (passGacc w)
  let o := { opOf s p (.rotg t d a b) 0 t with
    sb := w
    daddr := da
    aaddr := aa
    gaddr := ga
    atag := 1
    rd := [tileRun s a.toNat, tileRun s d.toNat]
    wr := [(true, aa, 512 * v), (true, da, 512 * v)] }
  engSlot s p t [b] none
    [tileRange s p 0 d.toNat, tileSpan s p 0 d.toNat (512 * v), tileRange s p 1 a.toNat, tileSpan s p 1 a.toNat (512 * v),
      accRange s p 2 ga, granIs s p 0 .fp32 (2 * v) da, granIs s p 1 .fp32 (2 * v) aa] o

/-! ### Sweeps (R189, R190, R223) -/

/-- TRI and GROT at issue; `logs` says whether the log is used and `out` whether it is written. -/
def sweepSlot (i : Instr) (t : EGuard) (d a b : BitVec 6) (logs out : W64 → Bool) (s : State) (p : At) : SlotSem :=
  let w := readS s (p.site 1) a
  let lg := readS s (p.site 2) b
  let da := s.ctx.tileAddr d.toNat
  let m := sweepM w
  let n := 8 * (sweepOf w).length
  let log := (false, lg.toNat, n)
  let rows := (true, da, 256 * m)
  let o := { opOf s p i 0 t with
    sa := w
    sb := lg
    daddr := da
    rd := if logs w && !(out w) then [tileRun s d.toNat, log] else [tileRun s d.toNat]
    wr := if logs w && out w then [rows, log] else [rows] }
  engSlot s p t [a, b] none
    [tileRange s p 0 d.toNat, tileSpan s p 0 d.toNat (256 * m), granIs s p 0 .fp32 m da,
      if logs w then imageCheck s lg 8 n else none] o

/-- TRI (R189 to R191). -/
def semTri (t : EGuard) (d a b : BitVec 6) : State → At → SlotSem :=
  sweepSlot (.tri t d a b) t d a b sweepLog fun _ => true
/-- GROT (R189, R190, R192). -/
def semGrot (t : EGuard) (d a b : BitVec 6) : State → At → SlotSem :=
  sweepSlot (.grot t d a b) t d a b (fun _ => true) fun _ => false

/-! ### Saving and resuming a sweep (R224, R225) -/

/-- SWP.SV (R224): it acts at issue and takes no queue entry. -/
def semSwpSv (t : EGuard) (a : BitVec 6) (s : State) (p : At) : SlotSem :=
  if !(eGuard s t) then SlotSem.nop
  else
    let va := readS s (p.site 1) a
    { SlotSem.effect (tokWriters t) (fun u =>
        let r := match producesTok t with
          | none => (none, u.ctx)
          | some n => let q := u.ctx.newInstance n.toNat; (some q.1, q.2)
        saveSweep va.toNat r.1 { u with ctx := r.2 }) with
      stall := sBusy s a || (s.ctx.captures t).any fun x => !(s.ctx.instDone x)
      stop := imageCheck s va 64 64 }

/-- SWP.LD (R225): the bytes that the instruction of the record standing now will write are not for V slots to rely on, from here on
(R153, R193). -/
def semSwpLd (t : EGuard) (a : BitVec 6) (s : State) (p : At) : SlotSem :=
  let va := readS s (p.site 1) a
  engSlot s p t [a] none [imageCheck s va 64 64]
    { opOf s p (.swpLd t a) 0 t with sa := va, rd := [(false, va.toNat, 64)], wr := recordRuns s.ctx va.toNat }

/-! ### Product mode (R226, R227) -/

/-- The class of a product-mode format: 1 bf16, 2 the FP8 formats, 3 the MX formats, 0 none (R143). -/
def prodClass (f : Fmt) : Nat :=
  match f with
  | .bf16 => 1
  | .e4m3 => 2
  | .e5m2 => 2
  | .mxfp8 => 3
  | .mxfp4 => 3
  | _ => 0

/-- The format of a product-mode operand: a tile's tag, the stream format of a SOURCE port, none for another port. -/
def prodFmt (s : State) (v : BitVec 6) : Option Fmt :=
  match portOf v with
  | none => some (s.ctx.basin.tagAt (s.ctx.tileAddr v.toNat))
  | some q => if (s.ctx.port q).st == .source then some (s.ctx.port q).fmt else none

/-- The smaller of two optional widths. -/
def minOpt (x y : Option Nat) : Option Nat :=
  match x, y with
  | some a, some b => some (if a < b then a else b)
  | some a, none => some a
  | none, y => y

/-- Bytes that `rows` rows of K elements cover (R122). -/
def prodSpan (rows k : Nat) (f : Fmt) : Nat := (rows * k * f.width + 7) / 8

/-- The range checks of one operand and of its bitmap tile (R36, R226). -/
def prodRange (s : State) (p : At) (field : Nat) (v : BitVec 6) (rows k : Nat) (bitmap : Bool) : List (Option Stop) :=
  if 60 ≤ v.toNat then []
  else
    let f := (prodFmt s v).getD .raw
    [tileRange s p field v.toNat, tileSpan s p field v.toNat (prodSpan rows k f)] ++
      (if bitmap then
        [tileRange s p field (v.toNat + 8), tileSpan s p field (v.toNat + 8) ((rows * k + 7) / 8)] else [])

/-- The granule checks of one operand and of its bitmap (R122, R226). A trap on the bitmap tile, which no slot field names, gives the
field of its data tile and the bitmap's granule (DESIGN CHOICE, log entry 95). -/
def prodTags (s : State) (p : At) (field : Nat) (v : BitVec 6) (rows k : Nat) (bitmap : Bool) :
    Option Stop × Option Stop :=
  if 60 ≤ v.toNat then (none, none)
  else
    let f := (prodFmt s v).getD .raw
    (granIs s p field f ((prodSpan rows k f + 255) / 256) (s.ctx.tileAddr v.toNat),
      if bitmap then granIs s p field .bits ((rows * k + 2047) / 2048) (s.ctx.tileAddr (v.toNat + 8)) else none)

/-- The address that a trap on an operand names: a tile's first byte, 0 for a port. -/
def prodAddr (s : State) (v : BitVec 6) : Nat := if 60 ≤ v.toNat then 0 else s.ctx.tileAddr v.toNat

/-- The two formats must pair (R226); a port that is not SOURCE takes no part. -/
def prodPair (s : State) (p : At) (a b : BitVec 6) : Option Stop :=
  match prodFmt s a, prodFmt s b with
  | some x, some y =>
    if prodClass x != 0 && prodClass x == prodClass y then none else some (formatStop p 2 y x (prodAddr s b))
  | _, _ => none

/-- With an MX operand, K must be a multiple of 32: FORMAT on field A with the value 15 expected (R226). -/
def prodShape (s : State) (p : At) (a b : BitVec 6) (k : Nat) : Option Stop :=
  match prodFmt s a, prodFmt s b with
  | some x, some y =>
    if (prodClass x == 3 || prodClass y == 3) && k % 32 != 0 then
      some (trapOf 0x04 (p.idx + 16 + 256 * x.code + 4096 * 15 + 65536 * (prodAddr s a % 2 ^ 20)))
    else none
  | _, _ => none

/-- MPROD and MPRODB at issue (R226). DESIGN CHOICE (log entry 110): with IMM12 = 0 and one operand without an accepted tag, K is the full
width of the other one's. -/
def prodSlot (i : Instr) (bitmap : Bool) (t : EGuard) (q : BitVec 3) (a b : BitVec 6) (s : State) (p : At) : SlotSem :=
  let fa := prodFmt s a
  let fb := prodFmt s b
  let imm := t.imm12.toNat
  let k := if imm != 0 then imm
    else (minOpt (fa.bind fullWidth) (fb.bind fullWidth)).getD 0
  let m := mshapeM s.ctx.ctl.mshape
  let n := mshapeN s.ctx.ctl.mshape
  let ga := prodTags s p 1 a m k bitmap
  let gb := prodTags s p 2 b n k bitmap
  let run := fun (v : BitVec 6) =>
    if 60 ≤ v.toNat then []
    else if bitmap then [tileRun s v.toNat, tileRun s (v.toNat + 8)] else [tileRun s v.toNat]
  let o := { opOf s p i 0 t with
    daddr := s.ctx.accAddr q.toNat
    aaddr := prodAddr s a
    baddr := prodAddr s b
    gaddr := 0
    atag := BitVec.ofNat 4 (fa.getD .raw).code
    btag := BitVec.ofNat 4 (fb.getD .raw).code
    dlen := k
    view := BitVec.ofNat 1024 (s.ctx.tileAddr (a.toNat + 8) + 2 ^ 64 * s.ctx.tileAddr (b.toNat + 8))
    rd := run a ++ run b }
  engSlot s p t [] none
    (accRange s p 0 (s.ctx.accAddr q.toNat) :: prodRange s p 1 a m k bitmap ++ prodRange s p 2 b n k bitmap ++
      [ga.1, prodShape s p a b k, ga.2, prodPair s p a b, gb.1, gb.2, srcStream s p 1 a, srcStream s p 2 b]) o

/-- MPROD (R226, R227). -/
def semMprod (t : EGuard) (q : BitVec 3) (a b : BitVec 6) : State → At → SlotSem :=
  prodSlot (.mprod t q a b) false t q a b
/-- MPRODB (R226, R227). -/
def semMprodb (t : EGuard) (q : BitVec 3) (a b : BitVec 6) : State → At → SlotSem :=
  prodSlot (.mprodb t q a b) true t q a b

/-! ### Accumulators (R228 to R232) -/

/-- ACC.Z (R229). -/
def semAccZ (t : EGuard) (q : BitVec 3) (s : State) (p : At) : SlotSem :=
  engSlot s p t [] none [accRange s p 0 (s.ctx.accAddr q.toNat)]
    { opOf s p (.accZ t q) 0 t with daddr := s.ctx.accAddr q.toNat }

/-- The alignment of an accumulator address descriptor (Table 14-2). -/
def descAlign (w : W64) : Nat := if descSpad w then 64 else 256

/-- The checks of an image of `n` bytes in the space of a descriptor: range, then (`format`), then ALIGN, then SPAD_RANGE
(R217, R229, R230). -/
def descChecks (s : State) (p : At) (w : W64) (n : Nat) (format : List (Option Stop)) : List (Option Stop) :=
  let a := descAddr w
  [if !(descSpad w) && s.ctx.regSize < a + n then some (rangeStop p 1 false a) else none] ++ format ++
    [if a % descAlign w != 0 then some (trapOf 0x07 a) else none,
      if descSpad w && s.ctx.spSize < a + n then some (trapOf 0x08 a) else none]

/-- ACC.LD (R229). -/
def semAccLd (t : EGuard) (q : BitVec 3) (a : BitVec 6) (s : State) (p : At) : SlotSem :=
  let w := readS s (p.site 1) a
  let tags := if descSpad w then none else granIs s p 1 .fp32 64 (descAddr w / 256 * 256)
  engSlot s p t [a] none
    (accRange s p 0 (s.ctx.accAddr q.toNat) :: descChecks s p w 16384 [tags])
    { opOf s p (.accLd t q a) 0 t with
      sa := w
      daddr := s.ctx.accAddr q.toNat
      rd := [(!(descSpad w), descAddr w, 16384)] }

/-- ACC.OUT (R230). -/
def semAccOut (t : EGuard) (q : BitVec 3) (a b : BitVec 6) (s : State) (p : At) : SlotSem :=
  let w := readS s (p.site 1) a
  let c := readS s (p.site 2) b
  let out := tailOut s.ctx.casc.tailKept
  let ng := outGranules out (64 * mshapeM s.ctx.ctl.mshape)
  let n := if descSpad w && out.isBlk then 272 * ng else 256 * ng
  let mt := outTile c
  let ma := s.ctx.tileAddr mt
  let range := if outMask c then tileRange s p 2 mt else none
  let tags := if outMask c then granIs s p 2 .bits 2 ma else none
  let chk := descChecks s p w n []
  engSlot s p t [a, b] none
    ([accRange s p 0 (s.ctx.accAddr q.toNat)] ++ chk.take 1 ++ [range, tags] ++ chk.drop 1)
    { opOf s p (.accOut t q a b) 0 t with
      sa := w
      sb := c
      daddr := s.ctx.accAddr q.toNat
      baddr := ma
      rd := if outMask c then [tileRun s mt] else []
      wr := [(!(descSpad w), descAddr w, n)] }

/-- ACC.PEER (R231, R232). -/
def semAccPeer (t : EGuard) (q : BitVec 3) (a b : BitVec 6) (s : State) (p : At) : SlotSem :=
  engSlot s p t [a, b] none [accRange s p 0 (s.ctx.accAddr q.toNat)]
    { opOf s p (.accPeer t q a b) 0 t with
      sa := readS s (p.site 1) a
      sb := readS s (p.site 2) b
      daddr := s.ctx.accAddr q.toNat }

/-! ### Queries (R233, R234) -/

/-- DRIFT.RD (R233). -/
def semDriftRd (t : EGuard) (d : BitVec 6) (s : State) (p : At) : SlotSem :=
  let a := s.ctx.vecAddr d.toNat
  engSlot s p t [] none [vecRange s p 0 d 2] { opOf s p (.driftRd t d) 0 t with daddr := a, wr := [(true, a, 512)] }

/-- ARR.Q (R234). -/
def semArrQ (t : EGuard) (d sel : BitVec 6) (s : State) (p : At) : SlotSem :=
  engSlot s p t [d] (some (.sreg d)) [] (opOf s p (.arrQ t d sel) 0 t)

end Sys2Proof.Machine
end

