-- ==== Sys2Proof/Machine/ScalarMem.lean ====
section
/-! DEFINITION. Scratchpad and global accesses of the S slot, control registers and token waits (R97 to R105). -/

namespace Sys2Proof.Machine

open Sys2Proof

/-- The scratchpad address of an S access (R98). -/
def spadAddr (s : State) (p : At) (size : Nat) (a : BitVec 6) (off : Imm 6) : W64 :=
  readS s (p.site 1) a + smemOff size off

/-- LDS of `size` bytes (R98 to R100). Uncorrectable data is detected when it lands, and the data is unspecified (R109). -/
def loadSpad (size : Nat) (g : SGuard) (d a : BitVec 6) (off : Imm 6) (s : State) (p : At) : SlotSem :=
  let va := spadAddr s p size a off
  let bad := s.ctx.basin.poisoned 2 va.toNat size
  let bytes := readSpad s (fun x => s.ctx.eng.busyAt false x) (p.site 3) va.toNat size
  let v := if bad then Config.free s.freeCtr (p.site 4) 64 else BitVec.ofNat 64 (ofLe bytes)
  let effect : State → State := fun t =>
    let t := landS p d v 3 t
    if bad then { t with ctx := t.ctx.land t.freeCtr (p.site 17) (.fault 0x0C va) 3 } else t
  sSlot s g [d, a] { SlotSem.effect [.dst (.sreg d v)] effect with
    stop := spadCheck s va size size
    stall := spadBusy s }

/-- STS of `size` bytes (R98, R99). -/
def storeSpad (size : Nat) (g : SGuard) (d a : BitVec 6) (off : Imm 6) (s : State) (p : At) : SlotSem :=
  let va := spadAddr s p size a off
  let dst : PDest := .spad va.toNat ((leBytes size (readS s (p.site 0) d).toNat).map some)
  let effect : State → State := fun t => { t with ctx := t.ctx.land t.freeCtr (p.site 16) dst 2 }
  sSlot s g [d, a] { SlotSem.effect [.dst dst] effect with
    stop := spadCheck s va size size
    stall := spadBusy s }

/-- LDS.B (R98). -/
def semLdsB (g : SGuard) (d a : BitVec 6) (off : Imm 6) : State → At → SlotSem := loadSpad 1 g d a off
/-- LDS.H (R98). -/
def semLdsH (g : SGuard) (d a : BitVec 6) (off : Imm 6) : State → At → SlotSem := loadSpad 2 g d a off
/-- LDS.W (R98). -/
def semLdsW (g : SGuard) (d a : BitVec 6) (off : Imm 6) : State → At → SlotSem := loadSpad 4 g d a off
/-- LDS.D (R98). -/
def semLdsD (g : SGuard) (d a : BitVec 6) (off : Imm 6) : State → At → SlotSem := loadSpad 8 g d a off
/-- STS.B (R98). -/
def semStsB (g : SGuard) (d a : BitVec 6) (off : Imm 6) : State → At → SlotSem := storeSpad 1 g d a off
/-- STS.H (R98). -/
def semStsH (g : SGuard) (d a : BitVec 6) (off : Imm 6) : State → At → SlotSem := storeSpad 2 g d a off
/-- STS.W (R98). -/
def semStsW (g : SGuard) (d a : BitVec 6) (off : Imm 6) : State → At → SlotSem := storeSpad 4 g d a off
/-- STS.D (R98). -/
def semStsD (g : SGuard) (d a : BitVec 6) (off : Imm 6) : State → At → SlotSem := storeSpad 8 g d a off

/-! ### Global accesses (R101 to R103) -/

/-- An off-core access enters the context's list in program order (R259). -/
def Ctx.addAccess (c : Ctx) (a : Access) : Ctx :=
  { c with
    pipe := { c.pipe with nextId := c.pipe.nextId + 1 }
    eng := { c.eng with accs := c.eng.accs ++ [{ a with id := c.pipe.nextId }] } }

/-- The access of a slot, with its bundle and the generation that it translates under. -/
def accessOf (s : State) (kind : AccKind) (cls : BitVec 4) (key : Nat) (leaf va : W64) (size : Nat) (data : List Byte) : Access :=
  ⟨0, s.ctx.pipe.bundleNo, kind, cls.toNat, key, va, size, data, isRemote key, pteC leaf, pteRwin leaf, false,
    s.mem.gen s.ctx.asid, 0⟩

/-- The size of a global access: 2^B[5:4] bytes. -/
def glbSize (sz : BitVec 2) : Nat := 2 ^ sz.toNat

/-- GLD (R101 to R103): the load binds when its scoreboarded result lands. -/
def semGld (g : SGuard) (d a : BitVec 6) (sz : BitVec 2) (cls : BitVec 4) (off : Option (BitVec 32)) (s : State) (p : At) :
    SlotSem :=
  let va := readS s (p.site 1) a + litOff off
  let chk := globalCheck s va (glbSize sz) .read
  let acc := accessOf s .load cls chk.2.1 chk.2.2 va (glbSize sz) []
  let effect : State → State := fun t =>
    let id := t.ctx.pipe.nextId
    let c := t.ctx.addAccess acc
    { t with ctx := c.addSb t.freeCtr (p.site 16) ⟨id, .sreg d, .load id, va, false, []⟩ [.sreg d 0] }
  sSlot s g [d, a] { SlotSem.effect [.dst (.sreg d 0)] effect with stop := chk.1, offcore := true }

/-- GST (R101, R102). -/
def semGst (g : SGuard) (d a : BitVec 6) (sz : BitVec 2) (cls : BitVec 4) (off : Option (BitVec 32)) (s : State) (p : At) :
    SlotSem :=
  let va := readS s (p.site 1) a + litOff off
  let chk := globalCheck s va (glbSize sz) .write
  let data := leBytes (glbSize sz) (readS s (p.site 0) d).toNat
  let acc := accessOf s .store cls chk.2.1 chk.2.2 va (glbSize sz) data
  sSlot s g [d, a] { SlotSem.effect [] (fun t => { t with ctx := t.ctx.addAccess acc }) with
    stop := chk.1
    offcore := true }

/-! ### Control registers and token waits (R104, R105) -/

/-- MFC (R104, R45). -/
def semMfc (g : SGuard) (d c : BitVec 6) (s : State) (p : At) : SlotSem :=
  let v := if c.toNat == 0x0C then readFlags s (p.site 3) else creg s c
  sSlot s g [d] (scalarResult p d v 1)

/-- The effect of MTC on a control register (R104, R45). -/
def putCreg (p : At) (c : BitVec 6) (v : W64) (t : State) : State :=
  if c.toNat == 0x0C then { t with ctx := t.ctx.writeFlags t.freeCtr (p.site 17) v }
  else { t with ctx := t.ctx.setCreg c v }

/-- MTC (R104). -/
def semMtc (g : SGuard) (c a : BitVec 6) (s : State) (p : At) : SlotSem :=
  sSlot s g [a] { SlotSem.effect [] (putCreg p c (readS s (p.site 1) a)) with
    stop := if cregReadOnly c then some (.trap 0x0F (c.setWidth 64)) else none
    wrote0 := 0x20 ≤ c.toNat && c.toNat ≤ 0x22
    wrote1 := 0x23 ≤ c.toNat && c.toNat ≤ 0x25 }

/-- TWAIT (R105). -/
def semTwait (g : SGuard) (o : BitVec 4) (s : State) (_p : At) : SlotSem :=
  sSlot s g [] { SlotSem.nop with stall := !(s.ctx.instDone (o.toNat, (s.ctx.token o.toNat).inst)) }

end Sys2Proof.Machine
end

