-- ==== Sys2Proof/Machine/Access.lean ====
section
/-! DEFINITION. Places that engines read and write byte by byte: global memory and write logs, the basin with sidebands, the
cistern, basins of other cores, die-stream slots (R186, R252, R261, R275, R280, R285, R357). -/

namespace Sys2Proof.Machine

open Sys2Proof

/-! ### Writes to global memory, write logs and the cistern -/

/-- A value overwritten that a source port keeps, unless its STRM starts after a token that it waits for: then every read comes after
the write (R264). `must` says that the port sees it in place of the new one all the same (R186). -/
def Ctx.keepFor (c : Ctx) (space : Nat) (must : Bool) (stamp : Nat) (old : List (Nat × Byte)) (p : Port) : Port :=
  if p.st == .source && chSpace p.chain == space && (must || !(c.eng.startsAfter p)) then p.keep must stamp old else p

/-- Values overwritten in a context's view of global memory, kept by its source ports. -/
def Ctx.noteGlobal (c : Ctx) (must : Port → Bool) (stamp : Nat) (old : List (Nat × Byte)) : Ctx :=
  { c with eng := { c.eng with ports := c.eng.ports.map fun p => c.keepFor 1 (must p) stamp old p } }

/-- No port must keep an overwritten value. -/
def noPort (_p : Port) : Bool := false

/-- Values overwritten in global memory, kept by the source ports of every context that may read it; `must` names the ports of the
context at hand that see them in place of the new ones (R186). -/
def State.noteGlobal (s : State) (must : Port → Bool) (old : List (Nat × Byte)) : State :=
  { s with
    ctx := s.ctx.noteGlobal must s.freeCtr old
    sched := { s.sched with
      saved := s.sched.saved.map fun x => { x with ctx := x.ctx.noteGlobal noPort s.freeCtr old } } }

/-- A part of a merge region within one page: first address, the address after it, and the home key of the first. -/
structure RegionPart where
  lo : Nat
  hi : Nat
  key : Nat
  deriving DecidableEq, Repr

/-- The parts of a merge region that translate. -/
def regionParts (s : State) (asid : BitVec 16) (r : Nat × Nat) : List RegionPart :=
  (List.range ((r.1 + r.2 - 1) / 65536 + 1 - r.1 / 65536)).filterMap fun i =>
    let lo := max r.1 ((r.1 / 65536 + i) * 65536)
    match translateIn s asid lo .read with
    | .ok key _ => some ⟨lo, min (r.1 + r.2) ((r.1 / 65536 + i + 1) * 65536), key⟩
    | _ => none

/-- Cells outside a run of addresses. -/
def Mem.without (m : Mem) (a n : Nat) : Mem := m.filter fun c => !(meets c.1 1 a n)

/-- The bytes of a merge region of a launch are unspecified: in memory and in every snapshot of it (R357). -/
def State.blurRegion (s : State) (l : Launch) (r : Nat × Nat) : State :=
  let snap := fun (c : Ctx) => if c.lid == l.lid then { c with snap := c.snap.without r.1 r.2 } else c
  { s with
    ctx := snap s.ctx
    mem := { s.mem with gmem := (regionParts s l.asid r).foldl (fun m p => m.without p.key (p.hi - p.lo)) s.mem.gmem }
    sched := { s.sched with
      saved := s.sched.saved.map fun x => { x with ctx := snap x.ctx }
      launches := s.sched.launches.map fun x => if x.lid == l.lid then { x with snap := x.snap.without r.1 r.2 } else x } }

/-- A write by an agent outside a launch that runs in deterministic mode, into one of its merge regions, leaves the bytes of
the region unspecified (R357); `writer` names the launch whose write it is. -/
def State.disturb (s : State) (writer : Option (BitVec 32)) (key n : Nat) : State :=
  let live := s.sched.launches.filter fun l => !l.done && l.hdr.getLsbD 59 && writer != some l.lid
  live.foldl (fun s l =>
    ((mergeRegions l.hdr).filter fun r =>
      (regionParts s l.asid r).any fun p => meets key n p.key (p.hi - p.lo)).foldl (fun s r => s.blurRegion l r) s) s

/-- A write of an agent that performs at its home (R246, R357): `writer` is the launch whose write it is, and `sent` says that this
package sent it (R252). -/
def State.homeWrite (s : State) (writer : Option (BitVec 32)) (sent : Bool) (must : Port → Bool) (key : Nat)
    (data : List Byte) : State :=
  let old := (s.mem.homeBytes key data.length).zipIdx.map fun b => (key + b.2, b.1)
  let s := s.noteGlobal must old
  { s with mem := (s.mem.overRrc sent s.freeCtr s.fab.time old).writeHome key data }.disturb writer key data.length

/-- A write of the context at hand that performs at its home. -/
def State.putHome (s : State) (must : Port → Bool) (key : Nat) (data : List Byte) : State :=
  s.homeWrite (some s.ctx.lid) true must key data

/-- A write into a merge region: it goes to the task's write log (R357). -/
def State.putLog (s : State) (must : Port → Bool) (va : Nat) (data : List Byte) : State :=
  let old := (List.range data.length).map fun i => (mergeKey (va + i), s.ctx.mergeByte (va + i))
  let c := s.ctx.noteGlobal must s.freeCtr old
  { s with ctx := { c with log := c.log.writeAll va data } }

/-- Values overwritten in the cistern, kept by the source ports of a context that read it. -/
def Ctx.noteCistern (c : Ctx) (stamp : Nat) (old : List (Nat × Byte)) : Ctx :=
  { c with eng := { c.eng with ports := c.eng.ports.map fun p => c.keepFor 2 false stamp old p } }

/-- Bytes of the cistern written. -/
def State.putCistern (s : State) (a : Nat) (data : List Byte) : State :=
  let old := (s.mem.cistern.bytes 4 a data.length).zipIdx.map fun b => (a + b.2, b.1)
  { s with
    ctx := s.ctx.noteCistern s.freeCtr old
    sched := { s.sched with
      saved := s.sched.saved.map fun x => { x with ctx := x.ctx.noteCistern s.freeCtr old } }
    mem := { s.mem with
      cistern := s.mem.cistern.writeAll a data
      poison := s.mem.poison.filter fun k => !(meets k 1 (cisternKey a) data.length) } }

/-! ### Contexts that hold a logical core (R275) -/

/-- Who holds a logical core of the launch: the context at hand, a parked context of this core, another core, nobody. -/
inductive Holder where
  | own
  | parked (k : Nat)
  | other
  | absent
  deriving DecidableEq, Repr

/-- The place of the parked context of a launch and logical core. -/
def parkedAt (s : State) (lid : BitVec 32) (lcore : Nat) : Option Nat :=
  (s.sched.saved.zipIdx.find? fun p => p.1.ctx.lid == lid && p.1.ctx.ctl.lcore.toNat == lcore).map Prod.snd

/-- The holder of a logical core of a package (R275): whether another package's part of the launch holds a core is free. -/
def holderOf (s : State) (site : Nat) (pkg : BitVec 19) (lcore : Nat) : Holder :=
  if pkg != Config.packageId then (if packageKnown pkg && Config.free s.freeCtr site 1 == 1 then .other else .absent)
  else if s.ctx.ctl.lcore.toNat == lcore then .own
  else
    match parkedAt s s.ctx.lid lcore with
    | some k => .parked k
    | none =>
      if s.sched.tasks.any fun t => t.lid == s.ctx.lid && t.lcore == lcore && t.st != .ended then .other else .absent

/-- The parked context k, or the one at hand. -/
def State.ctxAt (s : State) (h : Holder) : Ctx :=
  match h with
  | .parked k => (s.sched.saved[k]?.map Saved.ctx).getD s.ctx
  | .own => s.ctx
  | .other => s.ctx
  | .absent => s.ctx

/-- A change of the basin of a holder on this core. -/
def State.atHolder (s : State) (h : Holder) (f : Ctx → Ctx) : State :=
  match h with
  | .own => { s with ctx := f s.ctx }
  | .parked k =>
    { s with sched := { s.sched with saved := modifyAt k (fun x => { x with ctx := f x.ctx }) s.sched.saved } }
  | .other => s
  | .absent => s

/-- A step on the context of a holder, which stands on the core for it: the tile table of a parked context acts as its own (R244,
R275). -/
def State.withHolder (s : State) (h : Holder) (f : State → State) : State :=
  match h with
  | .own => f s
  | .parked k =>
    let t := f { s with ctx := s.ctxAt h }
    { t with ctx := s.ctx, sched := { t.sched with saved := modifyAt k (fun x => { x with ctx := t.ctx }) t.sched.saved } }
  | .other => s
  | .absent => s

/-! ### Places -/

/-- The place of one byte (Table 18-2): a global virtual address, the scratchpad, the register space, a byte of the
sideband of a granule, the cistern, another basin, a slot of an open die stream of this core, or, of a record there, a byte after the
256 of its granule. -/
inductive Place where
  | global (va : Nat)
  | spad (a : Nat)
  | reg (a : Nat)
  | side (granule i : Nat)
  | cistern (a : Nat)
  | away (pkg : BitVec 19) (lcore : BitVec 9) (rs : Bool) (a : Nat)
  | awaySide (pkg : BitVec 19) (lcore : BitVec 9) (granule i : Nat)
  | slot (tag off : Nat)
  | slotSide (tag granule i : Nat)
  deriving DecidableEq, Repr

/-- What an access of one byte meets: it can be made; it waits (R249); a page that the host must map; an error code of
Table 18-1. -/
inductive Reach where
  | ok
  | waits
  | miss (page : Nat)
  | bad (code : Nat)
  deriving DecidableEq, Repr

/-- What a read (or a write) of one byte meets now. -/
def reach (s : State) (write : Bool) (pl : Place) : Reach :=
  match pl with
  | .global va =>
    match translate s va (if write then .write else .read) with
    | .ok key _ =>
      if inMerge s.ctx.hdr va then .ok
      else if s.homeWaits key then .waits
      else if !write && s.mem.poisoned key 1 then .bad 3
      else .ok
    | .miss pg => .miss pg
    | .waits => .waits
    | .unresolvable => .bad 1
    | .protection => .bad 2
  | .spad a => if !write && s.ctx.basin.poisoned 2 a 1 then .bad 3 else .ok
  | .reg a => if !write && s.ctx.basin.poisoned 0 a 1 then .bad 3 else .ok
  | .side _ _ => .ok
  | .cistern a => if !write && s.mem.poisoned (cisternKey a) 1 then .bad 3 else .ok
  | .away pkg lcore rs a =>
    if s.pkgLost pkg then .bad 6
    else
      match holderOf s 0 pkg lcore.toNat with
      | .parked k => if !write && (s.ctxAt (.parked k)).basin.poisoned (if rs then 0 else 2) a 1 then .bad 3 else .ok
      | _ => .ok
  | .awaySide pkg _ _ _ => if s.pkgLost pkg then .bad 6 else .ok
  | .slot _ _ => .ok
  | .slotSide _ _ _ => .ok

/-- The value of one byte as an engine instruction reads it. A byte of another core is free (log entry 17). -/
def readPlace (s : State) (o : EngOp) (site : Nat) (pl : Place) : Byte :=
  match pl with
  | .global va =>
    if inMerge s.ctx.hdr va then s.ctx.mergeByte va
    else
      match translate s va .read with
      | .ok key _ => (s.mem.homeBytes key 1).headD 0
      | _ => 0
  | .spad a => (engRead s o false site a 1).headD 0
  | .reg a => (engRead s o true site a 1).headD 0
  | .side g i => (s.ctx.basin.sideAt g).getD i 0
  | .cistern a => (s.mem.cistern.bytes 4 a 1).headD 0
  | .away pkg lcore rs a =>
    match holderOf s (site + 1) pkg lcore.toNat with
    | .parked k =>
      let c := s.ctxAt (.parked k)
      ((if rs then c.regBytes a 1 else c.spadBytes a 1)).headD 0
    | _ => Config.free s.freeCtr site 8
  | .awaySide pkg lcore g i =>
    match holderOf s (site + 1) pkg lcore.toNat with
    | .parked k => ((s.ctxAt (.parked k)).basin.sideAt g).getD i 0
    | _ => Config.free s.freeCtr site 8
  | .slot _ _ => Config.free s.freeCtr site 8
  | .slotSide _ _ _ => Config.free s.freeCtr site 8

/-- A byte of the sideband of a granule replaced. -/
def Basin.setSideByte (b : Basin) (g i : Nat) (v : Byte) : Basin :=
  { (b.mark g) with side := b.side.writeAll (g / 256 * 16 + i) [v] }

/-- A message leaves the package's units, with the source that the port inserts (R364). -/
def State.send (s : State) (m : OutMsg) : State := { s with fab := { s.fab with out := s.fab.out ++ [⟨s.mgmt.endpoint, m⟩] } }

/-- One byte written by an engine instruction to a place that its write reaches. -/
def writePlace (s : State) (o : EngOp) (site : Nat) (pl : Place) (b : Byte) : State :=
  match pl with
  | .global va =>
    match translate s va .write with
    | .ok key _ => if inMerge s.ctx.hdr va then s.putLog noPort va [b] else s.putHome noPort key [b]
    | _ => s
  | .spad a => engWrite s o false a [some b]
  | .reg a => engWrite s o true a [some b]
  | .side g i => { s with ctx := { s.ctx with basin := s.ctx.basin.setSideByte g i b } }
  | .cistern a => s.putCistern a [b]
  | .away pkg lcore rs a =>
    match holderOf s (site + 1) pkg lcore.toNat with
    | .parked k => s.atHolder (.parked k) fun c => if rs then c.putReg a [some b] else c.putSpad a [some b]
    | _ => s.send (.basinWrite pkg lcore rs a [b])
  | .awaySide pkg lcore g i =>
    match holderOf s (site + 1) pkg lcore.toNat with
    | .parked k => s.atHolder (.parked k) fun c => { c with basin := c.basin.setSideByte g i b }
    | _ => s.send (.basinWrite pkg lcore true (2 ^ 22 + g / 256 * 16 + i) [b])
  | .slot tag off =>
    match s.ctx.eng.streams.find? fun d => d.tag == tag with
    | none => s
    | some d => s.send (.basinWrite Config.packageId d.lcore d.rs (o.gaddr - 1 + off) [b])
  | .slotSide tag g i =>
    match s.ctx.eng.streams.find? fun d => d.tag == tag with
    | none => s
    | some d =>
      let a := o.gaddr - 1 + g
      s.send (.basinWrite Config.packageId d.lcore d.rs (if d.rs then 2 ^ 22 + a / 256 * 16 + i else a + 256 + i) [b])

/-- Whether a place is global memory or the fabric: FENCE holds it, and DRAIN counts its writes (R236, R263). -/
def Place.offCore (pl : Place) : Bool :=
  match pl with
  | .spad _ => false
  | .reg _ => false
  | .side _ _ => false
  | .global _ => true
  | .cistern _ => true
  | .away _ _ _ _ => true
  | .awaySide _ _ _ _ => true
  | .slot _ _ => true
  | .slotSide _ _ _ => true

end Sys2Proof.Machine
end

