-- ==== Sys2Proof/Machine/Copies.lean ====
section
/-! DEFINITION. Copies: the checks of COPY, COPY.RED and GATH when they start, the elements they move in any order, and how
they end (R275 to R283). -/

namespace Sys2Proof.Machine

open Sys2Proof

/-! ### Places of elements -/

/-- The place of byte `i` of an element at an offset from a copy address (R275, R277). `rec` says that bytes 256 and
above are the sideband of a register-space granule. -/
def placeAt (base off : W64) (isRec : Bool) (i : Nat) : Place :=
  let a := (caAddr base + off).toNat
  match caSpace base with
  | 0 => .global ((a + i) % 2 ^ 64)
  | 1 => .spad (a + i)
  | 2 => if isRec && 256 ≤ i then .side a (i - 256) else .reg (a + i)
  | 3 => .cistern (a + i)
  | 4 =>
    if isRec && caReg base && 256 ≤ i then .awaySide (caPkg base) (caLcore base) a (i - 256)
    else .away (caPkg base) (caLcore base) (caReg base) (a + i)
  | _ => if isRec && 256 ≤ i then .slotSide (base.toNat % 256) a (i - 256) else .slot (base.toNat % 256) (a + i)

/-- The lane of the gather index vector as a signed number (R283). -/
def gatherIndex (o : EngOp) (n : Nat) : W64 :=
  (BitVec.ofNat 32 (ofLe (sliceOf o.idx (4 * n) 4))).signExtend 64

/-- Whether an instruction gathers. -/
def isGather (o : EngOp) : Bool :=
  match o.instr with
  | .gath _ _ _ _ => true
  | _ => false

/-- The offset of source element n (R277, R283). -/
def srcOff (o : EngOp) (n : Nat) : W64 :=
  if isGather o then tmSoff o.tmpl + gatherIndex o n * tmSstride o.tmpl 0 else tmSrc o.tmpl 0 n

/-- The offset of destination element n. -/
def dstOff (o : EngOp) (n : Nat) : W64 := tmDst o.tmpl 0 n

/-- Whether elements are records of a granule (R277). -/
def isRecord (o : EngOp) : Bool := tmEsize o.tmpl == 272

/-- The place of byte i of source element n. -/
def srcPlace (o : EngOp) (n i : Nat) : Place := placeAt o.sa (srcOff o n) (isRecord o) i

/-- The place of byte i of destination element n. -/
def dstPlace (o : EngOp) (n i : Nat) : Place := placeAt o.sb (dstOff o n) (isRecord o) i

/-! ### Checks at start -/

/-- Where the next copy into a die stream writes: the address of its slot, that of a copy that has taken one aside (R280, R285). -/
def DieStream.slotBase (d : DieStream) (o : EngOp) : Nat := if o.gaddr == 0 then d.base + d.stride * d.next else o.gaddr - 1

/-- Whether an element lies outside its space, or a record not on a granule of the register space (R275, R277, R280); `ds` is the die
stream of a destination there. -/
def elemOutside (s : State) (o : EngOp) (base off : W64) (ds : Option DieStream) : Bool :=
  let a := (caAddr base + off).toNat
  let es := tmEsize o.tmpl
  let granule := if isRecord o then 256 else es
  let misplaced := isRecord o && a % 256 != 0
  match caSpace base with
  | 0 => 2 ^ 57 < a + es
  | 1 => s.ctx.spSize < a + es
  | 2 => misplaced || s.ctx.regSize < a + granule
  | 3 => 2 ^ 28 < a + es
  | 4 => if caReg base then misplaced || s.ctx.regSize < a + granule else s.ctx.spSize < a + es
  | _ =>
    match ds with
    | none => true
    | some d =>
      if d.rs && isRecord o then (d.slotBase o + a) % 256 != 0 || d.size < a + 256 else d.size < a + es

/-- The first element outside its space: SIDE and ELEM of a RANGE status. -/
def firstOutside (s : State) (o : EngOp) (ds : Option DieStream) : Option (Nat × Nat) :=
  (List.range (tmElems o.tmpl)).findSome? fun n =>
    if elemOutside s o o.sa (srcOff o n) none then some (0, n)
    else if elemOutside s o o.sb (dstOff o n) ds then some (1, n)
    else none

/-- The die stream that a copy address names. -/
def streamOf (s : State) (base : W64) : Option DieStream := s.ctx.eng.streams.find? fun d => d.tag == base.toNat % 256

/-- Whether a remote basin address names a core that no task of the launch holds; own basin addresses never do. -/
def isAbsent (s : State) (site : Nat) (base : W64) : Bool :=
  caSpace base == 4 && holderOf s site (caPkg base) (caLcore base).toNat == .absent

/-- Whether a remote basin address names a core of a lost package (R307). -/
def awayLost (s : State) (base : W64) : Bool :=
  caSpace base == 4 && s.pkgLost (caPkg base)

/-- The runs of basin bytes of this core that elements cover: a remote basin address that names this core's own basin
counts (R275). -/
def ownRuns (s : State) (base : W64) (es n : Nat) (isRec : Bool) (off : Nat → W64) : List (Bool × Nat × Nat) :=
  let run := fun (rs : Bool) (k : Nat) => (rs, (caAddr base + off k).toNat, if isRec && rs then 256 else es)
  match caSpace base with
  | 1 => (List.range n).map (run false)
  | 2 => (List.range n).map (run true)
  | 4 => if holderOf s 0 (caPkg base) (caLcore base).toNat == .own && caPkg base == Config.packageId then
      (List.range n).map (run (caReg base)) else []
  | _ => []

/-- A remote basin address that names this core's own basin is taken as the own space (R275). -/
def localise (s : State) (base : W64) : W64 :=
  if caSpace base == 4 && caPkg base == Config.packageId && s.ctx.ctl.lcore.toNat == (caLcore base).toNat then
    BitVec.ofNat 64 ((if caReg base then 2 else 1) * 2 ^ 61) ||| caAddr base
  else base

/-- The first element whose destination bytes, one run for each element, lie outside a tile entry (R280, Table 18-1). -/
def firstOffTile (t : Tile) (rs : List (Bool × Nat × Nat)) : Option Nat :=
  rs.findIdx? fun r => r.1 != t.rs || r.2.1 < t.base || t.base + t.len < r.2.1 + r.2.2

/-- The token word's IMM12 of an engine instruction (R52). -/
def immOf (t : EGuard) : Nat := t.imm12.toNat

/-- How an instruction stands when the engine would start it: it waits, it ends at once with a status (after a change
of state), or it starts. -/
inductive StartRes where
  | waits
  | ends (s : State) (status : W64)
  | starts (s : State) (o : EngOp)

/-- SIDE of an error whose region the manual does not name is free. -/
def openSide (s : State) (code : Nat) : W64 := statusOf code (Config.freeNat s.freeCtr (2 ^ 30) % 4) 0

/-- The 256-byte granules of the register space that runs write. -/
def granulesOf (rs : List (Bool × Nat × Nat)) : List Nat :=
  (rs.flatMap fun r => if r.1 && 0 < r.2.2 then
      (List.range ((r.2.1 + r.2.2 - 1) / 256 + 1 - r.2.1 / 256)).map fun i => 256 * (r.2.1 / 256 + i)
    else []).eraseDups

/-- Tags, and sidebands of formats without scales, given when a copy starts (R39, R40, R277). -/
def tagGranules (c : Ctx) (tag : BitVec 4) (gs : List Nat) : Ctx :=
  let f := Fmt.ofCode tag
  { c with basin := gs.foldl (fun b g =>
      let b := b.setTag g f
      if f.isBlk then b else b.setSide g zeroSide) c.basin }

/-- The runs of basin bytes of a parked context that elements cover, and its place (R275). -/
def parkedRunsOf (s : State) (base : W64) (es n : Nat) (isRec : Bool) (off : Nat → W64) : Option (Nat × List (Bool × Nat × Nat)) :=
  if caSpace base == 4 then
    match holderOf s 0 (caPkg base) (caLcore base).toNat with
    | .parked k =>
      some (k, (List.range n).map fun i => (caReg base, (caAddr base + off i).toNat, if isRec && caReg base then 256 else es))
    | _ => none
  else none

/-- The runs and the holder of a copy's destination in a parked context of this core. -/
def parkedRuns (s : State) (o : EngOp) : Option (Nat × List (Bool × Nat × Nat)) :=
  parkedRunsOf s o.sb (tmEsize o.tmpl) (tmElems o.tmpl) (isRecord o) (dstOff o)

/-- The runs and the holder of a copy's source in a parked context of this core. -/
def parkedSource (s : State) (o : EngOp) : Option (Nat × List (Bool × Nat × Nat)) :=
  parkedRunsOf s o.sa (tmEsize o.tmpl) (tmElems o.tmpl) (isRecord o) (srcOff o)

/-- The runs that a copy reads, or writes, in the parked context at a place. -/
def runsIn (k : Nat) (x : Option (Nat × List (Bool × Nat × Nat))) : List (Bool × Nat × Nat) :=
  match x with
  | none => []
  | some p => if p.1 == k then p.2 else []

/-- Whether the tile tables of the parked contexts that a copy reads or writes let it start (R121, R243). -/
def parkedAllow (s : State) (o : EngOp) : Bool :=
  let ks := ((parkedSource s o).map Prod.fst).toList ++ ((parkedRuns s o).map Prod.fst).toList
  ks.all fun k =>
    (s.ctxAt (.parked k)).tilesAllow [] (runsIn k (parkedSource s o)) (runsIn k (parkedRuns s o))

/-- The start of a copy whose template and addresses have passed (R280): tile entries of source and destination, tags. -/
def copyBegin (s : State) (o : EngOp) : StartRes :=
  let es := tmEsize o.tmpl
  let n := tmElems o.tmpl
  let rd := ownRuns s o.sa es n (isRecord o) (srcOff o)
  let wr := ownRuns s o.sb es n (isRecord o) (dstOff o)
  if !(s.ctx.tilesAllow [] rd wr) || !(parkedAllow s o) then .waits
  else
    let s := match parkedRuns s o with
      | none => s
      | some p => s.atHolder (.parked p.1) fun c =>
        (c.tilesOver p.2).foldl (fun c e => c.setTileState e .filling) (tagGranules c (tmTag o.tmpl) (granulesOf p.2))
    let o := { o with rd := rd, wr := wr, begun := true }
    let s := { s with ctx := tagGranules s.ctx (tmTag o.tmpl) (granulesOf wr) }
    let r := holdTiles s o
    .starts r.1 r.2

/-- The page that an abandoned copy waits for, 0 for none (R281). -/
def awaitsPage (s : State) (o : EngOp) : Bool :=
  o.status != 0 && (match translate s ((o.status.toNat - 1) * 65536) .read with
    | .miss _ => true
    | _ => false)

/-- COPY and GATH when the engine would start them (R278, R280, R283). `o` holds the template. -/
def copyStart (s : State) (o : EngOp) (imm : Nat) : StartRes :=
  let o := { o with sa := localise s o.sa, sb := localise s o.sb }
  let es := tmEsize o.tmpl
  let n := tmElems o.tmpl
  let named := !(isGather o) && 64 ≤ imm
  let e := imm % 64
  let ds := if caSpace o.sb == 5 then streamOf s o.sb else none
  if tmBad o.tmpl || !(caOk o.sa) || !(caOk o.sb) || caSpace o.sa == 5 || (caSpace o.sb == 5 && ds.isNone) ||
      (isGather o && 64 < n) then .ends s (statusOf 4 3 0)
  else if awayLost s o.sa then .ends s (statusOf 6 0 0)
  else if awayLost s o.sb then .ends s (statusOf 6 1 0)
  else if isAbsent s 1 o.sa then .ends s (statusOf 7 0 0)
  else if isAbsent s 2 o.sb then .ends s (statusOf 7 1 0)
  else if ds.any fun d => d.size < n * es then .ends s (statusOf 5 1 0)
  else
    match firstOutside s o ds with
    | some x => .ends s (statusOf 5 x.1 x.2)
    | none =>
      let wr := ownRuns s o.sb es n (isRecord o) (dstOff o)
      let away := caSpace o.sb == 4
      let outside := match parkedRuns s o with
        | some p => firstOffTile ((s.ctxAt (.parked p.1)).tile e) p.2
        | none =>
          if away then (if Config.free s.freeCtr 3 1 == 1 then some (Config.freeNat s.freeCtr (2 ^ 29) % n) else none)
          else if wr.isEmpty then some 0
          else firstOffTile (s.ctx.tile e) wr
      if named && outside.isSome then .ends s (statusOf 8 1 (outside.getD 0))
      else if awaitsPage s o then .waits
      else
        let o := { o with status := 0 }
        match ds with
        | some d =>
          if o.gaddr != 0 then copyBegin s o
          else if !(d.credits.contains d.next) then .waits
          else
            let d' := { d with credits := d.credits.erase d.next, next := (d.next + 1) % d.count }
            let o := { o with gaddr := d.base + d.stride * d.next + 1 }
            (match copyBegin s o with
             | .starts s o =>
               .starts { s with ctx := { s.ctx with eng := { s.ctx.eng with
                 streams := s.ctx.eng.streams.map fun x => if x.tag == d.tag then d' else x } } } o
             | r => r)
        | none => copyBegin s o

/-! ### The parts of a copy (R261, R280) -/

/-- Parts of an element: the pieces of its bytes in aligned 8-byte units of the source, which are read at once, or of the destination,
which are written at once (R261). -/
def partsPer (o : EngOp) : Nat := (tmEsize o.tmpl + 7) / 8 + 1

/-- The bytes of part j of an element of `es` bytes at an address: first and last (exclusive). -/
def partRange (es a j : Nat) : Nat × Nat := (8 * j - a % 8, min es (8 * (j + 1) - a % 8))

/-- Part j of source element n. -/
def srcPart (o : EngOp) (n j : Nat) : Nat × Nat := partRange (tmEsize o.tmpl) (caAddr o.sa + srcOff o n).toNat j

/-- Part j of destination element n. -/
def dstPart (o : EngOp) (n j : Nat) : Nat × Nat := partRange (tmEsize o.tmpl) (caAddr o.sb + dstOff o n).toNat j

/-- The parts of a copy that move bytes, numbered by element and part. -/
def partsOf (o : EngOp) (part : EngOp → Nat → Nat → Nat × Nat) : List Nat :=
  (List.range (tmElems o.tmpl * partsPer o)).filter fun q =>
    let r := part o (q / partsPer o) (q % partsPer o)
    r.1 < r.2

/-- The bytes that a copy has read and not written, numbered by element and byte. -/
def copyHeld (o : EngOp) : List (Nat × Byte) := o.writes.headD []

/-- The bytes read of a part of the destination, once all of them are there. -/
def readyPart (o : EngOp) (q : Nat) : Option (List (Nat × Byte)) :=
  let n := q / partsPer o
  let r := dstPart o n (q % partsPer o)
  let bs := (copyHeld o).filter fun b => n * tmEsize o.tmpl + r.1 ≤ b.1 && b.1 < n * tmEsize o.tmpl + r.2
  if bs.length == r.2 - r.1 then some bs else none

/-- A free choice among the members of a list; a single member is no choice. -/
def chooseFrom (ctr site : Nat) : List Nat → Option Nat
  | [] => none
  | [x] => some x
  | xs => xs[Config.freeNat ctr site % xs.length]?

/-- What the reading or writing of an element meets first. -/
def elemReach (s : State) (o : EngOp) (n lo hi : Nat) : Reach × Nat :=
  let is := (List.range (hi - lo)).map (lo + ·)
  match is.findSome? fun i => (match reach s false (srcPlace o n i) with | .ok => none | r => some (r, 0)) with
  | some x => x
  | none =>
    match is.findSome? fun i => (match reach s true (dstPlace o n i) with | .ok => none | r => some (r, 1)) with
    | some x => x
    | none => (.ok, 0)

/-- The first element up to `n` that fails: CODE, SIDE and ELEM (R281). -/
def firstFailing (s : State) (o : EngOp) (n : Nat) : Option (Nat × Nat × Nat) :=
  (List.range n).findSome? fun k =>
    match elemReach s o k 0 (tmEsize o.tmpl) with
    | (.bad code, side) => some (code, side, k)
    | _ => none

/-- The key of a place on this core, in a context parked here or at a home, by which overlaps of source and destination show (R280). -/
def placeKey (s : State) (pl : Place) : Option Nat :=
  match pl with
  | .spad a => some (2 ^ 65 + basinKey 2 a)
  | .reg a => some (2 ^ 65 + basinKey 0 a)
  | .side g i => some (2 ^ 66 + g * 16 + i)
  | .cistern a => some (2 ^ 67 + a)
  | .global va =>
    match translate s va .read with
    | .ok key _ => some key
    | _ => none
  | .away pkg lcore rs a =>
    match holderOf s 0 pkg lcore.toNat with
    | .parked k => some (2 ^ 80 * (k + 1) + basinKey (if rs then 0 else 2) a)
    | _ => none
  | .awaySide pkg lcore g i =>
    match holderOf s 0 pkg lcore.toNat with
    | .parked k => some (2 ^ 80 * (k + 1) + 2 ^ 66 + g * 16 + i)
    | _ => none
  | .slot _ _ => none
  | .slotSide _ _ _ => none

/-- Whether some source byte of the copy lies at a destination byte's place. -/
def overlapsSource (s : State) (o : EngOp) (pl : Place) : Bool :=
  match placeKey s pl with
  | none => false
  | some k => (List.range (tmElems o.tmpl)).any fun n =>
      (List.range (tmEsize o.tmpl)).any fun i => placeKey s (srcPlace o n i) == some k

/-- The bytes of elements after a failing one are unspecified (R281). -/
def scramble (s : State) (o : EngOp) (after : Nat) : State :=
  ((List.range (tmElems o.tmpl)).filter fun n => after < n).foldl (fun s n =>
    (List.range (tmEsize o.tmpl)).foldl (fun s i =>
      match reach s true (dstPlace o n i) with
      | .ok => writePlace s o (2 ^ 31 + 65536 * n + i) (dstPlace o n i) (Config.free s.freeCtr (2 ^ 32 + 65536 * n + i) 8)
      | _ => s) s) s

/-- The tile entries of a parked context that a copy fills. -/
def parkedFilling (s : State) (o : EngOp) : Option (Nat × List Nat) :=
  (parkedRuns s o).map fun p =>
    let c := s.ctxAt (.parked p.1)
    (p.1, (c.tilesOver p.2).filter fun e => (c.tile e).st == .filling && !(c.tile e).orphan)

/-- The entries of a parked context that a copy filled become READY, as the state machine of the entries asks (R243, R244, R312). -/
def parkedDone (s : State) (o : EngOp) : State :=
  match parkedFilling s o with
  | none => s
  | some p => s.withHolder (.parked p.1) fun s => s.tilesReady p.2

/-- The entries of a parked context that a copy filled change as it is abandoned or fails (R244, R281). -/
def parkedUndo (s : State) (o : EngOp) (f : Tile → Tile) : State :=
  match parkedFilling s o with
  | none => s
  | some p => s.atHolder (.parked p.1) fun c => p.2.foldl (fun c e => c.setTile e (f (c.tile e))) c

/-- A copy that meets a page the host must map: abandoned, to be replayed whole once it is mapped (R281). -/
def copyAbandon (s : State) (o : EngOp) (page : Nat) : State :=
  let s := parkedUndo (askPage s page) o fun t => { t with st := .empty }
  let c := s.ctx.abandonOp o
  let mark := fun (q : List EngOp) => q.map fun x => if x.id == o.id then { x with status := BitVec.ofNat 64 (page + 1) } else x
  { s with ctx := { c with eng := c.eng.setQueue o.eng (mark (c.eng.queue o.eng)) } }

/-- The pages of an element whose access has failed take the refusals of the host that made it fail (R255). -/
def spendPages (s : State) (o : EngOp) (x : Nat × Nat × Nat) : State :=
  let base := if x.2.1 == 0 then caAddr o.sa + srcOff o x.2.2 else caAddr o.sb + dstOff o x.2.2
  let pages := ((List.range (tmEsize o.tmpl)).map fun i => (base.toNat + i) / 65536).eraseDups
  if x.1 == 1 then { s with mem := s.mem.spendRefusals s.ctx.asid pages } else s

/-- A copy ends with an error at element `n` (R281). -/
def copyFail (s : State) (o : EngOp) (x : Nat × Nat × Nat) : State :=
  endFailed (parkedUndo (scramble (spendPages s o x) o x.2.2) o fun t => { t with orphan := true }) o (statusOf x.1 x.2.1 x.2.2) none

/-- The read of part of a source element in local global memory from a cacheable page fills a line of the die cache (R245). -/
def copyFills (s : State) (o : EngOp) (n : Nat) (r : Nat × Nat) : State :=
  match srcPlace o n r.1 with
  | .global va =>
    (match translate s va .read with
     | .ok key leaf => if pteC leaf && !(isRemote key) && !(inMerge s.ctx.hdr va) then s.fillDie (key / 128) else s
     | _ => s)
  | _ => s

/-- A byte credit of a completed instruction to a record (R276, R280, R284). -/
abbrev CreditFn := State → W64 → Nat → CreditKind → State

/-- Whether a place is a byte of a sideband: zero under a tag without scales (R39). A record in a die stream's slot in a scratchpad is
bytes like any other. -/
def Place.isSide (s : State) (pl : Place) : Bool :=
  match pl with
  | .side _ _ => true
  | .awaySide _ _ _ _ => true
  | .slotSide tag _ _ => (s.ctx.eng.streams.find? fun d => d.tag == tag).any DieStream.rs
  | .global _ => false
  | .spad _ => false
  | .reg _ => false
  | .cistern _ => false
  | .away _ _ _ _ => false
  | .slot _ _ => false

/-- One part of a copy read into the instruction's buffer, or one part read before written: a free choice (R280). -/
def copyUnit (s : State) (o : EngOp) : State × EngOp :=
  let all := tmElems o.tmpl * partsPer o
  let es := tmEsize o.tmpl
  let unread := (partsOf o srcPart).filter fun q => !(o.seen.contains q)
  let pend := ((partsOf o dstPart).filter fun q => (readyPart o q).isSome).map (· + all)
  match chooseFrom s.freeCtr (2 ^ 33) (unread ++ pend) with
  | none => (s, o)
  | some q =>
    if q < all then
      let n := q / partsPer o
      let r := srcPart o n (q % partsPer o)
      match elemReach s o n r.1 r.2 with
      | (.waits, _) => (s, o)
      | (.miss pg, _) => (copyAbandon s o pg, o)
      | (.bad code, side) =>
        (copyFail s o ((firstFailing s o (n + 1)).getD (code, side, n)), o)
      | (.ok, _) =>
        let bs := (List.range (r.2 - r.1)).map fun i =>
          (n * es + r.1 + i, readPlace s o (2 ^ 34 + 2 * (n * es + r.1 + i)) (srcPlace o n (r.1 + i)))
        (copyFills s o n r, { o with seen := q :: o.seen, writes := [copyHeld o ++ bs] })
    else
      let bs := (readyPart o (q - all)).getD []
      let stop := bs.findSome? fun b =>
        match reach s true (dstPlace o (b.1 / es) (b.1 % es)) with
        | .ok => none
        | r => some (r, b.1 / es)
      match stop with
      | some (.waits, _) => (s, o)
      | some (.miss pg, _) => (copyAbandon s o pg, o)
      | some (.bad code, n) => (copyFail s o ((firstFailing s o (n + 1)).getD (code, 1, n)), o)
      | some (.ok, _) => (s, o)
      | none =>
        let s := bs.foldl (fun s b =>
          let pl := dstPlace o (b.1 / es) (b.1 % es)
          let v := if overlapsSource s o pl then Config.free s.freeCtr (2 ^ 35 + b.1) 8 else b.2
          writePlace s o (2 ^ 36 + 2 * b.1) pl (if pl.isSide s && !(Fmt.ofCode (tmTag o.tmpl)).isBlk then 0 else v)) s
        (s, { o with writes := [(copyHeld o).filter fun b => !(bs.any fun x => x.1 == b.1)] })

/-- Whether a copy has moved every part. -/
def copyDone (o : EngOp) : Bool := (copyHeld o).isEmpty && (partsOf o srcPart).all fun q => o.seen.contains q

/-- Whether an instruction is still the started one that it was. -/
def stillStarted (s : State) (o : EngOp) : Bool := s.ctx.eng.started.any fun x => x.id == o.id

/-- A started instruction as it stands after a unit. -/
def keepStarted (s : State) (o : EngOp) : State := { s with ctx := { s.ctx with eng := s.ctx.eng.setStarted o } }

/-- The credit of a completed copy: one that has written into a parked context of this core says where (R265). -/
def copyCredit (s : State) (o : EngOp) : CreditKind :=
  match parkedRuns s o with
  | none => .plain
  | some p => .basin (caLcore o.sb) (p.2.map fun r => (if r.1 then 0 else 2, r.2.1, r.2.2))

/-- `n` parts of a copy moved, then its completion when none is left (R280). -/
def copyRun (credit : CreditFn) : (n : Nat) → State → EngOp → State
  | 0, s, o => keepStarted s o
  | n + 1, s, o =>
    let r := copyUnit s o
    if !(stillStarted r.1 r.2) then r.1
    else if copyDone r.2 then
      let bytes := tmElems r.2.tmpl * tmEsize r.2.tmpl
      let t := if tmRec r.2.tmpl == 0 then r.1 else credit r.1 (tmRec r.2.tmpl) bytes (copyCredit r.1 r.2)
      complete (parkedDone t r.2) r.2 0 none
    else copyRun credit n { r.1 with freeCtr := r.1.freeCtr + 1 } r.2

/-! ### COPY.RED (R282) -/

/-- OP and TYPE of COPY.RED. -/
def redOp (imm : Nat) : Nat := imm % 4
/-- TYPE. -/
def redType (imm : Nat) : Nat := imm / 4 % 8
/-- Bytes of an element of a TYPE. -/
def redSize (ty : Nat) : Nat :=
  match ty with
  | 2 => 8
  | 3 => 8
  | 5 => 2
  | _ => 4

/-- The smaller or larger of two codes of an integer type: signed types 0 and 2, unsigned 1 and 3. -/
def redPick (ty w : Nat) (larger : Bool) (x y : Nat) : Nat :=
  let key := fun (v : Nat) => if ty % 2 == 0 then sextInt w v else (v : Int)
  if larger then (if key x < key y then y else x) else (if key y < key x then y else x)

/-- The combination of an old value with an operand: OP 0 ADD, 1 MIN, 2 MAX over TYPE (R282). -/
def redValue (op ty old x : Nat) : Nat :=
  let w := 8 * redSize ty
  if ty < 4 then
    match op with
    | 0 => (old + x) % 2 ^ w
    | 1 => redPick ty w false old x
    | _ => redPick ty w true old x
  else
    let f := if ty == 4 then Fmt.fp32 else Fmt.bf16
    match op with
    | 0 => (elemAdd f .rne old x).1
    | 1 => (elemMin f old x).1
    | _ => (elemMax f old x).1

/-- COPY.RED when the engine would start it (R282). -/
def redStart (s : State) (o : EngOp) (imm : Nat) : StartRes :=
  let o := { o with sa := localise s o.sa }
  let n := tmElems o.tmpl
  if tmBad o.tmpl || !(caOk o.sa) || !(caOk o.sb) || caSpace o.sa == 5 || (caSpace o.sb != 0 && caSpace o.sb != 3) ||
      tmEsize o.tmpl != redSize (redType imm) then .ends s (statusOf 4 3 0)
  else if awayLost s o.sa then .ends s (statusOf 6 0 0)
  else if awayLost s o.sb then .ends s (statusOf 6 1 0)
  else if isAbsent s 1 o.sa then .ends s (statusOf 7 0 0)
  else if s.ctx.det && 4 ≤ redType imm && redOp imm == 0 then .ends s (openSide s 6)
  else
    match firstOutside s o none with
    | some x => .ends s (statusOf 5 x.1 x.2)
    | none =>
      let rd := ownRuns s o.sa (tmEsize o.tmpl) n (isRecord o) (srcOff o)
      if !(s.ctx.tilesAllow [] rd []) || !(parkedAllow s o) then .waits else .starts s { o with rd := rd, begun := true }

/-- The identity of an instruction of the context at hand (R282): work id, core, issue sequence. -/
def redKey (s : State) (o : EngOp) : (Nat × Nat) × Nat :=
  ((s.ctx.ctl.wid.toNat, s.ctx.lid.toNat * 512 + s.ctx.ctl.lcore.toNat), o.id)

/-- Whether the cistern has recorded element n of an instruction as applied (R282). -/
def redApplied (s : State) (o : EngOp) (n : Nat) : Bool :=
  s.mem.appliedReds.contains ((redKey s o).1, (redKey s o).2, n)

/-- Whether a byte of the destination of element n holds an old value that is uncorrectable (R281, R282). -/
def redSpoilt (s : State) (o : EngOp) (n : Nat) : Bool :=
  (List.range (tmEsize o.tmpl)).any fun i =>
    match dstPlace o n i with
    | .global va =>
      (match translate s va .write with
       | .ok key _ => !(inMerge s.ctx.hdr va) && s.mem.poisoned key 1
       | _ => false)
    | pl => reach s false pl == .bad 3

/-- What applying element n meets: REFUSED where a package that was lost meanwhile holds it (R307). -/
def redReach (s : State) (o : EngOp) (n : Nat) : Reach × Nat :=
  match elemReach s o n 0 (tmEsize o.tmpl) with
  | (.ok, _) => if redSpoilt s o n then (.bad 3, 1) else (.ok, 0)
  | (.bad 1, side) => (.bad (if o.status == 0 then 1 else 6), side)
  | r => r

/-- One element of COPY.RED applied as one atomic action: any element not yet applied before the first one that cannot be, so that an
end at that one leaves exactly the elements before it applied; the host is asked for a page that one waits for (R281, R282). Where a
later element has been applied already, the instruction goes on waiting for that one (DEDUCED, log entry 102). -/
def redUnit (s : State) (o : EngOp) (imm : Nat) : State × Option (Nat × Nat × Nat) × Bool :=
  let n := tmElems o.tmpl
  let es := tmEsize o.tmpl
  let todo := (List.range n).filter fun k => !(redApplied s o k)
  let stop := todo.find? fun k => (redReach s o k).1 != .ok
  let left := match stop with
    | some x => todo.filter fun k => k < x
    | none => todo
  match chooseFrom s.freeCtr (2 ^ 33) left with
  | none =>
    (match stop with
     | none => (s, none, true)
     | some k =>
       match redReach s o k with
       | (.miss pg, _) => (askPage s pg, none, false)
       | (.bad code, side) =>
         if (List.range n).any fun j => k < j && redApplied s o j then (s, none, false)
         else (spendPages s o (code, side, k), some (code, side, k), true)
       | _ => (s, none, false))
  | some k =>
    let get := fun (pl : Nat → Place) (site : Nat) =>
      ofLe ((List.range es).map fun i => readPlace s o (site + 2 * i) (pl i))
    let new := leBytes es (redValue (redOp imm) (redType imm)
      (get (dstPlace o k) (2 ^ 34 + 2 ^ 20)) (get (srcPlace o k) (2 ^ 34)))
    let t := new.zipIdx.foldl (fun s b => writePlace s o (2 ^ 36 + 2 * b.2) (dstPlace o k b.2) b.1) s
    ({ t with mem := { t.mem with appliedReds := ((redKey t o).1, (redKey t o).2, k) :: t.mem.appliedReds } }, none, false)

/-- The record of applied elements of an instruction dropped. -/
def redForget (s : State) (o : EngOp) : State :=
  { s with mem := { s.mem with
      appliedReds := s.mem.appliedReds.filter fun x => (x.1, x.2.1) != redKey s o } }

/-- `n` elements of COPY.RED applied, then its end (R282). -/
def redRun (credit : CreditFn) (imm : Nat) : (n : Nat) → State → EngOp → State
  | 0, s, o => keepStarted s o
  | n + 1, s, o =>
    let r := redUnit s o imm
    if !r.2.2 then redRun credit imm n { r.1 with freeCtr := r.1.freeCtr + 1 } o
    else
      match r.2.1 with
      | some x => endFailed (redForget r.1 o) o (statusOf x.1 x.2.1 x.2.2) none
      | none =>
        let bytes := tmElems o.tmpl * tmEsize o.tmpl
        let t := if tmRec o.tmpl == 0 then r.1 else credit r.1 (tmRec o.tmpl) bytes .plain
        complete (redForget t o) o 0 none

/-! ### Issue (R280, R282, R283) -/

/-- The template that an instruction of register x would take now: the image of its newest load that is not done, else the register
(R278); none while that image is still to arrive. -/
def issueTemplate (c : Ctx) (x : BitVec 4) : Option (BitVec 1024) :=
  let newest := c.eng.undone.foldl (fun (best : Option EngOp) o =>
    match o.instr with
    | .tplLd _ y _ => if y == x && (best.map EngOp.id).getD 0 ≤ o.id then some o else best
    | _ => best) none
  match newest with
  | some o => if c.unsettled o.sa.toNat 128 then none else some (BitVec.ofNat 1024 (ofLe (c.spadBytes o.sa.toNat 128)))
  | none => some (c.eng.templates.toArray.getD x.toNat 0)

/-- A copy at issue with the basin bytes that it will read and write, by the template that stands; any bytes while that is still to
arrive. Until it is done they are not for slots to rely on (R153, R218). -/
def withRuns (s : State) (x : BitVec 4) (o : EngOp) : EngOp :=
  let o := { o with sa := localise s o.sa, sb := localise s o.sb }
  match issueTemplate s.ctx x with
  | none => { o with wr := wholeBasin }
  | some t =>
    let q := { o with tmpl := t }
    let runs := fun (base : W64) (off : Nat → W64) =>
      if tmBad q.tmpl then [] else ownRuns s base (tmEsize q.tmpl) (tmElems q.tmpl) (isRecord q) off
    { q with rd := runs q.sa (srcOff q), wr := runs q.sb (dstOff q) }

/-- A copy that enters its queue: after the TPL.LD of a first slot of its bundle. -/
def copyInto (p : At) (t : EGuard) (x : BitVec 4) (o : EngOp) (u : State) : State := enqueue p t (withRuns u x o) none u

/-- COPY and COPY.RED at issue. -/
def copySlot (i : Instr) (t : EGuard) (x : BitVec 4) (a b : BitVec 6) (s : State) (p : At) : SlotSem :=
  let o := { opOf s p i (cEngine s p) t with sa := readS s (p.site 1) a, sb := readS s (p.site 2) b }
  let sem := engSlot s p t [a, b] none [] o
  if eGuard s t then { sem with apply := copyInto p t x o } else sem

/-- COPY (R280). -/
def semCopy (t : EGuard) (x : BitVec 4) (a b : BitVec 6) : State → At → SlotSem := copySlot (.copy t x a b) t x a b

/-- COPY.RED (R282). -/
def semCopyRed (t : EGuard) (x : BitVec 4) (a b : BitVec 6) : State → At → SlotSem := copySlot (.copyRed t x a b) t x a b

/-- GATH (R283): vI is read in full at issue. -/
def semGath (t : EGuard) (x : BitVec 4) (a b : BitVec 6) (s : State) (p : At) : SlotSem :=
  let v := BitVec.ofNat 6 (immOf t)
  let src := vecSrc s p 2 v 0 []
  let o := { opOf s p (.gath t x a b) (cEngine s p) t with
    sa := readS s (p.site 1) a
    sb := readS s (p.site 3) b
    idx := src.bytes }
  let sem := engSlot s p t [a, b] none [vecRange s p 2 v 1, checkIs p src .int32] o
  if eGuard s t then { sem with stall := sem.stall || !src.ready, apply := copyInto p t x o } else sem

end Sys2Proof.Machine
end

