-- ==== Sys2Proof/Machine/Tasks.lean ====
section
/-! DEFINITION. Launch headers, work identifiers and placement, task records with arrivals, credits and firing, merge logs,
and kills of launches (R235, R290, R342 to R351, R356 to R358). -/

namespace Sys2Proof.Machine

open Sys2Proof

/-! ### The launch header (Table 22-1) -/

/-- Bits of a header as a number. -/
def hdrBits (h : BitVec 2048) (lo w : Nat) : Nat := h.toNat / 2 ^ lo % 2 ^ w
/-- ENTRY. -/
def hdrEntry (h : BitVec 2048) : Nat := hdrBits h 0 32
/-- GRID. -/
def hdrGrid (h : BitVec 2048) : Nat := hdrBits h 32 9
/-- PRIO. -/
def hdrPrio (h : BitVec 2048) : Nat := hdrBits h 48 5
/-- PLACE. -/
def hdrPlace (h : BitVec 2048) : Nat := hdrBits h 53 3
/-- NFIELD. -/
def hdrNfield (h : BitVec 2048) : Nat := hdrBits h 56 3
/-- DET. -/
def hdrDet (h : BitVec 2048) : Bool := h.getLsbD 59
/-- STAGE. -/
def hdrStage (h : BitVec 2048) : Bool := h.getLsbD 61
/-- CODELEN. -/
def hdrCodeLen (h : BitVec 2048) : Nat := hdrBits h 64 32
/-- QUEUE. -/
def hdrQueue (h : BitVec 2048) : Nat := hdrBits h 96 8
/-- PARTN. -/
def hdrPartn (h : BitVec 2048) : Nat := hdrBits h 104 3
/-- ARGLEN. -/
def hdrArgLen (h : BitVec 2048) : Nat := hdrBits h 108 20
/-- ARG. -/
def hdrArg (h : BitVec 2048) : Nat := hdrBits h 192 57
/-- PARTW. -/
def hdrPartw (h : BitVec 2048) : Nat := hdrBits h 256 24
/-- SEED. -/
def hdrSeed (h : BitVec 2048) : W64 := h.extractLsb' 384 64
/-- QUANTUM. -/
def hdrQuantum (h : BitVec 2048) : Nat := hdrBits h 448 32
/-- ENDLVL. -/
def hdrEndLvl (h : BitVec 2048) : Nat := hdrBits h 480 3
/-- SPADLEN. -/
def hdrSpadLen (h : BitVec 2048) : Nat := hdrBits h 483 15
/-- REGLEN. -/
def hdrRegLen (h : BitVec 2048) : Nat := hdrBits h 498 13
/-- END. -/
def hdrEnd (h : BitVec 2048) : Bool := h.getLsbD 511
/-- ENDIMG. -/
def hdrEndImg (h : BitVec 2048) : Nat := hdrBits h 512 64
/-- Width of field f. -/
def hdrWidth (h : BitVec 2048) (f : Nat) : Nat := hdrBits h (576 + 7 * f) 7
/-- Extent of field f less 1. -/
def hdrExtm1 (h : BitVec 2048) (f : Nat) : Nat := hdrBits h (640 + 64 * f) 64

/-! ### Work identifiers (R342, R343, R349) -/

/-- The lowest bit of field f: the widths of the fields after it. -/
def fieldLow (h : BitVec 2048) (f : Nat) : Nat :=
  ((List.range (hdrNfield h)).filter fun g => f < g).foldl (fun acc g => acc + hdrWidth h g) 0

/-- Field f of a work id. -/
def fieldOf (h : BitVec 2048) (wid f : Nat) : Nat := wid / 2 ^ fieldLow h f % 2 ^ hdrWidth h f

/-- The logical core that a work id selects (R343). -/
def coreOfWid (h : BitVec 2048) (wid : Nat) : Nat :=
  if hdrPlace h == hdrNfield h then 0
  else
    (List.range (hdrNfield h - hdrPlace h)).foldl (fun acc f => acc * (hdrExtm1 h f + 1) + fieldOf h wid f) 0 % hdrGrid h

/-- The work ids of a launch, rising: one for each combination of field values (R342). -/
def launchWids (h : BitVec 2048) : List Nat :=
  (List.range (hdrNfield h)).foldl (fun ws f =>
    ws.flatMap fun w => (List.range (hdrExtm1 h f + 1)).map fun v => w + v * 2 ^ fieldLow h f) [0]

/-- The work id of the group of a task: the fields below a level zero (R350). -/
def groupOf (h : BitVec 2048) (lvl wid : Nat) : Nat :=
  (List.range (hdrNfield h - lvl)).foldl (fun acc f => acc + fieldOf h wid f * 2 ^ fieldLow h f) 0

/-- The logical core of a continuation or posted task (R349). -/
def coreOfContinuation (h : BitVec 2048) (affinity wid : Nat) : Nat :=
  if hdrDet h || affinity == 0 then coreOfWid h wid
  else affinity / 65536 * 0x9E3779B97F4A7C15 % 2 ^ 64 / 2 ^ 55 % hdrGrid h

/-! ### Continuation images (R235) -/

/-- Whether bytes 63:56 of an image are zero. -/
def imageClean (img : BitVec 512) : Bool := img.extractLsb' 448 64 == 0

/-- A quadword of an image. -/
def imageWord (img : BitVec 512) (k : Nat) : W64 := img.extractLsb' (64 * k) 64

/-- The task that an image asks for, of a launch, with the arguments of s1 on (R348, R349). -/
def continuationTask (l : Launch) (img : BitVec 512) (wid : W64) (origin : TaskOrigin) (args : List W64) (log : Mem)
    (given : List Given) : Task :=
  ⟨l.lid, wid, coreOfContinuation l.hdr (imageWord img 6).toNat wid.toNat, hdrPrio l.hdr, imageWord img 0, origin, args,
    .queued, false, log, given⟩

/-- A task joins the queues (R349): the order of its logical core is by work id among tasks that have not started. -/
def State.addTask (s : State) (t : Task) : State := { s with sched := { s.sched with tasks := s.sched.tasks ++ [t] } }

/-! ### Write logs (R358) -/

/-- A conflict of a merge: byte address, the two work ids. -/
structure Conflict where
  va : Nat
  low : W64
  high : W64
  deriving DecidableEq, Repr

/-- The merge of logs in ascending work id, and the conflict at the lowest byte that two of them write. -/
def mergeLogs : List (W64 × Mem) → Mem × Option Conflict
  | [] => ([], none)
  | (w, log) :: rest =>
    let r := mergeLogs rest
    let clash := log.filterMap fun c =>
      (rest.find? fun x => (x.2.get c.1).isSome).map fun x => (⟨c.1, w, x.1⟩ : Conflict)
    let mine := clash.head?
    let first := match mine, r.2 with
      | none, b => b
      | some a, none => some a
      | some a, some b => if b.va < a.va then some b else some a
    (log.foldl (fun m c => m.writeAll c.1 [c.2]) r.1, first)

/-- Logs in ascending work id. -/
def insertLog (x : W64 × Mem) : List (W64 × Mem) → List (W64 × Mem)
  | [] => [x]
  | y :: ys => if x.1.toNat < y.1.toNat then x :: y :: ys else y :: insertLog x ys

/-- Logs sorted by work id. -/
def sortLogs (xs : List (W64 × Mem)) : List (W64 × Mem) := xs.foldr insertLog []

/-- The merge region that holds an address. -/
def regionOf (h : BitVec 2048) (va : Nat) : Nat :=
  ((List.range 8).find? fun i =>
    let b := hdrBits h (1024 + 128 * i) 64
    let n := hdrBits h (1088 + 128 * i) 64
    n != 0 && b ≤ va && va < b + n).getD 0

/-! ### Kills (R119, R351) -/

/-- The saved contexts that a kill takes hold of: they discard what has not started (R119). -/
def State.markKilled (s : State) (f : Saved → Bool) : State :=
  let kill := fun (x : Saved) => if f x then { x with killed := true, ctx := x.ctx.discardUnstarted } else x
  { s with sched := { s.sched with saved := s.sched.saved.map kill } }

/-- A kill of a whole launch: tasks that have not started are discarded, the running one stops, parked ones stay until
their kill completes (R119, R351). -/
def State.killLaunch (s : State) (lid : BitVec 32) : State :=
  let s := s.setLaunch lid fun l => { l with killing := true }
  let mine := fun (t : Task) => t.lid == lid && !t.started && t.st != .ended
  let s := { s with sched := { s.sched with tasks := s.sched.tasks.filter fun t => !(mine t) } }
  let s := s.markKilled fun x => x.ctx.lid == lid
  if s.ctx.lid == lid && canSave s then beginKill s 2 (0, 0, 0) (0, 0, 0) else s

/-- A merge conflict kills the launch with a fault record of reason 4 (Table 22-3, R358). -/
def conflictKill (s : State) (l : Launch) (c : Conflict) : State :=
  let rec512 := faultRecord 4 c.high (coreOfWid l.hdr c.high.toNat) 0
    (BitVec.ofNat 64 (regionOf l.hdr c.va), c.low, BitVec.ofNat 64 c.va) (0, 0, 0)
  (s.sendFault rec512).killLaunch l.lid

/-! ### Task records (R235, R290, R345 to R350) -/

/-- PKG, GEN and INDEX of a record handle (Table 18-9). -/
def recordHandle (r : Record) : W64 :=
  (1 : BitVec 1) ++ Config.packageId ++ BitVec.ofNat 26 r.gen ++ BitVec.ofNat 18 r.slot

/-- Whether a handle names a record of this package. -/
def handleLocal (h : W64) : Bool := h.getLsbD 63 && h.extractLsb' 44 19 == Config.packageId

/-- Whether both counts of a record are zero: it fires (R345). -/
def Record.due (r : Record) : Bool := r.arrivals == 0 && r.bytes == 0

/-- The record that a handle names, one that fires aside (R345). -/
def State.recordOf (s : State) (h : W64) : Option Record :=
  if handleLocal h then
    s.sched.records.find? fun r => r.slot == h.toNat % 2 ^ 18 && r.gen == h.toNat / 2 ^ 18 % 2 ^ 26 && !r.due
  else none

/-- A record replaced. -/
def State.setRecord (s : State) (r : Record) : State :=
  { s with sched := { s.sched with records := s.sched.records.map fun x => if x.slot == r.slot then r else x } }

/-- A record freed. -/
def State.freeRecord (s : State) (slot : Nat) : State :=
  { s with sched := { s.sched with records := s.sched.records.filter fun r => r.slot != slot } }

/-- The context that a drain reaches on this core: that of the logical core that its descriptor names, of the record's launch (R213,
R214, R231). -/
def drainHolder (s : State) (lid : BitVec 32) (lcore : Nat) : Holder :=
  if s.mode != .idle && s.ctx.lid == lid && s.ctx.ctl.lcore.toNat == lcore then .own
  else
    match parkedAt s lid lcore with
    | some k => .parked k
    | none => .other

/-- A contribution added to an accumulator, all at once: RNE32(acc + contribution) (R215). -/
def addDrain (acc : BitVec 131072) (data : List (BitVec 32)) : BitVec 131072 :=
  BitVec.ofNat 131072 (ofLe (bytesOf 32 ((List.range 4096).map fun i =>
    (elemAdd .fp32 .rne (word32 acc i) (data.getD i 0).toNat).1)))

/-- A drain applied to the accumulator at an address of a context: the live copy, or its storage (R211, R214, R215). -/
def Ctx.applyDrain (c : Ctx) (dacc : BitVec 5) (data : List (BitVec 32)) : Ctx :=
  let a := dacc.toNat * 16384
  if c.casc.live == some a then { c with casc := { c.casc with liveVal := addDrain c.casc.liveVal data } }
  else c.putAcc a (leBytes 16384 (addDrain (BitVec.ofNat 131072 (ofLe (c.accBytes a 16384))) data).toNat)

/-- Buffered drains in the order in which they are applied (R215). DESIGN CHOICE (log entry 108): those of one source core and sequence, from
different packages or work ids, in the order of their arrival. -/
def insertDrain (d : Drain) : List Drain → List Drain
  | [] => [d]
  | x :: xs =>
    if d.lcore.toNat < x.lcore.toNat || (d.lcore == x.lcore && d.seq ≤ x.seq) then d :: x :: xs else x :: insertDrain d xs

/-- The buffered drains of a record applied. -/
def applyDrains (s : State) (r : Record) : State :=
  (r.drains.foldr insertDrain []).foldl (fun s d =>
    s.atHolder (drainHolder s r.lid d.dst.toNat) fun c => c.applyDrain d.dacc d.data) s

/-- Whether the cascade of a context is between the start and the end of an instruction, so that a drain must wait (R196, R215). -/
def Ctx.cascadeBusy (c : Ctx) : Bool :=
  c.eng.started.any fun o => o.eng == 0 &&
    (match o.instr with
     | .accPeer _ _ _ _ => false
     | _ => true)

/-- Whether a drain into a holder must wait for its cascade: one that is running on the core (R214, R215). -/
def drainWaits (s : State) (h : Holder) : Bool :=
  match h with
  | .own => !s.atParked && canSave s && s.ctx.cascadeBusy
  | .parked k => s.sched.saved[k]?.any fun x => x.why == .onCore && x.ctx.cascadeBusy
  | .other => false
  | .absent => false

/-- Whether a record that fires still waits to apply its buffered drains (R196, R215). -/
def fireWaits (s : State) (r : Record) : Bool := r.drains.any fun d => drainWaits s (drainHolder s r.lid d.dst.toNat)

/-- The arguments of a fired record's continuation in s1 to s6 (R302, R348). -/
def recordArgs (r : Record) : List W64 :=
  [imageWord r.image 1, imageWord r.image 2,
    if r.granted then BitVec.ofNat 64 r.data else imageWord r.image 3,
    if r.granted then BitVec.ofNat 64 r.closing else imageWord r.image 4,
    BitVec.ofNat 64 r.exArr, BitVec.ofNat 64 r.exBytes]

/-- The logs of an end record's group taken out of its launch. -/
def Launch.takeLogs (l : Launch) (ws : List W64) : List (W64 × Mem) × Launch :=
  (sortLogs ((l.logs.filter fun x => ws.contains x.2.1).map Prod.snd),
    { l with logs := l.logs.filter fun x => !(ws.contains x.2.1) })

/-- The bytes that stand in runs of the basin of a logical core of a launch, where a context of this core holds it (R265). -/
def givenAt (s : State) (lid : BitVec 32) (lcore : Nat) (runs : List (Nat × Nat × Nat)) : List Given :=
  let h := drainHolder s lid lcore
  let of := fun (c : Ctx) => runs.map fun r =>
    (⟨lcore, r.1, r.2.1,
      match r.1 with
      | 0 => c.regBytes r.2.1 r.2.2
      | 1 => if c.casc.live == some r.2.1 then leBytes 16384 c.casc.liveVal.toNat else c.accBytes r.2.1 r.2.2
      | _ => c.spadBytes r.2.1 r.2.2⟩ : Given)
  match h with
  | .own => of s.ctx
  | .parked k => of (s.ctxAt (.parked k))
  | .other => []
  | .absent => []

/-- The run that a drain writes. -/
def drainRun (dacc : BitVec 5) : Nat × Nat × Nat := (1, dacc.toNat * 16384, 16384)

/-- A record fires (R345, R348, R358): its buffered drains are applied, the logs of the group of an end record merged, and
its continuation placed, which sees the basin bytes of the writes that credited the record (R265); it is freed. -/
def fireRecord (s : State) (r : Record) : State :=
  let s := applyDrains (s.freeRecord r.slot) r
  let given := (r.drains.flatMap fun d => givenAt s r.lid d.dst.toNat [drainRun d.dacc]) ++ r.given
  match s.launchOf r.lid with
  | none => s
  | some l =>
    if l.killing || l.done then s
    else
      match r.group with
      | none => s.addTask (continuationTask l r.image (imageWord r.image 5) .continuation (recordArgs r) [] given)
      | some ws =>
        let t := l.takeLogs ws
        let m := mergeLogs t.1
        match m.2 with
        | some c => conflictKill s l c
        | none =>
          let wid := BitVec.ofNat 64 (groupOf l.hdr (hdrEndLvl l.hdr) ((ws.headD 0).toNat))
          (s.setLaunch l.lid fun _ => t.2).addTask (continuationTask l r.image wid .continuation (recordArgs r) m.1 given)

/-- A record after a message: it fires when both counts are zero (R345), once its drains can be applied (R215). -/
def settleRecord (s : State) (r : Record) : State :=
  if r.due && !(fireWaits s r) then fireRecord (s.setRecord r) r else s.setRecord r

/-- Records whose counts are zero, and whose drains had to wait for a cascade, fire (R215). -/
def fireWaiting (s : State) : State :=
  (s.sched.records.filter Record.due).foldl (fun s r => if fireWaits s r then s else fireRecord s r) s

/-- An arrival applied (R290, R345, R346): the status of the message. -/
def arriveAt (s : State) (h : W64) (arrivals bytes : Nat) : State × Nat :=
  match s.recordOf h with
  | none => (s, 6)
  | some r =>
    let excess := r.arrivals < arrivals || r.bytes < bytes
    let r := { r with
      arrivals := r.arrivals - arrivals
      bytes := r.bytes - bytes
      exArr := r.exArr + (arrivals - r.arrivals)
      exBytes := r.exBytes + (bytes - r.bytes) }
    (settleRecord s r, if excess then 9 else 0)

/-- A credit applied (R290, R299, R302, R345, R346): a grant raises the pending byte count, every other credit lowers it. -/
def creditAt (s : State) (h : W64) (n : Nat) (kind : CreditKind) : State × Nat :=
  match s.recordOf h with
  | none => (s, 6)
  | some r =>
    match kind with
    | .grant => (settleRecord s { r with bytes := r.bytes + n, granted := true }, 0)
    | _ =>
      let data := match kind with
        | .exchange => r.data + n
        | _ => r.data
      let closing := match kind with
        | .closing => r.closing + n
        | _ => r.closing
      let given := match kind with
        | .basin lcore runs => givenAt s r.lid lcore.toNat runs
        | _ => []
      let q := { r with given := given ++ r.given, bytes := r.bytes - n, exBytes := r.exBytes + (n - r.bytes), data := data, closing := closing }
      (settleRecord s q, if r.bytes < n then 9 else 0)

/-- A byte credit sent to a record: applied at its home in this package, or sent to another (R280, R318). -/
def sendCredit (s : State) (h : W64) (n : Nat) (kind : CreditKind) : State :=
  if h == 0 then s
  else if handleLocal h then (creditAt s h n kind).1
  else s.send (.credit h n)

/-! ### Allocation (R235, R291, R347) -/

/-- Record slots of a package (R347). -/
def recordSlots : Nat := 262144

/-- A free slot of the record store: any of them (log entry 24), none when all are taken. -/
def freeSlot (s : State) : Option Nat :=
  if recordSlots ≤ s.sched.records.length then none
  else
    let want := Config.freeNat s.freeCtr (2 ^ 28) % recordSlots
    if s.sched.records.any fun r => r.slot == want then
      (List.range (s.sched.records.length + 1)).find? fun k => !(s.sched.records.any fun r => r.slot == k)
    else some want

/-- A record created in a slot, of a new generation of that slot. -/
def State.addRecord (s : State) (slot : Nat) (r : Record) : State × Record :=
  let gen := ((lookupKey slot s.sched.recGen).getD (Config.freeNat s.freeCtr (2 ^ 28 + 1)) + 1) % 2 ^ 26
  let r := { r with slot := slot, gen := gen }
  ({ s with sched := { s.sched with
      records := s.sched.records ++ [r]
      recGen := setKey slot gen s.sched.recGen } }, r)

/-- TREC at the record store (R235, R291): the handle and the status. -/
def createRecord (s : State) (counts : W64) (img : BitVec 512) : State × W64 × W64 :=
  if !(imageClean img) then (s, 0, statusOf 4 3 0)
  else
    match freeSlot s with
    | none => (s, 0, openSide s 6)
    | some slot =>
      let arr := counts.toNat % 2 ^ 32
      let bytes := counts.toNat / 2 ^ 32
      let q := s.addRecord slot ⟨0, 0, s.ctx.lid, arr, bytes, img, 0, 0, false, 0, 0, [], [], [], s.ctx.ctl.lcore.toNat, s.ctx.ctl.wid,
        some s.ctx.ctl.serial, none⟩
      (settleRecord q.1 q.2, recordHandle q.2, 0)

end Sys2Proof.Machine
end

