-- ==== Sys2Proof/Machine/Streams.lean ====
section
/-! DEFINITION. STRM and STRM.CL: binding and closing a port at issue, the template at the start, the stores of a sink, and
what their tokens wait for (R179 to R188, R243, R284). -/

namespace Sys2Proof.Machine

open Sys2Proof

/-- An unbound port that keeps nothing. -/
def Port.unbind (_p : Port) : Port := Port.start

/-- Bytes that a closed sink has stored (R276, R284): whole template elements, the last granule or block padded. -/
def Port.storedBytes (p : Port) : Nat :=
  match p.tmpl, chainFormats p.chain with
  | some t, some f =>
    min ((min p.pos p.total + p.unit - 1) / p.unit * p.unit) p.total / perRecord f.1 * tmEsize t
  | _, _ => 0

/-- The stream element that an address belongs to, for ELEM of a store error. -/
def storeElem (t : BitVec 1024) (a : Nat) : Nat :=
  ((List.range (tmElems t)).find? fun n =>
    let d := (tmDst t 0 n).toNat
    d ≤ a && a < d + tmEsize t).getD 0

/-- The store error of a padding that does not translate (log entry 90), with the address that it met. -/
def padError (t : BitVec 1024) (st : Option Stop) : W64 × Option Nat :=
  match st with
  | some (.unresolvable a) => (statusOf 1 1 (storeElem t a.toNat), some a.toNat)
  | some (.trap _ a) => (statusOf 2 1 (storeElem t a.toNat), none)
  | _ => (0, none)

/-- A stream store whose last byte is written: the entries that it made FILLING become READY (R243). -/
def sinkFilled (s : State) (o : EngOp) : State := keepStarted (s.tilesReady o.held) { o with held := [] }

/-- A sink port that closes (R185, R284): its STRM keeps the vectors not yet stored, padding included, with the first store
error, and with none left its entries are READY (R243); the closing instruction `o` names that STRM, the bytes stored and the flags of the padding. -/
def closePort (s : State) (q : Nat) (o : EngOp) : State × EngOp :=
  let p := s.ctx.port q
  if p.st == .sink then
    let pad := padWrites s q
    let err := padError (p.tmpl.getD 0) pad.2.2
    let ws := p.buf ++ (if pad.1.isEmpty then [] else [pad.1])
    let give := fun (x : EngOp) =>
      if x.id == p.owner then { x with writes := ws, status := if p.err == 0 then err.1 else p.err } else x
    let t := { s with
      ctx := { s.ctx with eng := { s.ctx.eng with started := s.ctx.eng.started.map give } }
      mem := s.mem.spendRefusals s.ctx.asid (err.2.toList.map fun a => a / 65536) }
    let done := if ws.isEmpty then t.ctx.eng.started.find? (fun x => x.id == p.owner) else none
    ((done.map (sinkFilled t)).getD t,
      { o with sd := p.chain, view := p.tmpl.getD 0, gaddr := p.owner + 1, pos := p.storedBytes, part := pad.2.1.toNat })
  else (s, o)

/-- The lane mask that a MASKFILL stage names, read at issue (R46, R180). -/
def fillMask (s : State) (p : At) (word : W64) : BitVec 512 :=
  match (chStages word).find? fun st => st.op == 5 with
  | none => 0
  | some st => readK s (p.site 5) (BitVec.ofNat 3 st.arg1)

/-- What a LOAD of this bundle sees of the stores of the bundle before that have still to land (R99, R186): each stands wholly or not at
all, by a free bit; and the bytes that they write. -/
def spadView (s : State) (site : Nat) : List (Nat × Byte) × List Nat :=
  s.ctx.pipe.pend.zipIdx.foldl (fun acc q =>
    match q.1.dst with
    | .spad a bs =>
      if q.1.landed || s.ctx.pipe.bundleNo + 1 < q.1.due then acc
      else
        let seen := Config.free s.freeCtr (site + q.2) 1 == 1
        (((s.ctx.spadBytes a bs.length).zip bs).zipIdx.filterMap (fun b =>
            b.1.2.map fun v => (a + b.2, if seen then v else b.1.1)) ++ acc.1,
          writtenAddrs a bs ++ acc.2)
    | _ => acc) ([], [])

/-- The port as an STRM leaves it at issue (R179, R180): `s` is the state at the bundle's start, `u` as the slots before it in the bundle
have left it. -/
def boundPort (s u : State) (p : At) (word : W64) (id : Nat) : Port :=
  match chainFormats word with
  | none => Port.start
  | some _ =>
    let seen := { s with ctx := { s.ctx with basin := u.ctx.basin, pipe := u.ctx.pipe } }
    let view := if chDir word == 0 && chSpace word == 0 then spadView seen (p.site 30) else ([], [])
    { Port.start with
      st := if chDir word == 0 then .source else .sink
      owner := id
      bundle := s.ctx.pipe.bundleNo
      shown := view.1
      skip := view.2
      chain := word
      coord := s.ctx.ctl.coord
      seed := s.ctx.ctl.seed
      tensor := s.ctx.ctl.tensor
      rmode := s.ctx.ctl.rmode
      fill := fillMask s p word
      past := s.rrcSeen }

/-- The runs of the scratchpad that a stream reads or writes (R243). -/
def strmRuns (o : EngOp) : List (Bool × Nat × Nat) :=
  if chSpace o.sa == 0 then
    (List.range (tmElems o.tmpl)).map fun n =>
      (false, (if chDir o.sa == 0 then tmSrc o.tmpl 0 n else tmDst o.tmpl 0 n).toNat, tmEsize o.tmpl)
  else []

/-- What keeps the padding of a sink that an instruction closes from its destination: a page that the host must map, or a home that does
not answer (R187, log entry 90). -/
def closeStop (s : State) (q : Nat) : Option Stop := if (s.ctx.port q).st == .sink then padStop s q else none

/-- The basin bytes that the sink of a STRM will store to, by the template that stands; any bytes while that is still to arrive (R153). -/
def sinkRuns (c : Ctx) (x : BitVec 4) (o : EngOp) : List (Bool × Nat × Nat) :=
  if chDir o.sa != 1 || (chainFormats o.sa).isNone || chSpace o.sa != 0 then []
  else
    match issueTemplate c x with
    | none => wholeBasin
    | some t => if tmBad t then [] else strmRuns { o with tmpl := t }

/-- STRM (R179, R284): the port changes at issue; a bound port is closed first. -/
def semStrm (t : EGuard) (r : BitVec 2) (a : BitVec 6) (x : BitVec 4) (s : State) (p : At) : SlotSem :=
  let word := readS s (p.site 1) a
  let o := { opOf s p (.strm t r a x) (cEngine s p) t with sa := word }
  let sem := engSlot s p t [a] none [closeStop s r.toNat] o
  if !(eGuard s t) then sem
  else
    { sem with apply := fun u =>
        let id := u.ctx.pipe.nextId
        let c := closePort u r.toNat { o with wr := sinkRuns u.ctx x o }
        let u' := enqueue p t c.2 none c.1
        { u' with ctx := u'.ctx.setPort r.toNat (boundPort s u' p word id) } }

/-- STRM.CL (R179, R284). -/
def semStrmCl (t : EGuard) (r : BitVec 2) (s : State) (p : At) : SlotSem :=
  let o := opOf s p (.strmCl t r) (cEngine s p) t
  let sem := engSlot s p t [] none [closeStop s r.toNat] o
  if !(eGuard s t) then sem
  else
    { sem with apply := fun u =>
        let c := closePort u r.toNat o
        let u' := enqueue p t c.2 none c.1
        { u' with ctx := u'.ctx.setPort r.toNat Port.start } }

/-! ### Stores of a sink (R186, R187) -/

/-- How the store of one pushed vector ends: it waits, it fails with a status, or it is made. -/
inductive Stored where
  | waits
  | made (s : State) (err : W64)

/-- Whether a source port reads before the stores of an STRM in its class (R259, R262). -/
def loadBefore (o : EngOp) (word : W64) (p : Port) : Bool :=
  chCls p.chain == chCls word && (p.owner < o.id || p.bundle == o.bundle)

/-- One byte of a store made (R186): the scratchpad, global memory or a write log by its key, or the cistern. The error
status, where the byte cannot be written, is that of Table 18-1. -/
def storeByte (o : EngOp) (word : W64) (t : BitVec 1024) (acc : State × W64) (b : Nat × Byte) : State × W64 :=
  let s := acc.1
  let note := fun (code : Nat) => if acc.2 == 0 then statusOf code 1 (storeElem t b.1) else acc.2
  let must := loadBefore o word
  match chSpace word with
  | 0 => if s.ctx.spSize ≤ b.1 then (s, note 5) else (engWrite s o false b.1 [some b.2], acc.2)
  | 1 =>
    if 2 ^ 62 ≤ b.1 && !(isRemote b.1) then (s.putLog must (b.1 - 2 ^ 62) [b.2], acc.2)
    else if isRemote b.1 && s.pkgLost (keyPackage b.1) then ({ s with mem := s.mem.dropRrc (b.1 / 128) }, note 6)
    else (s.putHome must b.1 [b.2], acc.2)
  | _ => if 2 ^ 28 ≤ b.1 then (s, note 5) else (s.putCistern b.1 [b.2], acc.2)

/-- Whether the STORE of a started STRM waits (R102, R186, R262, R263): behind a FENCE before it, and, over global memory, behind what
comes before it in its class. -/
def storeWaits (s : State) (o : EngOp) (word : W64) : Bool :=
  let at' : Access := ⟨o.id, o.bundle, .store, chCls word, 0, 0, 0, [], false, false, false, false, 0, 0⟩
  (chSpace word != 0 && s.ctx.eng.heldAt o.id) ||
    (chSpace word == 1 &&
      (s.ctx.eng.classPending o.id (chCls word) || s.ctx.storesAhead s.pushing o.id (chCls word) || s.ctx.loadsAhead at'))

/-- The store of one pushed vector (R186): a global store performs in its class, so that the LOADs before it there read no later. -/
def storeVec (s : State) (o : EngOp) (word : W64) (t : BitVec 1024) (ws : List (Nat × Byte)) : Stored :=
  let off := chSpace word == 1 && ws.any fun b => (b.1 < 2 ^ 62 || isRemote b.1) && s.homeWaits b.1
  if storeWaits s o word || off then .waits
  else
    let r := ws.foldl (storeByte o word t) (s, 0)
    let u := r.1
    .made (if chSpace word == 1 then
        { u with ctx := u.ctx.classRead (chCls word) (some u.rrcSeen) u.freeCtr u.freeCtr fun p => some (loadBefore o word p) }
      else u) r.2

/-! ### Start and progress -/

/-- The error of a chain word or template (R284). -/
def strmError (s : State) (o : EngOp) : W64 :=
  match chainFormats o.sa with
  | none => openSide s 10
  | some f => if tmBad o.tmpl || fmtEsize f.1 != tmEsize o.tmpl then statusOf 4 3 0 else 0

/-- STRM when the engine would start it (R278, R284): its port takes the template, or is UNBOUND on an error. A LOAD that waited for a
token reads from now on (R264). -/
def strmStart (s : State) (o : EngOp) (q : Nat) : StartRes :=
  let err := strmError s o
  let mine := (s.ctx.port q).owner == o.id && (s.ctx.port q).st != .unbound
  let put := fun (s : State) (p : Port) => if mine then { s with ctx := s.ctx.setPort q p } else s
  if err != 0 then
    let s := put s Port.start
    if o.gaddr == 0 then .ends s err else .starts s { o with sb := err, begun := true }
  else
    let rs := strmRuns o
    let rd := if chDir o.sa == 0 then rs else []
    let wr := if chDir o.sa == 0 then [] else rs
    if !(s.ctx.tilesAllow [] rd wr) then .waits
    else
      let s := put s (if o.waits.isEmpty then { s.ctx.port q with tmpl := some o.tmpl }
        else { s.ctx.port q with tmpl := some o.tmpl, past := s.rrcSeen })
      if mine then
        let r := holdTiles s { o with rd := rd, wr := wr, begun := true }
        .starts r.1 r.2
      else .starts s { o with begun := true }

/-- The STRM of a closed sink that an instruction waits for. -/
def closingOp (s : State) (o : EngOp) : Option EngOp := s.ctx.eng.started.find? fun x => x.id + 1 == o.gaddr

/-- Whether the sink that an instruction closed has stored every vector (R284). -/
def sinkStored (s : State) (o : EngOp) : Bool :=
  match closingOp s o with
  | none => true
  | some x => x.writes.isEmpty

/-- The sink that an instruction closed is over: its STRM leaves the engine, its entries become READY, and its record is
credited (R185, R243, R284). -/
def finishSink (s : State) (o : EngOp) : State :=
  if o.gaddr == 0 then s
  else
    let strm := closingOp s o
    let e := s.ctx.eng.dropStarted (o.gaddr - 1)
    let s := { s with ctx := ({ s.ctx with eng := e }).finishToken (strm.bind EngOp.prod) 0 }
    sendCredit (s.tilesReady ((strm.map EngOp.held).getD [])) (tmRec o.view) o.pos .plain

/-- The first store error of the sink that an instruction closed. -/
def closingStatus (s : State) (o : EngOp) : W64 :=
  match closingOp s o with
  | none => 0
  | some x => x.status

/-- STRM.CL goes on (R284): its status carries the first store error. -/
def strmClRun (s : State) (o : EngOp) : State :=
  if sinkStored s o then complete (finishSink s o) o (closingStatus s o) none else s

/-- The next vector of a started STRM stored: of its port, or of the closed one (R185, R186). -/
def sinkUnit (s : State) (o : EngOp) (q : Nat) : State :=
  let p := s.ctx.port q
  let mine := p.owner == o.id && p.st == .sink
  match (if mine then p.buf else o.writes) with
  | [] => s
  | ws :: rest =>
    match storeVec s o o.sa o.tmpl ws with
    | .waits => s
    | .made t err =>
      if mine then
        let p' := t.ctx.port q
        let t := { t with ctx := t.ctx.setPort q { p' with buf := rest, err := if p'.err == 0 then err else p'.err } }
        if rest.isEmpty && p.part.isEmpty && p.total ≤ p.pos then sinkFilled t o else t
      else
        let o := { o with writes := rest, status := if o.status == 0 then err else o.status }
        if rest.isEmpty then sinkFilled t o else keepStarted t o

/-- A started STRM as it stands in the engine. -/
def restarted (s : State) (o : EngOp) : EngOp := (s.ctx.eng.started.find? fun x => x.id == o.id).getD o

/-- `n` units of a started STRM (R179, R186, R284): the closing of a port that it found bound, its token, and the stores of
its own sink. -/
def strmRun (q : Nat) : (n : Nat) → State → EngOp → State
  | 0, s, _ => s
  | n + 1, s, o =>
    if o.gaddr != 0 then
      if sinkStored s o then
        let s := finishSink s o
        let o := { o with gaddr := 0 }
        strmRun q n (keepStarted s o) o
      else s
    else if o.sb != 0 then endFailed s o o.sb none
    else
      let p := s.ctx.port q
      if p.owner == o.id && p.st == .source then
        let v := popVec s (2 ^ 37) q 0
        let readable := v.ready && (match v.stop with
          | some (.page _) => false
          | some .hold => false
          | _ => true)
        if readable then complete s o 0 none else s
      else if chDir o.sa == 0 then complete s o 0 none
      else
        let s := keepStarted { s with ctx := s.ctx.finishToken o.prod 0 } { o with prod := none }
        let s := sinkUnit s { o with prod := none } q
        strmRun q n s (restarted s o)

end Sys2Proof.Machine
end

