-- ==== Sys2Proof/Machine/Tiles.lean ====
section
/-! DEFINITION. The tile-table instructions, die streams, and template loads (R242 to R244, R276, R279, R285 to R287). -/

namespace Sys2Proof.Machine

open Sys2Proof

/-! ### Issue -/

/-- A C slot whose instruction takes scalar operands sA and sB and may owe a scalar result. -/
def scalarCSlot (i : Instr) (t : EGuard) (reads : List (BitVec 6)) (a b : BitVec 6) (d : Option (BitVec 6))
    (checks : W64 → W64 → List (Option Stop)) (s : State) (p : At) : SlotSem :=
  let va := readS s (p.site 1) a
  let vb := readS s (p.site 2) b
  engSlot s p t reads (d.map SbDest.sreg) (checks va vb)
    { opOf s p i (cEngine s p) t with sa := va, sb := vb }

/-- No check at issue. -/
def noCheck (_a _b : W64) : List (Option Stop) := []

/-- TPL.LD (R279). -/
def semTplLd (t : EGuard) (x : BitVec 4) (a : BitVec 6) (s : State) (p : At) : SlotSem :=
  let va := readS s (p.site 1) a
  engSlot s p t [a] none [spadCheck s va 64 128]
    { opOf s p (.tplLd t x a) (cEngine s p) t with sa := va, rd := [(false, va.toNat, 128)] }

/-- XS.OPEN (R285). -/
def semXsOpen (t : EGuard) (d a b : BitVec 6) : State → At → SlotSem :=
  scalarCSlot (.xsOpen t d a b) t [a, b] a b (some d) noCheck

/-- TT.SET (R286). -/
def semTtSet (t : EGuard) (e a b : BitVec 6) : State → At → SlotSem :=
  scalarCSlot (.ttSet t e a b) t [a, b] a b none noCheck

/-- TT.READY (R286). -/
def semTtReady (t : EGuard) (e : BitVec 6) : State → At → SlotSem := scalarCSlot (.ttReady t e) t [] 0 0 none noCheck

/-- TT.REL (R286). -/
def semTtRel (t : EGuard) (e : BitVec 6) : State → At → SlotSem := scalarCSlot (.ttRel t e) t [] 0 0 none noCheck

/-- TT.BIND (R286). -/
def semTtBind (t : EGuard) (e a : BitVec 6) : State → At → SlotSem := scalarCSlot (.ttBind t e a) t [a] a 0 none noCheck

/-- TT.Q (R287). -/
def semTtQ (t : EGuard) (d e : BitVec 6) : State → At → SlotSem := scalarCSlot (.ttQ t d e) t [] 0 0 (some d) noCheck

/-! ### Template registers (R276, R278, R279) -/

/-- Template register x. -/
def Ctx.template (c : Ctx) (x : BitVec 4) : BitVec 1024 := c.eng.templates.toArray.getD x.toNat 0

/-- TPL.LD executes: its status is always 0. -/
def tplLoad (s : State) (o : EngOp) (x : BitVec 4) : State :=
  let bs := engRead s o false (2 ^ 20) o.sa.toNat 128
  let v : BitVec 1024 := if engBad s false o.sa.toNat 128 then Config.free s.freeCtr (2 ^ 21) 1024
    else BitVec.ofNat 1024 (ofLe bs)
  let c := { s.ctx with eng := { s.ctx.eng with templates := s.ctx.eng.templates.setIfInBounds x.toNat v } }
  complete { s with ctx := c } o 0 none

/-- Whether the order of template registers lets an instruction start (R278): earlier loads of its register have completed;
for a load, earlier users have started as well. An instruction that replays keeps the template of its first start (R281). -/
def templateOrder (s : State) (o : EngOp) : Bool :=
  match (if o.again then none else templateOf o.instr) with
  | none => true
  | some (x, load) =>
    let e := s.ctx.eng
    let earlier := fun (q : List EngOp) => q.filter fun y => y.id < o.id
    let loads := (earlier e.undone).any fun y => templateOf y.instr == some (x, true)
    let users := (earlier (e.qm ++ e.q0 ++ e.q1)).any fun y => templateOf y.instr == some (x, false) && !y.again
    !loads && !(load && users)

/-! ### Tile entries (R244, R286) -/

/-- TT.SET executes (R244, R286, R319): an entry that a failed copy or a lost collective holds is re-defined too. -/
def ttSetStart (s : State) (o : EngOp) (e : Nat) : StartRes :=
  let t := s.ctx.tile e
  let stuck := t.orphan || (t.st == .draining && s.fab.colls.any fun c =>
    c.lost && c.named t.col)
  if (t.st == .filling || t.st == .draining) && !stuck then .waits
  else
    let rs := o.sa.getLsbD 63
    let base := o.sa.toNat % 2 ^ 22
    let len := o.sb.toNat % 2 ^ 23
    let size := if rs then s.ctx.regSize else s.ctx.spSize
    if len == 0 || 2 ^ 22 < len || size < base + len then .ends s (openSide s 5)
    else .ends { s with ctx := s.ctx.setTile e ⟨rs, base, len, .empty, 0, none, false⟩ } 0

/-- What slots' results landed in an entry's bytes before bundle `n` issued is part of its contents for an instruction that waits
(R286). -/
def EngOp.takesTile (o : EngOp) (t : Tile) (n : Nat) : EngOp :=
  { o with clob := o.clob.filter fun c => !(c.reg == t.rs && t.base ≤ c.addr && c.addr < t.base + t.len && c.next ≤ n) }

/-- The contents of entry e as of bundle `n`, for every instruction that has not started (R121, R286). -/
def State.fixTile (s : State) (e n : Nat) : State :=
  let take := fun (q : List EngOp) => q.map fun o => o.takesTile (s.ctx.tile e) n
  { s with ctx := { s.ctx with eng := { s.ctx.eng with
      qm := take s.ctx.eng.qm
      q0 := take s.ctx.eng.q0
      q1 := take s.ctx.eng.q1 } } }

/-- TT.READY of bundle `n` executes (R244, R286, R312). -/
def ttReadyStart (s : State) (e n : Nat) : StartRes :=
  match (s.ctx.tile e).st with
  | .filling => .waits
  | .empty => .ends ((s.fixTile e n).tileReady e) 0
  | .ready => .ends (s.fixTile e n) 0
  | .draining => .ends (s.fixTile e n) 0

/-- TT.REL of bundle `n` executes (R244, R286): a READY entry bound to a die-stream slot credits its producer. -/
def ttRelStart (s : State) (e n : Nat) : StartRes :=
  let t := s.ctx.tile e
  let s := s.fixTile e n
  match t.st with
  | .filling => .waits
  | .draining => .waits
  | .empty => .ends s 0
  | .ready =>
    let s := { s with ctx := s.ctx.setTileState e .empty }
    match t.slot with
    | none => .ends s 0
    | some x => .ends (s.send (.dieCredit x.1 x.2)) 0

/-- The collective that a handle names on this package (Table 21-1). -/
def State.collOf (s : State) (h : W64) : Option Coll :=
  s.fab.colls.find? fun c => c.named h

/-- TT.BIND executes (R286, R319, R331). -/
def ttBindStart (s : State) (o : EngOp) (e : Nat) : StartRes :=
  let t := s.ctx.tile e
  if t.slot.isSome then .ends s (openSide s 8)
  else if o.sa != 0 && (s.collOf o.sa).isNone && !(s.foreignColl o.sa) then .ends s (openSide s 8)
  else
    let dead := t.st == .draining && o.sa == 0 && (match s.collOf t.col with
      | some c => c.lost
      | none => false)
    .ends { s with ctx := s.ctx.setTile e { t with col := o.sa, st := if dead then .ready else t.st } } 0

/-- The numbers of the states of an entry (Table 18-8). -/
def TileState.code (t : TileState) : Nat :=
  match t with
  | .empty => 0
  | .filling => 1
  | .ready => 2
  | .draining => 3

/-- What TT.Q shows of an entry (Table 18-8). -/
def tileWord (t : Tile) : W64 :=
  BitVec.ofNat 64 (t.base % 2 ^ 22 * 2 ^ 32 + (if t.rs then 2 ^ 31 else 0) + t.len % 2 ^ 23 * 2 ^ 8 +
    (if t.slot.isSome then 8 else 0) + (if t.col != 0 then 4 else 0) + t.st.code)

/-- What TT.Q shows of a token (Table 18-8). -/
def tokenWord (t : Token) : W64 :=
  if t.done then ((1 : BitVec 1) ++ t.status.extractLsb' 0 63) else 0

/-- TT.Q executes (R287). -/
def ttQueryWord (s : State) (t : EGuard) (e : BitVec 6) : W64 :=
  if 16 ≤ immOf t then tokenWord (s.ctx.token (immOf t % 16)) else tileWord (s.ctx.tile e.toNat)

/-! ### Die streams (R285) -/

/-- The first ashlar die of a partition. -/
def firstDie (parts partn : Nat) : Nat := partn * (8 / parts)

/-- The die that serves a logical core of a partition (R373): its own, or the next of the partition not held in reset. -/
def dieOf (s : State) (partn lcore : Nat) : Nat :=
  let n := 8 / s.mgmt.parts
  let base := firstDie s.mgmt.parts partn
  let own := lcore / 44 % n
  match (List.range n).find? fun k => !(s.mem.heldReset.getLsbD (base + (own + k) % n)) with
  | some k => base + (own + k) % n
  | none => base + own

/-- The ashlar die of the modelled core. -/
def ownDie : Nat := Config.pcore.toNat / 64

/-- A tag from 1 to 255 of the link direction that no context of this core holds, or none: which tags other cores of the die hold
is free (log entry 17). -/
def freeTag (s : State) : Option Nat :=
  let held := s.ctx.eng.streams ++ s.sched.saved.flatMap fun x => x.ctx.eng.streams
  let cand := (List.range 255).map (· + 1) |>.filter fun t => !(held.any fun d => d.tag == t)
  if cand.isEmpty || Config.free s.freeCtr (2 ^ 27) 1 == 1 then none
  else cand[Config.freeNat s.freeCtr (2 ^ 27 + 1) % cand.length]?

/-- The operands of XS.OPEN (Table 18-7), as the stream they open. -/
def streamAsked (o : EngOp) (tag : Nat) : DieStream :=
  let count := o.sb.toNat / 2 ^ 16 % 256
  ⟨tag, o.sa.extractLsb' 55 9, o.sa.getLsbD 54, o.sa.toNat % 2 ^ 22, o.sb.toNat / 2 ^ 24 % 2 ^ 24, o.sb.toNat % 2 ^ 16,
    count, o.sb.toNat / 2 ^ 48 % 64, List.range count, 0⟩

/-- Whether the slots of a stream are outside their limits, overlap, or leave the space (Table 18-7, R285). -/
def slotsBad (s : State) (d : DieStream) : Bool :=
  let size := if d.rs then s.ctx.regSize else s.ctx.spSize
  d.base % 64 != 0 || d.stride % 64 != 0 || d.size % 64 != 0 || d.size == 0 || 64 - d.entry < d.count ||
    (1 < d.count && d.stride < d.size) || size < d.base + (d.count - 1) * d.stride + d.size

/-- Whether a copy of this core into a stream has still to complete: one issued before the closing instruction, or one that has
started. -/
def streamInUse (s : State) (o : EngOp) (tag : Nat) : Bool :=
  s.ctx.eng.undone.any fun x => (x.id < o.id || x.begun) &&
    (match x.instr with
     | .copy _ _ _ _ => caSpace x.sb == 5 && x.sb.toNat % 256 == tag
     | .gath _ _ _ _ => caSpace x.sb == 5 && x.sb.toNat % 256 == tag
     | _ => false)

/-- XS.OPEN executes (R285): the value for sD with the status, after its effects; or it waits. Whether the destination's
entries are EMPTY, and whether its task exists on another core, come from that core (log entry 17). -/
def xsOpenStart (s : State) (o : EngOp) : Option (State × W64 × W64) :=
  let d := streamAsked o 0
  if d.count == 0 then
    let tag := o.sa.toNat % 256
    match s.ctx.eng.streams.find? fun x => x.tag == tag with
    | none => some (s, 0, openSide s 4)
    | some x =>
      if streamInUse s o tag then none
      else
        let e := { s.ctx.eng with streams := s.ctx.eng.streams.filter fun y => y.tag != tag }
        some (({ s with ctx := { s.ctx with eng := e } }).send (.dieClose x.lcore tag), 0, 0)
  else if holderOf s 4 Config.packageId d.lcore.toNat == .absent then some (s, 0, openSide s 7)
  else if dieOf s (hdrPartn s.ctx.hdr) d.lcore.toNat == ownDie then some (s, 0, openSide s 6)
  else if slotsBad s d then some (s, 0, openSide s 5)
  else if Config.free s.freeCtr (2 ^ 27 + 2) 1 == 1 then some (s, 0, openSide s 8)
  else
    match freeTag s with
    | none => some (s, 0, openSide s 6)
    | some tag =>
      let d := { d with tag := tag }
      let e := { s.ctx.eng with streams := s.ctx.eng.streams ++ [d] }
      some (({ s with ctx := { s.ctx with eng := e } }).send
        (.dieOpen d.lcore tag d.rs d.base d.stride d.size d.count d.entry), BitVec.ofNat 64 tag, 0)

/-- TEND closes the die streams of its task (R94, R285). -/
def closeStreams (s : State) : State :=
  let t := s.ctx.eng.streams.foldl (fun s d => s.send (.dieClose d.lcore d.tag)) s
  { t with ctx := { t.ctx with eng := { t.ctx.eng with streams := [] } } }

end Sys2Proof.Machine
end

