-- ==== Sys2Proof/Machine/Sync.lean ====
section
/-! DEFINITION. FENCE, DRAIN, ARRIVE, TREC, POST and TOK.CL: issue, what they wait for, and what they do (R235, R236, R252,
R263, R288 to R293). -/

namespace Sys2Proof.Machine

open Sys2Proof

/-! ### Issue -/

/-- FENCE (R263, R288). -/
def semFence (t : EGuard) (sc : BitVec 2) (mask : BitVec 16) : State → At → SlotSem :=
  scalarCSlot (.fence t sc mask) t [] 0 0 none noCheck

/-- DRAIN (R236, R289). -/
def semDrain (t : EGuard) (a : BitVec 6) : State → At → SlotSem := scalarCSlot (.drain t a) t [a] a 0 none noCheck

/-- ARRIVE (R290). -/
def semArrive (t : EGuard) (a b : BitVec 6) : State → At → SlotSem := scalarCSlot (.arrive t a b) t [a, b] a b none noCheck

/-- A slot that reads a 64-byte image of the scratchpad at sA when it executes. -/
def imageCSlot (i : Instr) (t : EGuard) (a b : BitVec 6) (d : Option (BitVec 6)) (s : State) (p : At) : SlotSem :=
  let va := readS s (p.site 1) a
  engSlot s p t [a, b] (d.map SbDest.sreg) [spadCheck s va 64 64]
    { opOf s p i (cEngine s p) t with sa := va, sb := readS s (p.site 2) b, rd := [(false, va.toNat, 64)] }

/-- TREC (R235, R291). -/
def semTrec (t : EGuard) (d a b : BitVec 6) : State → At → SlotSem := imageCSlot (.trec t d a b) t a b (some d)

/-- POST (R292). -/
def semPost (t : EGuard) (a : BitVec 6) : State → At → SlotSem := imageCSlot (.post t a) t a 0 none

/-- The tokens of a mask. -/
def maskTokens (mask : BitVec 16) : List Nat := (List.range 16).filter fun n => mask.getLsbD n

/-- A token with a new instance that is done, with status 0 (R293). -/
def Ctx.clearToken (c : Ctx) (n : Nat) : Ctx := c.setToken n ⟨(c.token n).inst + 1, true, 0⟩

/-- TOK.CL (R293): it takes effect at issue; its bundle stalls while its engine's queue is full (R17), and while instances that it
consumes are pending (log entry 33). -/
def semTokCl (t : EGuard) (mask : BitVec 16) (s : State) (p : At) : SlotSem :=
  let own := (producesTok t).toList.map BitVec.toNat
  let all := (maskTokens mask ++ own).eraseDups
  if !(eGuard s t) then SlotSem.nop
  else
    { SlotSem.effect (all.map fun n => Writer.tok (BitVec.ofNat 4 n)) (fun u =>
        { u with ctx := all.foldl (fun c n => c.clearToken n) u.ctx }) with
      stall := !((s.ctx.captures t).all fun x => s.ctx.instDone x)
      enq := some (cEngine s p) }

/-! ### What FENCE holds and DRAIN counts (R236, R263, R266) -/

/-- Whether a copy reads or writes global memory or the fabric. -/
def copyOffCore (o : EngOp) : Bool := !(caSpace o.sa == 1 || caSpace o.sa == 2) || !(caSpace o.sb == 1 || caSpace o.sb == 2)

/-- Whether an instruction makes global or fabric accesses of its own, which a FENCE before it holds, or is a FENCE, which one before it
precedes (R263, R270 to R273). -/
def opOffCore (o : EngOp) : Bool :=
  match o.instr with
  | .fence _ _ _ => true
  | .copy _ _ _ _ => copyOffCore o
  | .gath _ _ _ _ => copyOffCore o
  | .copyRed _ _ _ _ => true
  | .arrive _ _ _ => true
  | .drain _ _ => true
  | .trec _ _ _ _ => true
  | .post _ _ => true
  | .xsOpen _ _ _ _ => true
  | .colSet _ _ _ _ => true
  | .pav _ _ _ _ => true
  | .brdRd t _ _ _ => immOf t < 4
  | .brdLv _ _ _ => true
  | .dpost _ _ _ _ => true
  | .calRd _ _ _ _ => true
  | .calGo _ _ _ _ => true
  | .trig _ _ => true
  | .accPeer _ _ _ _ => true
  | _ => false

/-- Whether a copy writes global memory, the cistern or another package: writes into basins of this package are not counted by DRAIN
(R236, R272). -/
def copyCounts (o : EngOp) : Bool :=
  match caSpace o.sb with
  | 0 => true
  | 3 => true
  | 4 => caPkg o.sb != Config.packageId
  | _ => false

/-- Fields of the destination descriptor (Table 14-4): PKG, LCORE, DACC. -/
def peerPkg (w : W64) : BitVec 19 := w.extractLsb' 45 19
/-- LCORE. -/
def peerLcore (w : W64) : BitVec 9 := w.extractLsb' 32 9
/-- DACC. -/
def peerDacc (w : W64) : BitVec 5 := w.extractLsb' 0 5

/-- Whether an instruction that is not done counts in the outstanding-acknowledgement counter (R236, R266, R330): global
and fabric writes and messages, and the stores of a global sink. Writes into basins of this package are not counted (R272). -/
def opCounts (s : State) (o : EngOp) : Bool :=
  match o.instr with
  | .copy _ _ _ _ => copyCounts o
  | .gath _ _ _ _ => copyCounts o
  | .strm _ r _ _ =>
    chSpace o.sa != 0 && chDir o.sa == 1 &&
      (!o.writes.isEmpty || ((s.ctx.port r.toNat).owner == o.id && !(s.ctx.port r.toNat).buf.isEmpty))
  | .fence _ _ _ => false
  | .drain _ _ => false
  | .trec _ _ _ _ => false
  | .post _ _ => false
  | .xsOpen _ _ _ _ => false
  | .accPeer _ _ _ _ => peerPkg o.sa != Config.packageId
  | _ => opOffCore o

/-- Whether the counter of the writes and messages issued before a place in program order is zero (R236). -/
def drained (s : State) (id : Nat) : Bool :=
  !(s.ctx.eng.accs.any fun a => a.id < id && a.kind != .load) &&
    !(s.ctx.eng.undone.any fun o => o.id < id && opCounts s o)

/-- Whether an STRM of a class before a FENCE has accesses to come: stores of a sink, open ones included, or a LOAD that has not begun
(R259, R263). A LOAD that has begun reads no later than the FENCE. -/
def streamOwes (s : State) (id cls : Nat) : Bool :=
  s.ctx.storesBefore s.pushing (fun o => o.id < id) cls || (s.ctx.eng.strms cls).any fun o => o.id < id && s.ctx.eng.queued o.id

/-- Whether every access of E has performed (R263). -/
def fenceMet (s : State) (id : Nat) (mask : BitVec 16) : Bool :=
  !(s.ctx.eng.accs.any fun a => a.id < id && mask.getLsbD a.cls && !a.performed) &&
    !((List.range 16).any fun c => mask.getLsbD c && streamOwes s id c)

/-- A source port that a FENCE orders: no later write shows in one before it in a class of its mask, and nothing overwritten by now in
one after it, but for what lines of the remote read cache serve (R186, R252, R263). -/
def Port.fenced (id now : Nat) (lines : List (Nat × Nat × Byte)) (mask : BitVec 16) (p : Port) : Port :=
  let before := chSpace p.chain == 1 && p.owner < id && mask.getLsbD (chCls p.chain)
  let after := chSpace p.chain != 0 && id < p.owner
  if p.st == .source then
    (if before then { p with closed := true } else if after then p.openAt (some lines) now else p)
  else p

/-- The source ports as a FENCE orders them. -/
def fencePorts (c : Ctx) (id now : Nat) (lines : List (Nat × Nat × Byte)) (mask : BitVec 16) : Ctx :=
  { c with eng := { c.eng with ports := c.eng.ports.map (Port.fenced id now lines mask) } }

/-- FENCE executes (R252, R263): at sys scope the lines of the remote read cache are dropped. -/
def fenceStart (s : State) (o : EngOp) (sc : BitVec 2) (mask : BitVec 16) : StartRes :=
  if !(fenceMet s o.id mask) then .waits
  else
    let s := if sc == 3 then { s with mem := { s.mem with rrc := [] } } else s
    .ends { s with ctx := fencePorts s.ctx o.id s.freeCtr s.rrcSeen mask } 0

/-! ### Records -/

/-- The status of a message to a record of another package, which comes from there (log entry 17). -/
def awayStatus (s : State) : W64 :=
  match Config.freeNat s.freeCtr (2 ^ 29) % 3 with
  | 0 => 0
  | 1 => statusOf 6 2 0
  | _ => statusOf 9 2 0

/-- A message of counts to a record (R290): its status, SIDE 2 for a record (Table 18-1). A handle that names no package's record, and
one of a lost package, is refused (R307). -/
def sendArrival (s : State) (h counts : W64) : State × W64 :=
  if handleLocal h then
    let r := arriveAt s h (counts.toNat % 2 ^ 32) (counts.toNat / 2 ^ 32)
    (r.1, if r.2 == 0 then 0 else statusOf r.2 2 0)
  else if !(h.getLsbD 63) || s.pkgLost (h.extractLsb' 44 19) then (s, statusOf 6 2 0)
  else (s.send (.arrival h counts), awayStatus s)

/-- Whether an earlier message of this core to the same record is still to be sent (R290). -/
def recordOrder (s : State) (o : EngOp) (h : W64) : Bool :=
  !(s.ctx.eng.undone.any fun x => x.id < o.id && x.sa == h &&
    (match x.instr with
     | .arrive _ _ _ => true
     | .drain _ _ => true
     | _ => false))

/-- DRAIN executes (R236, R289). -/
def drainStart (s : State) (o : EngOp) : StartRes :=
  if !(drained s o.id) then .waits
  else if o.sa == 0 then .ends s 0
  else if !(recordOrder s o o.sa) then .waits
  else
    let r := sendArrival s o.sa 1
    .ends r.1 r.2

/-- ARRIVE executes (R290). -/
def arriveStart (s : State) (o : EngOp) : StartRes :=
  if !(recordOrder s o o.sa) then .waits
  else
    let r := sendArrival s o.sa o.sb
    .ends r.1 r.2

/-- The 64-byte image that an instruction reads when it executes; uncorrectable bytes are free. -/
def readImage (s : State) (o : EngOp) : BitVec 512 :=
  if engBad s false o.sa.toNat 64 then Config.free s.freeCtr (2 ^ 21) 512
  else BitVec.ofNat 512 (ofLe (engRead s o false (2 ^ 20) o.sa.toNat 64))

/-- TREC executes (R235, R291, R347): an image that cannot be read ends it with MEM_UNCORR. -/
def trecRun (s : State) (o : EngOp) : State × W64 × W64 :=
  if engBad s false o.sa.toNat 64 then (s, 0, statusOf 3 2 0) else createRecord s o.sb (readImage s o)

/-- POST executes (R292). -/
def postStart (s : State) (o : EngOp) : StartRes :=
  if engBad s false o.sa.toNat 64 then .ends s (statusOf 3 2 0)
  else
    let img := readImage s o
    if !(imageClean img) then .ends s (statusOf 4 3 0)
    else
      match s.launchOf s.ctx.lid with
      | none => .ends s (openSide s 6)
      | some l =>
        if l.killing then .ends s (openSide s 6)
        else
          let args := (List.range 4).map fun k => imageWord img (k + 1)
          .ends (s.addTask (continuationTask l img (imageWord img 5) .posted args [] [])) 0

end Sys2Proof.Machine
end

