-- ==== Sys2Proof/Machine/Atomics.lean ====
section
/-! DEFINITION. Atomics and reductions: the checks at issue, the operations, and their application at the home (R237, R250,
R257, R267, R294). -/

namespace Sys2Proof.Machine

open Sys2Proof

/-- W32 of an atomic (R294). -/
def atomW32 (t : EGuard) : Bool := immOf t % 2 == 1

/-- TYPE of an atomic: 0 int, 1 uint, 2 fp32. -/
def atomType (t : EGuard) : Nat := immOf t / 2 % 4

/-- Bytes of an atomic. -/
def atomSize (t : EGuard) : Nat := if atomW32 t then 4 else 8

/-- The operations of Table 18-10: 0 ADD, 1 MIN, 2 MAX, 3 XCH, 4 AND, 5 OR, 6 CAS. -/
def atomValue (op ty w old x cmp : Nat) : Option Nat :=
  match op with
  | 0 => some (if ty == 2 then (elemAdd .fp32 .rne old x).1 else (old + x) % 2 ^ w)
  | 1 => some (if ty == 2 then (elemMin .fp32 old x).1 else redPick ty w false old x)
  | 2 => some (if ty == 2 then (elemMax .fp32 old x).1 else redPick ty w true old x)
  | 3 => some x
  | 4 => some (old &&& x)
  | 5 => some (old ||| x)
  | _ => if old == cmp then some x else none

/-- Whether an access lies in the reduction window of its home package (R257): that of another package is not seen here (log entry
17). -/
def inWindow (s : State) (key n : Nat) : Bool :=
  let lpa := if isRemote key then (key - remoteBit) % 2 ^ 44 else key
  let w := if isRemote key then Config.remoteWindow s.freeCtr (keyPackage key) else (s.mem.rwinBase, s.mem.rwinLen)
  w.1 ≤ lpa && lpa + n ≤ w.1 + w.2

/-- The check of deterministic mode (R294): an address in a merge region, or an fp32 ADD that the reduction window would
combine. -/
def atomDet (s : State) (a : W64) (size key : Nat) (op ty : Nat) : Option Stop :=
  if s.ctx.det && ((List.range size).any (fun i => inMerge s.ctx.hdr (a.toNat + i)) ||
      (op == 0 && ty == 2 && inWindow s key size)) then some (.trap causeProtection a)
  else none

/-- An atomic or reduction at issue (R294): its access takes the program place and class of the instruction, which enters
its queue. `d` is the result register, `cmp` the compared one. -/
def atomSlot (i : Instr) (op : Nat) (t : EGuard) (d : Option (BitVec 6)) (cmp a b : BitVec 6) (s : State) (p : At) :
    SlotSem :=
  let va := readS s (p.site 1) a
  let size := atomSize t
  let chk := globalCheck s va size .write
  let low := fun (v : W64) => BitVec.ofNat 64 (v.toNat % 2 ^ (8 * size))
  let x := low (readS s (p.site 2) b)
  let c := low (readS s (p.site 0) cmp)
  let acc := accessOf s (.atom op (atomType t) x c d.isSome) (BitVec.ofNat 4 s.ctx.ctl.acl.toNat) chk.2.1 chk.2.2 va size []
  let o := { opOf s p i (cEngine s p) t with sa := va, sb := x, sd := c }
  let sem := engSlot s p t [a, b, cmp] (d.map SbDest.sreg) [chk.1, atomDet s va size chk.2.1 op (atomType t)] o
  if !(eGuard s t) then sem
  else
    { sem with
      offcore := true
      apply := fun u =>
        let id := u.ctx.pipe.nextId
        let u' := sem.apply u
        { u' with ctx := { u'.ctx with eng := { u'.ctx.eng with accs := u'.ctx.eng.accs ++ [{ acc with id := id }] } } } }

/-- ATOM.ADD (R237, R294). -/
def semAtomAdd (t : EGuard) (d a b : BitVec 6) : State → At → SlotSem := atomSlot (.atomAdd t d a b) 0 t (some d) 0 a b
/-- ATOM.MIN (R294). -/
def semAtomMin (t : EGuard) (d a b : BitVec 6) : State → At → SlotSem := atomSlot (.atomMin t d a b) 1 t (some d) 0 a b
/-- ATOM.MAX (R294). -/
def semAtomMax (t : EGuard) (d a b : BitVec 6) : State → At → SlotSem := atomSlot (.atomMax t d a b) 2 t (some d) 0 a b
/-- ATOM.XCH (R294). -/
def semAtomXch (t : EGuard) (d a b : BitVec 6) : State → At → SlotSem := atomSlot (.atomXch t d a b) 3 t (some d) 0 a b
/-- ATOM.AND (R294). -/
def semAtomAnd (t : EGuard) (d a b : BitVec 6) : State → At → SlotSem := atomSlot (.atomAnd t d a b) 4 t (some d) 0 a b
/-- ATOM.OR (R294). -/
def semAtomOr (t : EGuard) (d a b : BitVec 6) : State → At → SlotSem := atomSlot (.atomOr t d a b) 5 t (some d) 0 a b
/-- ATOM.CAS (R294): sD is the compared value and the result. -/
def semAtomCas (t : EGuard) (d a b : BitVec 6) : State → At → SlotSem := atomSlot (.atomCas t d a b) 6 t (some d) d a b
/-- RED.ADD (R294). -/
def semRedAdd (t : EGuard) (a b : BitVec 6) : State → At → SlotSem := atomSlot (.redAdd t a b) 0 t none 0 a b
/-- RED.MIN (R294). -/
def semRedMin (t : EGuard) (a b : BitVec 6) : State → At → SlotSem := atomSlot (.redMin t a b) 1 t none 0 a b
/-- RED.MAX (R294). -/
def semRedMax (t : EGuard) (a b : BitVec 6) : State → At → SlotSem := atomSlot (.redMax t a b) 2 t none 0 a b

end Sys2Proof.Machine
end

