-- ==== Sys2Proof/Machine/Boards.lean ====
section
/-! DEFINITION. Notice boards, global time and the snapshot trigger: PAV, BRD.RD, BRD.LV, GTIME, TRIG, and the board at its
home (R295 to R297, R308, R322 to R324, R330, R332 to R334, R338, R339, R369). -/

namespace Sys2Proof.Machine

open Sys2Proof

/-! ### The board at its home (R296, R297, R322 to R324) -/

/-- L − cur as a signed 32-bit number (R322). -/
def levelGap (l cur : BitVec 32) : Int := (l - cur).toInt

/-- What a home answers to a post or a read: status word or value, view, and the reason of a BOARD fault, 0 for none. -/
structure BoardAnswer where
  word : W64
  view : BitVec 1024
  fault : Nat
  deriving DecidableEq, Repr

/-- A PAV status word (Table 19-1). -/
def boardWord (level : BitVec 32) (posts : List (Nat × W64)) (code : Nat) : W64 :=
  BitVec.ofNat 64 (level.toNat * 2 ^ 32 + posts.length * 2 ^ 21 + ((posts.head?.map Prod.fst).getD 0) * 2 ^ 11 + code)

/-- The view of a list of posts (R323). -/
def viewOf (posts : List (Nat × W64)) : BitVec 1024 :=
  BitVec.ofNat 1024 (posts.foldl (fun acc p => acc ||| 2 ^ p.1) 0)

/-- The slot that a logical core of a package holds on a board (R295). -/
def Board.slotOf (b : Board) (pkg : BitVec 19) (lcore : BitVec 9) : Option Nat :=
  (b.parts.find? fun p => p.2.1 == pkg && p.2.2 == lcore).map Prod.fst

/-- A level is complete when every registered slot has posted at it (R296, R322). -/
def Board.settle (b : Board) : Board :=
  if b.parts.all fun p => b.posts.any fun q => q.1 == p.1 then
    { b with level := b.level + 1, prev := b.posts, posts := [] }
  else b

/-- A post serialised by the home (R296). -/
def Board.post (b : Board) (pkg : BitVec 19) (lcore : BitVec 9) (level : BitVec 32) (value : W64) : Board × BoardAnswer :=
  match b.slotOf pkg lcore with
  | none => (b, ⟨0, 0, 2⟩)
  | some slot =>
    let d := levelGap level b.level
    if 0 < d then (b, ⟨boardWord b.level [] 3, 0, 0⟩)
    else if d < -1 then (b, ⟨0, 0, 1⟩)
    else if d < 0 then (b, ⟨boardWord level b.prev 2, viewOf b.prev, 0⟩)
    else
      let again := b.posts.any fun q => q.1 == slot
      let b' := if again then b else { b with posts := b.posts ++ [(slot, value)] }
      (b'.settle, ⟨boardWord b.level b'.posts (if again then 1 else 0), viewOf b'.posts, 0⟩)

/-- The value of a slot (R297). -/
def Board.value (b : Board) (slot : Nat) : W64 :=
  if b.slots ≤ slot then 0
  else
    match lookupKey slot b.posts with
    | some v => v
    | none => (lookupKey slot b.prev).getD 0

/-- A read of a slot, or of the level (R297, R334). -/
def Board.read (b : Board) (pkg : BitVec 19) (lcore : BitVec 9) (slot : Option W64) : BoardAnswer :=
  match b.slotOf pkg lcore with
  | none => ⟨0, 0, 2⟩
  | some _ =>
    match slot with
    | none => ⟨b.level.setWidth 64, 0, 0⟩
    | some n => ⟨b.value n.toNat, 0, 0⟩

/-- The board of a handle whose home answers (R324, R332). -/
def State.boardOf (s : State) (h : W64) : Option Board :=
  s.fab.boards.find? fun b => b.handle == h && !(s.pkgLost b.home)

/-- A board replaced. -/
def State.setBoard (s : State) (b : Board) : State :=
  { s with fab := { s.fab with boards := s.fab.boards.map fun x => if x.handle == b.handle then b else x } }

/-- The status word of a lost board (Table 19-1). -/
def lostWord : W64 := 4

/-- A post at the home of a board, and the answer; a handle that names no board is treated as lost (R332). -/
def State.postBoard (s : State) (h : W64) (pkg : BitVec 19) (lcore : BitVec 9) (level : BitVec 32) (value : W64) :
    State × BoardAnswer :=
  match s.boardOf h with
  | none => (s, ⟨lostWord, 0, 0⟩)
  | some b =>
    let r := b.post pkg lcore level value
    (s.setBoard r.1, r.2)

/-- A read at the home of a board; an unknown or lost one reads 0 (R324, R333, R334). -/
def State.readBoard (s : State) (h : W64) (pkg : BitVec 19) (lcore : BitVec 9) (slot : Option W64) : BoardAnswer :=
  match s.boardOf h with
  | none => ⟨0, 0, 0⟩
  | some b => b.read pkg lcore slot

/-! ### Issue -/

/-- PAV (R332). -/
def semPav (t : EGuard) (d a b : BitVec 6) (s : State) (p : At) : SlotSem :=
  engSlot s p t [a, b, d] (some (.sregView d (BitVec.ofNat 2 (immOf t)))) []
    { opOf s p (.pav t d a b) (cEngine s p) t with
      sa := readS s (p.site 1) a
      sb := readS s (p.site 2) b
      sd := readS s (p.site 0) d }

/-- BRD.RD (R333): the view form reads its view register at issue. -/
def semBrdRd (t : EGuard) (d a b : BitVec 6) (s : State) (p : At) : SlotSem :=
  let w := BitVec.ofNat 2 (immOf t)
  let o := { opOf s p (.brdRd t d a b) (cEngine s p) t with
    sa := readS s (p.site 1) a
    sb := readS s (p.site 2) b
    view := s.ctx.regs.getW w }
  let sem := engSlot s p t [a, b] (some (.sreg d)) [] o
  if !(eGuard s t) || immOf t < 4 then sem else { sem with stall := sem.stall || wBusy s w }

/-- BRD.LV (R334). -/
def semBrdLv (t : EGuard) (d a : BitVec 6) : State → At → SlotSem := scalarCSlot (.brdLv t d a) t [a] a 0 (some d) noCheck

/-- GTIME (R338). -/
def semGtime (t : EGuard) (d : BitVec 6) : State → At → SlotSem := scalarCSlot (.gtime t d) t [] 0 0 (some d) noCheck

/-- TRIG (R339). -/
def semTrig (t : EGuard) (a : BitVec 6) : State → At → SlotSem := scalarCSlot (.trig t a) t [a] a 0 none noCheck

/-! ### Execution -/

/-- The quadword of a view that the view form of BRD.RD reads (R333). -/
def viewWord (o : EngOp) : W64 := o.view.extractLsb' (64 * (o.sb.toNat % 16)) 64

/-- The board that an instruction sends a message to. -/
def boardTarget (o : EngOp) : Option W64 :=
  match o.instr with
  | .pav _ _ _ _ => some o.sa
  | .brdRd t _ _ _ => if immOf t < 4 then some o.sa else none
  | .brdLv _ _ _ => some o.sa
  | _ => none

/-- The exchange group whose arbiters an instruction sends a message to. -/
def groupTarget (o : EngOp) : Option W64 :=
  match o.instr with
  | .dpost _ _ _ _ => some o.sb
  | _ => none

/-- Whether an instruction waits for the answer of a home, and so holds its copy engine's queue (R330). -/
def awaitsHome (o : EngOp) : Bool := (boardTarget o).isSome || (groupTarget o).isSome

/-- Whether two instructions send messages to one board or one group. -/
def sameTarget (o x : EngOp) : Bool :=
  ((boardTarget o).isSome && boardTarget x == boardTarget o) || ((groupTarget o).isSome && groupTarget x == groupTarget o)

/-- Whether every earlier message of this core to the same board or group has been served (R330): those of its other tasks that have
been sent included. -/
def serviceOrder (s : State) (o : EngOp) : Bool :=
  !(s.ctx.eng.undone.any fun x => x.id < o.id && sameTarget o x) &&
    !(s.sched.saved.any fun sv => sv.ctx.eng.started.any fun x => x.stamp < o.stamp && sameTarget o x)

/-- TVAL of a BOARD trap (Table 6-1). -/
def boardTval (o : EngOp) (reason : Nat) : W64 := BitVec.ofNat 64 (o.bpc.toNat % 2 ^ 32 + reason * 2 ^ 32)

/-- An answer reaches the instruction that asked (R109, R332): a BOARD fault is deferred, and keeps the old values. -/
def answered (s : State) (o : EngOp) (r : BoardAnswer) : State :=
  if r.fault == 0 then complete s o 0 (some (.value r.word r.view))
  else
    let t := complete s o 0 (some .keep)
    { t with ctx := { t.ctx with pipe := { t.ctx.pipe with
        deferred := t.ctx.pipe.deferred ++ [⟨0x10, boardTval o r.fault⟩] } } }

/-- A post of this core reaches its board's home (R296, R330, R332). -/
def ownPost (s : State) (o : EngOp) : State :=
  match o.instr with
  | .pav _ _ _ _ =>
    if !(serviceOrder s o) then s
    else
      let r := s.postBoard o.sa Config.packageId (s.ctx.ctl.lcore.setWidth 9) (o.sd.setWidth 32) o.sb
      answered r.1 o r.2
  | _ => s

/-- A read of this core reaches its board's home (R297, R330, R333, R334). -/
def ownRead (s : State) (o : EngOp) : State :=
  if !(serviceOrder s o) then s
  else
    match o.instr with
    | .brdRd _ _ _ _ => answered s o (s.readBoard o.sa Config.packageId (s.ctx.ctl.lcore.setWidth 9) (some o.sb))
    | .brdLv _ _ _ => answered s o (s.readBoard o.sa Config.packageId (s.ctx.ctl.lcore.setWidth 9) none)
    | _ => s

/-! ### The snapshot trigger (R339, R369) -/

/-- The trigger lists of the partitions, and those whose task triggers are off, as management has set them by now (R339; log entry
71). -/
def State.refreshTriggers (s : State) : State :=
  let ps := List.range s.mgmt.parts
  { s with mgmt := { s.mgmt with
      triggerPkgs := ps.map fun p => (p, Config.triggerPackages s.freeCtr p)
      triggersOff := ps.filter fun p => Config.triggersDisabled s.freeCtr p } }

/-- TRIG when the engine would start it (R339): it latches at once, and with SCOPE 1 sends a message to each package of its partition's
trigger list, which it then waits for. -/
def trigStart (s : State) (o : EngOp) : StartRes :=
  let s := s.refreshTriggers
  let partn := hdrPartn s.ctx.hdr
  if !(s.mgmt.accepted 7) || s.mgmt.triggersOff.contains partn || s.mgmt.snapshot.isSome then .ends s (openSide s 6)
  else
    let tagv := o.sa.setWidth 16
    let s := s.latch tagv
    if o.sa.toNat / 65536 % 4 == 1 then
      let pkgs := (lookupKey partn s.mgmt.triggerPkgs).getD []
      .starts (pkgs.foldl (fun s p => s.send (.trigger p tagv)) s) { o with seen := pkgs.map BitVec.toNat, begun := true }
    else .ends s 0

/-- A started TRIG goes on (R307, R339): it is done once each package that it named has accepted its message, which comes from there
(log entry 17), and refused when one of them is lost. -/
def trigRun (s : State) (o : EngOp) : State :=
  if o.seen.any fun p => s.pkgLost (BitVec.ofNat 19 p) then complete s o (openSide s 6) none
  else
    let left := o.seen.zipIdx.filter fun p => Config.free s.freeCtr (2 ^ 27 + p.2) 1 == 0
    if left.isEmpty then complete s o 0 none else keepStarted s { o with seen := left.map Prod.fst }

end Sys2Proof.Machine
end

