-- ==== Sys2Proof/Machine/Exchange.lean ====
section
/-! DEFINITION. Exchange groups: DPOST, CAL.RD and CAL.GO, the arbiters, calendars and flits (R298 to R302, R325 to R329, R335
to R337). -/

namespace Sys2Proof.Machine

open Sys2Proof

/-! ### The demand block (Table 19-2) -/

/-- Bits of a demand block as a number. -/
def blkBits (b : BitVec 8704) (lo w : Nat) : Nat := b.toNat / 2 ^ lo % 2 ^ w
/-- ROUND, its low 32 bits. -/
def blkRound (b : BitVec 8704) : BitVec 32 := b.extractLsb' 0 32
/-- RBASE. -/
def blkRbase (b : BitVec 8704) : Nat := blkBits b 64 64
/-- REC. -/
def blkRec (b : BitVec 8704) : W64 := b.extractLsb' 128 64
/-- STRIDE. -/
def blkStride (b : BitVec 8704) : Nat := blkBits b 192 32
/-- ROW of member j. -/
def blkRow (b : BitVec 8704) (j : Nat) : Nat := blkBits b (512 + 32 * j) 32
/-- Whether the header is refused: ROUND above 32 bits or a reserved bit (R298). -/
def blkBad (b : BitVec 8704) : Bool := blkBits b 32 32 != 0 || blkBits b 224 288 != 0

/-! ### The calendar (R299, R327) -/

/-- The receiver that a sender picks: not taken, not itself, the largest remaining entry, the lowest on a tie. -/
def pickReceiver (row : List Nat) (i : Nat) (taken : List Nat) : Option Nat :=
  (row.zipIdx.foldl (fun (best : Option (Nat × Nat)) q =>
    if q.1 == 0 || q.2 == i || taken.contains q.2 then best
    else
      match best with
      | none => some q
      | some b => if b.1 < q.1 then some q else best) none).map Prod.snd

/-- The pairs of one phase, senders ascending. -/
def pickPairs (m : List (List Nat)) : List (Nat × Nat) :=
  m.zipIdx.foldl (fun ps r =>
    match pickReceiver r.1 r.2 (ps.map Prod.snd) with
    | none => ps
    | some j => ps ++ [(r.2, j)]) []

/-- Entry (i, j) of a matrix. -/
def entryAt (m : List (List Nat)) (i j : Nat) : Nat := (m.getD i []).getD j 0

/-- The matrix with `len` subtracted from each picked entry. -/
def subtractPairs (m : List (List Nat)) (ps : List (Nat × Nat)) (len : Nat) : List (List Nat) :=
  m.zipIdx.map fun r => r.1.zipIdx.map fun q => if ps.contains (r.2, q.2) then q.1 - len else q.1

/-- The phases of a matrix, at most `fuel` of them, the first at `start` (R299, R327). -/
def phasesOf : (fuel start : Nat) → List (List Nat) → List Phase
  | 0, _, _ => []
  | fuel + 1, start, m =>
    match pickPairs m with
    | [] => []
    | p :: ps =>
      let len := ps.foldl (fun l q => min l (entryAt m q.1 q.2)) (entryAt m p.1 p.2)
      ⟨start, len, p :: ps⟩ :: phasesOf fuel (start + (len + 223) / 224 + 200) (subtractPairs m (p :: ps) len)

/-- The row of a member in a round. -/
def Round.rowOf (r : Round) (j : Nat) : Option Row := r.rows.find? fun w => w.member == j

/-- The demand matrix of a round whose members have all posted; a member's own entry is 0 (R298). -/
def demandMatrix (g : Group) (r : Round) : List (List Nat) :=
  (List.range g.size).map fun i => (List.range g.size).map fun j =>
    match r.rowOf i with
    | none => 0
    | some w => if i == j then 0 else blkRow w.block j

/-- The arrival of the last row of a round: its stamp plus 500 ns (R325). -/
def lastArrival (r : Round) : Nat := r.rows.foldl (fun m w => max m w.stamp) 0 + 500

/-- The start of phase 0: the first multiple of 1,000 at least 2,000 ns after the arrival of the last row (R299, R325). -/
def phaseZero (r : Round) : Nat := (lastArrival r + 2000 + 999) / 1000 * 1000

/-- The calendar of a round (R299, R325, R327). -/
def calendarOf (g : Group) (r : Round) : List Phase := phasesOf 1024 (phaseZero r) (demandMatrix g r)

/-- One entry of a member's calendar: phase, start, bytes, peer, whether it receives. -/
structure CalEntry where
  phase : Nat
  start : Nat
  bytes : Nat
  peer : Nat
  recv : Bool
  deriving DecidableEq, Repr

/-- The entries of a member: ascending phase, the send entry first (R300). -/
def entriesOf (cal : List Phase) (m : Nat) : List CalEntry :=
  cal.zipIdx.flatMap fun p =>
    ((p.1.pairs.filter fun q => q.1 == m).map fun q => ⟨p.2, p.1.start, p.1.len, q.2, false⟩) ++
      (p.1.pairs.filter fun q => q.2 == m).map fun q => ⟨p.2, p.1.start, p.1.len, q.1, true⟩

/-- The bytes of a calendar entry (Table 19-3). -/
def CalEntry.encode (e : CalEntry) : List Byte :=
  leBytes 16 (e.start % 2 ^ 64 + e.bytes % 2 ^ 32 * 2 ^ 64 + e.peer % 256 * 2 ^ 96 + (if e.recv then 2 ^ 104 else 0) +
    e.phase % 1024 * 2 ^ 105)

/-- The bytes granted to a receiver over the kept phases (R299, R327). -/
def grantOf (cal : List Phase) (j : Nat) : Nat :=
  cal.foldl (fun acc p => if p.pairs.any (fun q => q.2 == j) then acc + p.len else acc) 0

/-! ### Groups -/

/-- The group of a handle. -/
def State.groupOf (s : State) (h : W64) : Option Group := s.fab.groups.find? fun g => g.handle == h

/-- A group replaced. -/
def State.setGroup (s : State) (g : Group) : State :=
  { s with fab := { s.fab with groups := s.fab.groups.map fun x => if x.handle == g.handle then g else x } }

/-- The member index of a logical core of a package (R295). -/
def Group.memberOf (g : Group) (pkg : BitVec 19) (lcore : BitVec 9) : Option Nat :=
  (g.members.find? fun m => m.2.1 == pkg && m.2.2 == lcore).map Prod.fst

/-- The round of a number, fresh when no row has come. -/
def Group.roundOf (g : Group) (k : BitVec 32) : Round :=
  (g.rounds.find? fun r => r.num == k).getD ⟨k, [], none, 0, false, false, false, false, [], []⟩

/-- A round replaced or added. -/
def Group.setRound (g : Group) (r : Round) : Group :=
  { g with rounds := if g.rounds.any fun x => x.num == r.num then
      g.rounds.map fun x => if x.num == r.num then r else x else g.rounds ++ [r] }

/-- Whether both arbiters of a group are lost (R335). -/
def State.arbitersLost (s : State) (g : Group) : Bool := s.pkgLost g.primary && s.pkgLost g.standby

/-- The credit or grant of bytes to a record of this package or another. -/
def State.creditTo (s : State) (h : W64) (n : Nat) (kind : CreditKind) : State :=
  if h == 0 then s
  else if handleLocal h then (creditAt s h n kind).1
  else
    match kind with
    | .grant => s.send (.grant h n)
    | .plain => s.send (.credit h n)
    | .basin _ _ => s.send (.credit h n)
    | .exchange => s.send (.credit h n)
    | .closing => s.send (.credit h n)

/-- The grants of a new calendar (R299). -/
def State.grantAll (s : State) (g : Group) (r : Round) (cal : List Phase) : State :=
  (List.range g.size).foldl (fun s j =>
    match r.rowOf j with
    | none => s
    | some w => s.creditTo (blkRec w.block) (grantOf cal j) .grant) s

/-- A demand row at the arbiters (R298, R325), with the address space of its member where it is known here: the outcome code of DPOST. The
last row of a round calendars it. -/
def State.postRow (s : State) (h : W64) (pkg : BitVec 19) (lcore : BitVec 9) (block : BitVec 8704) (stamp : Nat)
    (asid : Option (BitVec 16)) : State × Nat :=
  match s.groupOf h with
  | none => (s, 3)
  | some g =>
    match g.memberOf pkg lcore with
    | none => (s, 3)
    | some m =>
      let k := blkRound block
      let r := g.roundOf k
      if s.arbitersLost g || blkBad block then (s, 3)
      else if g.calendared.any fun c => k.toNat ≤ c.toNat then (s, 2)
      else if (r.rowOf m).isSome then (s, 1)
      else
        let r := { r with rows := r.rows ++ [⟨m, block, stamp, asid⟩] }
        let full := (List.range g.size).all fun j => (r.rowOf j).isSome
        if full && !r.cancelled then
          let cal := calendarOf g r
          let r := { r with cal := some cal, calAt := BitVec.ofNat 64 (lastArrival r), standby := s.pkgLost g.primary }
          ((s.setGroup { (g.setRound r) with calendared := k :: g.calendared }).grantAll g r cal, 0)
        else (s.setGroup (g.setRound r), 0)

/-! ### Issue -/

/-- DPOST (R298, R335). -/
def semDpost (t : EGuard) (d a b : BitVec 6) (s : State) (p : At) : SlotSem :=
  let va := readS s (p.site 1) a
  engSlot s p t [a, b] (some (.sreg d)) [spadCheck s va 64 1088]
    { opOf s p (.dpost t d a b) (cEngine s p) t with
      sa := va
      sb := readS s (p.site 2) b
      rd := [(false, va.toNat, 1088)] }

/-- CAL.RD (R300, R336). -/
def semCalRd (t : EGuard) (d a b : BitVec 6) (s : State) (p : At) : SlotSem :=
  let va := readS s (p.site 1) a
  let n := 16 * immOf t
  engSlot s p t [a, b, d] (some (.sreg d)) [spadCheck s va 16 n]
    { opOf s p (.calRd t d a b) (cEngine s p) t with
      sa := va
      sb := readS s (p.site 2) b
      sd := readS s (p.site 0) d
      wr := if n == 0 then [] else [(false, va.toNat, n)] }

/-- CAL.GO (R301, R337). -/
def semCalGo (t : EGuard) (d a b : BitVec 6) (s : State) (p : At) : SlotSem :=
  let vb := readS s (p.site 2) b
  engSlot s p t [a, b, d] (some (.sreg d)) [spadCheck s vb 64 16]
    { opOf s p (.calGo t d a b) (cEngine s p) t with
      sa := readS s (p.site 1) a
      sb := vb
      sd := readS s (p.site 0) d
      rd := [(false, vb.toNat, 4096)] }

/-! ### Waiting for a round (R300, R329, R336, R337) -/

/-- How CAL.RD and CAL.GO find their round: they wait; it is refused (no group, no member, cancelled, or no arbiter left to
calendar it); it is older than the two most recently calendared; or the member holds its calendar. -/
inductive Found where
  | waits
  | refused
  | old
  | has (g : Group) (r : Round) (cal : List Phase) (m : Nat)
  deriving DecidableEq, Repr

/-- Whether a round is older than the two most recently calendared (R300). -/
def Group.passedOver (g : Group) (k : BitVec 32) : Bool :=
  match g.calendared with
  | _ :: c :: _ => k.toNat < c.toNat
  | _ => false

/-- The round that an instruction of this core names, as its member finds it. -/
def findRound (s : State) (h : W64) (k : BitVec 32) : Found :=
  match s.groupOf h with
  | none => .refused
  | some g =>
    match g.memberOf Config.packageId (s.ctx.ctl.lcore.setWidth 9) with
    | none => .refused
    | some m =>
      let r := g.roundOf k
      if r.cancelled then .refused
      else if g.passedOver k then .old
      else
        match r.cal with
        | none => if s.arbitersLost g then .refused else .waits
        | some cal =>
          if r.holders.contains m then .has g r cal m
          else if s.arbitersLost g then .refused
          else .waits

/-- What an instruction that answers sD does when the engine would start it: it waits, it ends with the answer and a
status, or it starts. -/
inductive AnswerRes where
  | waits
  | ends (s : State) (v : W64) (status : W64)
  | starts (s : State) (o : EngOp)

/-- DPOST when the engine would start it (R298, R325, R335): the block is read and stamped. -/
def dpostStart (s : State) (o : EngOp) : AnswerRes :=
  if !(s.ctx.tilesAllow [] o.rd []) then .waits
  else if engBad s false o.sa.toNat 1088 then .ends s (Config.free s.freeCtr (2 ^ 21) 64) (statusOf 3 2 0)
  else .starts s { o with idx := engRead s o false (2 ^ 20) o.sa.toNat 1088, sd := s.fab.time, begun := true }

/-- The row of a started DPOST reaches the arbiters (R330, R335). -/
def ownRow (s : State) (o : EngOp) : State :=
  match o.instr with
  | .dpost _ _ _ _ =>
    if !(serviceOrder s o) then s
    else
      let r := s.postRow o.sb Config.packageId (s.ctx.ctl.lcore.setWidth 9) (BitVec.ofNat 8704 (ofLe o.idx)) o.sd.toNat
        (some s.ctx.asid)
      let lost := match s.groupOf o.sb with
        | none => false
        | some g => s.arbitersLost g
      complete r.1 o (if lost then openSide s 7 else 0) (some (.value (BitVec.ofNat 64 r.2) 0))
  | _ => s

/-- CAL.RD executes (R300, R336): the entries are written at once when the round is there. -/
def calRdStart (s : State) (o : EngOp) (cap : Nat) : AnswerRes :=
  match findRound s o.sb (o.sd.setWidth 32) with
  | .waits => .waits
  | .refused => .ends s 0 (openSide s 6)
  | .old => .ends s (BitVec.allOnes 64) 0
  | .has _ _ cal m =>
    let es := entriesOf cal m
    let bs := (es.take cap).flatMap CalEntry.encode
    .ends (engWrite s o false o.sa.toNat (bs.map some)) (BitVec.ofNat 64 es.length) 0

/-! ### CAL.GO (R301, R337) -/

/-- ACTUAL of entry j of the actual table that an instruction holds (Table 19-4). -/
def actualOf (o : EngOp) (j : Nat) : Nat := ofLe (sliceOf o.idx (16 * j + 8) 4)

/-- SRC of entry j. -/
def srcOf (o : EngOp) (j : Nat) : W64 := BitVec.ofNat 64 (ofLe (sliceOf o.idx (16 * j) 8))

/-- The send entries of a member. -/
def sendsOf (cal : List Phase) (m : Nat) : List CalEntry := (entriesOf cal m).filter fun e => !e.recv

/-- G_j over the first `n` send entries. -/
def grantedBy (es : List CalEntry) (n j : Nat) : Nat :=
  (es.take n).foldl (fun acc e => if e.peer == j then acc + e.bytes else acc) 0

/-- The calendar that a started CAL.GO runs, its member and the send entries. -/
def goEntries (s : State) (o : EngOp) : Option (Group × Round × Nat × List CalEntry) :=
  match s.groupOf o.sa with
  | none => none
  | some g =>
    let r := g.roundOf (o.sd.setWidth 32)
    match g.memberOf Config.packageId (s.ctx.ctl.lcore.setWidth 9), r.cal with
    | some m, some cal => some (g, r, m, sendsOf cal m)
    | _, _ => none

/-- CAL.GO when the engine would start it (R337). -/
def calGoStart (s : State) (o : EngOp) : AnswerRes :=
  match findRound s o.sa (o.sd.setWidth 32) with
  | .waits => .waits
  | .refused => .ends s 0 (openSide s 6)
  | .old => .ends s 0 (openSide s 6)
  | .has g r cal m =>
    let n := 16 * g.size
    let tb := o.sb.toNat
    if r.gone.contains m then .ends s 0 (openSide s 6)
    else if s.ctx.spSize < tb + n then .ends s 0 (statusOf 5 2 0)
    else if !(s.ctx.tilesAllow [] [(false, tb, n)] []) then .waits
    else if engBad s false tb n then .ends s (Config.free s.freeCtr (2 ^ 21) 64) (statusOf 3 2 0)
    else
      let o := { o with idx := engRead s o false (2 ^ 20) tb n }
      let bad := (List.range g.size).any fun j => 2 ≤ caSpace (srcOf o j) || !(caOk (srcOf o j))
      if bad then .ends s 0 (statusOf 4 2 0)
      else
        let srcs := (List.range g.size).filterMap fun j =>
          if caSpace (srcOf o j) == 1 && 0 < actualOf o j then
            some (false, (caAddr (srcOf o j)).toNat, min (actualOf o j) (grantedBy (sendsOf cal m) 1024 j)) else none
        let rems := (List.range g.size).filterMap fun j =>
          if grantedBy (sendsOf cal m) 1024 j < actualOf o j then some (false, tb + 16 * j + 12, 4) else none
        if !(s.ctx.tilesAllow [] srcs []) then .waits
        else
          .starts (s.setGroup (g.setRound { r with gone := m :: r.gone }))
            { o with rd := (false, tb, n) :: srcs, wr := rems, begun := true, coord := s.fab.time, seed := BitVec.ofNat 64 m }

/-- What reading byte n of the flow to peer j meets (R337). -/
def sendReach (s : State) (o : EngOp) (j n : Nat) : Reach :=
  let a := (caAddr (srcOf o j)).toNat + n
  if caSpace (srcOf o j) == 1 && s.ctx.spSize ≤ a then .bad 5
  else if caSpace (srcOf o j) == 0 && 2 ^ 57 ≤ a then .bad 1
  else reach s false (placeAt (srcOf o j) 0 false n)

/-- Where the sends to peer j have ended at a fault, if they have: `seen` holds peer · 2^32 + bytes sent for each such peer. -/
def endedAt (o : EngOp) (j : Nat) : Option Nat :=
  (o.seen.find? fun x => x / 2 ^ 32 == j).map fun x => x % 2 ^ 32

/-- The first byte from `lo` to `hi` − 1 of a flow that does not read, with what it meets. -/
def firstStuck (s : State) (o : EngOp) (j lo hi : Nat) : Option (Nat × Reach) :=
  (List.range (hi - lo)).findSome? fun i =>
    match sendReach s o j (lo + i) with
    | .ok => none
    | r => some (lo + i, r)

/-- The member whose calendar a started CAL.GO runs. -/
def goMember (o : EngOp) : Nat := o.seed.toNat

/-- One flit of bytes `lo` to `hi` − 1 of the flow to peer j sent (R302, R303). -/
def sendBytes (s : State) (o : EngOp) (j lo hi phase : Nat) : State :=
  if hi ≤ lo then s
  else
    let bs := (List.range (hi - lo)).map fun i => readPlace s o (2 ^ 34 + 2 * i) (placeAt (srcOf o j) 0 false (lo + i))
    s.send (.data o.sa (o.sd.setWidth 32) (goMember o) j lo bs phase)

/-- A closing flit sent to peer j (R301): the flit, and its credit added to the instruction's sum. -/
def sendClosing (s : State) (o : EngOp) (j n phase : Nat) : State × EngOp :=
  (s.send (.closing o.sa (o.sd.setWidth 32) (goMember o) j n phase), { o with gaddr := o.gaddr + n })

/-- Global time is a given time at least: an event that takes place then. -/
def State.reachTime (s : State) (t : W64) : State :=
  if s.fab.time < t then { s with fab := { s.fab with time := t } } else s

/-- The next flit of a started CAL.GO, at the START of its entry or at once (R301, R303, R328, R337): at most 256 bytes, and after the last
bytes of a peer the closing flit. Bytes that wait for a page or a die leave the flit for later. -/
def phaseRun (s : State) (o : EngOp) : State :=
  match goEntries s o with
  | none => s
  | some (_, _, _, es) =>
    match es[o.pos]? with
    | none => s
    | some e =>
      let late := o.part == 0 && BitVec.ofNat 64 e.start < o.coord
      let s := s.reachTime (BitVec.ofNat 64 e.start)
      let a := actualOf o e.peer
      let g := grantedBy es es.length e.peer
      let lo := min a (grantedBy es o.pos e.peer)
      let hi := min a (grantedBy es (o.pos + 1) e.peer)
      let from' := lo + o.part
      let to' := min hi (from' + 256)
      let o := { o with answered := o.answered || late }
      let next := { o with pos := o.pos + 1, part := 0, coord := s.fab.time }
      if (endedAt o e.peer).isSome then keepStarted s next
      else
        match firstStuck s o e.peer from' to' with
        | some (_, .waits) => s
        | some (_, .miss pg) => askPage s pg
        | some (n, .bad code) =>
          let s := sendBytes s o e.peer from' n e.phase
          let r := sendClosing s next e.peer (g - n) e.phase
          keepStarted r.1 { r.2 with
            seen := (e.peer * 2 ^ 32 + n) :: r.2.seen
            status := if r.2.status == 0 then statusOf code 0 n else r.2.status }
        | _ =>
          let s := sendBytes s o e.peer from' to' e.phase
          let first := grantedBy es o.pos e.peer == 0
          let ends := hi == a && a < g && (lo < a || (first && a == 0))
          if to' < hi then keepStarted s { o with part := o.part + (to' - from') }
          else if ends then
            let r := sendClosing s next e.peer (g - a) e.phase
            keepStarted r.1 r.2
          else keepStarted s next

/-- The bytes left unsent to peer j by an under-statement (R301). -/
def remOf (o : EngOp) (es : List CalEntry) (j : Nat) : Nat := actualOf o j - grantedBy es es.length j

/-- Whether member `m` of a group is a logical core of this package. -/
def Group.memberHere (g : Group) (m : Nat) : Bool := g.members.any fun x => x.1 == m && x.2.1 == Config.packageId

/-- Whether a message is a flit of the flow of a member to a peer. -/
def OutMsg.ofFlow (m : OutMsg) (group : W64) (round : BitVec 32) (src dst : Nat) : Bool :=
  match m with
  | .data h k i j _ _ _ => h == group && k == round && i == src && j == dst
  | .closing h k i j _ _ => h == group && k == round && i == src && j == dst
  | _ => false

/-- Whether flits of a CAL.GO are still on their way to receivers of this package, so that their acknowledgements are outstanding
(R301). -/
def goOwes (s : State) (g : Group) (o : EngOp) : Bool :=
  (List.range g.size).any fun j => g.memberHere j &&
    s.fab.out.any fun x => x.msg.ofFlow o.sa (o.sd.setWidth 32) (goMember o) j

/-- Whether member `m` of a group is a core of a lost package. -/
def Group.memberLost (s : State) (g : Group) (m : Nat) : Bool := g.members.any fun x => x.1 == m && s.pkgLost x.2.1

/-- The status of a finished CAL.GO: the first fault on a source byte or that a receiver of this package reports; REFUSED where flits went
to a receiver of a lost package (R307); else, where a receiver of another package has taken bytes, what its acknowledgements carry, which
comes from there (R302, R337; log entry 17). -/
def goStatus (s : State) (g : Group) (o : EngOp) (es : List CalEntry) : W64 :=
  if o.status != 0 then o.status
  else if es.any fun e => g.memberLost s e.peer then statusOf 6 1 0
  else if es.all fun e => actualOf o e.peer == 0 || g.memberHere e.peer then 0
  else
    match Config.freeNat s.freeCtr (2 ^ 39) % 3 with
    | 0 => 0
    | c => statusOf c 1 (Config.freeNat s.freeCtr (2 ^ 39 + 1))

/-- CAL.GO ends when every entry is sent and acknowledged (R301, R337): the REM fields, then the completion word (Table 19-5). -/
def calGoRun (s : State) (o : EngOp) : State :=
  match goEntries s o with
  | none => s
  | some (g, _, _, es) =>
    if o.pos < es.length || goOwes s g o then s
    else
      let js := (List.range g.size).filter fun j => 0 < remOf o es j
      let s := js.foldl (fun s j =>
        engWrite s o false (o.sb.toNat + 16 * j + 12) ((leBytes 4 (remOf o es j)).map some)) s
      let total := js.foldl (fun acc j => acc + remOf o es j) 0
      let word := (if js.isEmpty then 0 else 2 ^ 63) + (if o.answered then 2 ^ 62 else 0) +
        min o.gaddr (2 ^ 30 - 1) * 2 ^ 32 + min total (2 ^ 32 - 1)
      complete s o (goStatus s g o es) (some (.value (BitVec.ofNat 64 word) 0))

/-! ### The receiver (R302, R328) -/

/-- The launch of a receiver: that of its record, else one of its address space. -/
def receiverLaunch (s : State) (w : Row) : Option Launch :=
  match (s.recordOf (blkRec w.block)).bind fun r => s.launchOf r.lid with
  | some l => some l
  | none => w.asid.bind fun a => s.sched.launches.find? fun l => l.asid == a && !l.done

/-- The address spaces of the tasks of this package that have not ended, on a logical core. -/
def asidsAt (s : State) (lcore : Nat) : List (BitVec 16) :=
  (s.sched.tasks.filterMap fun t =>
    if t.lcore == lcore && t.st != .ended then (s.launchOf t.lid).map Launch.asid else none).eraseDups

/-- The address space of a member of this package whose row another core posted (R298, R302, Table 19-2): its own, that of a task on its
logical core; which one of several, and any where none is known here, is free (log entry 17). -/
def memberAsid (s : State) (lcore : Nat) : BitVec 16 :=
  let as := asidsAt s lcore
  as.getD (Config.freeNat s.freeCtr (2 ^ 46) % as.length) (Config.free s.freeCtr (2 ^ 46 + 1) 16)

/-- The address space of a receiver of this package (R302): that of the task that posted its row. -/
def receiverAsid (s : State) (w : Row) : BitVec 16 := w.asid.getD s.ctx.asid

/-- A SKEW event is recorded, and management reports it to the host, when a flit of a phase arrives outside its time (R328). -/
def noteSkew (s : State) (g : Group) (cal : List Phase) (phase : Nat) : State :=
  match cal[phase]? with
  | none => s
  | some p =>
    let now := s.fab.time.toNat
    let next := p.start + (p.len + 223) / 224 + 200
    if now + 200 < p.start || next + 200 < now then
      (s.setGroup { g with skew := g.skew + 1 }).tell (.skew g.handle (g.skew + 1))
    else s

/-- Whether member `m` of a group is a task that this core holds, running or parked: its flits come from its own CAL.GO. -/
def isSelf (s : State) (g : Group) (m : Nat) : Bool :=
  let mine := fun (c : Ctx) => g.memberOf Config.packageId (c.ctl.lcore.setWidth 9) == some m
  (s.mode != .idle && mine s.ctx) || s.sched.saved.any fun x => mine x.ctx

/-- A flit of this core taken off the fabric, if it is the first of its flow there (R306). -/
def State.takeFlit (s : State) (h : W64) (k : BitVec 32) (src dst : Nat) (m : OutMsg) : Option State :=
  if ((s.fab.out.map Sent.msg).find? fun x => x.ofFlow h k src dst) == some m then
    some { s with fab := { s.fab with out := s.fab.out.eraseP fun x => x.msg == m } }
  else none

/-- A started CAL.GO of a member learns of the first byte of a flow that its receiver could not take (R302). -/
def State.noteFault (s : State) (g : Group) (k : BitVec 32) (src code n : Nat) : State :=
  let hit := fun (o : EngOp) =>
    match o.instr with
    | .calGo _ _ _ _ => o.sa == g.handle && o.sd.setWidth 32 == k && goMember o == src && o.status == 0
    | _ => false
  let mark := fun (o : EngOp) => if hit o then { o with status := statusOf code 1 n } else o
  let note := fun (c : Ctx) => { c with eng := { c.eng with started := c.eng.started.map mark } }
  { s with ctx := note s.ctx, sched := { s.sched with saved := s.sched.saved.map fun x => { x with ctx := note x.ctx } } }

/-- One byte written in an address space, for a launch (R302, R318): dropped where the address cannot take it. -/
def landByte (s : State) (writer : Option (BitVec 32)) (asid : BitVec 16) (va : Nat) (b : Byte) : State :=
  if 2 ^ 57 ≤ va then s
  else
    match translateIn s asid va .write with
    | .ok key _ => s.homeWrite writer true noPort key [b]
    | _ => s

/-- What a byte that is written in an address space meets (R249, R255, R302). -/
def landReach (s : State) (asid : BitVec 16) (va : Nat) : Reach :=
  if 2 ^ 57 ≤ va then .bad 2
  else
    match translateIn s asid va .write with
    | .ok key _ => if s.homeWaits key then .waits else .ok
    | .miss pg => .miss pg
    | .waits => .waits
    | .unresolvable => .bad 1
    | .protection => .bad 2

/-- A byte of a merge region that an exchange delivers goes to the write log of the task that made the record (R357). -/
def logByte (s : State) (r : Record) (va : Nat) (b : Byte) : State :=
  let mine := fun (c : Ctx) => c.lid == r.lid && some c.ctl.serial == r.creatorSerial
  let put := fun (c : Ctx) => if mine c then { c with log := c.log.writeAll va [b] } else c
  let into := fun (ls : List (Nat × W64 × Mem)) => ls.map fun x =>
    if some x.1 == r.creatorSerial then (x.1, x.2.1, Mem.writeAll x.2.2 va [b]) else x
  let ended := fun (l : Launch) =>
    if l.lid == r.lid then { l with logs := into l.logs, restLogs := into l.restLogs } else l
  { s with
    ctx := put s.ctx
    sched := { s.sched with
      saved := s.sched.saved.map fun x => { x with ctx := put x.ctx }
      launches := s.sched.launches.map ended } }

/-- One byte of an exchange at its receiver: into memory, or a write log (R302, R357). -/
def deliverByte (s : State) (w : Row) (asid : BitVec 16) (va : Nat) (b : Byte) : State :=
  match s.recordOf (blkRec w.block) with
  | none => landByte s ((receiverLaunch s w).map Launch.lid) asid va b
  | some r =>
    if ((s.launchOf r.lid).map fun l => inMerge l.hdr va).getD false then logByte s r va b else landByte s (some r.lid) asid va b

/-- A page of an address space that the host must map. -/
def askPageOf (s : State) (asid : BitVec 16) (page : Nat) : State :=
  if s.mem.pageReqs.contains (asid, page) then s
  else { (s.tell (.pageRequest asid page)) with mem := { s.mem with pageReqs := s.mem.pageReqs ++ [(asid, page)] } }

/-- The flit of a flow at its receiver: the group, the receiver's row, the calendar, and the state with the flit off the fabric where this
core sent it. -/
def flitAt (s : State) (h : W64) (k : BitVec 32) (src dst : Nat) (m : OutMsg) : Option (Group × Row × List Phase × State) :=
  match s.groupOf h with
  | none => none
  | some g =>
    let r := g.roundOf k
    match r.rowOf dst, r.cal, (if isSelf s g src then s.takeFlit h k src dst m else some s) with
    | some w, some cal, some t => some (g, w, cal, t)
    | _, _, _ => none

/-- A data flit of 1 to 256 bytes at the receiver `dst` from `src` (R302, R303): bytes at RBASE + src·STRIDE + off, dropped where the
address cannot take them, which a sender here learns; credited either way; a miss waits. -/
def dataFlit (s : State) (h : W64) (k : BitVec 32) (src dst off : Nat) (data : List Byte) (phase : Nat) : State :=
  match flitAt s h k src dst (.data h k src dst off data phase) with
  | none => s
  | some (g, w, cal, t) =>
    let asid := receiverAsid t w
    let base := blkRbase w.block + src * blkStride w.block + off
    let met := (List.range data.length).map fun i => (i, landReach t asid ((base + i) % 2 ^ 64))
    if data.isEmpty || 256 < data.length then s
    else
      match (met.findSome? fun x => match x.2 with | .miss pg => some pg | _ => none) with
      | some pg => askPageOf s asid pg
      | none =>
        if (met.any fun x => x.2 == .waits) then s
        else
          let t := noteSkew t g cal phase
          let t := match (met.findSome? fun x => match x.2 with | .bad code => some (code, off + x.1) | _ => none) with
            | some b => t.noteFault g k src b.1 b.2
            | none => t
          let t := data.zipIdx.foldl (fun t b => deliverByte t w asid ((base + b.2) % 2 ^ 64) b.1) t
          let pages := ((List.range data.length).map fun i => (base + i) % 2 ^ 64 / 65536).eraseDups
          let t := { t with mem := t.mem.spendRefusals asid pages }
          t.creditTo (blkRec w.block) data.length .exchange

/-- A closing flit at the receiver (R301, R302). -/
def closingAt (s : State) (h : W64) (k : BitVec 32) (src dst bytes phase : Nat) : State :=
  match flitAt s h k src dst (.closing h k src dst bytes phase) with
  | none => s
  | some (g, w, cal, t) => (noteSkew t g cal phase).creditTo (blkRec w.block) bytes .closing

/-! ### Calendars on their way (R326, R329) -/

/-- The notice of the primary, which it sends once it has delivered the calendar, reaches the standby (R326). A primary delivers to
members of other packages unseen. -/
def noticeAt (s : State) (h : W64) (k : BitVec 32) : State :=
  match s.groupOf h with
  | none => s
  | some g =>
    let r := g.roundOf k
    let sent := r.delivered || !(g.members.any fun m => m.2.1 == Config.packageId)
    if r.cal.isNone || s.pkgLost g.primary || !sent then s else s.setGroup (g.setRound { r with notified := true })

/-- The standby, without the notice for 5 µs, delivers the calendar itself (R326). -/
def standbyAt (s : State) (h : W64) (k : BitVec 32) : State :=
  match s.groupOf h with
  | none => s
  | some g =>
    let r := g.roundOf k
    if r.cal.isNone || r.notified || s.pkgLost g.standby then s
    else (s.reachTime (r.calAt + 5000)).setGroup (g.setRound { r with standby := true })

/-- A calendar, which stands from the arrival of the last row on, reaches the members of this package, which keep the first copy
(R325, R326). -/
def calendarAt (s : State) (h : W64) (k : BitVec 32) (fromStandby : Bool) : State :=
  match s.groupOf h with
  | none => s
  | some g =>
    let r := g.roundOf k
    let sender := if fromStandby then r.standby && !(s.pkgLost g.standby) else !(s.pkgLost g.primary)
    if r.cal.isNone || !sender then s
    else
      let mine := (g.members.filter fun m => m.2.1 == Config.packageId).map Prod.fst
      (s.reachTime r.calAt).setGroup (g.setRound { r with
        delivered := r.delivered || !fromStandby
        holders := r.holders ++ mine.filter fun m => !(r.holders.contains m) })

/-- The host cancels a round that is not calendared (R329). -/
def cancelRound (s : State) (h : W64) (k : BitVec 32) : State :=
  match s.groupOf h with
  | none => s
  | some g =>
    let r := g.roundOf k
    if r.cal.isSome then s else s.setGroup (g.setRound { r with cancelled := true })

end Sys2Proof.Machine
end

