-- ==== Sys2Proof/Machine/Collective.lean ====
section
/-! DEFINITION. Collectives: COL.SET, the chunks of a firing around the ring, the arithmetic of the sequencers, results and
bad-chunk lists (R310 to R321, R331). -/

namespace Sys2Proof.Machine

open Sys2Proof

/-! ### CRC-32C -/

/-- One bit of the reflected CRC-32C division, polynomial 0x1EDC6F41. -/
def crcBit (r : Nat) : Nat := if r % 2 == 1 then r / 2 ^^^ 0x82F63B78 else r / 2

/-- The register after one byte. -/
def crcByte (r : Nat) (b : Byte) : Nat := (List.range 8).foldl (fun r _ => crcBit r) (r ^^^ b.toNat)

/-- CRC-32C of bytes. -/
def crc32c (bs : List Byte) : BitVec 32 := BitVec.ofNat 32 (bs.foldl crcByte 0xFFFFFFFF ^^^ 0xFFFFFFFF)

/-! ### The image (R310, R311) -/

/-- ENTRY. -/
def memEntry (m : BitVec 128) : Nat := (m.extractLsb' 0 6).toNat
/-- Whether a reserved bit of a member entry is set, or LCORE is above 351. -/
def memBad (m : BitVec 128) : Bool :=
  m.extractLsb' 64 64 != 0 || m.extractLsb' 41 4 != 0 || m.extractLsb' 6 26 != 0 || 351 < (memLcore m).toNat

/-- The largest CHUNK of a header (Table 20-5). -/
def chunkLimit (h : BitVec 512) : Nat :=
  match chComp h with
  | 0 => 4096 / chSize h
  | 1 => 3968
  | _ => 7680

/-- Whether a header breaks R311 in a field. -/
def headerBad (h : BitVec 512) : Bool :=
  let reserved := h.extractLsb' 104 24 != 0 || h.extractLsb' 33 15 != 0 || h.extractLsb' 20 12 != 0 ||
    h.extractLsb' 15 3 != 0 || h.extractLsb' 9 3 != 0
  let fused := chFuse h && (!(chGather h) || chCbase h % 4096 != 0 ||
    2 ^ 28 < chCbase h + chNmem h * chElems h * chSize h)
  reserved || chNmem h == 0 || 256 < chNmem h || 5 < chOpr h || chComp h == 3 || chElems h == 0 || chChunk h == 0 ||
    chChunk h % 32 != 0 || chunkLimit h < chChunk h || (chComp h != 0 && chOpr h != 0 && chOpr h != 4) ||
    chBadlist h % 8 != 0 || fused

/-- Whether two member entries name the same logical core (R311). -/
def membersClash : List (BitVec 128) → Bool
  | [] => false
  | m :: rest => (rest.any fun x => memPkg x == memPkg m && memLcore x == memLcore m) || membersClash rest

/-- The collective id (R311): header bits 127:0 and 383:256 with the member table. -/
def collectiveId (h : BitVec 512) (ms : List (BitVec 128)) : BitVec 32 :=
  crc32c (leBytes 16 h.toNat ++ leBytes 16 (h.toNat / 2 ^ 256) ++ ms.flatMap fun m => leBytes 16 m.toNat)

/-- COL.SET at issue (R331). -/
def semColSet (t : EGuard) (d a b : BitVec 6) (s : State) (p : At) : SlotSem :=
  let va := readS s (p.site 1) a
  let vb := readS s (p.site 2) b
  engSlot s p t [a, b] (some (.sreg d)) [if vb == 0 then spadCheck s va 64 64 else none]
    { opOf s p (.colSet t d a b) (cEngine s p) t with
      sa := va
      sb := vb
      rd := if vb == 0 then [(false, va.toNat, 64 + 16 * 256)] else [] }

/-- The handle of an installed collective (Table 21-1). -/
def collHandle (slot gen : Nat) : W64 := (1 : BitVec 1) ++ Config.packageId ++ BitVec.ofNat 34 gen ++ BitVec.ofNat 10 slot

/-- A free entry slot: any of them (log entry 24), none when all 1,024 are taken, of which other cores of the package may hold those that
this core does not (a free bit, log entry 17). -/
def freeColl (s : State) : Option Nat :=
  let free := (List.range 1024).filter fun k => !(s.fab.colls.any fun c => c.slot == k)
  if Config.free s.freeCtr (2 ^ 44 + 1) 1 == 1 then none
  else free[Config.freeNat s.freeCtr (2 ^ 28) % free.length]?

/-- COL.SET installs (R331). -/
def colInstall (s : State) (o : EngOp) : AnswerRes :=
  let a := o.sa.toNat
  let hdr := BitVec.ofNat 512 (ofLe (engRead s o false (2 ^ 20) a 64))
  let n := chNmem hdr
  if !(s.ctx.tilesAllow [] [(false, a, 64)] []) then .waits
  else if engBad s false a 64 then .ends s 0 (statusOf 3 3 0)
  else if s.ctx.spSize < a + 64 + 16 * n then .ends s 0 (statusOf 5 3 0)
  else if !(s.ctx.tilesAllow [] [(false, a, 64 + 16 * n)] []) then .waits
  else if engBad s false a (64 + 16 * n) then .ends s 0 (statusOf 3 3 0)
  else
    let bs := engRead s o false (2 ^ 21) (a + 64) (16 * n)
    let ms := (List.range n).map fun i => BitVec.ofNat 128 (ofLe (sliceOf bs (16 * i) 16))
    let wants := (chComp hdr != 0 && !(s.mgmt.accepted 5)) || (chFuse hdr && !(s.mgmt.accepted 4))
    if headerBad hdr || ms.any memBad || membersClash ms || wants then .ends s 0 (statusOf 4 3 0)
    else
      let me := ms.findIdx? fun m => memPkg m == Config.packageId && memLcore m == s.ctx.ctl.lcore.setWidth 9
      match me, freeColl s with
      | some pos, some slot =>
        let gen := ((lookupKey slot s.fab.collGen).getD (Config.freeNat s.freeCtr (2 ^ 28 + 1)) + 1) % 2 ^ 34
        let gone := ms.any fun m => s.pkgLost (memPkg m)
        let c : Coll := ⟨slot, gen, s.ctx.lid, s.ctx.ctl.lcore.toNat, s.ctx.asid, hdr, ms, collectiveId hdr ms, pos, 0, [], [],
          [], [], false, gone⟩
        .ends { s with fab := { s.fab with colls := s.fab.colls ++ [c], collGen := setKey slot gen s.fab.collGen } }
          (collHandle slot gen) 0
      | _, _ => .ends s 0 (openSide s 6)

/-- COL.SET when the engine would start it (R331): it installs, or frees the entry that sB names. This member has no firing of an entry that
another core installed. -/
def colSetStart (s : State) (o : EngOp) : AnswerRes :=
  if o.sb == 0 then colInstall s o
  else
    match s.collOf o.sb with
    | none => .ends s 0 (if s.foreignColl o.sb then 0 else openSide s 6)
    | some c =>
      if !(c.fires.isEmpty) then .waits
      else .ends { s with fab := { s.fab with colls := s.fab.colls.filter fun x => x.slot != c.slot } } 0 0

/-! ### Chunks on the wire (R311, R314, R315) -/

/-- The number of chunks of a contribution (R313). -/
def chunkCount (h : BitVec 512) : Nat := (chElems h + chChunk h - 1) / chChunk h

/-- The elements of chunk c. -/
def chunkElems (h : BitVec 512) (c : Nat) : Nat := min (chChunk h) (chElems h - c * chChunk h)

/-- 4,096 payload bytes: the encoded ones, then zeros (R311). -/
def padPayload (bs : List Byte) : List Byte := (bs ++ List.replicate (4096 - bs.length) 0).take 4096

/-- The element format of a compressed header, its EMAX, and the bytes of its scales (Table 20-5, R133). -/
def wireFormat (h : BitVec 512) : FltFmt × Int × Nat := if chComp h == 1 then (e4m3F, 8, 128) else (e2m1F, 2, 256)

/-- Blocks of 32 values, the last one completed with +0. -/
def blocksOf : (fuel : Nat) → List FVal → List (List FVal)
  | 0, _ => []
  | fuel + 1, xs =>
    if xs.isEmpty then []
    else (xs.take 32 ++ List.replicate (32 - xs.length) (.fin false 0 0)) :: blocksOf fuel (xs.drop 32)

/-- W(v, hop, p) of R314 for the elements of chunk c: the payload. -/
def encodeChunk (h : BitVec 512) (hop p c : Nat) (xs : List Nat) : List Byte :=
  if chComp h == 0 then padPayload (bytesOf (8 * chSize h) xs)
  else
    let w := wireFormat h
    let mode := fun (e : Nat) =>
      if chComp h == 1 then RMode.rne
      else .sr (generator (chSeed h) (chTensor h) (BitVec.ofNat 64 (hop * 2 ^ 48 + p * 2 ^ 40 + (c * chChunk h + e))))
    let blocks := (blocksOf (xs.length + 1) (xs.map fp32F.decode)).zipIdx.map fun b =>
      mxQuant w.1 w.2.1 (fun i => mode (32 * b.2 + i)) b.1
    let scales := blocks.map fun b => BitVec.ofNat 8 b.scale
    let elems := bytesOf w.1.w (blocks.flatMap MxBlock.elems)
    padPayload (scales ++ List.replicate (w.2.2 - scales.length) 0 ++ elems)

/-- The elements that a payload holds: fp32 codes under compression (DQ), else codes of the element size. -/
def decodeChunk (h : BitVec 512) (n : Nat) (bs : List Byte) : List Nat :=
  if chComp h == 0 then (lanesOf (8 * chSize h) (bs.take (n * chSize h))).take n
  else
    let w := wireFormat h
    let es := lanesOf w.1.w (bs.drop w.2.2)
    (es.take n).zipIdx.map fun e =>
      (fp32F.round .rne (mxValue w.1 ((bs.getD (e.2 / 32) 0).toNat) e.1)).1

/-- Whether some scale byte of a compressed chunk, one of 128 or 256, is 0xFF (R316, Table 20-5). -/
def scaleBad (h : BitVec 512) (bs : List Byte) : Bool := chComp h != 0 && (bs.take (wireFormat h).2.2).any fun b => b == 0xFF

/-- One element combined (R314). -/
def combineElem (h : BitVec 512) (a b : Nat) : Nat :=
  match chOpr h with
  | 0 => (elemAdd .fp32 .rne a b).1
  | 1 => (elemAdd .bf16 .rne a b).1
  | 2 => (elemMax .fp32 a b).1
  | _ => (elemMin .fp32 a b).1

/-- The tag of a result (R318). -/
def resultTag (h : BitVec 512) : Fmt :=
  match chOpr h with
  | 1 => .bf16
  | 4 => if chComp h == 0 then .raw else .fp32
  | 5 => .raw
  | _ => .fp32

/-- 4,096 zero bytes. -/
def zeroPayload : List Byte := List.replicate 4096 0

/-! ### The header flit (R316) -/

/-- A header flit: collective id, firing, chunk index, element count, BAD, CRC-32C of the payload. -/
def chunkHeader (cid : BitVec 32) (firing idx count : Nat) (bad : Bool) (payload : List Byte) : BitVec 256 :=
  BitVec.ofNat 256 (cid.toNat + firing % 65536 * 2 ^ 32 + idx % 2 ^ 32 * 2 ^ 48 + count % 65536 * 2 ^ 80 +
    (if bad then 2 ^ 96 else 0) + (crc32c payload).toNat * 2 ^ 104)

/-- Chunk index of a header flit. -/
def flitIdx (f : BitVec 256) : Nat := (f.extractLsb' 48 32).toNat
/-- Firing number, modulo 2^16. -/
def flitFiring (f : BitVec 256) : Nat := (f.extractLsb' 32 16).toNat
/-- BAD flag byte. -/
def flitBad (f : BitVec 256) : Nat := (f.extractLsb' 96 8).toNat

/-- Whether a chunk is malformed for a member (R316); `crc` says whether the payload passed its check on the way. -/
def malformed (c : Coll) (n : Nat) (f : BitVec 256) (payload : List Byte) (crc : Bool) : Bool :=
  !crc || payload.length != 4096 || (f.extractLsb' 104 32) != crc32c payload || f.extractLsb' 136 120 != 0 ||
    1 < flitBad f || scaleBad c.hdr payload || (f.extractLsb' 80 16).toNat != n || f.extractLsb' 0 32 != c.cid

/-! ### A member's place (R310, R313, R318, R321) -/

/-- The launch and logical core of the task whose tile entry fires a collective entry now, else of the one that installed it (R312). -/
def Coll.task (c : Coll) : BitVec 32 × Nat :=
  match c.fires with
  | f :: _ => (f.1, f.2.1)
  | [] => (c.lid, c.lcore)

/-- The tile entry whose firing is in progress. -/
def Coll.source (c : Coll) : Nat := (c.fires.head?.map fun f => f.2.2).getD 0

/-- The context on this core that takes part in a collective. -/
def collHolder (s : State) (c : Coll) : Holder :=
  if s.mode != .idle && s.ctx.lid == c.task.1 && s.ctx.ctl.lcore.toNat == c.task.2 then .own
  else
    match parkedAt s c.task.1 c.task.2 with
    | some k => .parked k
    | none => .other

/-- A collective entry replaced, by slot. -/
def State.setColl (s : State) (c : Coll) : State :=
  { s with fab := { s.fab with colls := s.fab.colls.map fun x => if x.slot == c.slot then c else x } }

/-- The result entry of a member. -/
def Coll.entry (c : Coll) : Nat := ((c.members[c.pos]?).map memEntry).getD 0

/-- The position after this one. -/
def Coll.next (c : Coll) : Nat := (c.pos + 1) % chNmem c.hdr

/-- Elements of a result (R313). -/
def Coll.resultElems (c : Coll) : Nat := if chGather c.hdr then chNmem c.hdr * chElems c.hdr else chElems c.hdr

/-- The run that a result writes in its entry, bytes beyond the entry dropped (log entry 49). -/
def Coll.resultRun (c : Coll) (t : Tile) : Bool × Nat × Nat := (t.rs, t.base, min t.len (c.resultElems * chSize c.hdr))

/-- The chunks that a firing writes at each member, numbered: position · C + chunk for a gather (log entry 48, for the wire
number of a gather's chunk). -/
def Coll.wireChunks (c : Coll) : Nat := if chGather c.hdr then chNmem c.hdr * chunkCount c.hdr else chunkCount c.hdr

/-- The elements of a wire chunk. -/
def Coll.wireElems (c : Coll) (q : Nat) : Nat := chunkElems c.hdr (q % chunkCount c.hdr)

/-- The element of the result at which a wire chunk starts (R313). -/
def Coll.wireStart (c : Coll) (q : Nat) : Nat :=
  if chGather c.hdr then q / chunkCount c.hdr * chElems c.hdr + q % chunkCount c.hdr * chChunk c.hdr
  else q * chChunk c.hdr

/-- The state of a wire chunk. -/
def Coll.chunk (c : Coll) (q : Nat) : ChunkState := (c.chunks.find? fun x => x.idx == q).getD ⟨q, false, false, false⟩

/-- The state of a wire chunk replaced. -/
def Coll.setChunk (c : Coll) (x : ChunkState) : Coll := { c with chunks := x :: c.chunks.filter fun y => y.idx != x.idx }

/-- Whether a source stream is bound over the shard area in this package (R321): by a context of this core, or by another core (a free bit,
log entry 17). -/
def areaBound (s : State) (c : Coll) : Bool :=
  let n := chNmem c.hdr * chElems c.hdr * chSize c.hdr
  let bound := fun (x : Ctx) => x.eng.ports.toList.any fun p =>
    p.st == .source && chSpace p.chain == 2 &&
      (match p.tmpl with
       | none => true
       | some t => (List.range (tmElems t)).any fun e => meets ((tmSrc t 0 e).toNat) (tmEsize t) (chCbase c.hdr) n)
  bound s.ctx || (s.sched.saved.any fun x => bound x.ctx) || Config.free s.freeCtr (2 ^ 44 + 2) 1 == 1

/-- The first chunk of a firing clears the landed bits, once no stream is bound over the shard area (R321): the entry, or
none while it waits. -/
def Coll.openFiring (s : State) (c : Coll) : Option Coll :=
  if chFuse c.hdr && c.contrib.isEmpty && c.chunks.isEmpty && !c.landed.isEmpty then
    (if areaBound s c then none else some { c with landed := [] })
  else some c

/-- The result entry made FILLING and tagged by the first chunk that is written (R243, R318); none while it waits. -/
def fillResult (s : State) (c : Coll) (h : Holder) : Option (State × Coll) :=
  if c.filling || chFuse c.hdr then some (s, c)
  else
    let x := s.ctxAt h
    let run := c.resultRun (x.tile c.entry)
    let es := insertNat c.entry (x.tilesOver [run])
    if es.any fun e => (x.tile e).st != .empty then none
    else
      let s := s.atHolder h fun x =>
        let x := es.foldl (fun x e => x.setTileState e .filling) x
        tagGranules x (BitVec.ofNat 4 (resultTag c.hdr).code) (granulesOf [run])
      some (s, { c with filling := true })

/-- Result elements written at their place (R313, R317, R318, R321). -/
def putResult (s : State) (c : Coll) (h : Holder) (q : Nat) (xs : List Nat) : State :=
  let bs := bytesOf (8 * chSize c.hdr) xs
  let off := c.wireStart q * chSize c.hdr
  if chFuse c.hdr then s.putCistern (chCbase c.hdr + off) bs
  else
    s.atHolder h fun x =>
      let t := x.tile c.entry
      let keep := (bs.take (t.len - off)).map some
      if t.rs then x.putReg (t.base + off) keep else x.putSpad (t.base + off) keep

/-- The shard of a position has landed when its chunks are written (R321). -/
def Coll.noteLanded (c : Coll) (q : Nat) : Coll :=
  if !(chFuse c.hdr) then c
  else
    let p := q / chunkCount c.hdr
    let all := (List.range (chunkCount c.hdr)).all fun k => (c.chunk (p * chunkCount c.hdr + k)).written
    if all && !(c.landed.contains p) then { c with landed := c.landed ++ [p] } else c

/-- A wire chunk of the result written from a payload, or as zeros when it is BAD (R317): none while the entry waits. -/
def writeChunk (s : State) (c : Coll) (h : Holder) (q : Nat) (payload : List Byte) (bad : Bool) : Option (State × Coll) :=
  match fillResult s c h with
  | none => none
  | some (s, c) =>
    let n := c.wireElems q
    let xs := if bad then List.replicate n 0 else decodeChunk c.hdr n payload
    some (putResult s c h q xs, (c.setChunk ⟨q, true, true, bad⟩).noteLanded q)

/-- The header of a flit of this package on VC 2 (Table 20-1). -/
def chunkFlitHeader (src dst : BitVec 20) (seq : BitVec 16) (len : Nat) : BitVec 128 :=
  BitVec.ofNat 128 (len % 512 * 2 ^ 31 + seq.toNat * 2 ^ 40 + Config.chunkKind.toNat * 2 ^ 72 + 2 * 2 ^ 85 + src.toNat * 2 ^ 88 +
    dst.toNat * 2 ^ 108)

/-- One flit of VC 2 sent to an endpoint: the next of its flow, whose first sequence number is free (R305, R306). -/
def State.sendFlit (s : State) (dst : BitVec 20) (payload : List Byte) : State :=
  let seq := (lookupKey (dst, 2) s.fab.outSeq).getD (Config.free s.freeCtr (2 ^ 44 + 8) 16)
  let t := s.send (.flit (chunkFlitHeader s.mgmt.endpoint dst seq payload.length) payload)
  { t with fab := { t.fab with outSeq := setKey (dst, 2) (seq + 1) t.fab.outSeq } }

/-- The package of the next position. -/
def Coll.nextPkg (c : Coll) : BitVec 19 := ((c.members[c.next]?).map memPkg).getD 0

/-- A chunk sent to the next position, as 17 flits (R316, R317): the header flit, then 4,096 bytes in flits of 256. -/
def sendChunk (s : State) (c : Coll) (q : Nat) (payload : List Byte) (bad : Bool) : State :=
  let bs := if bad then zeroPayload else payload
  let dst := (0 : BitVec 1) ++ c.nextPkg
  let head := leBytes 32 (chunkHeader c.cid (c.firing + 1) q (c.wireElems q) bad bs).toNat
  (List.range 16).foldl (fun s k => s.sendFlit dst (sliceOf bs (256 * k) 256)) (s.sendFlit dst head)

/-! ### Contributions (R312, R313) -/

/-- Chunk k of the contribution, from the entry in progress: its elements, and whether a byte is uncorrectable. -/
def contribution (s : State) (c : Coll) (h : Holder) (k : Nat) : List Nat × Bool :=
  let x := s.ctxAt h
  let t := x.tile c.source
  let a := t.base + k * chChunk c.hdr * chSize c.hdr
  let n := chunkElems c.hdr k * chSize c.hdr
  let bs := if t.rs then x.regBytes a n else x.spadBytes a n
  (lanesOf (8 * chSize c.hdr) bs, x.basin.poisoned (if t.rs then 0 else 2) a n)

/-- The entry in progress returns to READY when its contribution has been read in full (R244, R312). -/
def contributionRead (s : State) (c : Coll) (h : Holder) : State :=
  if c.contrib.length == chunkCount c.hdr then
    s.atHolder h fun x =>
      let e := c.source
      if (x.tile e).st == .draining then x.setTileState e .ready else x
  else s

/-- The step of R314 at which this member meets chunk c: 1 at position o + 1, NMEM at the owner o. -/
def Coll.stepAt (c : Coll) (k : Nat) : Nat :=
  let n := chNmem c.hdr
  (c.pos + n - k % n + n - 1) % n + 1

/-- The next chunk of the member's own tile is read, and injected where the ring starts here (R313, R314, R316, R317). -/
def injectNext (s : State) (c : Coll) (h : Holder) : State :=
  let k := c.contrib.length
  if c.fires.isEmpty || c.lost || chunkCount c.hdr ≤ k then s
  else
    match c.openFiring s with
    | none => s
    | some c =>
      let x := contribution s c h k
      let c' := { c with contrib := c.contrib ++ [x] }
      let payload := encodeChunk c.hdr 0 c.pos k x.1
      let alone := chNmem c.hdr == 1
      if chGather c.hdr then
        let q := c.pos * chunkCount c.hdr + k
        match writeChunk s c' h q payload x.2 with
        | none => s
        | some (t, d) =>
          let t := if alone then t else sendChunk t d q payload x.2
          (contributionRead t d h).setColl d
      else if alone then
        match writeChunk s c' h k (encodeChunk c.hdr 0 c.pos k (decodeChunk c.hdr (chunkElems c.hdr k) payload)) x.2 with
        | none => s
        | some (t, d) => (contributionRead t d h).setColl d
      else
        let d := if c.stepAt k == 1 then
            c'.setChunk { (c'.chunk k) with passed := true, bad := x.2 } else c'
        let t := if c.stepAt k == 1 then sendChunk s d k payload x.2 else s
        (contributionRead t d h).setColl d

/-! ### Arrivals (R313 to R317) -/

/-- A partial sum at this member (R314, R317): combined, and forwarded; the owner writes its result and sends the final
chunk on. None while it waits. -/
def partialAt (s : State) (c : Coll) (h : Holder) (k : Nat) (payload : List Byte) (bad : Bool) : Option (State × Coll) :=
  match c.contrib[k]? with
  | none => none
  | some own =>
    let n := chunkElems c.hdr k
    let t := c.stepAt k
    let bad := bad || own.2
    let b := decodeChunk c.hdr n (encodeChunk c.hdr 0 c.pos k own.1)
    let a := (decodeChunk c.hdr n payload).zipIdx.map fun x => combineElem c.hdr x.1 (b.getD x.2 0)
    let out := encodeChunk c.hdr (t - 1) c.pos k a
    if t == chNmem c.hdr then
      match writeChunk s c h k out bad with
      | none => none
      | some (s, c) => some (sendChunk s c k out bad, c)
    else
      some (sendChunk s c k out bad, c.setChunk { (c.chunk k) with passed := true })

/-- A final chunk, or a chunk of a gather, at this member (R313, R317): written, and forwarded unless the next position has
had it. -/
def finalAt (s : State) (c : Coll) (h : Holder) (q : Nat) (payload : List Byte) (bad : Bool) : Option (State × Coll) :=
  if (c.chunk q).written then none
  else
    let stop := if chGather c.hdr then q / chunkCount c.hdr else q % chNmem c.hdr
    match writeChunk s c h q payload bad with
    | none => none
    | some (s, c) => some (if c.next == stop then s else sendChunk s c q payload bad, c)

/-- A chunk arrives from the ring (R312, R316, R320). One that this member cannot take yet waits. -/
def chunkArrives (s : State) (c : Coll) (h : Holder) (f : BitVec 256) (payload : List Byte) (crc : Bool) : State :=
  let q := flitIdx f
  if c.fires.isEmpty || c.lost || c.wireChunks ≤ q || flitFiring f != (c.firing + 1) % 65536 then s
  else
    match c.openFiring s with
    | none => s
    | some c =>
      let bad := flitBad f == 1 || malformed c (c.wireElems q) f payload crc
      let payload := if bad then zeroPayload else payload
      let r :=
        if chGather c.hdr then (if q / chunkCount c.hdr == c.pos then none else finalAt s c h q payload bad)
        else if c.stepAt q == 1 then (if c.contrib.length ≤ q then none else finalAt s c h q payload bad)
        else if (c.chunk q).passed then finalAt s c h q payload bad
        else partialAt s c h q payload bad
      match r with
      | none => s
      | some (t, d) => t.setColl d

/-- A tile entry of the context at hand, drained by a collective entry that another core installed, has been read and returns to READY
(R244, R312; log entry 17). -/
def foreignRead (s : State) (e : Nat) : State :=
  let t := s.ctx.tile e
  if t.st == .draining && t.col != 0 && (s.collOf t.col).isNone then { s with ctx := s.ctx.setTileState e .ready } else s

/-- COLLECTIVE_CHUNK (R312 to R317): an index beyond the collective entries of this core names a tile entry that another core's
collective drains. -/
def collectiveStep (s : State) (idx : Nat) (arrival : Option (BitVec 256 × List Byte × Bool)) : State :=
  match s.fab.colls[idx]? with
  | none => s.atIndex (fun _ => 64) (idx - s.fab.colls.length) fun e s => foreignRead s e
  | some c =>
    match collHolder s c with
    | .own => (match arrival with
      | none => injectNext s c .own
      | some x => chunkArrives s c .own x.1 x.2.1 x.2.2)
    | .parked k => (match arrival with
      | none => injectNext s c (.parked k)
      | some x => chunkArrives s c (.parked k) x.1 x.2.1 x.2.2)
    | .other => s
    | .absent => s

/-! ### The end of a firing (R317 to R319) -/

/-- Chunks that a lost firing has not written are written as zeros (R319). -/
def zeroRest (s : State) (c : Coll) (h : Holder) : Option (State × Coll) :=
  ((List.range c.wireChunks).filter fun q => !(c.chunk q).written).foldl (fun acc q =>
    match acc with
    | none => none
    | some (s, c) => writeChunk s c h q zeroPayload true) (some (s, c))

/-- The bytes of the bad-chunk list (Table 20-6). -/
def badList (c : Coll) : List Byte :=
  let bads := ((c.chunks.filter ChunkState.bad).map ChunkState.idx).foldr insertNat []
  leBytes 8 (c.firing + 1) ++ leBytes 8 (bads.length + (if c.lost then 2 ^ 63 else 0)) ++
    (bads.take (chBadcap c.hdr)).flatMap fun k => leBytes 4 k

/-- The entry in progress of a firing that is lost is read no further, and returns to READY (R244, R319). -/
def endContribution (s : State) (c : Coll) (h : Holder) : State × Coll :=
  let n := chunkCount c.hdr - c.contrib.length
  if !c.lost || n == 0 then (s, c)
  else
    let d := { c with contrib := c.contrib ++ List.replicate n ([], true) }
    ((contributionRead s d h).setColl d, d)

/-- What keeps a member from writing its bad-chunk list: a page that the host must map, or a die that does not answer (R249, R318). -/
def listStuck (s : State) (c : Coll) (n : Nat) : Option Reach :=
  (List.range n).findSome? fun i =>
    match landReach s c.asid (chBadlist c.hdr + i) with
    | .miss pg => some (.miss pg)
    | .waits => some .waits
    | .ok => none
    | .bad _ => none

/-- The last act of a firing, once its list is written (R318, R319): the result entry becomes READY, and the record is credited. -/
def closeFiring (s : State) (c : Coll) (h : Holder) : State :=
  let x := s.ctxAt h
  let es := (insertNat c.entry (x.tilesOver [c.resultRun (x.tile c.entry)])).filter fun e => (x.tile e).st == .filling
  let t := if chFuse c.hdr then s else s.withHolder h fun s => s.tilesReady es
  let now := (t.fab.colls.find? fun x => x.slot == c.slot).getD c
  let t := t.setColl { c with
    lost := now.lost
    firing := c.firing + 1
    fires := if now.lost then [] else now.fires.drop 1
    contrib := []
    chunks := []
    filling := false }
  let run := c.resultRun (x.tile c.entry)
  t.creditTo (chRec c.hdr) (c.resultElems * chSize c.hdr)
    (if chFuse c.hdr then .plain else .basin (BitVec.ofNat 9 c.task.2) [(if run.1 then 0 else 2, run.2.1, run.2.2)])

/-- The end of a firing at this member (R318, R319): the list, then the result entry READY, then the record's credit. A page
of the list that is not mapped holds it back. -/
def endFiring (s : State) (c : Coll) (h : Holder) : State :=
  let done := (List.range c.wireChunks).all fun q => (c.chunk q).written
  if c.fires.isEmpty || !(done || c.lost) then s
  else
    let r := endContribution s c h
    match zeroRest r.1 r.2 h with
    | none => r.1
    | some (t, c) =>
      let bs := badList c
      match listStuck t c bs.length with
      | some (.miss pg) => askPageOf r.1 c.asid pg
      | some _ => r.1
      | none =>
        let t := bs.zipIdx.foldl (fun t b => landByte t (some c.lid) c.asid (chBadlist c.hdr + b.2) b.1) t
        closeFiring t c h

/-- Whether a member on another core has ended the firing with an entry that is too short, which its message tells (R312): a free bit
(log entry 17). -/
def peerShort (s : State) (c : Coll) : Bool :=
  (c.members.any fun m => !(memPkg m == Config.packageId && (memLcore m).toNat == c.lcore)) &&
    Config.free s.freeCtr (2 ^ 44 + 3) 1 == 1

/-- COLLECTIVE_FIRING_END (R318, R319). -/
def firingEnd (s : State) (idx : Nat) : State :=
  match s.fab.colls[idx]? with
  | none => s
  | some c =>
    let done := (List.range c.wireChunks).all fun q => (c.chunk q).written
    let c := if !done && peerShort s c then { c with lost := true } else c
    let s := s.setColl c
    match collHolder s c with
    | .own => endFiring s c .own
    | .parked k => endFiring s c (.parked k)
    | .other => s
    | .absent => s

/-- A lost package ends the collectives that it takes part in (R319). -/
def loseMembers (s : State) (pkg : BitVec 19) : State :=
  { s with fab := { s.fab with colls := s.fab.colls.map fun c =>
      if (c.members.any fun m => memPkg m == pkg) then { c with lost := true } else c } }

end Sys2Proof.Machine
end

