-- ==== Sys2Proof/Machine/Peer.lean ====
section
/-! DEFINITION. ACC.PEER: the drain that it sends, and a drain at its destination (R213 to R215, R231, R232). -/

namespace Sys2Proof.Machine

open Sys2Proof

/-- Whether DACC lies beyond the accumulator storage of the destination (R41, R232), which the launch header sizes on every core. -/
def daccBeyond (s : State) (lid : BitVec 32) (h : Holder) (dacc : BitVec 5) : Bool :=
  let size := match h with
    | .own => s.ctx.accSize
    | .parked k => (s.ctxAt (.parked k)).accSize
    | .other => ((s.launchOf lid).map fun l => hdrPartw l.hdr / 256 % 256 * 65536).getD 0
    | .absent => 0
  size < dacc.toNat * 16384 + 16384

/-- A drain at its destination, the logical core `dst` of the record's launch (R213 to R215, R231): refused, discarded as a duplicate,
buffered in deterministic mode, or applied; the Bool says whether it was accepted, and none that it waits for the cascade. -/
def drainAt (s : State) (src : BitVec 19 × BitVec 9 × W64) (dst : BitVec 9) (seq : Nat) (dacc : BitVec 5) (h : W64)
    (data : List (BitVec 32)) : Option (State × Bool) :=
  match s.recordOf h with
  | none => some (s, false)
  | some r =>
    let dest := drainHolder s r.lid dst.toNat
    let det := ((s.launchOf r.lid).map fun l => hdrDet l.hdr).getD false
    if seq ≤ (lookupKey src r.peers).getD 0 then
      some (s.atHolder dest fun c => { c with casc := { c.casc with peerDup := c.casc.peerDup + 1 } }, true)
    else if daccBeyond s r.lid dest dacc then some (s, false)
    else
      let r := { r with peers := setKey src seq r.peers }
      if det then
        some ((creditAt (s.setRecord { r with drains := r.drains ++ [⟨src.2.1, dst, seq, dacc, data⟩] }) h 16384 .plain).1, true)
      else if drainWaits s dest then none
      else some ((creditAt ((s.setRecord r).atHolder dest fun c => c.applyDrain dacc data) h 16384
        (.basin dst [drainRun dacc])).1, true)

/-- ACC.PEER when the engine would start it (R232): it reads the accumulator and takes its sequence number, in `sd`. -/
def peerStart (s : State) (o : EngOp) : State × EngOp :=
  let seq := s.ctx.casc.peerSeq + 1
  (s.setCasc fun c => { c with peerSeq := seq },
    { o with sd := seq, idx := leBytes 16384 (accRead s o.daddr).toNat, begun := true })

/-- Whether a started drain that has not arrived goes to the same core as another. -/
def sameDrain (o x : EngOp) : Bool :=
  !x.answered &&
    (match x.instr with
     | .accPeer _ _ _ _ => peerPkg x.sa == peerPkg o.sa && peerLcore x.sa == peerLcore o.sa
     | _ => false)

/-- Whether no earlier drain of this core to the same core is still on its way (R213): those of its other tasks included. -/
def peerOrder (s : State) (o : EngOp) : Bool :=
  !(s.ctx.eng.started.any fun x => x.id < o.id && sameDrain o x) &&
    !(s.sched.saved.any fun sv => sv.ctx.eng.started.any fun x => x.stamp < o.stamp && sameDrain o x)

/-- A started ACC.PEER goes on (R213, R214, R232): the drain reaches its destination, and `answered` keeps the outcome in
`pos` until the acknowledgement returns; a refusal sets PEERERR. No acknowledgement returns to a context that will resume (`acks`
false): it issues the drain again then (R213). -/
def peerRun (acks : Bool) (s : State) (o : EngOp) : State :=
  let dst := peerLcore o.sa
  let told := fun (t : State) (ok : Bool) => keepStarted t { o with answered := true, pos := if ok then 0 else 1 }
  if o.answered then
    (if !acks then s
     else if o.pos == 0 then complete s o 0 none
     else complete (s.setCasc fun c => { c with status := c.status ||| 8 }) o (openSide s 6) none)
  else if !(peerOrder s o) then s
  else if 351 < dst.toNat || s.pkgLost (peerPkg o.sa) then told s false
  else if peerPkg o.sa == Config.packageId then
    let data := (lanesOf 32 o.idx).map (BitVec.ofNat 32)
    match drainAt s (Config.packageId, s.ctx.ctl.lcore.setWidth 9, s.ctx.ctl.wid) dst o.sd.toNat (peerDacc o.sa) o.sb data with
    | none => s
    | some (t, ok) => told t ok
  else
    let t := s.send (.drain (peerPkg o.sa) dst (s.ctx.ctl.lcore.setWidth 9) s.ctx.ctl.wid o.sd (peerDacc o.sa) o.sb
      (BitVec.ofNat 131072 (ofLe o.idx)))
    told t (Config.freeNat s.freeCtr (2 ^ 29 + 2) % 2 == 0)

/-- Drains whose acknowledgement has not returned are issued again when a context resumes (R213). -/
def Ctx.reissuePeers (c : Ctx) : Ctx :=
  let again := fun (o : EngOp) =>
    match o.instr with
    | .accPeer _ _ _ _ => { o with answered := false, pos := 0 }
    | _ => o
  { c with eng := { c.eng with started := c.eng.started.map again } }

end Sys2Proof.Machine
end

