-- ==== Sys2Proof/Machine/EngineRun.lean ====
section
/-! DEFINITION. The engines: when the head of a queue starts, and how a started instruction goes on (R17, R121, R196, R243,
R264, R278, R330). -/

namespace Sys2Proof.Machine

open Sys2Proof

/-! ### What a start waits for -/

/-- The basin writes of an instruction that the tile table governs (R243): not the log of TRI, not DRIFT.RD. -/
def tileWr (o : EngOp) : List (Bool × Nat × Nat) :=
  match o.instr with
  | .tri _ _ _ _ => o.wr.filter fun r => r.1
  | .driftRd _ _ => []
  | _ => o.wr

/-- The granules of a pass's output of elements `n0` to `n`, by its tail. -/
def tagElems (s : State) (o : EngOp) (n0 n : Nat) : State :=
  let f := tailOut o.tailCmd
  let g0 := n0 / f.lanes
  tagOutput s (o.daddr + 256 * g0) (outGranules f n - g0) f

/-- The rows that the rotations of a sweep still to do lie in (R191, R192). -/
def sweepRows (o : EngOp) : List Nat := (((sweepOf o.sa).drop o.pos).flatMap fun r => [r.2 - 1, r.2]).eraseDups

/-- The granules that a pass, a sweep, ACC.OUT or DRIFT.RD writes from its place on take their tag when it starts, SWP.LD's too (R39,
R40, R189, R209, R225, R230, R233): of ROTG, of both tiles; of a sweep, the rows that it pairs (log entry 100). -/
def tagAtStart (s : State) (o : EngOp) : State :=
  match o.instr with
  | .rotp _ _ _ _ => tagElems s o (128 * o.pos) (128 * passV o.sb)
  | .roti _ _ _ _ => tagElems s o (128 * o.pos) (128 * passV o.sb)
  | .rotg _ _ _ _ =>
    let n := 2 * (passV o.sb - o.pos)
    tagOutput (tagOutput s (o.aaddr + 512 * o.pos) n .fp32) (o.daddr + 512 * o.pos) n .fp32
  | .tri _ _ _ _ => (sweepRows o).foldl (fun s i => tagOutput s (o.daddr + 256 * i) 1 .fp32) s
  | .grot _ _ _ _ => (sweepRows o).foldl (fun s i => tagOutput s (o.daddr + 256 * i) 1 .fp32) s
  | .accOut _ _ _ _ =>
    if descSpad o.sa then s
    else tagOutput s (descAddr o.sa) (outGranules (tailOut o.tailCmd) (64 * mshapeM o.mshape)) (tailOut o.tailCmd)
  | .driftRd _ _ => tagOutput s o.daddr 2 .fp32
  | _ => s

/-- SWP.LD when the engine would start it (R225): it reads the record, and ends at once on bytes that fail their check, on a void record
or on one that is refused; else it goes on as the recorded instruction. -/
def swpStart (s : State) (o : EngOp) : AnswerRes :=
  if !(s.ctx.tilesAllow [] [(false, o.sa.toNat, 64)] []) then .waits
  else
    match recordRead s o with
    | none => .ends s 0 (statusOf 3 0 0)
    | some r =>
      if r.toNat % 128 == 0 then .ends s 0 0
      else if !(recordOk r) then .ends (s.setCasc fun c => { c with status := c.status ||| 4 }) 0 0
      else
        match resumeRecord s o r with
        | none => .waits
        | some x => .starts (tagAtStart x.1 x.2) x.2

/-- A cascade instruction when the engine would start it: one at a time (R196), its tile entries as R121 and R243 ask; a pass
or sweep works on the plane that is active now (R202). -/
def cascadeStart (s : State) (o : EngOp) : AnswerRes :=
  if s.ctx.cascadeBusy then .waits
  else
    match o.instr with
    | .accPeer _ _ _ _ => let r := peerStart s o; .starts r.1 r.2
    | .swpLd _ _ => swpStart s o
    | _ =>
      if !(s.ctx.tilesAllow [] o.rd (tileWr o)) then .waits
      else
        let o := { o with plane := s.ctx.casc.active, begun := true }
        let h := holdTiles (tagAtStart s o) { o with wr := tileWr o }
        .starts h.1 { h.2 with wr := o.wr }

/-- The result of a start without an answer. -/
def plain (r : StartRes) : AnswerRes :=
  match r with
  | .waits => .waits
  | .ends s st => .ends s 0 st
  | .starts s o => .starts s o

/-- An instruction that starts with nothing to check. -/
def startsNow (s : State) (o : EngOp) : AnswerRes := .starts s { o with begun := true }

/-- An instruction that reads an image and acts at once. -/
def onImage (s : State) (o : EngOp) (r : AnswerRes) : AnswerRes := if s.ctx.tilesAllow [] o.rd [] then r else .waits

/-- The flags of the padding of the sink that an instruction closed are raised by the time its token is done (R45, R128, R185). -/
def padFlags (s : State) (o : EngOp) : State := if o.gaddr == 0 then s else s.raise (BitVec.ofNat 5 o.part)

/-- A copy-engine instruction when its engine would start it. -/
def copyEngineStart (s : State) (o : EngOp) : AnswerRes :=
  match o.instr with
  | .copy t _ _ _ => plain (copyStart s o (immOf t))
  | .gath t _ _ _ => plain (copyStart s o (immOf t))
  | .copyRed t _ _ _ => plain (redStart s o (immOf t))
  | .tplLd _ _ _ => onImage s o (startsNow s o)
  | .strm _ r _ _ => plain (strmStart (padFlags s o) o r.toNat)
  | .strmCl _ _ => startsNow (padFlags s o) o
  | .xsOpen _ _ _ _ =>
    match xsOpenStart s o with
    | none => .waits
    | some r => .ends r.1 r.2.1 r.2.2
  | .ttSet _ e _ _ => plain (ttSetStart s o e.toNat)
  | .ttReady _ e => plain (ttReadyStart s e.toNat o.bundle)
  | .ttRel _ e => plain (ttRelStart s e.toNat o.bundle)
  | .ttBind _ e _ => plain (ttBindStart s o e.toNat)
  | .ttQ t _ e => .ends s (ttQueryWord s t e) 0
  | .fence _ sc mask => plain (fenceStart s o sc mask)
  | .drain _ _ => plain (drainStart s o)
  | .arrive _ _ _ => plain (arriveStart s o)
  | .trec _ _ _ _ => onImage s o (let r := trecRun s o; .ends r.1 r.2.1 r.2.2)
  | .post _ _ => onImage s o (plain (postStart s o))
  | .colSet _ _ _ _ => colSetStart s o
  | .pav _ _ _ _ => startsNow s o
  | .brdRd t _ _ _ => if immOf t < 4 then startsNow s o else .ends s (viewWord o) 0
  | .brdLv _ _ _ => startsNow s o
  | .dpost _ _ _ _ => dpostStart s o
  | .calRd t _ _ _ => calRdStart s o (immOf t)
  | .calGo _ _ _ _ => calGoStart s o
  | .gtime _ _ => .ends s s.fab.time 0
  | .trig _ _ => plain (trigStart s o)
  | _ => startsNow s o

/-- Whether what a start waits for beside its own conditions is met: consumed tokens (R53), the order of template registers
(R278), the scatters that its reads must see (R218), no FENCE that holds its accesses (R263), no earlier instruction of its queue that waits for a home (R330). -/
def startAllowed (s : State) (o : EngOp) : Bool :=
  (o.waits.all fun x => s.ctx.instDone x) && templateOrder s o && !(s.ctx.scatterOwes o.bundle) && !(opOffCore o && s.ctx.eng.heldAt o.id) &&
    !(s.ctx.eng.started.any fun x => x.eng == o.eng && awaitsHome x)

/-- The head of a queue with the template that it reads when it starts (R278); one that replays keeps the one it read first (R281). -/
def withTemplate (s : State) (o : EngOp) : EngOp :=
  match templateOf o.instr with
  | some (x, false) => if o.again then o else { o with tmpl := s.ctx.template x }
  | _ => o

/-- A queue without its head. -/
def State.dequeue (s : State) (n : Nat) : State :=
  { s with ctx := { s.ctx with eng := s.ctx.eng.setQueue n ((s.ctx.eng.queue n).drop 1) } }

/-- What the start of a queue's head does: nothing while it waits; its whole effect where it ends at once; else it leaves its
place and runs (R17). -/
def startHead (s : State) (n : Nat) (o : EngOp) : State :=
  let o := withTemplate s o
  if !(startAllowed s o) then s
  else
    match (if n == 0 then cascadeStart s o else copyEngineStart s o) with
    | .waits => s
    | .ends t v st => complete (t.dequeue n) o st (some (.value v 0))
    | .starts t o =>
      let t := t.dequeue n
      { t with ctx := { t.ctx with eng := { t.ctx.eng with started := t.ctx.eng.started ++ [o] } } }

/-- Whether a task holds the core and its engines may start instructions (R94, R119). -/
def enginesRun (s : State) : Bool :=
  match s.mode with
  | .running => true
  | .draining => true
  | _ => false

/-- A page that an engine access of the running task has missed pauses the task (R255). -/
def pauseWanted (s : State) : State :=
  match s.ctx.eng.wants with
  | none => s
  | some page =>
    let s := { s with ctx := { s.ctx with eng := { s.ctx.eng with wants := none } } }
    if enginesRun s then saveContext s (.page page) (.waitingPage page) else s

/-- A page that an engine access of the k-th saved context has missed keeps it parked (R255). -/
def parkWanted (k : Nat) (s : State) : State :=
  match s.sched.saved[k]? with
  | none => s
  | some sv =>
    match sv.ctx.eng.wants with
    | none => s
    | some page =>
      let s := { s with sched := { s.sched with saved := modifyAt k (fun x =>
          { x with ctx := { x.ctx with eng := { x.ctx.eng with wants := none } }, why := .page page }) s.sched.saved } }
      s.setTask sv.ctx.lid sv.ctx.ctl.lcore.toNat sv.ctx.ctl.wid fun t => { t with st := .waitingPage page }

/-- ENGINE_INSTRUCTION_START (R17). -/
def engineStart (s : State) (n : Nat) : State :=
  if !(enginesRun s) then s
  else
    match s.ctx.eng.queue n with
    | [] => s
    | o :: _ => pauseWanted (startHead s n o)

/-! ### How a started instruction goes on -/

/-- A started copy-engine instruction goes on by up to `n` units; one that waits for a home does not go on here. -/
def copyEngineRun (n : Nat) (s : State) (o : EngOp) : State :=
  match o.instr with
  | .copy _ _ _ _ => copyRun sendCredit n s o
  | .gath _ _ _ _ => copyRun sendCredit n s o
  | .copyRed t _ _ _ => redRun sendCredit (immOf t) n s o
  | .tplLd _ x _ => tplLoad s o x
  | .strm _ r _ _ => strmRun r.toNat n s o
  | .strmCl _ _ => strmClRun s o
  | .calGo _ _ _ _ => calGoRun s o
  | .trig _ _ => trigRun s o
  | _ => s

/-- A started instruction goes on by up to `n` units; `acks` says that an acknowledgement of ACC.PEER may return. -/
def engineRun (acks : Bool) (n : Nat) (s : State) (o : EngOp) : State :=
  match o.instr with
  | .accPeer _ _ _ _ => peerRun acks s o
  | _ => if o.eng == 0 then cascRun n s o else copyEngineRun n s o

/-- Whether a started instruction only waits for an answer or an acknowledgement, which comes under a kill too (R119, R330). -/
def owesAnswer (o : EngOp) : Bool :=
  awaitsHome o ||
    (match o.instr with
     | .accPeer _ _ _ _ => true
     | .trig _ _ => true
     | _ => false)

/-- Whether the running task is being killed. -/
def underKill (s : State) : Bool :=
  match s.mode with
  | .killing _ _ _ _ _ _ _ => true
  | _ => false

/-- A step of the started instruction at a place of the started lists, of the running context or a saved one; the Bool that it takes is
false in a context that will resume. Of a saved context only what runs on after a save goes on (R115); a kill stops started
instructions, but not the answers to them (R119); a page missed pauses the task (R255). -/
def onStarted (s : State) (idx : Nat) (f : Bool → State → EngOp → State) : State :=
  let go := fun (parked killed : Bool) (i : Nat) (s : State) =>
    match s.ctx.eng.started[i]? with
    | none => s
    | some o => if (parked && saveKind o != .runOn) || (killed && !(owesAnswer o)) then s else f (!parked || killed) s o
  if idx < s.ctx.eng.started.length then
    (if enginesRun s then pauseWanted (go false false idx s) else if underKill s then go false true idx s else s)
  else
    match locateGo (s.sched.saved.map fun sv => sv.ctx.eng.started.length) 0 (idx - s.ctx.eng.started.length) with
    | none => s
    | some (k, i) =>
      let killed := (s.sched.saved[k]?.map Saved.killed).getD true
      parkWanted k (s.onSaved k (go true killed i))

/-- TOKEN_DONE: the started instruction at a place of the started lists goes on, and its token is done when its effects have
performed (R264). -/
def engineStep (s : State) (idx n : Nat) : State := onStarted s idx fun acks s o => engineRun acks n s o

end Sys2Proof.Machine
end

