-- ==== Sys2Proof/Machine/Dispatcher.lean ====
section
/-! DEFINITION. The keystone's dispatch: bind records, candidates, the start of a task and of a saved context, task ends and
kills (R15, R41, R94, R118, R119, R241, R343, R344, R350 to R354, R372, R373). -/

namespace Sys2Proof.Machine

open Sys2Proof

/-! ### The bind record (Table 22-4) -/

/-- EN. -/
def bindEn (b : BitVec 1024) : Bool := b.getLsbD 3
/-- PART. -/
def bindPart (b : BitVec 1024) : Nat := b.toNat % 8
/-- QUANTUM. -/
def bindQuantum (b : BitVec 1024) : Nat := (b.extractLsb' 224 32).toNat
/-- Whether QMASK binds a queue. -/
def bindsQueue (b : BitVec 1024) (q : Nat) : Bool := b.getLsbD (256 + q)
/-- Whether a logical core is served (R373): a valid LC field names it, or its bit is set in LCMASK. -/
def servesCore (b : BitVec 1024) (l : Nat) : Bool :=
  ((List.range 4).any fun n =>
    (b.extractLsb' (128 + 10 * n) 10).toNat == 512 + l) || (l < 352 && b.getLsbD (512 + l))

/-! ### Candidates (R343, R353, R359) -/

/-- Whether this core may run tasks of a launch on a logical core (R352, R353, R359). -/
def mayServe (s : State) (l : Launch) (lcore : Nat) : Bool :=
  let b := s.sched.bind
  !l.done && !l.killing && hdrPartn l.hdr == bindPart b && bindsQueue b (hdrQueue l.hdr) && servesCore b lcore &&
    (!(hdrStage l.hdr) || dieOf s (hdrPartn l.hdr) lcore == ownDie)

/-- The task of a list with the lowest work id. -/
def lowestWid (ts : List Task) : Option Task :=
  ts.foldl (fun acc t =>
    match acc with
    | none => some t
    | some b => if t.wid.toNat < b.wid.toNat then some t else acc) none

/-- The head of the queue of a logical core of a launch, when it is ready (R343, R349, R354): a started task before any that
has not started, and none while one waits for a page, is evicted or runs. -/
def headTask (s : State) (lid : BitVec 32) (lcore : Nat) : Option Task :=
  let ts := s.sched.tasks.filter fun t => t.lid == lid && t.lcore == lcore && t.st != .ended
  match ts.find? fun t => t.started with
  | some t => if t.st == .parked then some t else none
  | none =>
    match lowestWid ts with
    | some t => if t.st == .queued then some t else none
    | none => none

/-- The candidates of a dispatch decision: launches in order of acceptance, logical cores ascending (R353). -/
def candidates (s : State) : List (Launch × Task) :=
  s.sched.launches.flatMap fun l =>
    ((List.range (hdrGrid l.hdr)).filter fun c => mayServe s l c).filterMap fun c =>
      (headTask s l.lid c).map fun t => (l, t)

/-- The place of a pair of launch and logical core in the round (R353). -/
def roundKey (lid : BitVec 32) (lcore : Nat) : Nat := lid.toNat * 512 + lcore

/-- The candidate that the core runs (R353): the highest priority, and within it the next of the round of that priority. -/
def chooseTask (s : State) : Option (Launch × Task) :=
  let cs := candidates s
  let top := cs.foldl (fun m c => max m c.2.prio) 0
  let best := cs.filter fun c => c.2.prio == top
  let key := fun (c : Launch × Task) => roundKey c.1.lid c.2.lcore
  let last := match lookupKey top s.sched.served with
    | none => 0
    | some x => roundKey x.1 x.2 + 1
  let least := fun (xs : List (Launch × Task)) =>
    xs.foldl (fun (acc : Option (Launch × Task)) c =>
      match acc with
      | none => some c
      | some b => if key c < key b then some c else acc) none
  match least (best.filter fun c => last ≤ key c) with
  | some c => some c
  | none => least best

/-! ### The start of a task (R15, R41, R344, R372) -/

/-- A number rounded up to the next multiple of 256. -/
def up256 (n : Nat) : Nat := (n + 255) / 256 * 256

/-- The addresses of the .spad and .regspace images (Table 22-1). -/
def imageAddrs (h : BitVec 2048) : Nat × Nat :=
  let spad := codeBase h + up256 (4 * hdrCodeLen h)
  (spad, spad + up256 (256 * hdrSpadLen h))

/-- Bytes of an image in an address space, or the first byte that cannot be read with what it meets (R101, R249, R372). -/
inductive ImageRes where
  | bytes (bs : List Byte)
  | waits
  | miss (page : Nat)
  | bad (cause : Nat) (va : Nat)
  deriving DecidableEq, Repr

/-- What keeps a byte of an image from being read, as an access of a task meets it (R101, R249, R255). -/
def imageStop (s : State) (asid : BitVec 16) (va : Nat) : Option ImageRes :=
  if 2 ^ 57 ≤ va then some (.bad 0x0B va)
  else
    match translateIn s asid va .read with
    | .ok key _ => if s.homeWaits key then some .waits else none
    | .miss pg => some (.miss pg)
    | .unresolvable => some (.bad 0x0A va)
    | .protection => some (.bad 0x0B va)
    | .waits => some .waits

/-- A byte of memory in an address space. -/
def imageByte (s : State) (asid : BitVec 16) (va : Nat) : Byte :=
  match translateIn s asid va .read with
  | .ok key _ => (s.mem.homeBytes key 1).headD 0
  | _ => 0

/-- `n` bytes of an image from `va` on. -/
def readImageAt (s : State) (asid : BitVec 16) (va n : Nat) : ImageRes :=
  match (List.range n).findSome? fun i => imageStop s asid (va + i) with
  | some x => x
  | none => .bytes ((List.range n).map fun i => imageByte s asid (va + i))

/-- The context of a task that starts (R344), its images not yet placed. -/
def freshCtx (s : State) (l : Launch) (t : Task) : Ctx :=
  let h := l.hdr
  let args := t.args.zipIdx.foldl (fun (r : Regs) a => r.setS (BitVec.ofNat 6 (a.2 + 1)) a.1) Regs.start
  let merge : W64 := if (mergeRegions h).isEmpty || !(hdrDet h) then 0 else 0x100
  { Ctx.start with
    lid := l.lid
    asid := l.asid
    hdr := h
    regs := { args with pc := t.entry }
    ctl := { Ctl.start with
      wid := t.wid
      launchArg := l.arg
      lcore := BitVec.ofNat 64 t.lcore
      part := BitVec.ofNat 64 (hdrPartw h)
      prio := BitVec.ofNat 64 t.prio
      viewv := BitVec.ofNat 64 (hdrBits h 320 12 * 256)
      viewt := BitVec.ofNat 64 (hdrBits h 332 8 * 4096 + hdrBits h 340 5)
      viewa := BitVec.ofNat 64 (hdrBits h 345 5 * 16384)
      seed := hdrSeed h
      serial := s.freeCtr
      spkey := Config.free s.freeCtr (2 ^ 42) 64 }
    tr := { TrapRegs.start with tstat := merge }
    basin := { Basin.start with epoch := s.freeCtr }
    log := t.log
    snap := l.snap }

/-- The images placed (R15, R78). -/
def Ctx.place (c : Ctx) (spad reg : List Byte) : Ctx :=
  let c := if spad.isEmpty then c else c.putSpad 0 (spad.map some)
  if reg.isEmpty then c else c.putReg 0 (reg.map some)

/-- A task that ends before its first instruction: a fault record with reason 3, and it counts as aborted (R351, R372). -/
def imageFault (s : State) (l : Launch) (t : Task) (cause va : Nat) : State :=
  let s := { s with mem := s.mem.spendRefusals l.asid [va / 65536] }
  let s := s.sendFault (faultRecord 3 t.wid t.lcore Config.pcore.toNat
    (BitVec.ofNat 64 cause, 0, BitVec.ofNat 64 va) (0, 0, 0))
  (s.setTask l.lid t.lcore t.wid fun t => { t with st := .ended, started := true }).setLaunch l.lid fun l =>
    { l with run := l.run + 1, killed := l.killed + 1 }

/-- A task pauses before its first instruction until a page of its images is mapped (R372). -/
def imageMiss (s : State) (l : Launch) (t : Task) (page : Nat) : State :=
  (askPageOf s l.asid page).setTask l.lid t.lcore t.wid fun t => { t with st := .waitingPage page }

/-- The core taken by a context. -/
def State.occupy (s : State) (c : Ctx) (ending : Bool) : State :=
  { (s.setTask c.lid c.ctl.lcore.toNat c.ctl.wid fun t => { t with st := .running, started := true }) with
    ctx := c
    mode := if ending then .draining else .running
    sched := { (s.setTask c.lid c.ctl.lcore.toNat c.ctl.wid fun t => { t with st := .running, started := true }).sched with
      served := setKey c.ctl.prio.toNat (c.lid, c.ctl.lcore.toNat) s.sched.served
      since := s.fab.time } }

/-- The basin bytes that a continuation is guaranteed to see on its logical core (R265): no block is in use by them (R42). -/
def Ctx.take (c : Ctx) (g : Given) : Ctx :=
  { c with basin :=
      match g.space with
      | 0 => { c.basin with reg := c.basin.reg.writeAll g.addr g.bytes }
      | 1 => { c.basin with acc := c.basin.acc.writeAll g.addr g.bytes }
      | _ => { c.basin with spad := c.basin.spad.writeAll g.addr g.bytes } }

/-- The context of a task before its images are placed, with the bytes that were given to it, the oldest first. -/
def startCtx (s : State) (l : Launch) (t : Task) : Ctx :=
  (t.given.filter fun g => g.lcore == t.lcore).foldr (fun g c => c.take g) (freshCtx s l t)

/-- A task starts (R344, R372). -/
def startTask (s : State) (l : Launch) (t : Task) : State :=
  let as := imageAddrs l.hdr
  match readImageAt s l.asid as.1 (256 * hdrSpadLen l.hdr) with
  | .waits => s
  | .miss pg => imageMiss s l t pg
  | .bad cause va => imageFault s l t cause va
  | .bytes spad =>
    match readImageAt s l.asid as.2 (256 * hdrRegLen l.hdr) with
    | .waits => s
    | .miss pg => imageMiss s l t pg
    | .bad cause va => imageFault s l t cause va
    | .bytes reg =>
      ((s.setLaunch l.lid fun l => { l with run := l.run + 1 }).occupy ((startCtx s l t).place spad reg) false)

/-! ### Restore (R118, R213, R268) -/

/-- The saved context of a task (R354: one for each launch and logical core). -/
def savedOf (s : State) (lid : BitVec 32) (wid : W64) : Option (Nat × Saved) :=
  (s.sched.saved.zipIdx.find? fun x => x.1.ctx.lid == lid && x.1.ctx.ctl.wid == wid).map fun x => (x.2, x.1)

/-- A saved context takes the core again once its replies have come and its accesses have performed. -/
def restoreTask (s : State) (lid : BitVec 32) (wid : W64) : State :=
  match savedOf s lid wid with
  | none => s
  | some (k, sv) =>
    if sv.killed || !(sv.ctx.settled && sv.ctx.replied) then s
    else
      let s := { s with sched := { s.sched with saved := s.sched.saved.eraseIdx k } }
      s.occupy ((sv.ctx.reloaded s.freeCtr).reissuePeers) sv.ending

/-- The dispatch decision of an idle core (R353). -/
def dispatch (s : State) : State :=
  if s.mode != .idle || s.mgmt.dispatchOff || !(bindEn s.sched.bind) then s
  else
    match chooseTask s with
    | none => s
    | some (l, t) => if t.started then restoreTask s t.lid t.wid else startTask s l t

/-- CONTEXT_RESTORE (R118): the saved context that the dispatch decision chooses is reloaded. -/
def restoreIfChosen (s : State) (lid : BitVec 32) (wid : W64) : State :=
  match chooseTask s with
  | some (_, t) => if t.started && t.lid == lid && t.wid == wid then dispatch s else s
  | none => s

/-! ### Pre-emption (R115, R352, R353) -/

/-- The running task gives way (R115). -/
def preempt (s : State) : State := if canSave s then saveContext s .preempted .parked else s

/-- Whether a task that is ready on this core has a priority that a test of it and the running task's accepts (R353, R354). -/
def candidateWith (s : State) (f : (own other : Nat) → Bool) : Bool :=
  (candidates s).any fun c => f s.ctx.ctl.prio.toNat c.2.prio

/-- PRE_EMPTION (R115, R354): a task of a higher priority is ready on this core. That no other core of its bound set is idle, and that this
one runs the lowest priority there, the latest to start among equals, the dispatch hardware sees (log entry 17). -/
def preemptFor (s : State) : State := if candidateWith s fun own other => own < other then preempt s else s

/-- The quantum of the running task in ns (Tables 22-1 and 22-4). -/
def quantumOf (s : State) : Nat :=
  let h := hdrQuantum s.ctx.hdr
  let b := bindQuantum s.sched.bind
  if h != 0 then h else if b != 0 then b else 50000

/-- QUANTUM_END (R353): a dispatch decision, in which a candidate of the running task's priority or a higher one comes before it. -/
def quantumEnd (s : State) : State :=
  let due := s.sched.since + BitVec.ofNat 64 (quantumOf s)
  if !(canSave s) then s
  else if candidateWith s fun own other => own ≤ other then
    preempt (if s.fab.time.toNat < due.toNat then { s with fab := { s.fab with time := due } } else s)
  else s

/-! ### The end of a task (R94, R350, R357) -/

/-- A started instruction that no longer has work: the STRM of an open sink that has stored what was pushed, or of a source, whose first
vector need not be readable (R94). -/
def idleStrm (s : State) (o : EngOp) : Bool :=
  match o.instr with
  | .strm _ r _ _ =>
    o.gaddr == 0 && (chDir o.sa == 0 ||
      (o.prod.isNone && o.writes.isEmpty && chDir o.sa == 1 &&
        !((s.ctx.port r.toNat).owner == o.id && !(s.ctx.port r.toNat).buf.isEmpty)))
  | _ => false

/-- Whether the queues are empty and every access and message is acknowledged (R94). -/
def taskQuiet (s : State) : Bool :=
  let e := s.ctx.eng
  e.qm.isEmpty && e.q0.isEmpty && e.q1.isEmpty && e.accs.isEmpty && e.started.all fun o => idleStrm s o

/-- `n` stores of the closing sink of an instruction. -/
def flushSink (q owner : Nat) : (n : Nat) → State → State
  | 0, s => s
  | n + 1, s =>
    match s.ctx.eng.started.find? fun x => x.id == owner with
    | none => s
    | some x => flushSink q owner n (sinkUnit s x q)

/-- An open sink closed at the end of its task, as by STRM.CL (R94, R185, R284); none while a store waits. -/
def endPort (s : State) (q : Nat) : Option State :=
  let p := s.ctx.port q
  match s.ctx.eng.started.find? fun x => x.id == p.owner && p.st == .sink with
  | none => some { s with ctx := s.ctx.setPort q Port.start }
  | some x =>
    let c := closePort s q x
    let t := flushSink q p.owner 10 { c.1 with ctx := c.1.ctx.setPort q Port.start }
    if sinkStored t c.2 then some (finishSink t c.2) else none

/-- Every open port closed at the end of a task. -/
def endPorts (s : State) : Option State :=
  (List.range 4).foldl (fun acc q => acc.bind fun s => endPort s q) (some s)

/-- What keeps the padding of an open sink from its destination at the end of a task (log entry 90). -/
def endStop (s : State) : Option Stop := (List.range 4).findSome? fun q => closeStop s q

/-- The end record that a task arrives at (R350). -/
def endRecordOf (s : State) (lid : BitVec 32) (wid : W64) : Option Record :=
  s.sched.records.find? fun r => r.lid == lid && (match r.group with
    | none => false
    | some ws => ws.contains wid)

/-- A task has ended by TEND (R350, R357, R358): its log is kept, that of a continuation or a posted task apart, and it arrives at its
group's end record. -/
def taskEnded (s : State) (t : Task) (serial : Nat) (log : Mem) : State :=
  let own := t.origin == .launch
  let keep := fun (l : Launch) =>
    if !(hdrDet l.hdr) then l
    else if own then { l with logs := l.logs ++ [(serial, t.wid, log)] }
    else { l with restLogs := l.restLogs ++ [(serial, t.wid, log)] }
  let s := (s.setTask t.lid t.lcore t.wid fun t => { t with st := .ended }).setLaunch t.lid keep
  if own then
    match endRecordOf s t.lid t.wid with
    | none => s
    | some r => (arriveAt s (recordHandle r) 1 0).1
  else s

/-- The task of a launch and work id that has not ended, a started one first. -/
def State.liveTask (s : State) (lid : BitVec 32) (wid : W64) : Option Task :=
  let mine := fun (t : Task) => t.lid == lid && t.wid == wid && t.st != .ended
  match s.sched.tasks.find? fun t => mine t && t.started with
  | some t => some t
  | none => s.sched.tasks.find? mine

/-- The core without a task. -/
def State.vacate (s : State) : State := { s with ctx := Ctx.start, mode := .idle }

/-- The task that issued TEND ends, its ports closed as `s` shows them (R94). -/
def leaveTask (s : State) : State :=
  match endPorts s with
  | none => s
  | some t =>
    let c := t.ctx
    let t := (closeStreams t).vacate
    match (taskPlace t.sched.tasks c.lid c.ctl.lcore.toNat c.ctl.wid).bind fun k => t.sched.tasks[k]? with
    | none => t
    | some k => taskEnded t k c.ctl.serial c.log

/-- The task that issued TEND ends (R94), once the drains that had to wait for its cascade are applied (R215); a page that the padding of
an open sink needs pauses it first. -/
def endOwnTask (s : State) : State :=
  if s.mode != .draining || !(taskQuiet s) then s
  else
    let s := fireWaiting s
    match endStop s with
    | some (.page pg) => pausePage s pg
    | some .hold => s
    | _ => leaveTask s

/-- A task that another core ran ends there (log entry 17): it was the head of its logical core's queue. -/
def endOtherTask (s : State) (lid : BitVec 32) (wid : W64) (log : List (Nat × Byte)) : State :=
  match s.liveTask lid wid, s.launchOf lid with
  | some t, some l =>
    if t.started || l.killing || (headTask s lid t.lcore).map Task.wid != some wid then s
    else
      let sorted := log.foldl (fun (m : Mem) c => m.writeAll c.1 [c.2]) []
      taskEnded (s.setLaunch lid fun l => { l with run := l.run + 1 }) t s.freeCtr sorted
  | _, _ => s

/-! ### Kills (R119, R351) -/

/-- KILL: one task, or every task of a launch. -/
def killAsked (s : State) (lid : BitVec 32) (wid : Option W64) : State :=
  match wid with
  | none => if (s.launchOf lid).isNone then s else s.killLaunch lid
  | some w =>
    match s.liveTask lid w with
    | none => s
    | some t =>
      if t.st == .running then
        (if canSave s && s.ctx.lid == lid && s.ctx.ctl.wid == w then beginKill s 2 (0, 0, 0) (0, 0, 0) else s)
      else if t.started then s.markKilled fun x => x.ctx.lid == lid && x.ctx.ctl.wid == w
      else
        (s.setTask lid t.lcore w fun t => { t with st := .ended }).setLaunch lid fun l => { l with killed := l.killed + 1 }

/-- Whether flits of a started CAL.GO are on their way to receivers of this package (R119, R301). -/
def goPending (s : State) (o : EngOp) : Bool :=
  match o.instr with
  | .calGo _ _ _ _ => ((goEntries s o).map fun x => goOwes s x.1 o).getD false
  | _ => false

/-- Whether every engine of a context is quiescent and every write that it issued is acknowledged (R119, R330). -/
def killQuiet (s : State) (c : Ctx) : Bool :=
  (c.eng.accs.all fun a => a.kind == .load || c.eng.heldAt a.id || c.eng.queued a.id) &&
    !(c.eng.started.any fun o => owesAnswer o || goPending { s with ctx := c } o)

/-- A killed task has ended: its fault record, and its launch's count (R119, R351). -/
def killEnded (s : State) (c : Ctx) (reason : Nat) (g1 g2 : W64 × W64 × W64) : State :=
  let s := s.sendFault (faultRecord reason c.ctl.wid c.ctl.lcore.toNat Config.pcore.toNat g1 g2)
  (s.setTask c.lid c.ctl.lcore.toNat c.ctl.wid fun t => { t with st := .ended }).setLaunch c.lid fun l => { l with killed := l.killed + 1 }

/-- KILL_COMPLETION (R119). -/
def killCompletes (s : State) (lid : BitVec 32) (wid : W64) : State :=
  match s.mode with
  | .killing reason c2 p2 v2 c1 p1 v1 =>
    if s.ctx.lid == lid && s.ctx.ctl.wid == wid then
      (if !(killQuiet s s.ctx) then s
       else killEnded (closeStreams s).vacate s.ctx reason (c1, p1, v1) (c2, p2, v2))
    else killParked s lid wid
  | _ => killParked s lid wid
where
  /-- A parked context is killed by discarding its context area. -/
  killParked (s : State) (lid : BitVec 32) (wid : W64) : State :=
    match savedOf s lid wid with
    | none => s
    | some (k, sv) =>
      if !sv.killed || !(killQuiet s sv.ctx) then s
      else killEnded { s with sched := { s.sched with saved := s.sched.saved.eraseIdx k } } sv.ctx 2 (0, 0, 0) (0, 0, 0)

end Sys2Proof.Machine
end

