-- ==== Sys2Proof/Machine/EventsCore.lean ====
section
/-! DEFINITION. Events of the core: deferred traps, results that land, engines, saves, restores, dispatch, task ends and kills
(R17, R24, R27, R94, R103, R109, R115, R118, R119, R252, R264, R353). -/

namespace Sys2Proof.Machine

open Sys2Proof

/-! ### Deferred traps (R109) -/

/-- A deferred trap is taken at the bundle that would issue next, which gives TPC and TNPC. -/
def enterDeferred (s : State) (d : DefTrap) (nb : W64) : State :=
  let c := { s.ctx with pipe := { s.ctx.pipe with deferred := s.ctx.pipe.deferred.drop 1 } }
  enterTrap { s with ctx := c } d.cause d.tval s.ctx.regs.pc nb

/-- Whether a deferred trap can be taken at this bundle boundary. -/
def State.trapDue (s : State) : Bool := s.mode == .running && !s.ctx.inTrap && !s.ctx.pipe.deferred.isEmpty

/-- DEFERRED_TRAP_TAKEN (R109): the oldest one. A code page that is not mapped pauses the task at this bundle first. -/
def evDeferredTrapTaken (s : State) : State :=
  match s.ctx.pipe.deferred with
  | [] => s
  | d :: _ =>
    if s.trapDue then
      (match fetchBundle s with
       | .stop (.page pg) _ => pausePage s pg
       | .stop _ nb => enterDeferred s d nb
       | .waits => s
       | .bundle ws _ => enterDeferred s d (s.ctx.regs.pc + BitVec.ofNat 64 ws.length))
    else s

/-! ### Results that land (R24, R27) -/

/-- EXPOSED_RESULT_LANDING (R24): a result lands within its window, which stays open until its end. -/
def evExposedResultLanding (idx : Nat) (s : State) : State :=
  match s.ctx.pipe.pend[idx]? with
  | none => s
  | some p =>
    if p.landed then s
    else
      let c := s.ctx.landOne s.freeCtr p
      { s with ctx := { c with pipe := { c.pipe with pend := modifyAt idx (fun p => { p with landed := true }) c.pipe.pend } } }

/-- Whether an access can perform (R102, R249, R262, R263): earlier accesses of its class have performed, the stores of sinks and the LOADs
of sources among them, no FENCE holds it, and its home answers. -/
def loadCanBind (s : State) (a : Access) : Bool :=
  !(s.ctx.eng.classPending a.id a.cls) && !(s.ctx.eng.heldAt a.id) && !(s.ctx.storesAhead s.pushing a.id a.cls) &&
    !(s.ctx.loadsAhead a) && (inMerge s.ctx.hdr a.va.toNat || !(s.homeWaits a.key))

/-- What the load of an access reads (R252, R357), and whether it is uncorrectable (R250, R307, R370). -/
def loadData (s : State) (a : Access) : List Byte × Bool × State :=
  if inMerge s.ctx.hdr a.va.toNat then
    ((List.range a.size).map fun i => s.ctx.mergeByte (a.va.toNat + i), false, s)
  else
    let r := s.readClassed (2 ^ 20) a.key a.size a.cls a.cacheable
    (r.1, s.mem.poisoned a.key a.size || (a.remote && s.pkgLost (keyPackage a.key)), r.2)

/-- A load of the context at hand has read a line of another package: the LOADs of its class follow (R252, R261). -/
def Ctx.afterLine (c : Ctx) (s : State) (a : Access) : Ctx :=
  match (if inMerge s.ctx.hdr a.va.toNat then none else s.lineTime (2 ^ 20) a.key a.cls a.cacheable) with
  | some t => c.lineRead a.cls (a.key / 128) t a.before
  | none => c

/-- Bytes of memory that have failed their check fail it until they are written (R250, R370). -/
def State.spoil (s : State) (key n : Nat) : State :=
  { s with mem := { s.mem with poison := (List.range n).foldl (fun acc i => insertNat (key + i) acc) s.mem.poison } }

/-- The load of an access binds and lands (R101 to R103): zero-extended data, or unspecified data with a deferred
MEM_UNCORR. -/
def landLoad (s : State) (e : SbEntry) (acc : Nat) (uncorrectable : Bool) : State :=
  match s.ctx.eng.accs.find? fun a => a.id == acc with
  | none => s
  | some a =>
    if !(loadCanBind s a) then s
    else
      let r := loadData s a
      let bad := uncorrectable || r.2.1
      let v := if bad then Config.free s.freeCtr (2 ^ 21) 64 else BitVec.ofNat 64 (ofLe r.1)
      let c := ((r.2.2.accessPerforms a).ctx.afterLine s a).landScalar e v 0
      let c := { c with eng := { c.eng with accs := c.eng.accs.filter fun a => a.id != acc } }
      let t := if uncorrectable && !(inMerge s.ctx.hdr a.va.toNat) then r.2.2.spoil a.key a.size else r.2.2
      { t with ctx := if bad then c.defer 0x0C e.addr else c }

/-- The scoreboarded result at a place of the running context lands (R27, R109), if its value is there. -/
def landResult (uncorrectable : Bool) (i : Nat) (s : State) : State :=
  match s.ctx.pipe.sb[i]? with
  | none => s
  | some e =>
    match e.src with
    | .load acc => landLoad s e acc uncorrectable
    | _ => { s with ctx := s.ctx.landReady s.freeCtr e }

/-- SCOREBOARDED_RESULT_LANDING (R27, R103): a result of the running context or of a saved one, by its place. -/
def evScoreboardedResultLanding (idx : Nat) (uncorrectable : Bool) (s : State) : State :=
  s.atIndex (fun c => c.pipe.sb.length) idx (landResult uncorrectable)

/-! ### Engines (R17, R264) -/

/-- ENGINE_INSTRUCTION_START (R17). -/
def evEngineInstructionStart (eng : Nat) (s : State) : State := engineStart s eng

/-- TOKEN_DONE (R264): a started instruction goes on by at most `count` units, and completes when nothing is left; drains that waited
for it are applied (R215). -/
def evTokenDone (idx count : Nat) (s : State) : State := fireWaiting (engineStep s idx count)

/-! ### Saves, restores and dispatch (R115, R118, R353) -/

/-- PRE_EMPTION (R115, R354). -/
def evPreEmption (s : State) : State := fireWaiting (preemptFor s)

/-- CONTEXT_RESTORE (R118). -/
def evContextRestore (lid : BitVec 32) (wid : W64) (s : State) : State := restoreIfChosen s lid wid

/-- DISPATCH_DECISION (R353). -/
def evDispatchDecision (s : State) : State := dispatch s

/-- QUANTUM_END (R353). -/
def evQuantumEnd (s : State) : State := fireWaiting (quantumEnd s)

/-! ### Task ends and kills (R94, R119) -/

/-- TASK_END (R94): of the task on this core, or of one that another core ran. -/
def evTaskEnd (other : Option (BitVec 32 × W64 × List (Nat × BitVec 8))) (s : State) : State :=
  match other with
  | none => endOwnTask s
  | some x => endOtherTask s x.1 x.2.1 x.2.2

/-- KILL (R119). -/
def evKill (lid : BitVec 32) (wid : Option W64) (s : State) : State := killAsked s lid wid

/-- KILL_COMPLETION (R119). -/
def evKillCompletion (lid : BitVec 32) (wid : W64) (s : State) : State := fireWaiting (killCompletes s lid wid)

end Sys2Proof.Machine
end

