-- ==== Sys2Proof/Machine/EventsMemory.lean ====
section
/-! DEFINITION. Events of the memory system: walks, page requests, generations, the remote read cache, writes and atomics at
their homes, acknowledgements, soft errors, a die's return from reset (R238, R244 to R257, R260 to R267, R285, R294, R370). -/

namespace Sys2Proof.Machine

open Sys2Proof

/-! ### Translation (R253 to R256) -/

/-- Whether a walk may still be under way that began under a generation: the current one, or the one before a raise that has
not completed (R256). -/
def walkLive (s : State) (asid : BitVec 16) (gen : BitVec 20) : Bool :=
  gen == s.mem.gen asid || (s.mem.raises.contains asid && gen + 1 == s.mem.gen asid)

/-- Whether a TLB entry is of a page, under a generation of an address space. -/
def TlbEntry.covers (t : TlbEntry) (asid : BitVec 16) (gen : BitVec 20) (va : Nat) : Bool :=
  t.asid == asid && t.gen == gen && t.base ≤ va && va < t.base + 2 ^ t.bits

/-- A TLB entry installed (R8, R253): in the second level of this die, 16,384 entries, and, for a walk of this core (a free bit, log entry
17), in its first level, 128 entries. -/
def State.installTlb (s : State) (e : TlbEntry) : State :=
  let one := if Config.free s.freeCtr (2 ^ 56) 1 == 1 then e :: evictFor s.freeCtr (2 ^ 56 + 1) 128 s.mem.tlb1 else s.mem.tlb1
  { s with mem := { s.mem with
      tlb1 := one
      tlb := e :: evictFor s.freeCtr (2 ^ 56 + 2) 16384 s.mem.tlb } }

/-- PAGE_WALK (R254 to R256): a walk that finds a leaf installs its entry under the generation that it read at its start; a
walk of a page whose entry was evicted leaves none when it finds no leaf, and one that waits for a die changes nothing (R249). -/
def evPageWalk (asid : BitVec 16) (gen : BitVec 20) (va : W64) (s : State) : State :=
  if !(walkLive s asid gen) || !(vaOk va) then s
  else
    let rest := fun (ts : List TlbEntry) => ts.filter fun t => !(t.covers asid gen va.toNat)
    let t := { s with mem := { s.mem with tlb1 := rest s.mem.tlb1, tlb := rest s.mem.tlb } }
    match s.walk asid va.toNat with
    | .leaf base bits e => t.installTlb ⟨asid, gen, base, bits, e⟩
    | .waits => s
    | .miss => t
    | .unresolvable => t

/-- The contexts and tasks that wait for a page of an address space: they become ready (R255). -/
def State.wakePage (s : State) (asid : BitVec 16) (page : Nat) : State :=
  let hit := fun (x : Saved) => x.ctx.asid == asid && x.why == .page page
  let ready := s.sched.saved.filter hit
  let s := { s with sched := { s.sched with saved := s.sched.saved.map fun x => if hit x then { x with why := .preempted } else x } }
  let s := ready.foldl (fun s x =>
    s.setTask x.ctx.lid x.ctx.ctl.lcore.toNat x.ctx.ctl.wid fun t => { t with st := .parked }) s
  let mine := fun (t : Task) => ((s.launchOf t.lid).map Launch.asid) == some asid && !t.started && t.st == .waitingPage page
  { s with sched := { s.sched with tasks := s.sched.tasks.map fun t => if mine t then { t with st := .queued } else t } }

/-- The number of contexts and tasks that wait for a page, at least one. -/
def pageWaiters (s : State) (asid : BitVec 16) (page : Nat) : Nat :=
  max 1 ((s.sched.saved.filter fun x => x.ctx.asid == asid && x.why == .page page).length +
    (s.sched.tasks.filter fun t =>
      ((s.launchOf t.lid).map Launch.asid) == some asid && !t.started && t.st == .waitingPage page).length)

/-- The host's answer to a page request (R255): the page is mapped, and what waits for it becomes ready; or it cannot be mapped, and the
fault of each that waits becomes unresolvable. -/
def answerPage (asid : BitVec 16) (page : W64) (mapped : Bool) (s : State) : State :=
  let p := page.toNat
  if !(s.mem.pageReqs.contains (asid, p)) then s
  else
    let refused := if mapped then s.mem.refused else s.mem.refused ++ List.replicate (pageWaiters s asid p) (asid, p)
    { s with mem := { s.mem with pageReqs := s.mem.pageReqs.filter fun r => r != (asid, p), refused := refused } }.wakePage asid p

/-- GENERATION_RAISE (R256): accesses translate under the new generation from here on; before it wraps, every entry of the
address space is removed. -/
def evGenerationRaise (asid : BitVec 16) (s : State) : State :=
  let g := s.mem.gen asid
  let keep := fun (ts : List TlbEntry) => if g == BitVec.allOnes 20 then ts.filter fun t => t.asid != asid else ts
  { s with mem := { s.mem with
      tlb1 := keep s.mem.tlb1
      tlb := keep s.mem.tlb
      asGen := setKey asid (g + 1) s.mem.asGen
      raises := s.mem.raises ++ [asid] } }

/-- Whether a context has accesses of an older generation, or elements pushed into a global sink, that have not performed: those of a
granule not yet complete among them, translated as they were pushed (R256). -/
def Ctx.oldAccesses (c : Ctx) (gen : BitVec 20) : Bool :=
  (c.eng.accs.any fun a => a.gen != gen && !a.performed) ||
    (c.eng.ports.toList.any fun p => chSpace p.chain == 1 && !(p.buf.isEmpty && p.keys.isEmpty)) ||
    (c.eng.started.any fun o => chSpace o.sa == 1 && !o.writes.isEmpty)

/-- GENERATION_RAISE_COMPLETION (R256): the host is told once every access of an older translation has performed. -/
def evGenerationRaiseCompletion (asid : BitVec 16) (s : State) : State :=
  let busy := fun (c : Ctx) => c.asid == asid && c.oldAccesses (s.mem.gen asid)
  if !(s.mem.raises.contains asid) || busy s.ctx || s.sched.saved.any (fun x => busy x.ctx) then s
  else { s with mem := { s.mem with raises := s.mem.raises.erase asid } }.tell (.generationRaised asid)

/-- REMOTE_LINE_EXPIRY (R252): a line is dropped, 50 µs after its fill at the latest. -/
def evRemoteLineExpiry (line : Nat) (s : State) : State := { s with mem := s.mem.dropRrc line }

/-! ### Writes of this core (R101, R102, R246, R357) -/

/-- The access at a place of the running context has performed, with the error status that its home answers. -/
def Ctx.markPerformed (c : Ctx) (i : Nat) (err : W64) : Ctx :=
  { c with eng := { c.eng with accs := modifyAt i (fun a => { a with performed := true, err := err }) c.eng.accs } }

/-- Source ports that see the old bytes of a write: bound before it in program order, in its class (R186, R259). -/
def seesOld (a : Access) (p : Port) : Bool := a.afterLoad p.owner p.bundle && chCls p.chain == a.cls

/-- Before a write to another package is sent, its line leaves the remote read cache, whatever becomes of the write (R252). -/
def State.sends (s : State) (a : Access) : State := if a.remote then { s with mem := s.mem.dropRrc (a.key / 128) } else s

/-- A store of the running context performs: in a write log, or at its home; one to a lost package writes nothing (R307). -/
def performStore (i : Nat) (s : State) : State :=
  match s.ctx.eng.accs[i]? with
  | none => s
  | some a =>
    match a.kind with
    | .store =>
      if a.performed || !(loadCanBind s a) then s
      else
        let t :=
          if inMerge s.ctx.hdr a.va.toNat then s.putLog (seesOld a) a.va.toNat a.data
          else if a.remote && s.pkgLost (keyPackage a.key) then s.sends a
          else s.putHome (seesOld a) a.key a.data
        { t with ctx := t.ctx.markPerformed i 0 }.accessPerforms a
    | .load => s
    | .atom _ _ _ _ _ => s

/-! ### Writes of other agents -/

/-- Whether a run of keys is memory: HBM, the populated CXL tier of a module that has accepted it, or another package's. -/
def isMemory (s : State) (key n : Nat) : Bool := inHbm key n || inCxl s.cxlBytes key n || isRemote key

/-- A write of another agent to global memory (R238, R246, R249, R252, R357). Whether this package sent a write to another package's
memory, and so drops its line of the remote read cache, is free (log entry 17). -/
def otherWrite (s : State) (key : Nat) (data : List Byte) : State :=
  if !(isMemory s key data.length) || (List.range data.length).any (fun i => s.homeWaits (key + i)) then s
  else s.homeWrite none (Config.free s.freeCtr (2 ^ 57) 1 == 1) noPort key data

/-- The HBM of a partition (R367, Table 23-4). -/
def partitionHbm (parts partn : Nat) : Nat × Nat := (partn * (hbmEnd / parts), hbmEnd / parts)

/-- Whether a seal keeps the management cores from a run of local memory (R364): a seal stays on the halves and dies of its partition as
they were under the mode in which the host set it, whatever mode follows (DESIGN CHOICE, log entry 112). -/
def State.sealsMemory (s : State) (key n : Nat) : Bool :=
  s.mgmt.sealed.any fun p =>
    let r := partitionHbm p.1 p.2.toNat
    meets key n r.1 r.2

/-- Whether a seal keeps the management cores from a die (R364). -/
def State.sealsDie (s : State) (die : Nat) : Bool := s.mgmt.sealed.any fun p => p.2.toNat == die / (8 / p.1)

/-- A write of another core's engine into the register space of this core, with the tag of its granules (R39, R277): records
of 272 bytes of a block format carry sidebands. -/
def otherReg (c : Ctx) (addr : Nat) (tag : BitVec 4) (data : List Byte) : Ctx :=
  let f := Fmt.ofCode tag
  if f.isBlk && data.length % 272 == 0 then
    (List.range (data.length / 272)).foldl (fun c i =>
      let r := sliceOf data (272 * i) 272
      let c := tagGranules (c.putReg (addr + 256 * i) ((r.take 256).map some)) tag [addr + 256 * i]
      { c with basin := c.basin.setSide (addr + 256 * i) (r.drop 256) }) c
  else tagGranules (c.putReg addr (data.map some)) tag (granulesOf [(true, addr, data.length)])

/-- A die stream that another core opens into this one (R285): its entries must be EMPTY and the slots inside the space. -/
def dieOpened (s : State) (d : DieStream) : State :=
  let es := (List.range d.count).map (· + d.entry)
  if slotsBad s d || es.any (fun e => (s.ctx.tile e).st != .empty) then s
  else
    { s with ctx := (List.range d.count).foldl (fun c k =>
        c.setTile (d.entry + k) ⟨d.rs, d.base + k * d.stride, d.size, .empty, 0, some (d.tag, k), false⟩) s.ctx }

/-- A die stream into this core closes: its entries are unbound (R285). -/
def dieClosed (c : Ctx) (tag : Nat) : Ctx :=
  { c with eng := { c.eng with tiles := c.eng.tiles.map fun t =>
      if (t.slot.map Prod.fst) == some tag then { t with slot := none } else t } }

/-- The credit of a slot returns to the producer (R244). -/
def creditSlot (e : Engines) (tag slot : Nat) : Engines :=
  { e with streams := e.streams.map fun d =>
      if d.tag == tag && slot < d.count && !(d.credits.contains slot) then { d with credits := d.credits ++ [slot] } else d }

/-- The entries that an instruction of this context holds FILLING. -/
def Ctx.heldEntries (c : Ctx) : List Nat := c.eng.undone.flatMap EngOp.held ++ c.eng.withdrawn.flatMap Withdrawn.held

/-- Whether an entry is FILLING for another core's engine (R243). -/
def Ctx.awayFills (c : Ctx) (e : Nat) : Bool :=
  (c.tile e).st == .filling && !(c.tile e).orphan && !(c.heldEntries.contains e)

/-- A write of another core's engine into the basin of this context, inside its space and, under tile entries, while they are FILLING for
such a write (R243, R265, R275). -/
def awayInto (reg : Bool) (addr n : Nat) (f : Ctx → Ctx) (s : State) : State :=
  let size := if reg then s.ctx.regSize else s.ctx.spSize
  if size < addr + n || !((s.ctx.tilesOver [(reg, addr, n)]).all s.ctx.awayFills) then s else { s with ctx := f s.ctx }

/-- Another core's engine write starts: its entries, EMPTY, are FILLING (R243). -/
def awayFill (es : List Nat) (s : State) : State :=
  if es.any fun e => (s.ctx.tile e).st != .empty then s
  else { s with ctx := es.foldl (fun c e => c.setTileState e .filling) s.ctx }

/-- Another core's engine write is complete: its entries are READY (R243, R265). -/
def awayReady (es : List Nat) (s : State) : State := if es.all s.ctx.awayFills then s.tilesReady es else s

/-- WRITE_AT_HOME (R246, R260, R275, R364). -/
def evWriteAtHome (wr : HomeWrite) (s : State) : State :=
  match wr with
  | .own idx => s.atIndex (fun c => c.eng.accs.length) idx performStore
  | .memory key data => otherWrite s key data
  | .cistern addr data => if 2 ^ 28 < addr + data.length then s else s.putCistern addr data
  | .scratchpad lid lcore addr data =>
    s.withHolder (drainHolder s lid lcore.toNat) (awayInto false addr data.length fun c => c.putSpad addr (data.map some))
  | .regspace lid lcore addr tag data =>
    s.withHolder (drainHolder s lid lcore.toNat) (awayInto true addr data.length fun c => otherReg c addr tag data)
  | .tilesFill lid lcore es => s.withHolder (drainHolder s lid lcore.toNat) (awayFill es)
  | .tilesReady lid lcore es => s.withHolder (drainHolder s lid lcore.toNat) (awayReady es)
  | .streamOpen lid lcore tag rs base stride size count entry =>
    s.withHolder (drainHolder s lid lcore.toNat) fun s => dieOpened s ⟨tag, lcore, rs, base, stride, size, count, entry, [], 0⟩
  | .streamClose lid lcore tag => s.atHolder (drainHolder s lid lcore.toNat) fun c => dieClosed c tag
  | .streamCredit lid lcore tag slot =>
    s.atHolder (drainHolder s lid lcore.toNat) fun c => { c with eng := creditSlot c.eng tag slot }
  | .management key data => if s.sealsMemory key data.length then s else otherWrite s key data
  | .managementBasin addr data =>
    if s.sealsDie ownDie || s.ctx.spSize < addr + data.length then s else { s with ctx := s.ctx.putSpad addr (data.map some) }

/-! ### Atomics and reductions at their home (R250, R257, R267, R294) -/

/-- Whether the combining switches take an access as an fp32 addition (R257): by its page and its place in the window. -/
def Access.adds (a : Access) (s : State) : Bool :=
  match a.kind with
  | .atom op ty _ _ _ => op == 0 && ty == 2 && a.rwin && inWindow s a.key a.size
  | .load => false
  | .store => false

/-- The operand of an atomic. -/
def Access.operand (a : Access) : Nat :=
  match a.kind with
  | .atom _ _ x _ _ => x.toNat
  | .load => 0
  | .store => 0

/-- The sum of two fp32 codes, rounded once to nearest (R257). -/
def addFp32 (x y : Nat) : Nat := (elemAdd .fp32 .rne x y).1

/-- A merged fp32 addition in the switches (R257): its sum, and the accesses of this core in it, each with the sum of what comes before
it in the grouping. -/
structure Merged where
  sum : Nat
  outs : List (Nat × Option Nat)
  deriving DecidableEq, Repr

/-- Two merged additions become one. -/
def Merged.join (x y : Merged) : Merged :=
  ⟨addFp32 x.sum y.sum, x.outs ++ y.outs.map fun o => (o.1, some ((o.2.map (addFp32 x.sum)).getD x.sum))⟩

/-- Additions merged until one is left, the two of each step chosen freely: any grouping (R257). -/
def mergeAll (ctr : Nat) : (fuel : Nat) → List Merged → Option Merged
  | 0, xs => xs.head?
  | n + 1, xs =>
    match xs with
    | [] => none
    | [x] => some x
    | x :: y :: rest =>
      let i := Config.freeNat ctr (2 ^ 58 + 2 * n) % (rest.length + 2)
      let a := xs.getD i x
      let ys := xs.eraseIdx i
      let j := Config.freeNat ctr (2 ^ 58 + 2 * n + 1) % (rest.length + 1)
      mergeAll ctr n (a.join (ys.getD j y) :: ys.eraseIdx j)

/-- The word that an atomic reads at its home. -/
def atomOld (s : State) (a : Access) : Nat := ofLe (s.mem.homeBytes a.key a.size)

/-- An atomic has performed: a value returns to the instruction that waits for one, and the access keeps the error status (R267, R294). -/
def answerAtom (s : State) (i v : Nat) (err : W64) : State :=
  match s.ctx.eng.accs[i]? with
  | none => s
  | some a =>
    let t := { s with ctx := s.ctx.markPerformed i err }.accessPerforms a
    match a.kind with
    | .atom _ _ _ _ true => { t with ctx := t.ctx.setSb a.id (.value (BitVec.ofNat 64 v) 0) }
    | _ => t

/-- The accesses of this core that the switches merge with the one at place `i` (R257): any of its fp32 additions to the same word that
can perform with it, in their class order. -/
def mergedWith (s : State) (i : Nat) (a : Access) : List Nat :=
  ((List.range s.ctx.eng.accs.length).foldl (fun (acc : State × List Nat) j =>
    match s.ctx.eng.accs[j]? with
    | none => acc
    | some b =>
      let may := Config.free s.freeCtr (2 ^ 59 + j) 1 == 1 && b.adds s && b.key == a.key && !b.performed &&
        !(s.ctx.eng.queued b.id) && loadCanBind acc.1 b
      if j == i || may then ({ acc.1 with ctx := acc.1.ctx.markPerformed j 0 }, acc.2 ++ [j]) else acc) (s, [])).2

/-- An fp32 addition to the window performs with what it is merged with (R257): additions of this core, and any of other cores (log entry
17). -/
def applyMerged (s : State) (i : Nat) (a : Access) : State :=
  let js := mergedWith s i a
  let own := js.filterMap fun j => (s.ctx.eng.accs[j]?).map fun b => (⟨b.operand, [(j, none)]⟩ : Merged)
  let away := (List.range (Config.freeNat s.freeCtr (2 ^ 22))).map fun k =>
    (⟨(Config.free s.freeCtr (2 ^ 61 + k) 32).toNat, []⟩ : Merged)
  match mergeAll s.freeCtr (own.length + away.length) (own ++ away) with
  | none => s
  | some m =>
    let old := atomOld s a
    let must := fun (p : Port) => js.any fun j => ((s.ctx.eng.accs[j]?).map fun b => seesOld b p).getD false
    let t := s.putHome must a.key (leBytes a.size (addFp32 old m.sum))
    m.outs.foldl (fun t o => answerAtom t o.1 ((o.2.map (addFp32 old)).getD old) 0) t

/-- An atomic applied alone (R267): one that writes nothing performs as a read. -/
def applyAtom (s : State) (i : Nat) (a : Access) (op ty : Nat) (x cmp : W64) : State :=
  let old := atomOld s a
  let t := match atomValue op ty (8 * a.size) old x.toNat cmp.toNat with
    | none => s
    | some v => s.putHome (seesOld a) a.key (leBytes a.size v)
  answerAtom t i old 0

/-- The error status of an atomic that its home cannot serve (R250, R294, R307): MEM_UNCORR of one that returns a value, none of a
reduction; that of a refusal by a lost package is free. -/
def atomError (s : State) (a : Access) (returns : Bool) : W64 :=
  if a.remote && s.pkgLost (keyPackage a.key) && Config.free s.freeCtr (2 ^ 23) 1 == 1 then openSide s 6
  else if returns then statusOf 3 0 0
  else 0

/-- The access of an engine instruction of the running context performs as an atomic, once it has started (R237, R267). Old data that
is uncorrectable stays as it stands, and an atomic that returns it takes MEM_UNCORR, deferred (R250, R294). -/
def performAtom (uncorrectable : Bool) (i : Nat) (s : State) : State :=
  match s.ctx.eng.accs[i]? with
  | none => s
  | some a =>
    match a.kind with
    | .atom op ty x cmp returns =>
      if a.performed || s.ctx.eng.queued a.id || !(loadCanBind s a) then s
      else if uncorrectable || s.mem.poisoned a.key a.size || (a.remote && s.pkgLost (keyPackage a.key)) then
        let t := if uncorrectable then (s.sends a).spoil a.key a.size else s.sends a
        let t := answerAtom t i (Config.free s.freeCtr (2 ^ 21) 64).toNat (atomError s a returns)
        if returns then { t with ctx := t.ctx.defer 0x0C a.va } else t
      else if a.adds s then applyMerged s i a
      else applyAtom (s.sends a) i a op ty x cmp
    | .load => s
    | .store => s

/-- ATOM_AT_HOME (R267): an atomic of the running context or of a saved one, by its place. -/
def evAtomAtHome (idx : Nat) (uncorrectable : Bool) (s : State) : State :=
  s.atIndex (fun c => c.eng.accs.length) idx (performAtom uncorrectable)

/-! ### Acknowledgements (R236, R266) -/

/-- A performed write of the running context is acknowledged. -/
def acknowledge (i : Nat) (s : State) : State :=
  match s.ctx.eng.accs[i]? with
  | none => s
  | some a =>
    if !a.performed then s
    else
      let s := { s with ctx := { s.ctx with eng := { s.ctx.eng with accs := s.ctx.eng.accs.eraseIdx i } } }
      match a.kind with
      | .store => s
      | .load => s
      | .atom _ _ _ _ _ =>
        match s.ctx.eng.started.find? fun o => o.id == a.id with
        | none => s
        | some o => complete s o a.err none

/-- ACKNOWLEDGEMENT (R266). -/
def evAcknowledgement (idx : Nat) (s : State) : State := s.atIndex (fun c => c.eng.accs.length) idx acknowledge

/-! ### Housekeeping of memories -/

/-- DIE_RETURN_FROM_RESET (R249, R361): once the module is up, the halves that the die serves answer again, and what waited for them can
perform, each class in its order. The die's own SRAM holds nothing. -/
def evDieReturnFromReset (die : BitVec 3) (s : State) : State :=
  if s.mgmt.boot != .up || !(s.mem.heldReset.getLsbD die.toNat) then s
  else
    { s with mem := { s.mem with
        heldReset := s.mem.heldReset &&& ~~~ (1#8 <<< die.toNat)
        dieLines := s.mem.dieLines.filter fun l => l.1 != die.toNat
        tlb1 := if die == Config.die then [] else s.mem.tlb1
        tlb := if die == Config.die then [] else s.mem.tlb } }

/-- REDUCTION_WINDOW_SET (R250, R257, R364, R366): refused unless it is aligned, lies in HBM and the feature is accepted. -/
def evReductionWindowSet (base len : W64) (s : State) : State :=
  let ok := s.mgmt.accepted 3 && base.toNat % 65536 == 0 && len.toNat % 65536 == 0 && inHbm base.toNat len.toNat
  (if ok then { s with mem := { s.mem with rwinBase := base.toNat, rwinLen := len.toNat } } else s).tell
    (.managed "reduction window" base ok)

/-- A soft error of a block counted, and the event that it reports past its threshold (R370). -/
def State.countError (s : State) (b : SramBlock) (place : Nat) : State :=
  let n := (lookupKey (b, place) s.mgmt.errors).getD 0 + 1
  let s := { s with mgmt := { s.mgmt with errors := setKey (b, place) n s.mgmt.errors } }
  if Config.softErrorThreshold s.freeCtr < n then s.tell (.softErrors b place n) else s

/-- The bytes of the 64-bit word that holds an address. -/
def wordOf (a : Nat) : List Nat := (List.range 8).map fun i => a / 8 * 8 + i

/-- The bytes of a word of memory fail their check from now on. -/
def State.poisonWord (s : State) (key : Nat) : State :=
  { s with mem := { s.mem with poison := (wordOf key).foldl (fun acc k => insertNat k acc) s.mem.poison } }

/-- A double-bit error by what the block holds (R370): task data fails its check from now on; a copy is dropped. An address of the CXL
tier is poison of its module (R250). Place 0 is the block of the modelled core or of its die; a basin or TLB elsewhere is not seen here, and a die cache belongs to the die that many after its own. -/
def doubleError (s : State) (b : SramBlock) (place addr : Nat) : State :=
  match b with
  | .basin =>
    if place != 0 then s
    else { s with ctx := { s.ctx with basin := { s.ctx.basin with
        bad := (wordOf addr).foldl (fun acc k => insertNat k acc) s.ctx.basin.bad } } }
  | .cistern => s.poisonWord (cisternKey addr)
  | .hbm => if isMemory s addr 1 && !(isRemote addr) then s.poisonWord addr else s
  | .dieCache =>
    let die := (Config.die.toNat + place) % 8
    { s with mem := { s.mem with dieLines := s.mem.dieLines.filter fun l => l != (die, addr / 128) } }
  | .remoteReadCache => { s with mem := s.mem.dropRrc (addr / 128) }
  | .tlb =>
    if place != 0 then s
    else
      let n := s.mem.tlb1.length
      { s with mem := { s.mem with tlb1 := s.mem.tlb1.eraseIdx addr, tlb := if addr < n then s.mem.tlb else s.mem.tlb.eraseIdx (addr - n) } }
  | .recordStore => s

/-- SRAM_ERROR (R370): a single-bit error is corrected and counted. -/
def evSramError (block : SramBlock) (place addr : Nat) (double : Bool) (s : State) : State :=
  if double then doubleError s block place addr else s.countError block place

/-- BACKGROUND_SCRUB (R370): a word is read and corrected; it holds what it held. -/
def evBackgroundScrub (_block : SramBlock) (_addr : Nat) (s : State) : State := s

end Sys2Proof.Machine
end

