-- ==== Sys2Proof/Machine/EventsFabric.lean ====
section
/-! DEFINITION. Events of the fabric: drains, collectives, lost endpoints, flits, boards, exchange rounds, time, links (R214,
R295 to R329, R371). -/

namespace Sys2Proof.Machine

open Sys2Proof

/-! ### Whose message it is -/

/-- Whether a logical core of a package is one whose task this core holds: its messages come from this core's own
instructions. -/
def isOwnCore (s : State) (pkg : BitVec 19) (lcore : BitVec 9) : Bool :=
  pkg == Config.packageId &&
    ((s.mode != .idle && s.ctx.ctl.lcore == lcore.setWidth 64) ||
      s.sched.saved.any fun x => x.ctx.ctl.lcore == lcore.setWidth 64)

/-! ### Drains and collectives (R214, R312 to R318) -/

/-- PEER_DRAIN_ARRIVAL (R214, R232): a drain of 4,096 values from another core, for a logical core. -/
def evPeerDrainArrival (pkg : BitVec 19) (lcore dst : BitVec 9) (wid : W64) (seq : Nat) (dacc : BitVec 5) (h : W64)
    (data : List (BitVec 32)) (s : State) : State :=
  if isOwnCore s pkg lcore || data.length != 4096 then s
  else if 351 < dst.toNat then s.send (.drainAnswer pkg lcore false)
  else
    match drainAt s (pkg, lcore, wid) dst seq dacc h data with
    | none => s
    | some (t, ok) => t.send (.drainAnswer pkg lcore ok)

/-- COLLECTIVE_CHUNK (R314). -/
def evCollectiveChunk (idx : Nat) (arrival : Option (BitVec 256 × List (BitVec 8) × Bool)) (s : State) : State :=
  collectiveStep s idx arrival

/-- COLLECTIVE_FIRING_END (R318). -/
def evCollectiveFiringEnd (idx : Nat) (s : State) : State := firingEnd s idx

/-! ### Lost endpoints (R307, R319, R324) -/

/-- Whether an element of a copy lies at a package: in a basin of it, or in global memory whose home it is. -/
def elemLies (s : State) (pkg : BitVec 19) (o : EngOp) (base : W64) (off : Nat → W64) (n : Nat) : Bool :=
  match caSpace base with
  | 4 => caPkg base == pkg
  | 0 => [0, tmEsize o.tmpl - 1].any fun i =>
    match translate s ((caAddr base + off n).toNat + i) .read with
    | .ok key _ => isRemote key && keyPackage key == pkg
    | _ => false
  | _ => false

/-- The first element of a copy at a lost package, with the side that was lost: its REFUSED status (R281, R307). -/
def lostElem (s : State) (pkg : BitVec 19) (o : EngOp) : Option (Nat × Nat × Nat) :=
  (List.range (tmElems o.tmpl)).findSome? fun n =>
    if elemLies s pkg o o.sa (srcOff o) n then some (6, 0, n)
    else if elemLies s pkg o o.sb (dstOff o) n then some (6, 1, n)
    else none

/-- A started instruction of the context at hand when a package is lost (R307): a copy ends; a reduction ends at its first element there,
once those before it are applied (R282). -/
def cutOp (pkg : BitVec 19) (s : State) (o : EngOp) : State :=
  match lostElem s pkg o with
  | none => s
  | some x =>
    match o.instr with
    | .copy _ _ _ _ => copyFail s o x
    | .gath _ _ _ _ => copyFail s o x
    | .copyRed _ _ _ _ => keepStarted s { o with status := statusOf 6 x.2.1 x.2.2 }
    | _ => s

/-- A LOAD over global memory that is under way when a package is lost may have reads outstanding to it (R307). -/
def Ctx.loseLoads (c : Ctx) (live : Bool) (pkg : BitVec 19) : Ctx :=
  let away := fun (p : Port) => p.st == .source && chSpace p.chain == 1 && p.tmpl.isSome && !(c.loadWaits live p) && !(c.eng.heldAt p.owner)
  { c with eng := { c.eng with ports := c.eng.ports.map fun p => if away p then { p with lost := pkg :: p.lost } else p } }

/-- The started copies of the context at hand that a lost package cuts off. -/
def cutCopies (pkg : BitVec 19) (s : State) : State := s.ctx.eng.started.foldl (cutOp pkg) s

/-- Whether a TLB entry maps a page of a package. -/
def TlbEntry.mapsPackage (t : TlbEntry) (pkg : BitVec 19) : Bool := pteSys t.leaf == 1 && ptePkg t.leaf == pkg

/-- ENDPOINT_LOST (R307): what is outstanding to a lost package completes as a refusal; its pages leave the TLBs; its boards
are reported lost (R324), and its collectives end (R319). -/
def evEndpointLost (ep : BitVec 20) (s : State) : State :=
  let pkg := ep.setWidth 19
  if s.fab.lost.contains ep then s
  else if ep.getLsbD 19 || pkg == Config.packageId then { s with fab := { s.fab with lost := ep :: s.fab.lost } }
  else
    let s := cutCopies pkg s
    let s := (List.range s.sched.saved.length).foldl (fun s k => s.onSaved k (cutCopies pkg)) s
    let s := { s with
      ctx := s.ctx.loseLoads s.pushing pkg
      fab := { s.fab with lost := ep :: s.fab.lost }
      mem := { s.mem with
        tlb1 := s.mem.tlb1.filter fun t => !(t.mapsPackage pkg)
        tlb := s.mem.tlb.filter fun t => !(t.mapsPackage pkg) } }
    let s := (s.fab.boards.filter fun b => b.home == pkg).foldl (fun s b => s.tell (.boardLost b.handle)) s
    loseMembers s pkg

/-! ### Flits and links (R303 to R307, R371) -/

/-- The links of a package (R1, R6): 32 Worzar ports, the mortar link of each of 8 ashlar dies to the keystone die, and the 8 of their
ring. -/
def linkCount : Nat := 48

/-- The lanes of a link that has lost none: 8 of a Worzar port (R303). -/
def fullLanes (n : Nat) : Nat := if n < 32 then 8 else Config.mortarLanes

/-- The link of a number, at rest unless something has happened to it. -/
def State.linkAt (s : State) (n : Nat) : Link := (lookupKey n s.fab.links).getD ⟨fullLanes n, none, []⟩

/-- A link replaced. -/
def State.setLink (s : State) (n : Nat) (l : Link) : State := { s with fab := { s.fab with links := setKey n l s.fab.links } }

/-- A retrain request in its place among those that wait: arrival order, and of two of one time the width first (R371). -/
def insertRetrain (x : RetrainKind × W64) : List (RetrainKind × W64) → List (RetrainKind × W64)
  | [] => [x]
  | y :: ys => if x.1 == .width && y == (.frequency, x.2) then x :: y :: ys else y :: insertRetrain x ys

/-- A retrain asked of a link at a time (R371): it starts at once on a link at rest, and a frequency change asked at the same time gives
way to a width change. -/
def Link.ask (l : Link) (kind : RetrainKind) (now : W64) : Link :=
  match l.active with
  | none => { l with active := some (kind, now) }
  | some x =>
    if kind == .width && x == (.frequency, now) then { l with active := some (kind, now), queue := x :: l.queue }
    else { l with queue := insertRetrain (kind, now) l.queue }

/-- A retrain asked of a link of the package. -/
def State.askRetrain (s : State) (n : Nat) (kind : RetrainKind) : State :=
  if n < linkCount then s.setLink n ((s.linkAt n).ask kind s.fab.time) else s

/-- VC of a flit header (Table 20-1). -/
def flitVc (h : BitVec 128) : Nat := (h.extractLsb' 85 3).toNat
/-- KIND of a flit header. -/
def flitKind (h : BitVec 128) : Nat := (h.extractLsb' 72 8).toNat

/-- Whether a receiver drops a flit (R305): a nonzero reserved bit, a VC of 5 to 7, or a KIND that its VC does not define. -/
def flitDropped (h : BitVec 128) : Bool :=
  h.extractLsb' 80 5 != 0 || h.extractLsb' 56 6 != 0 || h.extractLsb' 0 31 != 0 || 5 ≤ flitVc h ||
    !(Config.kindDefined (flitVc h) (flitKind h))

/-- SEQ of a flit header. -/
def flitSeq (h : BitVec 128) : BitVec 16 := h.extractLsb' 40 16
/-- LEN of a flit header. -/
def flitLen (h : BitVec 128) : Nat := (h.extractLsb' 31 9).toNat
/-- The flow of a flit at this package: its source and virtual channel (R306). -/
def flitFlow (h : BitVec 128) : BitVec 20 × Nat := (h.extractLsb' 88 20, flitVc h)

/-- Whether a flit is the next of its flow (R306); the first of a flow may carry any number. -/
def State.flitNext (s : State) (h : BitVec 128) : Bool := ((lookupKey (flitFlow h) s.fab.inSeq).map fun n => n == flitSeq h).getD true

/-- FLIT_RECEIVE (R303, R305 to R307): a flit that fails its CRC is sent again; the next of its flow, of 1 to 256 bytes, is dropped and
counted when malformed, and else reaches its agent, which takes the step that the message stands for. While a link retrains, flits
wait (R371). -/
def evFlitReceive (port : BitVec 5) (crcValid : Bool) (hdr : BitVec 128) (payload : List (BitVec 8)) (s : State) : State :=
  let n := payload.length
  if !crcValid || (s.linkAt port.toNat).active.isSome || n == 0 || 256 < n || flitLen hdr != n || !(s.flitNext hdr) then s
  else
    let s := { s with fab := { s.fab with inSeq := setKey (flitFlow hdr) (flitSeq hdr + 1) s.fab.inSeq } }
    if flitDropped hdr then
      let n := (lookupKey port.toNat s.fab.portErrors).getD 0 + 1
      { s with fab := { s.fab with portErrors := setKey port.toNat n s.fab.portErrors } }
    else { s with fab := { s.fab with received := s.fab.received ++ [(hdr, payload)] } }

/-- LANE_FAILURE (R307, R371): a lane that keeps failing is removed, and the link retrains to its new width. -/
def evLaneFailure (port : BitVec 5) (s : State) : State :=
  let l := s.linkAt port.toNat
  (s.setLink port.toNat { l with lanes := l.lanes - 1 }).askRetrain port.toNat .width

/-- LINK_RETRAIN (R371): a request starts at once on a link at rest, else waits in arrival order. -/
def evLinkRetrain (link : Nat) (kind : RetrainKind) (s : State) : State := s.askRetrain link kind

/-- LINK_RETRAIN_DONE (R371): the next request starts. -/
def evLinkRetrainDone (link : Nat) (s : State) : State :=
  let l := s.linkAt link
  if l.active.isNone then s else s.setLink link { l with active := l.queue.head?, queue := l.queue.drop 1 }

/-- TIME_MESSAGE (R308, R309): the keystone's time follows the master's, and readings never decrease. -/
def evTimeMessage (now : W64) (s : State) : State :=
  if s.fab.time < now then { s with fab := { s.fab with time := now } } else s

/-! ### Boards (R295 to R297, R322) -/

/-- A post or read of another core, answered by this package when it is the home (R296, R297). -/
def State.answerOther (s : State) (h : W64) (pkg : BitVec 19) (lcore : BitVec 9) (r : BoardAnswer) : State :=
  if s.fab.boards.any fun b => b.handle == h && b.home == Config.packageId then
    s.send (.boardAnswer pkg lcore r.word r.view r.fault)
  else s

/-- BOARD_POST_AT_HOME (R296): of a started PAV of this core, or of another core. -/
def evBoardPostAtHome (who : Caller) (board : W64) (level : BitVec 32) (value : W64) (s : State) : State :=
  match who with
  | .own idx => onStarted s idx fun _ => ownPost
  | .other pkg lcore =>
    if isOwnCore s pkg lcore then s
    else
      let r := s.postBoard board pkg lcore level value
      r.1.answerOther board pkg lcore r.2

/-- BOARD_READ_AT_HOME (R297): of a started BRD.RD or BRD.LV of this core, or of another core. -/
def evBoardReadAtHome (who : Caller) (board : W64) (slot : Option W64) (s : State) : State :=
  match who with
  | .own idx => onStarted s idx fun _ => ownRead
  | .other pkg lcore =>
    if isOwnCore s pkg lcore then s else s.answerOther board pkg lcore (s.readBoard board pkg lcore slot)

/-- Whether a handle is in use for a board or a group. -/
def handleTaken (s : State) (h : W64) : Bool := (s.fab.boards.any fun b => b.handle == h) || (s.groupOf h).isSome

/-- BOARD_CREATE (R322): at level 0, with an empty view of the level before; at most 4,096 in a package. -/
def evBoardCreate (handle : W64) (home : BitVec 19) (slots : Nat) (s : State) : State :=
  let ok := !(handleTaken s handle) && 0 < slots && slots ≤ 1024 &&
    (s.fab.boards.filter fun b => b.home == home).length < 4096
  (if ok then { s with fab := { s.fab with boards := s.fab.boards ++ [⟨handle, home, slots, [], 0, [], []⟩] } } else s).tell
    (.managed "board" handle ok)

/-- REGISTER_PARTICIPANT (R295): a slot of a board or a member index of a group, each for one participant. -/
def evRegisterParticipant (handle : W64) (pkg : BitVec 19) (lcore : BitVec 9) (index : Nat) (s : State) : State :=
  let free := fun (ps : List (Nat × BitVec 19 × BitVec 9)) =>
    !(ps.any fun p => p.1 == index || (p.2.1 == pkg && p.2.2 == lcore))
  match s.fab.boards.find? fun b => b.handle == handle with
  | some b =>
    let ok := index < b.slots && free b.parts
    (if ok then s.setBoard { b with parts := b.parts ++ [(index, pkg, lcore)] } else s).tell (.managed "participant" handle ok)
  | none =>
    match s.groupOf handle with
    | some g =>
      let ok := index < g.size && free g.members
      (if ok then s.setGroup { g with members := g.members ++ [(index, pkg, lcore)] } else s).tell
        (.managed "participant" handle ok)
    | none => s.tell (.managed "participant" handle false)

/-! ### Exchange groups (R298 to R302, R325 to R329) -/

/-- Whether every calendared round of a group has reached its members of this package. -/
def Group.delivered (g : Group) : Bool :=
  g.rounds.all fun r => r.cal.isNone || g.members.all fun m => m.2.1 != Config.packageId || r.holders.contains m.1

/-- GROUP_CREATE (R325, R326): two arbiters on different packages, at most 256 members; for a group whose primary is lost,
management names a new standby, and the old one is the primary for later rounds. -/
def evGroupCreate (handle : W64) (primary standby : BitVec 19) (size : Nat) (s : State) : State :=
  match s.groupOf handle with
  | some g =>
    let ok := s.pkgLost g.primary && g.standby == primary && primary != standby && g.delivered
    (if ok then s.setGroup { g with primary := primary, standby := standby } else s).tell (.managed "group" handle ok)
  | none =>
    let ok := !(handleTaken s handle) && 0 < size && size ≤ 256 && primary != standby
    (if ok then { s with fab := { s.fab with groups := s.fab.groups ++ [⟨handle, primary, standby, size, [], [], [], 0⟩] } }
     else s).tell (.managed "group" handle ok)

/-- DEMAND_ROW_AT_ARBITER (R325): of a started DPOST of this core, or of another core. -/
def evDemandRowAtArbiter (who : Caller) (group : W64) (block : BitVec 8704) (stamp : W64) (s : State) : State :=
  match who with
  | .own idx => onStarted s idx fun _ => ownRow
  | .other pkg lcore =>
    if isOwnCore s pkg lcore then s
    else
      let r := s.postRow group pkg lcore block stamp.toNat
        (if pkg == Config.packageId then some (memberAsid s lcore.toNat) else none)
      r.1.send (.rowAnswer pkg lcore (BitVec.ofNat 64 r.2))

/-- DELIVERED_NOTICE (R326). -/
def evDeliveredNotice (group : W64) (round : BitVec 32) (s : State) : State := noticeAt s group round

/-- STANDBY_TIMEOUT (R326). -/
def evStandbyTimeout (group : W64) (round : BitVec 32) (s : State) : State := standbyAt s group round

/-- CALENDAR_AT_MEMBER (R326). -/
def evCalendarAtMember (group : W64) (round : BitVec 32) (fromStandby : Bool) (s : State) : State :=
  calendarAt s group round fromStandby

/-- PHASE_START (R301): the next send entry of a started CAL.GO. -/
def evPhaseStart (idx : Nat) (s : State) : State :=
  onStarted s idx fun _ s o =>
    match o.instr with
    | .calGo _ _ _ _ => phaseRun s o
    | _ => s

/-- Whether a member of a group is a core of this package. -/
def State.memberHere (s : State) (group : W64) (m : Nat) : Bool := ((s.groupOf group).map fun g => g.memberHere m).getD false

/-- EXCHANGE_DATA_FLIT (R302). -/
def evExchangeDataFlit (group : W64) (round : BitVec 32) (src dst off : Nat) (data : List (BitVec 8)) (phase : BitVec 10)
    (s : State) : State :=
  if s.memberHere group dst then dataFlit s group round src dst off data phase.toNat else s

/-- CLOSING_FLIT (R301, R302). -/
def evClosingFlit (group : W64) (round : BitVec 32) (src dst bytes : Nat) (phase : BitVec 10) (s : State) : State :=
  if s.memberHere group dst then closingAt s group round src dst bytes phase.toNat else s

/-- ROUND_CANCEL (R329). -/
def evRoundCancel (group : W64) (round : BitVec 32) (s : State) : State := cancelRound s group round

end Sys2Proof.Machine
end

