-- ==== Sys2Proof/Machine/EventsLaunch.lean ====
section
/-! DEFINITION. Events of launches: launch messages and their checks, completion and the final merge, record messages, launch
graphs (R33, R340 to R351, R356 to R360). -/

namespace Sys2Proof.Machine

open Sys2Proof

/-! ### The checks of a launch header (Table 22-2) -/

/-- The reserved bit ranges of a launch header (Table 22-1): lowest bit and width. -/
def hdrReserved : List (Nat × Nat) :=
  [(618, 22), (350, 34), (280, 40), (249, 7), (185, 7), (107, 1), (62, 2), (60, 1), (41, 7)]

/-- Base and length of merge region m. -/
def hdrMerge (h : BitVec 2048) (m : Nat) : Nat × Nat := (hdrBits h (1024 + 128 * m) 64, hdrBits h (1088 + 128 * m) 64)

/-- Code 1: a reserved bit, a field outside its range, or a feature that is not accepted (R341, R366). -/
def badFields (m : Mgmt) (h : BitVec 2048) : Bool :=
  (hdrReserved.any fun r => hdrBits h r.1 r.2 != 0) ||
    hdrGrid h == 0 || 352 < hdrGrid h || 23 < hdrPrio h || hdrNfield h == 0 || 6 < hdrNfield h ||
    hdrNfield h < hdrPlace h || hdrCodeLen h == 0 || hdrCodeLen h ≤ hdrEntry h || hdrBits h 128 57 % 256 != 0 ||
    hdrBits h 340 5 < 12 || 14 < hdrBits h 340 5 || hdrNfield h < hdrEndLvl h || hdrEndImg h % 64 != 0 ||
    (!(hdrEnd h) && (hdrEndImg h != 0 || hdrEndLvl h != 0)) || ((List.range 6).any fun f => 64 < hdrWidth h f) ||
    ((List.range 8).any fun i => 2 ^ 57 ≤ (hdrMerge h i).1) || (hdrDet h && !(m.accepted 0)) || (hdrStage h && !(m.accepted 1))

/-- Code 2: the partition word breaks R33, or an image does not fit. -/
def badPartition (h : BitVec 2048) : Bool :=
  let reg := hdrPartw h % 256
  let acc := hdrPartw h / 256 % 256
  let hash := hdrPartw h / 65536
  reg == 0 || 16 < reg || 8 < acc || 64 < reg + acc + hash || (64 - reg - acc - hash) * 65536 < hdrSpadLen h * 256 ||
    reg * 65536 < hdrRegLen h * 256

/-- Code 3: widths and extents. -/
def badWidths (h : BitVec 2048) : Bool :=
  let used := List.range (hdrNfield h)
  (used.any fun f => hdrWidth h f == 0 || 2 ^ hdrWidth h f ≤ hdrExtm1 h f) ||
    64 < used.foldl (fun acc f => acc + hdrWidth h f) 0 ||
    (List.range 6).any fun f => hdrNfield h ≤ f && (hdrWidth h f != 0 || hdrExtm1 h f != 0)

/-- Code 4: merge regions. -/
def badRegions (h : BitVec 2048) : Bool :=
  let rs := mergeRegions h
  (!(hdrDet h) && !rs.isEmpty) || (rs.any fun r => r.1 % 8 != 0 || r.2 % 8 != 0) ||
    rs.zipIdx.any fun a => rs.zipIdx.any fun b => a.2 < b.2 && meets a.1.1 a.1.2 b.1.1 b.1.2

/-- Code 5: the partition and its logical cores. -/
def badGrid (parts : Nat) (h : BitVec 2048) : Bool := parts ≤ hdrPartn h || 44 * (8 / parts) < hdrGrid h

/-- Code 6: the queue holds 64 launches that have not completed. -/
def queueFullFor (s : State) (h : BitVec 2048) : Bool :=
  64 ≤ (s.sched.launches.filter fun l => !l.done && hdrPartn l.hdr == hdrPartn h && hdrQueue l.hdr == hdrQueue h).length

/-- The END image of a header, when it has one: its bytes as an image, or what reading it meets (R350). -/
def endImage (s : State) (asid : BitVec 16) (h : BitVec 2048) : ImageRes :=
  if hdrEnd h then readImageAt s asid (hdrEndImg h) 64 else .bytes []

/-- Whether code 1 applies to the END image: a nonzero byte in bytes 63:56, or an image that cannot be read. -/
def badImage (r : ImageRes) : Bool :=
  match r with
  | .bytes bs => (bs.drop 56).any fun b => b != 0
  | .bad _ _ => true
  | .miss _ => false
  | .waits => false

/-- The code of Table 22-2 with which a launch with an END image is rejected, the first that applies; 0 for a launch that passes (R341). -/
def rejectWith (s : State) (img : ImageRes) (h : BitVec 2048) : Nat :=
  if badFields s.mgmt h || badImage img then 1
  else if badPartition h then 2
  else if badWidths h then 3
  else if badRegions h then 4
  else if badGrid s.mgmt.parts h then 5
  else if queueFullFor s h then 6
  else 0

/-- The code with which a launch is rejected whose END image is read now. -/
def rejectCode (s : State) (asid : BitVec 16) (h : BitVec 2048) : Nat := rejectWith s (endImage s asid h) h

/-! ### Acceptance (R342, R343, R350, R357) -/

/-- The tasks of a launch, rising by work id. -/
def launchTasks (lid : BitVec 32) (h : BitVec 2048) : List Task :=
  (launchWids h).map fun w =>
    ⟨lid, BitVec.ofNat 64 w, coreOfWid h w, hdrPrio h, BitVec.ofNat 64 (hdrEntry h), .launch, [], .queued, false, [], []⟩

/-- The groups of a launch's tasks at level ENDLVL: the work ids of each (R350). -/
def endGroups (h : BitVec 2048) : List (List W64) :=
  let ws := launchWids h
  let gs := (ws.map fun w => groupOf h (hdrEndLvl h) w).eraseDups
  gs.map fun g => (ws.filter fun w => groupOf h (hdrEndLvl h) w == g).map (BitVec.ofNat 64)

/-- The end record of one group. -/
def addEndRecord (lid : BitVec 32) (img : BitVec 512) (s : State) (ws : List W64) : State :=
  match freeSlot s with
  | none => s
  | some slot => (s.addRecord slot ⟨0, 0, lid, ws.length, 0, img, 0, 0, false, 0, 0, [], [], [], 0, 0, none, some ws⟩).1.tick

/-- The merge regions of a launch as they stand (R357). -/
def regionSnapshot (s : State) (asid : BitVec 16) (h : BitVec 2048) : Mem :=
  if !(hdrDet h) then []
  else
    (mergeRegions h).foldl (fun m r =>
      (regionParts s asid r).foldl (fun m p =>
        (s.mem.gmem.filter fun c => p.key ≤ c.1 && c.1 < p.key + (p.hi - p.lo)).foldl
          (fun m c => m.writeAll (p.lo + (c.1 - p.key)) [c.2]) m) m) []

/-- Whether a merge region of a launch cannot be read yet: a walk or a byte of it waits for a die held in reset (R249). -/
def snapshotWaits (s : State) (asid : BitVec 16) (h : BitVec 2048) : Bool :=
  hdrDet h && (mergeRegions h).any fun r =>
    (List.range ((r.1 + r.2 - 1) / 65536 + 1 - r.1 / 65536)).any fun i =>
      let lo := max r.1 ((r.1 / 65536 + i) * 65536)
      match translateIn s asid lo .read with
      | .ok key _ => (List.range ((min (r.1 + r.2) ((r.1 / 65536 + i + 1) * 65536) - lo + 4095) / 4096 + 1)).any fun k =>
        s.homeWaits (key + min (4096 * k) (min (r.1 + r.2) ((r.1 / 65536 + i + 1) * 65536) - lo - 1))
      | .waits => true
      | _ => false

/-- A launch that passes: its id, tasks, end records and snapshot; LAUNCH of its tasks is ARG. -/
def acceptLaunch (s : State) (host : BitVec 20) (asid : BitVec 16) (h : BitVec 2048) (img : List Byte)
    (graph : Option (Nat × Nat × Nat)) : State :=
  let lid := s.sched.nextLid
  let l : Launch := ⟨lid, host, asid, h, BitVec.ofNat 64 (hdrArg h), 0, 0, false, false, none, regionSnapshot s asid h, [], [],
    graph⟩
  let s := { s with sched := { s.sched with
      nextLid := lid + 1
      launches := s.sched.launches ++ [l]
      tasks := s.sched.tasks ++ launchTasks lid h } }
  if hdrEnd h then (endGroups h).foldl (addEndRecord lid (BitVec.ofNat 512 (ofLe img))) s else s

/-- Record slots that are free, as far as the end records of a launch need them (R347, R350). -/
def roomForEnds (s : State) (h : BitVec 2048) : Bool :=
  !(hdrEnd h) || (endGroups h).length + s.sched.records.length ≤ recordSlots

/-- LAUNCH_MESSAGE (R340, R341): rejected with a code, or accepted. While a page of the END image is not mapped, its end
records find no slots, or its snapshot cannot be read, the message waits. -/
def evLaunchMessage (host : BitVec 20) (asid : BitVec 16) (hdr : BitVec 2048) (s : State) : State :=
  if s.mgmt.boot != .up then s
  else
    match rejectCode s asid hdr, endImage s asid hdr with
    | 0, .miss pg => askPageOf s asid pg
    | 0, .waits => s
    | 0, .bytes img =>
      if !(roomForEnds s hdr) || snapshotWaits s asid hdr then s
      else (acceptLaunch s host asid hdr img none).tell (.accepted host s.sched.nextLid)
    | code, _ => s.tell (.rejected host code)

/-! ### The final merge (R351, R358) -/

/-- What translating the merged bytes meets: a page that is missing, the lowest byte that cannot be written with the cause,
homes that do not answer, or nothing. -/
inductive MergeCheck where
  | ready
  | waits
  | miss (page : Nat)
  | bad (cause : Nat) (va : Nat)
  deriving DecidableEq, Repr

/-- The check of the merged bytes (R358). -/
def checkMerged (s : State) (asid : BitVec 16) (log : Mem) : MergeCheck :=
  let rs := log.map fun c => (c.1, translateIn s asid c.1 .write)
  let miss := rs.findSome? fun r =>
    match r.2 with
    | .miss pg => some pg
    | _ => none
  let bad := rs.findSome? fun r =>
    match r.2 with
    | .unresolvable => some (MergeCheck.bad 0x0A r.1)
    | .protection => some (MergeCheck.bad 0x0B r.1)
    | _ => none
  let waits := rs.any fun r =>
    match r.2 with
    | .ok key _ => s.homeWaits key
    | .waits => true
    | _ => false
  match miss, bad with
  | some pg, _ => .miss pg
  | none, some x => x
  | none, none => if waits then .waits else .ready

/-- One merged byte performs at its home. -/
def writeMerged (l : Launch) (s : State) (c : Nat × Byte) : State :=
  match translateIn s l.asid c.1 .write with
  | .ok key _ => s.homeWrite (some l.lid) true noPort key [c.2]
  | _ => s

/-- How the final merge of a launch ends: it must wait, or the state after it with whether it was applied. -/
inductive MergeRes where
  | waits (s : State)
  | done (s : State) (applied : Bool)

/-- The final merge of a launch (R351, R358): of its own tasks and of continuations and posted tasks. -/
def finalMerge (s : State) (l : Launch) : MergeRes :=
  if !(hdrDet l.hdr) || l.killing || l.killed != 0 then .done s false
  else
    let m := mergeLogs (sortLogs ((l.logs ++ l.restLogs).map Prod.snd))
    match m.2 with
    | some c => .done (conflictKill s l c) false
    | none =>
      match checkMerged s l.asid m.1 with
      | .miss pg => .waits (askPageOf s l.asid pg)
      | .waits => .waits s
      | .bad cause va =>
        let s := { s with mem := s.mem.spendRefusals l.asid [va / 65536] }
        .done (s.sendFault (faultRecord 3 0 0 0
          (BitVec.ofNat 64 cause, BitVec.ofNat 64 (regionOf l.hdr va), BitVec.ofNat 64 va) (0, 0, 0))) false
      | .ready => .done (m.1.foldl (writeMerged l) s) true

/-! ### Launch graphs (R360) -/

/-- Graph n. -/
def State.graphAt (s : State) (n : Nat) : Option Graph := s.mgmt.graphs[n]?

/-- Graph n replaced. -/
def State.setGraph (s : State) (n : Nat) (g : Graph) : State :=
  { s with mgmt := { s.mgmt with graphs := modifyAt n (fun _ => g) s.mgmt.graphs } }

/-- A header with another ARG. -/
def withArg (h : BitVec 2048) (arg : Nat) : BitVec 2048 :=
  BitVec.ofNat 2048 (h.toNat - hdrArg h * 2 ^ 192 + arg % 2 ^ 57 * 2 ^ 192)

/-- The bytes of an argument block copied by the keystone die to an address of the address space, which no launch writes (R357). -/
def copyArgs (s : State) (asid : BitVec 16) (area : Nat) (bs : List Byte) : State :=
  bs.zipIdx.foldl (fun s b =>
    match translateIn s asid (area + b.2) .write with
    | .ok key _ => s.homeWrite none true noPort key [b.1]
    | _ => s) s

/-- The place of the copy of the argument block of header k in a replay area: any address (log entry 17). -/
def replayArea (s : State) (k : Nat) : Nat := Config.freeNat s.freeCtr (2 ^ 45 + k) % 2 ^ 57

/-- Whether the copies of two argument blocks would meet. -/
def areasMeet (s : State) (g : Graph) : Bool :=
  g.hdrs.zipIdx.any fun a => g.hdrs.zipIdx.any fun b =>
    a.2 < b.2 && meets (replayArea s a.2) (hdrArgLen a.1) (replayArea s b.2) (hdrArgLen b.1)

/-- What keeps the copy of an argument block from its place. -/
def areaStop (s : State) (asid : BitVec 16) (area n : Nat) : Option ImageRes :=
  (List.range n).findSome? fun i =>
    match landReach s asid (area + i) with
    | .ok => none
    | .miss pg => some (.miss pg)
    | .waits => some .waits
    | .bad _ => some .waits

/-- What keeps a replay from starting (R360): a page of an argument block or of the replay area that is not mapped, a home
that does not answer, or an area that cannot take the copies. -/
def replayStop (s : State) (g : Graph) : Option ImageRes :=
  if areasMeet s g then some .waits
  else
    g.hdrs.zipIdx.findSome? fun h =>
      match readImageAt s g.asid (hdrArg h.1) (hdrArgLen h.1) with
      | .miss pg => some (.miss pg)
      | .waits => some .waits
      | _ => areaStop s g.asid (replayArea s h.2) (hdrArgLen h.1)

/-- What a replay keeps of the END image of a header: the bytes that lie in its argument block `bs`, which it snapshots (R360). The
others are read when the launch is accepted (R350). -/
def keptImage (h : BitVec 2048) (bs : List Byte) : List (Option Byte) :=
  if !(hdrEnd h) then []
  else (List.range 64).map fun i => if hdrArg h ≤ hdrEndImg h + i then bs[hdrEndImg h + i - hdrArg h]? else none

/-- The headers of a replay with their END images, the argument blocks copied into a replay area (R360). -/
def snapshotHeaders (s : State) (g : Graph) : State × List (BitVec 2048 × List (Option Byte)) :=
  g.hdrs.zipIdx.foldl (fun acc h =>
    let area := replayArea s h.2
    let bs := match readImageAt s g.asid (hdrArg h.1) (hdrArgLen h.1) with
      | .bytes bs => bs
      | _ => []
    (copyArgs acc.1 g.asid area bs, acc.2 ++ [(withArg h.1 area, keptImage h.1 bs)])) (s, [])

/-- The END image of a node that starts (R350, R360). -/
def nodeImage (s : State) (asid : BitVec 16) (h : BitVec 2048 × List (Option Byte)) : ImageRes :=
  let at' := fun i => hdrEndImg h.1 + i
  match h.2.zipIdx.findSome? fun b => if b.1.isSome then none else imageStop s asid (at' b.2) with
  | some x => x
  | none => .bytes (h.2.zipIdx.map fun b => b.1.getD (imageByte s asid (at' b.2)))

/-- A node of a replay starts: it passes R341 as a launch would, or the replay completes with its code. -/
def startNode (n : Nat) (s : State) (node : Nat) : State :=
  match s.graphAt n with
  | none => s
  | some g =>
    match g.replay with
    | none => s
    | some r =>
      match r.hdrs[node]? with
      | none => s
      | some h =>
        match rejectWith s (nodeImage s g.asid h) h.1, nodeImage s g.asid h with
        | 0, .miss pg => askPageOf s g.asid pg
        | 0, .waits => s
        | 0, .bytes img =>
          if !(roomForEnds s h.1) || snapshotWaits s g.asid h.1 then s
          else acceptLaunch (s.setGraph n { g with replay := some { r with started := node :: r.started } }) g.host g.asid h.1 img
            (some (n, r.num, node))
        | code, _ => (s.setGraph n { g with replay := none }).tell (.replayDone n code)

/-- The nodes of a replay that may start: every header that they follow has completed. -/
def readyNodes (g : Graph) : List Nat :=
  match g.replay with
  | none => []
  | some r =>
    (List.range r.hdrs.length).filter fun k =>
      !(r.started.contains k) && ((g.after.getD k []).all fun p => r.completed.contains p)

/-- A replay goes on: its ready nodes start, and it completes when every node has. -/
def advanceGraph (n : Nat) (s : State) : State :=
  match s.graphAt n with
  | none => s
  | some g =>
    match g.replay with
    | none => s
    | some r =>
      if (List.range r.hdrs.length).all fun k => r.completed.contains k then
        (s.setGraph n { g with replay := none }).tell (.replayDone n 0)
      else (readyNodes g).foldl (startNode n) s

/-- A waiting replay of a graph starts when no other is under way. -/
def startReplay (n : Nat) (s : State) : State :=
  match s.graphAt n with
  | none => s
  | some g =>
    if g.replay.isSome || g.waiting == 0 then s
    else
      match replayStop s g with
      | some (.miss pg) => askPageOf s g.asid pg
      | some _ => s
      | none =>
        let r := snapshotHeaders s g
        advanceGraph n (r.1.setGraph n { g with
          replay := some ⟨g.begun, r.2, [], []⟩
          begun := g.begun + 1
          waiting := g.waiting - 1 })

/-- Waiting replays of a graph start, the next one where one fails at once: `k` at most. -/
def startReplays (n : Nat) : (k : Nat) → State → State
  | 0, s => s
  | k + 1, s => startReplays n k (startReplay n s)

/-- A graph goes on: its replay, then those that wait. -/
def pumpGraph (s : State) (n : Nat) : State :=
  let t := advanceGraph n s
  startReplays n (((t.graphAt n).map Graph.waiting).getD 0) t

/-- Every graph goes on, where what one waited for has come. -/
def pumpGraphs (s : State) : State := (List.range s.mgmt.graphs.length).foldl pumpGraph s

/-- A node of a replay has completed; a launch of an earlier replay, one that failed, changes nothing. -/
def nodeDone (s : State) (x : Option (Nat × Nat × Nat)) : State :=
  match x with
  | none => s
  | some (n, num, node) =>
    match s.graphAt n with
    | none => s
    | some g =>
      match g.replay with
      | none => s
      | some r =>
        if r.num != num then s
        else pumpGraph (s.setGraph n { g with replay := some { r with completed := node :: r.completed } }) n

/-- GRAPH_REGISTER (R360, R366): up to 1,024 headers, none with ARGLEN 0. -/
def evGraphRegister (host : BitVec 20) (asid : BitVec 16) (hdrs : List (BitVec 2048)) (after : List (List Nat)) (s : State) :
    State :=
  let ok := s.mgmt.accepted 6 && hdrs.length ≤ 1024 && (hdrs.all fun h => hdrArgLen h != 0) && after.length == hdrs.length &&
    after.all fun ps => ps.all fun p => p < hdrs.length
  let handle := BitVec.ofNat 64 s.mgmt.graphs.length
  (if ok then { s with mgmt := { s.mgmt with graphs := s.mgmt.graphs ++ [⟨host, asid, hdrs, after, none, 0, 0⟩] } } else s).tell
    (.managed "graph" handle ok)

/-- REPLAY_MESSAGE (R360): a replay of the graph starts, or waits for the one before. -/
def evReplayMessage (graph : Nat) (s : State) : State :=
  match s.graphAt graph with
  | none => s
  | some g => pumpGraph (s.setGraph graph { g with waiting := g.waiting + 1 }) graph

/-- GRAPH_PATCH (R360): a registered header changes for replays that start later. -/
def evGraphPatch (graph node : Nat) (hdr : BitVec 2048) (s : State) : State :=
  match s.graphAt graph with
  | none => s.tell (.managed "graph patch" (BitVec.ofNat 64 graph) false)
  | some g =>
    let ok := node < g.hdrs.length && hdrArgLen hdr != 0
    (if ok then s.setGraph graph { g with hdrs := modifyAt node (fun _ => hdr) g.hdrs } else s).tell
      (.managed "graph patch" (BitVec.ofNat 64 graph) ok)

/-! ### Completion (R351) -/

/-- Whether no task of a launch is queued, running or parked. -/
def launchOver (s : State) (lid : BitVec 32) : Bool := s.sched.tasks.all fun t => t.lid != lid || t.st == .ended

/-- The records of a launch that have not fired are freed, once (R351). -/
def freeUnfired (s : State) (l : Launch) : State :=
  match l.freed with
  | some _ => s
  | none =>
    let n := (s.sched.records.filter fun r => r.lid == l.lid).length
    let t := { s with sched := { s.sched with records := s.sched.records.filter fun r => r.lid != l.lid } }
    t.setLaunch l.lid fun x => { x with freed := some n }

/-- A launch completes: its unfired records are freed, then its merge is applied or not, and the host is told (R351, R358). -/
def completeLaunch (s : State) (l : Launch) : State :=
  let s := freeUnfired s l
  let l := (s.launchOf l.lid).getD l
  match finalMerge s l with
  | .waits t => t
  | .done t applied =>
    let t := t.setLaunch l.lid fun x => { x with done := true }
    nodeDone (t.tell (.completion l.lid l.run (l.freed.getD 0) l.killed applied)) l.graph

/-- LAUNCH_COMPLETION (R351): once every record that is due has fired (R215). Where no launch completes, graphs that wait go on. -/
def evLaunchCompletion (lid : BitVec 32) (s : State) : State :=
  let s := fireWaiting s
  match s.launchOf lid with
  | none => pumpGraphs s
  | some l => if l.done || !(launchOver s lid) then pumpGraphs s else completeLaunch s l

/-! ### Record messages (R345) and page answers (R255) -/

/-- RECORD_ARRIVAL (R345): an arrival from another core or package. -/
def evRecordArrival (h : W64) (arrivals bytes : BitVec 32) (s : State) : State := (arriveAt s h arrivals.toNat bytes.toNat).1

/-- RECORD_CREDIT (R345): a credit or grant from another core or package. -/
def evRecordCredit (h : W64) (bytes : Nat) (kind : CreditKind) (s : State) : State := (creditAt s h bytes kind).1

/-- PAGE_REQUEST_ANSWER (R255): what waits for the page becomes ready, graphs included. -/
def evPageRequestAnswer (asid : BitVec 16) (page : W64) (mapped : Bool) (s : State) : State :=
  pumpGraphs (answerPage asid page mapped s)

end Sys2Proof.Machine
end

