-- ==== Sys2Proof/Machine/EventsManage.lean ====
section
/-! DEFINITION. Events of management: bind records, partition modes, seals, ceilings, attestation, features, snapshots, boot,
versions, the clamp (R2, R20, R120, R352, R361 to R369, R373). -/

namespace Sys2Proof.Machine

open Sys2Proof

/-! ### Bind records (R352, R373) -/

/-- Dies of a partition. -/
def diesPer (parts : Nat) : Nat := 8 / parts

/-- The number of the modelled core within its die. -/
def ownCore : Nat := Config.core.val

/-- Whether the modelled core has no surviving instance of some kind of engine, or a failed scalar engine or cascade (R20). -/
def ownCoreFailed : Bool :=
  Config.coreFailed || Config.surviving.extractLsb' 0 2 == 0 || Config.surviving.extractLsb' 2 2 == 0

/-- The missing cores of this part, as die and core: 16 at most (R2, R20). -/
def missingCores : List (Nat × Nat) :=
  let others := ((Config.missing.map fun x => (x.1.toNat, x.2.toNat)).filter fun x =>
    x != (ownDie, ownCore) && x.2 < 44).eraseDups
  if ownCoreFailed then (ownDie, ownCore) :: others.take 15 else others.take 16

/-- Whether physical core k of a die is enabled. -/
def coreEnabled (die k : Nat) : Bool := !(missingCores.contains (die, k))

/-- The enabled cores of a die, rising. -/
def enabledCores (die : Nat) : List Nat := (List.range 44).filter fun k => coreEnabled die k

/-- Whether a die is held in reset. -/
def dieHeld (held : BitVec 8) (die : Nat) : Bool := held.getLsbD die

/-- The die that serves the logical cores of die `k` of a partition (R373): itself, or the next one not held in reset. -/
def servingDie (held : BitVec 8) (parts partn k : Nat) : Option Nat :=
  let n := diesPer parts
  ((List.range n).find? fun i => !(dieHeld held (partn * n + (k + i) % n))).map fun i => partn * n + (k + i) % n

/-- The logical cores that a die deals out over its enabled cores: those of its missing cores, then those of the dies held in
reset that it serves. -/
def dealtCores (held : BitVec 8) (parts partn die : Nat) : List Nat :=
  let n := diesPer parts
  let own := ((List.range 44).filter fun k => !(coreEnabled die k)).map fun k => 44 * (die - partn * n) + k
  let others := ((List.range n).filter fun k => dieHeld held (partn * n + k) && servingDie held parts partn k == some die).flatMap
    fun k => (List.range 44).map fun c => 44 * k + c
  own ++ others

/-- The logical cores that the modelled core serves (R373). -/
def ownLogicalCores (held : BitVec 8) (parts : Nat) : List Nat :=
  let n := diesPer parts
  let partn := ownDie / n
  let cores := enabledCores ownDie
  let mine := (dealtCores held parts partn ownDie).zipIdx.filter fun x => cores[x.2 % cores.length]? == some ownCore
  (44 * (ownDie - partn * n) + ownCore) :: mine.map Prod.fst

/-- A bind record that serves logical cores, the first four in LC fields and the others in LCMASK (Table 22-4). -/
def bindRecord (en : Bool) (partn : Nat) (lcs : List Nat) : BitVec 1024 :=
  let lc := (lcs.take 4).zipIdx.foldl (fun acc x => acc + (512 + x.1 % 512) * 2 ^ (128 + 10 * x.2)) 0
  let mask := (lcs.drop 4).foldl (fun acc l => acc ||| 2 ^ (512 + l)) 0
  BitVec.ofNat 1024 (partn % 8 + (if en then 8 else 0) + lc + (2 ^ 256 - 1) * 2 ^ 256) ||| BitVec.ofNat 1024 mask

/-- The bind record that firmware writes for the modelled core (R373); a core of a die held in reset, or one that is missing, takes no
tasks. -/
def bindFor (held : BitVec 8) (parts : Nat) : BitVec 1024 :=
  bindRecord (!(dieHeld held ownDie) && coreEnabled ownDie ownCore) (ownDie / diesPer parts) (ownLogicalCores held parts)

/-- Whether a bind record still serves the logical core and binds the queue of the running task. -/
def keepsTask (s : State) (rec : BitVec 1024) : Bool :=
  bindPart rec == hdrPartn s.ctx.hdr && bindsQueue rec (hdrQueue s.ctx.hdr) && servesCore rec s.ctx.ctl.lcore.toNat

/-- BIND_RECORD_WRITE (R352): a running task whose logical core or queue it removes is pre-empted. -/
def evBindRecordWrite (core : BitVec 9) (rec : BitVec 1024) (s : State) : State :=
  if core != Config.pcore || s.mgmt.boot != .up then s
  else
    let t := if canSave s && !(keepsTask s rec) then preempt s else s
    { t with sched := { t.sched with bind := rec } }

/-! ### Partition modes (R120, R367, R368) -/

/-- Whether the grid of a context's launch fits a partition mode. -/
def fitsMode (parts : Nat) (h : BitVec 2048) : Bool := !(badGrid parts h)

/-- A saved context that does not fit is EVICTED, with a fault record of reason 5 (R120). -/
def evictOne (parts : Nat) (s : State) (k : Nat) : State :=
  match s.sched.saved[k]? with
  | none => s
  | some sv =>
    if fitsMode parts sv.ctx.hdr || sv.why == .evicted then s
    else
      let c := sv.ctx
      let s := { s with sched := { s.sched with saved := modifyAt k (fun x => { x with why := .evicted }) s.sched.saved } }
      let s := s.sendFault (faultRecord 5 c.ctl.wid c.ctl.lcore.toNat 0 (0, 0, 0) (0, 0, 0))
      s.setTask c.lid c.ctl.lcore.toNat c.ctl.wid fun t => { t with st := .evicted }

/-- Whether the modes of Table 23-4 hold a number of partitions. -/
def modeExists (parts : Nat) : Bool := [1, 2, 4, 8].contains parts

/-- PARTITION_MODE_CHANGE (R368): contexts are saved, bytes keep their local physical addresses, bind records are rewritten,
and contexts that do not fit are evicted. A kill under way completes first. -/
def evPartitionModeChange (parts : Nat) (s : State) : State :=
  let note := fun (s : State) (ok : Bool) => s.tell (.managed "partition mode" (BitVec.ofNat 64 parts) ok)
  if !(modeExists parts) || s.mgmt.boot != .up then note s false
  else if s.mode != .idle && !(canSave s) then s
  else
    let s := fireWaiting (preempt s)
    let s := { s with
      mgmt := { s.mgmt with parts := parts }
      sched := { s.sched with bind := bindFor s.mem.heldReset parts } }
    note ((List.range s.sched.saved.length).foldl (evictOne parts) s) true

/-- EVICTED_CONTEXT_RELAUNCH (R120): a context that fits the mode again becomes ready at the host's request. -/
def evEvictedContextRelaunch (lid : BitVec 32) (wid : W64) (s : State) : State :=
  let hit := fun (x : Saved) =>
    x.why == .evicted && x.ctx.lid == lid && x.ctx.ctl.wid == wid && !x.killed && fitsMode s.mgmt.parts x.ctx.hdr
  match s.sched.saved.find? hit with
  | none => s
  | some sv =>
    let saved := s.sched.saved.map fun x =>
      if (hit x && x.ctx.ctl.lcore == sv.ctx.ctl.lcore) then { x with why := .preempted } else x
    let s := { s with sched := { s.sched with saved := saved } }
    s.setTask lid sv.ctx.ctl.lcore.toNat wid fun t => { t with st := .parked }

/-! ### Trust (R363, R364, R366) -/

/-- The physical map of Table 16-3 as the bounds of its ranges. -/
def physicalMap : List Nat :=
  [0, hbmEnd, 0x10000000000, 0xD0000000000, 0xF0000000000, 0x100000000000]

/-- The contents of an attestation report (R363): the digests of the boot ROM and of the running image, the values locked under
R362, and the nonce. -/
def attestReport (m : Mgmt) (nonce : BitVec 256) : List (BitVec 256) :=
  [Config.bootRomDigest, m.image, Config.packageId.setWidth 256, m.endpoint.setWidth 256] ++
    physicalMap.map (BitVec.ofNat 256) ++ [m.keyDigest, BitVec.ofNat 256 m.version, nonce]

/-- ATTESTATION_REQUEST (R363). -/
def evAttestationRequest (nonce : BitVec 256) (s : State) : State :=
  if s.mgmt.boot != .up then s
  else s.tell (.attestation (attestReport s.mgmt nonce) (Config.sign (attestReport s.mgmt nonce)))

/-- FEATURE_VECTOR_WRITE (R366): once after a module reset. -/
def evFeatureVectorWrite (vec : BitVec 128) (s : State) : State :=
  let ok := s.mgmt.boot == .up && s.mgmt.written.isNone
  (if ok then { s with mgmt := { s.mgmt with written := some vec } } else s).tell
    (.managed "feature vector" (vec.setWidth 64) ok)

/-- INJECTION_CEILING_SET (R364, R367): the host sets a ceiling of a port and virtual channel, for the whole port or for a partition;
firmware may only lower one. -/
def evInjectionCeilingSet (partn : Option (BitVec 3)) (port : BitVec 5) (vc : BitVec 3) (rate : Nat) (byHost : Bool) (s : State) :
    State :=
  let key := (partn, port, vc)
  let lower := ((lookupKey key s.mgmt.ceilings).map fun c => decide (rate ≤ c)).getD true
  let named := (partn.map fun p => decide (p.toNat < s.mgmt.parts)).getD true
  if named && (byHost || lower) then { s with mgmt := { s.mgmt with ceilings := setKey key rate s.mgmt.ceilings } } else s

/-- TENANT_SEAL (R364): the partition as the mode in force makes it. -/
def evTenantSeal (partn : BitVec 3) (s : State) : State :=
  let ok := partn.toNat < s.mgmt.parts
  let e := (s.mgmt.parts, partn)
  let add := if s.mgmt.sealed.contains e then s.mgmt.sealed else e :: s.mgmt.sealed
  (if ok then { s with mgmt := { s.mgmt with sealed := add } } else s).tell
    (.managed "seal" (partn.setWidth 64) ok)

/-- Whether a partition has a context: a task that has started and not ended. -/
def partitionBusy (s : State) (partn : Nat) : Bool :=
  s.sched.tasks.any fun t => t.started && t.st != .ended &&
    ((s.launchOf t.lid).map fun l => hdrPartn l.hdr) == some partn

/-- The seal that the host lifts by a partition's number: that of the mode in force, else the latest of an earlier mode (DESIGN CHOICE, log
entry 112). -/
def State.sealOf (s : State) (partn : BitVec 3) : Option (Nat × BitVec 3) :=
  if s.mgmt.sealed.contains (s.mgmt.parts, partn) then some (s.mgmt.parts, partn)
  else s.mgmt.sealed.find? fun e => e.2 == partn

/-- The partitions of the mode in force that share dies with a sealed one. -/
def sealParts (s : State) (e : Nat × BitVec 3) : List Nat :=
  (List.range s.mgmt.parts).filter fun q => meets (q * (8 / s.mgmt.parts)) (8 / s.mgmt.parts) (e.2.toNat * (8 / e.1)) (8 / e.1)

/-- What an unseal waits for (R249, R364): contexts of the partition, and halves of it that a die held in reset serves. -/
def unsealWaits (s : State) (e : Nat × BitVec 3) : Bool :=
  (sealParts s e).any fun q =>
    partitionBusy s q || (List.range (8 / s.mgmt.parts)).any fun d => s.mem.heldReset.getLsbD (q * (8 / s.mgmt.parts) + d)

/-- TENANT_UNSEAL (R246, R364): once every context of the partition has been killed, its HBM is zeroed and the seal lifted. -/
def evTenantUnseal (partn : BitVec 3) (s : State) : State :=
  match s.sealOf partn with
  | none => s
  | some e =>
    if unsealWaits s e then s
    else
      let r := partitionHbm e.1 e.2.toNat
      let t := s.homeWrite none false noPort r.1 (List.replicate r.2 0)
      { t with mgmt := { t.mgmt with sealed := t.mgmt.sealed.filter fun p => p != e } }.tell
        (.managed "unseal" (partn.setWidth 64) true)

/-! ### Snapshots (R369) -/

/-- TRIGGER_MESSAGE (R369): a message on VC 4, or the fault of another core that has sent a fault record. The faults of this core trigger
as they send theirs. -/
def evTriggerMessage (tagv : BitVec 16) (_fromFault : Bool) (s : State) : State := s.trigger tagv

/-- The values of a latch as the host reads them: zeros of a sealed partition's blocks (R364). -/
def readoutValues (s : State) (vs : List W64) : List W64 :=
  (Config.snapshotBlocks.zip vs).map fun b => if (b.1.map fun d => s.sealsDie d.toNat).getD false then 0 else b.2

/-- SNAPSHOT_READOUT (R369): the latch is read out with its tag, its time, its values and the missed triggers. -/
def evSnapshotReadout (s : State) : State :=
  match s.mgmt.snapshot with
  | none => s
  | some x =>
    { s with mgmt := { s.mgmt with snapshot := none, missed := 0 } }.tell
      (.snapshot x.tagv x.time s.mgmt.missed (readoutValues s x.values))

/-! ### Boot, versions, the clamp (R361, R362, R365) -/

/-- Whether the boot ROM accepts an image (Table 23-1, step 2). -/
def imageAccepted (m : Mgmt) (img : BootImage) : Bool :=
  img.signatureValid && img.keyDigest == Config.fusedKeyDigest && m.version ≤ img.version

/-- The cores that are enabled when some dies are held in reset (R2, R361). -/
def coresEnabled (held : BitVec 8) : Nat :=
  ((List.range 8).filter fun d => !(dieHeld held d)).foldl (fun acc d => acc + (enabledCores d).length) 0

/-- The feature vector that the ready message offers (R366). -/
def offeredVector : BitVec 128 := Config.offered.setWidth 128

/-- Steps 3 to 5 of Table 23-1: the locks, the dies that fail held in reset, the bind records, the ready message. -/
def bringUp (img : BootImage) (dies : BitVec 8) (s : State) : State :=
  let cores := coresEnabled dies
  { s with
    mem := { s.mem with heldReset := dies }
    sched := { s.sched with bind := bindFor dies s.mgmt.parts }
    mgmt := { s.mgmt with
      boot := .up
      locked := true
      keyDigest := Config.fusedKeyDigest
      endpoint := Config.packageId.setWidth 20
      image := img.digest
      bootVersion := img.version
      cores := cores
      survive := Config.surviving
      dispatchOff := false } }.refreshTriggers.tell (.ready offeredVector cores (cores < 336))

/-- A module in reset: everything but the fused version counter starts anew, and the HBM stacks, which refresh themselves while their dies
are in reset, keep their contents (R249), as other packages' memory does; what the host has seen, the count of free values and the agenda
are not the module's. -/
def resetModule (s : State) : State :=
  { State.reset with
    freeCtr := s.freeCtr
    agenda := s.agenda
    host := s.host
    mem := { MemSys.reset with gmem := s.mem.gmem.filter fun c => inHbm c.1 1 || isRemote c.1 }
    mgmt := { Mgmt.reset with version := s.mgmt.version } }

/-- MODULE_RESET (R361): the boot ROM verifies the image in flash; a failure enters recovery. -/
def evModuleReset (img : BootImage) (dies : BitVec 8) (s : State) : State :=
  let t := resetModule s
  if imageAccepted t.mgmt img then bringUp img dies t else { t with mgmt := { t.mgmt with boot := .recovery } }

/-- RECOVERY_IMAGE (R361): in recovery, an image sent on VC 4 is verified in the same way. -/
def evRecoveryImage (img : BootImage) (dies : BitVec 8) (s : State) : State :=
  if s.mgmt.boot == .recovery && imageAccepted s.mgmt img then bringUp img dies s else s

/-- VERSION_COUNTER_ADVANCE (R362). -/
def evVersionCounterAdvance (s : State) : State :=
  if s.mgmt.boot == .up && s.mgmt.version < s.mgmt.bootVersion then
    { s with mgmt := { s.mgmt with version := s.mgmt.bootVersion } }
  else s

/-- Whether the power of the module or the temperature of a die exceeds its limit (R365). -/
def aboveLimit (power : Nat) (temps : List Nat) : Bool :=
  4300 < power || temps.zipIdx.any fun t => Config.dieLimit t.2 < t.1

/-- Whether a reading lies below every limit. -/
def belowLimit (power : Nat) (temps : List Nat) : Bool := power < 4300 && temps.zipIdx.all fun t => t.1 < Config.dieLimit t.2

/-- The clock of the ashlar dies set: every link follows a change of it (R365, R371). -/
def State.setClock (s : State) (mhz : Nat) : State :=
  if mhz == s.mgmt.clamp then s
  else (List.range linkCount).foldl (fun s n => s.askRetrain n .frequency) { s with mgmt := { s.mgmt with clamp := mhz } }

/-- The next readings of the clamp logic: any power, and any temperature of each of the nine dies (R365, log entry 8). -/
def State.measured (s : State) : State :=
  { s with mgmt := { s.mgmt with
      power := Config.freeNat s.freeCtr (2 ^ 62)
      temps := (List.range 9).map fun d => Config.freeNat s.freeCtr (2 ^ 62 + 1 + d) } }

/-- CLAMP_STEP_DOWN (R365): while a reading is above a limit, 100 MHz lower, not below 2.0 GHz; then new readings stand. A reading that
does not lie below the limits begins the time of R365 anew. -/
def evClampStepDown (s : State) : State :=
  let t := if belowLimit s.mgmt.power s.mgmt.temps then s else { s with mgmt := { s.mgmt with hotAt := s.fab.time } }
  (if aboveLimit s.mgmt.power s.mgmt.temps then t.setClock (max 2000 (s.mgmt.clamp - 100)) else t).measured

/-- CLAMP_STEP_UP (R365): once the reading has stayed below the limits for 1 ms, 100 MHz higher, not above 3.0 GHz; a reading that does
not lie below them begins that time anew. Then new readings stand. -/
def evClampStepUp (s : State) : State :=
  if belowLimit s.mgmt.power s.mgmt.temps then
    ((s.reachTime (s.mgmt.hotAt + 1000000)).setClock (min 3000 (s.mgmt.clamp + 100))).measured
  else { s with mgmt := { s.mgmt with hotAt := s.fab.time } }.measured

end Sys2Proof.Machine
end

