-- ==== Sys2Proof/Machine/VecArith.lean ====
section
/-! DEFINITION. Vector arithmetic, logic, transcendentals, compares, selects, reductions, broadcast and extract (R151 to
R164). -/

namespace Sys2Proof.Machine

open Sys2Proof

/-- The mask of a V slot at its bundle's start. -/
def maskOf (s : State) (p : At) (k : BitVec 3) : BitVec 512 := readK s (p.site 3) k

/-- The rounding mode of RMODE. -/
def rmodeOf (s : State) : RMode := RMode.ofReg s.ctx.ctl.rmode

/-- The reference tag of the operands, raw when none has one. -/
def tagOf (xs : List VSrc) : Fmt := (refTag xs).getD .raw

/-- The lanes of a source under a tag. -/
def VSrc.lanes (x : VSrc) (t : Fmt) : List Nat := lanesOf t.width x.bytes

/-- Two source vectors in fields A and B. -/
def srcs2 (s : State) (p : At) (a b : BitVec 6) : List VSrc := [vecSrc s p 1 a 0 [], vecSrc s p 2 b 0 (popsOf a 1)]

/-- vD from vA and vB of one tag in a class. -/
def vec2 (ok : Fmt → Bool) (lat : Nat) (f : Fmt → Nat → Nat → Elem) (m : VMask) (d a b : BitVec 6) (s : State) (p : At) :
    SlotSem :=
  let xs := srcs2 s p a b
  let t := tagOf xs
  let rs := match xs with
    | [x, y] => if ok t then List.zipWith (f t) (x.lanes t) (y.lanes t) else []
    | _ => []
  let r := plainRes t (maskOf s p m.k) m.z rs lat
  vecSlot s p d 1 (underMask (maskOf s p m.k) xs) [vecRange s p 0 d 1, vecRange s p 1 a 1, vecRange s p 2 b 1]
    [checkDst s p m d 1 ok (refTag xs), checkTags p ok xs none]
    [dstStream s p d, srcStream s p 1 a, srcStream s p 2 b] [] r

/-- The source elements of one lane: of lane `i` element `i`. -/
def lanewise (_ : Fmt) (mask : BitVec 512) (i : Nat) : Bool := mask.getLsbD i

/-- vD from vA with a tag in a class; `live` says which source elements belong to some active lane (R148). -/
def vec1 (ok : Fmt → Bool) (lat : Nat) (live : Fmt → BitVec 512 → Nat → Bool) (f : Fmt → List Nat → List Elem × Flags)
    (m : VMask) (d a : BitVec 6) (s : State) (p : At) : SlotSem :=
  let xs := [vecSrc s p 1 a 0 []]
  let t := tagOf xs
  let rs := match xs with
    | [x] => if ok t then f t (x.lanes t) else ([], 0)
    | _ => ([], 0)
  let r := plainRes t (maskOf s p m.k) m.z rs.1 lat
  vecSlot s p d 1 (xs.map fun x => x.under (live t (maskOf s p m.k))) [vecRange s p 0 d 1, vecRange s p 1 a 1]
    [checkDst s p m d 1 ok (refTag xs), checkTags p ok xs none]
    [dstStream s p d, srcStream s p 1 a] [] { r with flags := r.flags ||| rs.2 }

/-- A function of one lane. -/
def perLane (f : Fmt → Nat → Elem) (t : Fmt) (xs : List Nat) : List Elem × Flags := (xs.map (f t), 0)

/-! ### Element arithmetic (R154 to R157) -/

/-- VADD (R154). -/
def semVadd (m : VMask) (d a b : BitVec 6) (s : State) (p : At) : SlotSem :=
  vec2 Fmt.isAri 3 (fun t => elemAdd t (rmodeOf s)) m d a b s p
/-- VSUB (R154). -/
def semVsub (m : VMask) (d a b : BitVec 6) (s : State) (p : At) : SlotSem :=
  vec2 Fmt.isAri 3 (fun t => elemSub t (rmodeOf s)) m d a b s p
/-- VMUL (R154). -/
def semVmul (m : VMask) (d a b : BitVec 6) (s : State) (p : At) : SlotSem :=
  vec2 Fmt.isAri 5 (fun t => elemMul t (rmodeOf s)) m d a b s p
/-- VMIN (R154). -/
def semVmin (m : VMask) (d a b : BitVec 6) : State → At → SlotSem := vec2 Fmt.isAri 3 elemMin m d a b
/-- VMAX (R154). -/
def semVmax (m : VMask) (d a b : BitVec 6) : State → At → SlotSem := vec2 Fmt.isAri 3 elemMax m d a b
/-- VABS (R154). -/
def semVabs (m : VMask) (d a : BitVec 6) : State → At → SlotSem := vec1 Fmt.isAri 3 lanewise (perLane elemAbs) m d a
/-- VNEG (R154). -/
def semVneg (m : VMask) (d a : BitVec 6) : State → At → SlotSem := vec1 Fmt.isAri 3 lanewise (perLane elemNeg) m d a

/-- vD from vD, vA and vB of one tag: D is checked first and gives the tag (R155). -/
def vec3 (f : Fmt → RMode → Nat → Nat → Nat → Elem) (m : VMask) (d a b : BitVec 6) (s : State) (p : At) : SlotSem :=
  let xs := vecSrc s p 0 d 0 [] :: srcs2 s p a b
  let t := tagOf xs
  let rs := match xs with
    | [x, y, z] =>
      if t.isAri then
        List.zipWith (fun (q : Nat × Nat) v => f t (rmodeOf s) q.1 q.2 v) ((x.lanes t).zip (y.lanes t)) (z.lanes t)
      else []
    | _ => []
  vecSlot s p d 1 (underMask (maskOf s p m.k) xs) [vecRange s p 0 d 1, vecRange s p 1 a 1, vecRange s p 2 b 1]
    [checkTags p Fmt.isAri xs none]
    [srcStream s p 1 a, srcStream s p 2 b] [] (plainRes t (maskOf s p m.k) m.z rs 5)

/-- VFMA (R155). -/
def semVfma (m : VMask) (d a b : BitVec 6) : State → At → SlotSem := vec3 elemFma m d a b
/-- VFMS (R155). -/
def semVfms (m : VMask) (d a b : BitVec 6) : State → At → SlotSem := vec3 elemFms m d a b

/-- VADDS (R156). -/
def semVadds (m : VMask) (d a b : BitVec 6) : State → At → SlotSem := vec2 Fmt.isInt 3 elemAdds m d a b

/-- A lane operation that raises no flag. -/
def plainOp (f : Nat → Nat → Nat) (_ : Fmt) (x y : Nat) : Elem := (f x y, 0)

/-- VAND (R157). -/
def semVand (m : VMask) (d a b : BitVec 6) : State → At → SlotSem := vec2 Fmt.isLog 3 (plainOp fun x y => x &&& y) m d a b
/-- VOR (R157). -/
def semVor (m : VMask) (d a b : BitVec 6) : State → At → SlotSem := vec2 Fmt.isLog 3 (plainOp fun x y => x ||| y) m d a b
/-- VXOR (R157). -/
def semVxor (m : VMask) (d a b : BitVec 6) : State → At → SlotSem := vec2 Fmt.isLog 3 (plainOp fun x y => x ^^^ y) m d a b

/-- The tags that shifts accept: INT and bits (R157). -/
def isShift (f : Fmt) : Bool := f.isInt || f == .bits

/-- VSHL (R157). -/
def semVshl (m : VMask) (d a b : BitVec 6) : State → At → SlotSem := vec2 isShift 3 elemShl m d a b
/-- VSHR (R157). -/
def semVshr (m : VMask) (d a b : BitVec 6) : State → At → SlotSem := vec2 isShift 3 elemShr m d a b
/-- VSAR (R157). -/
def semVsar (m : VMask) (d a b : BitVec 6) : State → At → SlotSem := vec2 isShift 3 elemSar m d a b

/-! ### Transcendentals (R158) -/

/-- VRCP (R158). -/
def semVrcp (m : VMask) (d a : BitVec 6) : State → At → SlotSem := vec1 Fmt.isFlt 9 lanewise (perLane (elemTransc rcpVal)) m d a
/-- VRSQ (R158). -/
def semVrsq (m : VMask) (d a : BitVec 6) : State → At → SlotSem := vec1 Fmt.isFlt 9 lanewise (perLane (elemTransc rsqVal)) m d a
/-- VSQRT (R158). -/
def semVsqrt (m : VMask) (d a : BitVec 6) : State → At → SlotSem := vec1 Fmt.isFlt 9 lanewise (perLane (elemTransc sqrtVal)) m d a
/-- VEXP2 (R158). -/
def semVexp2 (m : VMask) (d a : BitVec 6) : State → At → SlotSem := vec1 Fmt.isFlt 9 lanewise (perLane (elemTransc exp2Val)) m d a
/-- VLOG2 (R158). -/
def semVlog2 (m : VMask) (d a : BitVec 6) : State → At → SlotSem := vec1 Fmt.isFlt 9 lanewise (perLane (elemTransc log2Val)) m d a

/-! ### Compares and selects (R159 to R161) -/

/-- A V slot whose result is no vector: sources, checks, writers and effect. -/
def srcSlot (p : At) (xs : List VSrc) (range format stream own : List (Option Stop)) (writers : List Writer)
    (apply : State → State) : SlotSem :=
  { SlotSem.effect writers (fun t => apply (popAll p xs t)) with
    stall := xs.any fun x => !x.ready
    pops := portsOf xs
    stop := firstStop (range ++ format ++ stream ++ own ++ xs.map popStop) }

/-- A lane-mask result lands (R160): the bits of `w` are written. -/
def landK (p : At) (q : BitVec 3) (v w : BitVec 512) (lat : Nat) (t : State) : State :=
  { t with ctx := t.ctx.land t.freeCtr (p.site 16) (.kmask q v w) lat }

/-- A mask with the bits of a list of lanes, the lowest first. -/
def maskOfBits (bs : List Bool) : BitVec 512 :=
  BitVec.ofNat 512 (bs.zipIdx.foldl (fun acc b => if b.1 then acc + 2 ^ b.2 else acc) 0)

/-- The low `n` bits of a mask. -/
def lowMask (n : Nat) : BitVec 512 := BitVec.ofNat 512 (2 ^ n - 1)

/-- VCMP (R159). -/
def semVcmp (m : VMask) (c q : BitVec 3) (a b : BitVec 6) (s : State) (p : At) : SlotSem :=
  let xs := srcs2 s p a b
  let t := tagOf xs
  let bits := match xs with
    | [x, y] => if t.isAri then List.zipWith (elemCmp t c.toNat) (x.lanes t) (y.lanes t) else []
    | _ => []
  let active := maskOf s p m.k
  let v := maskOfBits bits &&& active
  let w := if m.z then BitVec.allOnes 512 else active ||| ~~~ (lowMask t.lanes)
  srcSlot p (underMask active xs) [vecRange s p 1 a 1, vecRange s p 2 b 1] [checkTags p Fmt.isAri xs none]
    [srcStream s p 1 a, srcStream s p 2 b] [] [.dst (.kmask q v w)] (landK p q v w 3)

/-- VSEL (R161). -/
def semVsel (k : BitVec 3) (d a b : BitVec 6) (s : State) (p : At) : SlotSem :=
  let xs := srcs2 s p a b
  let t := tagOf xs
  let sel := maskOf s p k
  let rs := match xs with
    | [x, y] =>
      if t.isLog then
        ((x.lanes t).zip (y.lanes t)).zipIdx.map fun q => (if sel.getLsbD q.2 then q.1.1 else q.1.2, (0 : Flags))
      else []
    | _ => []
  vecSlot s p d 1 xs [vecRange s p 0 d 1, vecRange s p 1 a 1, vecRange s p 2 b 1]
    [checkDst s p ⟨false, 0⟩ d 1 Fmt.isLog (refTag xs), checkTags p Fmt.isLog xs none]
    [dstStream s p d, srcStream s p 1 a, srcStream s p 2 b] [] (plainRes t (BitVec.allOnes 512) false rs 3)

/-! ### Reductions (R162) -/

/-- The levels of the tree over the lanes of a tag. -/
def treeLevels (t : Fmt) : Nat := t.lanes.log2

/-- A reduction of all lanes, given to every active lane. -/
def reduceLanes (op : Fmt → Nat → Nat → Elem) (t : Fmt) (xs : List Nat) : List Elem × Flags :=
  let r := treeReduce (op t) (treeLevels t) xs 0
  (List.replicate t.lanes (r.1, 0), r.2)

/-- VRSUM (R162). -/
def semVrsum (m : VMask) (d a : BitVec 6) (s : State) (p : At) : SlotSem :=
  vec1 Fmt.isAri 6 (fun _ _ _ => true) (reduceLanes fun t => elemAdd t (rmodeOf s)) m d a s p
/-- VRMAX (R162). -/
def semVrmax (m : VMask) (d a : BitVec 6) : State → At → SlotSem := vec1 Fmt.isAri 6 (fun _ _ _ => true) (reduceLanes elemMax) m d a

/-! ### Broadcast and extract (R163, R164) -/

/-- The lanes of VBCAST: the low bits of a pattern; for bits, a 32-bit pattern over each four lanes (R163). -/
def bcastLanes (f : Fmt) (x : W64) : List Elem :=
  (List.range f.lanes).map fun i =>
    if f == .bits then (x.toNat / 2 ^ (8 * (i % 4)) % 256, 0) else (x.toNat % 2 ^ f.width, 0)

/-- VBCAST (R163). -/
def semVbcast (m : VMask) (d : BitVec 6) (src : BcSrc) (f : BitVec 4) (s : State) (p : At) : SlotSem :=
  let t := Fmt.ofCode f
  let x := match src with
    | .reg a => readS s (p.site 1) a
    | .lit v => v.setWidth 64
  let busy := match src with
    | .reg a => sBusy s a
    | .lit _ => false
  let sem := vecSlot s p d 1 [] [vecRange s p 0 d 1] [checkDst s p m d 1 (fun _ => true) (some t)] [dstStream s p d] []
    (plainRes t (maskOf s p m.k) m.z (bcastLanes t x) 2)
  { sem with stall := sem.stall || busy }

/-- The tags of class ANY. -/
def isAny (f : Fmt) : Bool := f != .raw

/-- VEXT (R164). -/
def semVext (d a b : BitVec 6) (s : State) (p : At) : SlotSem :=
  let xs := [vecSrc s p 1 a 0 []]
  let t := tagOf xs
  let j := (readS s (p.site 2) b).toNat % t.lanes
  let v := match xs with
    | [x] => BitVec.ofNat 64 ((x.lanes t).getD j 0)
    | _ => 0
  let sem := srcSlot p xs [vecRange s p 1 a 1] [checkTags p isAny xs none] [srcStream s p 1 a] []
    [.dst (.sreg d v)] (landS p d v 3)
  { sem with stall := sem.stall || sBusy s b || sBusy s d }

end Sys2Proof.Machine
end

