-- ==== Sys2Proof/Machine/VecConv.lean ====
section
/-! DEFINITION. Conversions, block quantisation and dequantisation, retagging and random bits (R165 to R170). -/

namespace Sys2Proof.Machine

open Sys2Proof

/-- The stochastic mode at COORD plus an index (R141). -/
def srAt (s : State) (i : Nat) : RMode :=
  .sr (generator s.ctx.ctl.seed s.ctx.ctl.tensor (s.ctx.ctl.coord + BitVec.ofNat 64 i))

/-- The mode of a conversion at destination element `i` (R166). -/
def cvtMode (s : State) (sr : Bool) (i : Nat) : RMode := if sr then srAt s i else rmodeOf s

/-- The result of VCVT: the lanes of the target that take part, with the mask and the lanes written (R166). -/
def cvtLanes (s : State) (src tgt : Fmt) (sr half : Bool) (xs : List Nat) : List Elem :=
  let h := if half then 1 else 0
  if tgt.width < src.width then
    List.replicate (h * xs.length) (0, 0) ++
      xs.zipIdx.map (fun x => elemCvt src tgt (cvtMode s sr (h * xs.length + x.2)) x.1) ++
      List.replicate ((1 - h) * xs.length) (0, 0)
  else
    let first := if src.width < tgt.width then h * tgt.lanes else 0
    (sliceOf xs first tgt.lanes).zipIdx.map fun x => elemCvt src tgt (cvtMode s sr x.2) x.1

/-- The lanes of the half that a narrowing conversion writes (R166). -/
def halfMask (half : Bool) (ns : Nat) : BitVec 512 :=
  if half then lowMask (2 * ns) &&& ~~~ (lowMask ns) else lowMask ns

/-- The result of a narrowing conversion: its half alone is written (R166). DESIGN CHOICE (log entry 96): a push into a sink port has
+0 in the other half, for which the spec names no old bytes. Unsafe. -/
def narrowRes (tgt : Fmt) (mask : BitVec 512) (z half : Bool) (ns : Nat) (rs : List Elem) : VRes :=
  let r := plainRes tgt (mask &&& halfMask half ns) false rs 3
  let zeros := maskedBytes tgt.width (halfMask half ns &&& ~~~ mask) false (rs.map fun _ => 0)
  if z then { r with bytes := r.bytes.map fun bs => List.zipWith (fun a b => a.or b) bs zeros } else r

/-- The target tag of a narrowing conversion must stand already, or a push must meet its port's format (R166, R185). -/
def narrowDst (s : State) (p : At) (d : BitVec 6) (tgt : Fmt) : Option Stop :=
  checkDst s p ⟨false, 1⟩ d 1 (fun _ => true) (some tgt)

/-- Whether a source element of VCVT is none of an inactive lane (R148, R166): its lane is active, or it has none. -/
def cvtLive (src tgt : Fmt) (half : Bool) (mask : BitVec 512) (i : Nat) : Bool :=
  let h := if half then 1 else 0
  if tgt.width < src.width then mask.getLsbD (h * src.lanes + i)
  else if src.width < tgt.width then i < h * tgt.lanes || (h + 1) * tgt.lanes ≤ i || mask.getLsbD (i - h * tgt.lanes)
  else mask.getLsbD i

/-- VCVT (R165, R166). -/
def semVcvt (m : VMask) (d a : BitVec 6) (sr half : Bool) (f : BitVec 4) (s : State) (p : At) : SlotSem :=
  let tgt := Fmt.ofCode f
  let x := vecSrc s p 1 a 0 []
  let src := x.tag.getD .raw
  let ok := cvtPair src tgt
  let narrow := ok && tgt.width < src.width
  let rs := if ok then cvtLanes s src tgt sr half (x.lanes src) else []
  let mask := maskOf s p m.k
  let r := if narrow then narrowRes tgt mask m.z half src.lanes rs else plainRes tgt mask m.z rs 3
  let dst := if narrow then narrowDst s p d tgt else checkDst s p m d 1 (fun _ => true) (some tgt)
  let srcBad := if x.tag.isSome && !ok then some (formatStop p 1 src tgt x.addr) else none
  vecSlot s p d 1 [x.under (cvtLive src tgt half mask)] [vecRange s p 0 d 1, vecRange s p 1 a 1] [dst, srcBad]
    [dstStream s p d, srcStream s p 1 a] [] r

/-- A run of `n` vector sources from field A. -/
def runSrcs (s : State) (p : At) (a : BitVec 6) (n : Nat) : List VSrc :=
  (List.range n).map fun k => vecSrc s p 1 a k (popsOf a k)

/-- The range check of a run of `n` registers in a field (R36, R167, R168). -/
def runRange (s : State) (p : At) (field : Nat) (v : BitVec 6) (n : Nat) : Option Stop :=
  if v.toNat < 60 && 60 < v.toNat + n then some (rangeStop p field false (s.ctx.vecAddr v.toNat))
  else vecRange s p field v n

/-- The registers of a source run for a target (R167). -/
def quantRunLen (src tgt : Fmt) : Nat := if src.isFlt then tgt.lanes / src.lanes else 1

/-- The values of a quantised run: an element whose mask bit is 0 is +0 (R167). -/
def quantVals (t : Fmt) (mask : BitVec 512) (xs : List VSrc) : List FVal :=
  (xs.flatMap fun x => x.lanes t).zipIdx.map fun q => if mask.getLsbD q.2 then t.fval q.1 else .fin false 0 0

/-- MX quantisation of a whole granule (R133, R167). -/
def mxGranule (s : State) (tgt : Fmt) (sr : Bool) (vals : List FVal) : VRes :=
  let lf := if tgt == .mxfp8 then e4m3F else e2m1F
  let emax : Int := if tgt == .mxfp8 then 8 else 2
  let blocks := (List.range (tgt.lanes / 32)).map fun b =>
    mxQuant lf emax (fun i => if sr then srAt s (32 * b + i) else .rne) (sliceOf vals (32 * b) 32)
  let side := blocks.map fun b => BitVec.ofNat 8 b.scale
  blkRes tgt (bytesOf tgt.width (blocks.flatMap MxBlock.elems)) (side ++ List.replicate (16 - side.length) 0)
    (blocks.foldl (fun acc b => acc ||| b.flags) 0) 6

/-- QC4 quantisation of a whole granule (R136, R167). -/
def qcGranule (vals : List FVal) : VRes :=
  let b0 := qcQuant (vals.take 256)
  let b1 := qcQuant (vals.drop 256)
  let side := (b0.scales ++ b1.scales).map (BitVec.ofNat 8) ++ leBytes 4 b0.super ++ leBytes 4 b1.super
  blkRes .qc4 (bytesOf 4 (b0.codes ++ b1.codes)) side (b0.flags ||| b1.flags) 6

/-- A quantising slot (R167). -/
def quantSlot (k : BitVec 3) (d a : BitVec 6) (tgt : Fmt) (gran : List FVal → VRes) (s : State) (p : At) : SlotSem :=
  let t := ((vecSrc s p 1 a 0 []).tag).getD .raw
  let n := quantRunLen t tgt
  let xs := runSrcs s p a n
  let r := gran (if t.isFlt then quantVals t (maskOf s p k) xs else List.replicate tgt.lanes (.fin false 0 0))
  let live := xs.zipIdx.map fun x => x.1.under fun i => (maskOf s p k).getLsbD (x.2 * t.lanes + i)
  vecSlot s p d 1 live [vecRange s p 0 d 1, runRange s p 1 a n]
    [checkDst s p ⟨false, k⟩ d 1 (fun _ => true) (some tgt), checkTags p Fmt.isFlt xs none]
    [dstStream s p d, srcStream s p 1 a] [] r

/-- VQMX (R167). -/
def semVqmx (k : BitVec 3) (d a : BitVec 6) (sr : Bool) (f : BitVec 4) (s : State) (p : At) : SlotSem :=
  quantSlot k d a (Fmt.ofCode f) (mxGranule s (Fmt.ofCode f) sr) s p

/-- VQC4 (R167). -/
def semVqc4 (k : BitVec 3) (d a : BitVec 6) (_f : BitVec 4) (s : State) (p : At) : SlotSem :=
  quantSlot k d a .qc4 qcGranule s p

/-- VDQ (R168). -/
def semVdq (m : VMask) (d a : BitVec 6) (f : BitVec 4) (s : State) (p : At) : SlotSem :=
  let tgt := Fmt.ofCode f
  let x := vecSrc s p 1 a 0 []
  let src := x.tag.getD .raw
  let n := if src.isBlk then src.lanes / tgt.lanes else 1
  let mask := maskOf s p m.k
  let rs : List Elem := if src.isBlk then
      (List.range src.lanes).map fun j => tgt.rnd .rne (blkValue src x.bytes x.side j)
    else []
  let parts := (List.range n).map fun i =>
    plainRes tgt (mask >>> (i * tgt.lanes)) m.z (sliceOf rs (i * tgt.lanes) tgt.lanes) 6
  let r : VRes := ⟨tgt, parts.flatMap VRes.bytes, parts.flatMap VRes.sides, parts.flatMap VRes.lanes, [],
    parts.foldl (fun acc q => acc ||| q.flags) 0, 6⟩
  vecSlot s p d n (underMask mask [x]) [runRange s p 0 d n, vecRange s p 1 a 1]
    [if src.isBlk then checkDst s p m d n (fun _ => true) (some tgt) else none, checkTags p Fmt.isBlk [x] none]
    [dstStream s p d, srcStream s p 1 a] [] r

/-- Whether a result in flight carries a sideband for the granule at `a`. -/
def Pending.hasSide (p : Pending) (a : Nat) : Bool :=
  match p.dst with
  | .vec b _ side => b ≤ a && a < b + 256 * (side.length / 16)
  | _ => false

/-- A result in flight whose sideband for the granule at `a` is zero from now on. -/
def Pending.zeroSideAt (a : Nat) (p : Pending) : Pending :=
  match p.dst with
  | .vec b bs side =>
    if p.hasSide a then { p with dst := .vec b bs (side.take (16 * ((a - b) / 256)) ++ zeroSide ++ side.drop (16 * ((a - b) / 256) + 16)) }
    else p
  | _ => p

/-- The zero sideband that VTAG writes with a tag that uses none (R39, R169). DESIGN CHOICE (log entry 99): over the sideband of a
VQMX or VQC4 result still in flight R169 says nothing; R25 lets either of two open writes stand, by a free bit. -/
def Ctx.clearSide (ctr site : Nat) (c : Ctx) (a : Nat) : Ctx :=
  if standPlace ctr site (fun p => p.hasSide a) c.pipe.pend < c.pipe.pend.length then c
  else
    { c with
      basin := c.basin.setSide a zeroSide
      pipe := { c.pipe with pend := c.pipe.pend.map (Pending.zeroSideAt a) } }

/-- VTAG (R169): the tag stands from the next bundle, the data bytes stay. -/
def semVtag (d : BitVec 6) (f : BitVec 4) (s : State) (p : At) : SlotSem :=
  let t := Fmt.ofCode f
  let a := s.ctx.vecAddr d.toNat
  let effect : State → State := fun u =>
    let b := (u.ctx.basin.touch 0 a (List.replicate 256 (some 0))).setTag a t
    let c := { u.ctx with basin := b }
    { u with ctx := if t.isBlk then c else c.clearSide u.freeCtr (p.site 23) a }
  { SlotSem.effect [.dst (.vec a (List.replicate 256 (some 0)) [])] effect with
    stall := vBusy s a 256
    stop := vecRange s p 0 d 1 }

/-- VRAND (R170). -/
def semVrand (m : VMask) (d : BitVec 6) (s : State) (p : At) : SlotSem :=
  let rs : List Elem := (List.range 64).map fun i =>
    ((generator s.ctx.ctl.seed s.ctx.ctl.tensor (s.ctx.ctl.coord + BitVec.ofNat 64 i)).toNat % 2 ^ 32, 0)
  vecSlot s p d 1 [] [vecRange s p 0 d 1] [checkDst s p m d 1 (fun _ => true) (some .int32)] [dstStream s p d] []
    (plainRes .int32 (maskOf s p m.k) m.z rs 4)

end Sys2Proof.Machine
end

