-- ==== Sys2Proof/Machine/VecMem.lean ====
section
/-! DEFINITION. Vector scratchpad accesses, permutes and lane-mask instructions (R149, R171 to R178). -/

namespace Sys2Proof.Machine

open Sys2Proof

/-- The scratchpad address of a V access (R172). -/
def vecMemAddr (s : State) (p : At) (a : BitVec 6) (off : Option (BitVec 32)) : W64 := readS s (p.site 2) a + litOff off

/-- Bytes of the scratchpad as a vector load sees them (R99, R171); uncorrectable data is free (R109). -/
def loadBytes (s : State) (p : At) (a n : Nat) : List Byte :=
  if s.ctx.basin.poisoned 2 a n then
    (List.range n).map fun i => Config.free s.freeCtr (p.site 5 + i) 8
  else readSpad s (fun x => s.ctx.eng.busyAt false x) (p.site 4) a n

/-- MEM_UNCORR of a load, detected when its data lands (R109). -/
def loadFault (p : At) (bad : Bool) (va : W64) (lat : Nat) (t : State) : State :=
  if bad then { t with ctx := t.ctx.land t.freeCtr (p.site 17) (.fault 0x0C va) lat } else t

/-- The bytes of a granule in memory: a record for a block format (R172). -/
def granuleBytes (f : Fmt) : Nat := if f.isBlk then 272 else 256

/-- VLD (R172). -/
def semVld (m : VMask) (d a : BitVec 6) (f : BitVec 4) (off : Option (BitVec 32)) (s : State) (p : At) : SlotSem :=
  let t := Fmt.ofCode f
  let va := vecMemAddr s p a off
  let n := granuleBytes t
  let bs := loadBytes s p va.toNat n
  let r := if t.isBlk then blkRes t (bs.take 256) (bs.drop 256) 0 4
    else plainRes t (maskOf s p m.k) m.z ((lanesOf t.width (bs.take 256)).map fun x => (x, (0 : Flags))) 4
  let bad := s.ctx.basin.poisoned 2 va.toNat n
  let sem := vecSlot s p d 1 [] [vecRange s p 0 d 1] [checkDst s p m d 1 (fun _ => true) (some t)] []
    [spadCheck s va 32 n] r
  { sem with
    stall := sem.stall || sBusy s a || spadBusy s
    apply := fun u => loadFault p bad va 4 (sem.apply u) }

/-- The bytes that VST stores: the selected lanes, or all bytes of a raw granule or record (R173). -/
def storeBytes (t : Fmt) (mask : BitVec 512) (x : VSrc) : List (Option Byte) :=
  if t.isBlk then (x.bytes ++ x.side).map some
  else if t == .raw then x.bytes.map some
  else maskedBytes t.width mask false (x.lanes t)

/-- VST (R173). -/
def semVst (k : BitVec 3) (d a : BitVec 6) (f : BitVec 4) (off : Option (BitVec 32)) (s : State) (p : At) : SlotSem :=
  let x := vecSrc s p 0 d 0 []
  let t := x.tag.getD .raw
  let va := vecMemAddr s p a off
  let n := granuleBytes t
  let dst : PDest := .spad va.toNat (storeBytes t (maskOf s p k) x)
  let want := Fmt.ofCode f
  let fmt1 := if f == 0 then none else checkIs p x want
  let fmt2 := if (t.isBlk || t == .raw) && k != 0 then some (formatStop p 0 t .bits x.addr) else none
  let sem := srcSlot p (underMask (maskOf s p k) [x]) [vecRange s p 0 d 1] [fmt1, fmt2] [] [spadCheck s va 32 n] [.dst dst]
    (fun u => { u with ctx := u.ctx.land u.freeCtr (p.site 16) dst 2 })
  { sem with stall := sem.stall || sBusy s a || spadBusy s }

/-! ### Gather and scatter (R174, R175) -/

/-- The index tag for a data width (R174). -/
def indexTag (w : Nat) (t : Fmt) : Bool :=
  match w with
  | 32 => t == .int32
  | 16 => t == .int16
  | _ => t == .int8 || t == .uint8

/-- The expected index tag for a data width. -/
def indexWant (w : Nat) : Fmt :=
  match w with
  | 32 => .int32
  | 16 => .int16
  | _ => .uint8

/-- The format checks of an indexed form: a data tag in LOG, then the index tag of its width (R174, R177). -/
def indexChecks (p : At) (data idx : VSrc) : List (Option Stop) :=
  let t := data.tag.getD .raw
  let idxBad := match idx.tag with
    | none => none
    | some it => if indexTag t.width it then none else some (formatStop p 2 it (indexWant t.width) idx.addr)
  [checkTags p Fmt.isLog [data] none, if data.tag.isSome then idxBad else none]

/-- The lane addresses of a gather or scatter (R174). -/
def laneAddrs (t it : Fmt) (base : W64) (idx : List Nat) : List W64 :=
  idx.map fun v => base + BitVec.ofInt 64 (it.intVal v * ((t.width / 8 : Nat) : Int))

/-- The active lanes of a list, with their places. -/
def activeLanes {α : Type} (mask : BitVec 512) (xs : List α) : List (α × Nat) := xs.zipIdx.filter fun q => mask.getLsbD q.2

/-- The first active lane's address that fails its check (R174). DESIGN CHOICE (log entry 105): the lowest failing lane, with its own first
failing check, where another lane fails another check. -/
def laneStop (s : State) (mask : BitVec 512) (size : Nat) (as : List W64) : Option Stop :=
  (activeLanes mask as).findSome? fun q => spadCheck s q.1 size size

/-- VLDX (R174): the bytes are read as of its issue, every lane seeing or missing a store of the bundle before alike (R99,
R175), and the result is scoreboarded. -/
def semVldx (m : VMask) (d a b : BitVec 6) (s : State) (p : At) : SlotSem :=
  let old := vecSrc s p 0 d 0 []
  let ix := vecSrc s p 2 b 0 []
  let t := old.tag.getD .raw
  let it := ix.tag.getD .raw
  let mask := maskOf s p m.k
  let size := t.width / 8
  let as := laneAddrs t it (readS s (p.site 1) a) (ix.lanes it)
  let bad := (activeLanes mask as).find? fun q => s.ctx.basin.poisoned 2 q.1.toNat size
  let bytes := as.zipIdx.flatMap fun q =>
    if mask.getLsbD q.2 then
      (if s.ctx.basin.poisoned 2 q.1.toNat size then
          (List.range size).map fun i => some (Config.free s.freeCtr (p.site 5 + 4 * q.2 + i) 8)
        else (readSpadWith s (fun x => s.ctx.eng.busyAt false x) (p.site 6) (p.site 4 + 2 ^ 12 * q.2) q.1.toNat size).map some)
    else if m.z then List.replicate size (some 0)
    else List.replicate size none
  let addr := s.ctx.vecAddr d.toNat
  let effect : State → State := fun u =>
    let id := u.ctx.pipe.nextId
    let c := { u.ctx with
      pipe := { u.ctx.pipe with nextId := id + 1 }
      basin := u.ctx.basin.setTags addr 256 t }
    let va := match bad with
      | some q => q.1
      | none => 0
    let c := c.addSb u.freeCtr (p.site 16) ⟨id, .vec addr, .gather bytes bad.isSome, va, false, []⟩ [.vec addr bytes []]
    { u with ctx := c }
  let sem := srcSlot p (underMask mask [old, ix]) [vecRange s p 0 d 1, vecRange s p 2 b 1] (indexChecks p old ix) []
    [laneStop s mask size as] [.dst (.vec addr bytes [])] effect
  { sem with stall := sem.stall || sBusy s a || spadBusy s }

/-- The bytes that a scatter writes, lane by lane in ascending order. -/
def scatterBytes (t : Fmt) (mask : BitVec 512) (as : List W64) (lanes : List Nat) : List (Nat × Byte) :=
  (activeLanes mask (as.zip lanes)).flatMap fun q =>
    (leBytes (t.width / 8) q.1.2).zipIdx.map fun b => (q.1.1.toNat + b.2, b.1)

/-- VSTX (R174): the writes are made as its scoreboarded result lands; later scratchpad accesses wait (R175). -/
def semVstx (k : BitVec 3) (d a b : BitVec 6) (s : State) (p : At) : SlotSem :=
  let x := vecSrc s p 0 d 0 []
  let ix := vecSrc s p 2 b 0 []
  let t := x.tag.getD .raw
  let it := ix.tag.getD .raw
  let mask := maskOf s p k
  let size := t.width / 8
  let as := laneAddrs t it (readS s (p.site 1) a) (ix.lanes it)
  let ws := scatterBytes t mask as (x.lanes t)
  let effect : State → State := fun u =>
    let id := u.ctx.pipe.nextId
    let c := { u.ctx with pipe := { u.ctx.pipe with nextId := id + 1 } }
    let ds := ws.map fun w => PDest.spad w.1 [some w.2]
    { u with ctx := c.addSb u.freeCtr (p.site 16) ⟨id, .spad, .scatter ws u.ctx.pipe.bundleNo, p.ba, false, []⟩ ds }
  let sem := srcSlot p (underMask mask [x, ix]) [vecRange s p 0 d 1, vecRange s p 2 b 1] (indexChecks p x ix) [] [laneStop s mask size as]
    (ws.map fun w => .dst (.spad w.1 [some w.2])) effect
  { sem with stall := sem.stall || sBusy s a || spadBusy s }

/-- The mask that 64 bytes make (R176). -/
def maskOfBytes (bs : List Byte) : BitVec 512 := BitVec.ofNat 512 (ofLe bs)

/-- VLDM (R176). -/
def semVldm (q : BitVec 3) (a : BitVec 6) (off : Option (BitVec 32)) (s : State) (p : At) : SlotSem :=
  let va := vecMemAddr s p a off
  let v := maskOfBytes (loadBytes s p va.toNat 64)
  let bad := s.ctx.basin.poisoned 2 va.toNat 64
  let all := BitVec.allOnes 512
  let sem := srcSlot p [] [] [] [] [spadCheck s va 64 64] [.dst (.kmask q v all)]
    (fun u => loadFault p bad va 4 (landK p q v all 4 u))
  { sem with stall := sBusy s a || spadBusy s }

/-! ### Permutes (R177) -/

/-- VPERM (R177). -/
def semVperm (m : VMask) (d a b : BitVec 6) (s : State) (p : At) : SlotSem :=
  let x := vecSrc s p 1 a 0 []
  let ix := vecSrc s p 2 b 0 (popsOf a 1)
  let t := x.tag.getD .raw
  let it := ix.tag.getD .raw
  let src := x.lanes t
  let rs := (ix.lanes it).map fun v => (src.getD (v % t.lanes) 0, (0 : Flags))
  let mask := maskOf s p m.k
  let of' := fun i => (ix.lanes it).zipIdx.filter fun v => v.1 % t.lanes == i
  let live := fun i => (of' i).isEmpty || (of' i).any fun v => mask.getLsbD v.2
  vecSlot s p d 1 [x.under live, ix.under fun i => mask.getLsbD i] [vecRange s p 0 d 1, vecRange s p 1 a 1, vecRange s p 2 b 1]
    (checkDst s p m d 1 Fmt.isLog x.tag :: indexChecks p x ix)
    [dstStream s p d, srcStream s p 1 a, srcStream s p 2 b] [] (plainRes t (maskOf s p m.k) m.z rs 3)

/-- VROT (R177). -/
def semVrot (m : VMask) (d a b : BitVec 6) (s : State) (p : At) : SlotSem :=
  let by' := (readS s (p.site 2) b).toNat
  let rot := fun (t : Fmt) (xs : List Nat) =>
    ((List.range t.lanes).map fun i => (xs.getD ((i + by') % t.lanes) 0, (0 : Flags)), (0 : Flags))
  let live := fun (t : Fmt) (mask : BitVec 512) (i : Nat) => mask.getLsbD ((i + (t.lanes - by' % t.lanes)) % t.lanes)
  let sem := vec1 Fmt.isLog 3 live rot m d a s p
  { sem with stall := sem.stall || sBusy s b }

/-- VINTL (R177). -/
def semVintl (m : VMask) (d a b : BitVec 6) (s : State) (p : At) : SlotSem :=
  let xs := srcs2 s p a b
  let t := tagOf xs
  let rs := match xs with
    | [x, y] =>
      (List.range t.lanes).map fun i =>
        (if i % 2 == 0 then (x.lanes t).getD (i / 2) 0 else (y.lanes t).getD (i / 2) 0, (0 : Flags))
    | _ => []
  let live := xs.zipIdx.map fun x => x.1.under fun i => t.lanes ≤ 2 * i || (maskOf s p m.k).getLsbD (2 * i + x.2)
  vecSlot s p d 1 live [vecRange s p 0 d 1, vecRange s p 1 a 1, vecRange s p 2 b 1]
    [checkDst s p m d 1 Fmt.isLog (refTag xs), checkTags p Fmt.isLog xs none]
    [dstStream s p d, srcStream s p 1 a, srcStream s p 2 b] [] (plainRes t (maskOf s p m.k) m.z rs 3)

/-! ### Lane masks (R149, R178) -/

/-- A slot that lands a whole lane mask. -/
def maskResult (p : At) (q : BitVec 3) (v : BitVec 512) (busy : Bool) : SlotSem :=
  { SlotSem.effect [.dst (.kmask q v (BitVec.allOnes 512))] (landK p q v (BitVec.allOnes 512) 1) with stall := busy }

/-- The bitwise functions of KLOG, by the codes of R88. -/
def klogFn (f : BitVec 3) (x y : BitVec 512) : BitVec 512 :=
  match f.toNat with
  | 0 => x &&& y
  | 1 => x ||| y
  | 2 => x ^^^ y
  | 3 => x &&& ~~~ y
  | 4 => x ||| ~~~ y
  | _ => ~~~ (x ||| y)

/-- KLOG (R178). -/
def semKlog (f q x y : BitVec 3) (s : State) (p : At) : SlotSem :=
  maskResult p q (klogFn f (readK s (p.site 1) x) (readK s (p.site 2) y)) false

/-- KPOP (R178). -/
def semKpop (d : BitVec 6) (x : BitVec 3) (s : State) (p : At) : SlotSem :=
  let v := BitVec.ofNat 64 (popCount 512 (readK s (p.site 1) x).toNat)
  { scalarResult p d v 2 with stall := sBusy s d }

/-- KSET (R149). -/
def semKset (q : BitVec 3) (a : BitVec 6) (s : State) (p : At) : SlotSem :=
  let n := (readS s (p.site 1) a).toNat
  maskResult p q (lowMask (if n < 512 then n else 512)) (sBusy s a)

/-- KMOV (R178). -/
def semKmov (q x : BitVec 3) (s : State) (p : At) : SlotSem := maskResult p q (readK s (p.site 1) x) false

end Sys2Proof.Machine
end

