-- ==== Sys2Proof/Machine/Exec.lean ====
section
/-! DEFINITION. The meaning of each instruction, as a bundle of its own at the address of the next bundle (R19, R22, R107). -/

namespace Sys2Proof.Machine

open Sys2Proof

/-- ADD (R82). -/
def execAdd (g : SGuard) (d a b : BitVec 6) (s : State) : Host.Outcome State Fault Refusal :=
  issueOne s (.add g d a b) (semAdd g d a b)
/-- SUB (R82). -/
def execSub (g : SGuard) (d a b : BitVec 6) (s : State) : Host.Outcome State Fault Refusal :=
  issueOne s (.sub g d a b) (semSub g d a b)
/-- MUL (R82). -/
def execMul (g : SGuard) (d a b : BitVec 6) (s : State) : Host.Outcome State Fault Refusal :=
  issueOne s (.mul g d a b) (semMul g d a b)
/-- MULH (R82). -/
def execMulh (g : SGuard) (d a b : BitVec 6) (s : State) : Host.Outcome State Fault Refusal :=
  issueOne s (.mulh g d a b) (semMulh g d a b)
/-- DIV (R84). -/
def execDiv (g : SGuard) (d a b : BitVec 6) (s : State) : Host.Outcome State Fault Refusal :=
  issueOne s (.div g d a b) (semDiv g d a b)
/-- DIVU (R84). -/
def execDivu (g : SGuard) (d a b : BitVec 6) (s : State) : Host.Outcome State Fault Refusal :=
  issueOne s (.divu g d a b) (semDivu g d a b)
/-- REM (R84). -/
def execRem (g : SGuard) (d a b : BitVec 6) (s : State) : Host.Outcome State Fault Refusal :=
  issueOne s (.rem g d a b) (semRem g d a b)
/-- AND (R82). -/
def execAnd (g : SGuard) (d a b : BitVec 6) (s : State) : Host.Outcome State Fault Refusal :=
  issueOne s (.and g d a b) (semAnd g d a b)
/-- OR (R82). -/
def execOr (g : SGuard) (d a b : BitVec 6) (s : State) : Host.Outcome State Fault Refusal :=
  issueOne s (.or g d a b) (semOr g d a b)
/-- XOR (R82). -/
def execXor (g : SGuard) (d a b : BitVec 6) (s : State) : Host.Outcome State Fault Refusal :=
  issueOne s (.xor g d a b) (semXor g d a b)
/-- SHL (R82). -/
def execShl (g : SGuard) (d a b : BitVec 6) (s : State) : Host.Outcome State Fault Refusal :=
  issueOne s (.shl g d a b) (semShl g d a b)
/-- SHR (R82). -/
def execShr (g : SGuard) (d a b : BitVec 6) (s : State) : Host.Outcome State Fault Refusal :=
  issueOne s (.shr g d a b) (semShr g d a b)
/-- SAR (R82). -/
def execSar (g : SGuard) (d a b : BitVec 6) (s : State) : Host.Outcome State Fault Refusal :=
  issueOne s (.sar g d a b) (semSar g d a b)
/-- MIN (R82). -/
def execMin (g : SGuard) (d a b : BitVec 6) (s : State) : Host.Outcome State Fault Refusal :=
  issueOne s (.min g d a b) (semMin g d a b)
/-- MAX (R82). -/
def execMax (g : SGuard) (d a b : BitVec 6) (s : State) : Host.Outcome State Fault Refusal :=
  issueOne s (.max g d a b) (semMax g d a b)
/-- CLZ (R82). -/
def execClz (g : SGuard) (d a : BitVec 6) (s : State) : Host.Outcome State Fault Refusal :=
  issueOne s (.clz g d a) (semClz g d a)
/-- POPC (R82). -/
def execPopc (g : SGuard) (d a : BitVec 6) (s : State) : Host.Outcome State Fault Refusal :=
  issueOne s (.popc g d a) (semPopc g d a)
/-- SEXT (R82). -/
def execSext (g : SGuard) (d a : BitVec 6) (sz : BitVec 2) (s : State) : Host.Outcome State Fault Refusal :=
  issueOne s (.sext g d a sz) (semSext g d a sz)
/-- ADDV (R83). -/
def execAddv (g : SGuard) (d a b : BitVec 6) (s : State) : Host.Outcome State Fault Refusal :=
  issueOne s (.addv g d a b) (semAddv g d a b)
/-- ADDI (R85). -/
def execAddi (g : SGuard) (d a : BitVec 6) (imm : Imm 6) (s : State) : Host.Outcome State Fault Refusal :=
  issueOne s (.addi g d a imm) (semAddi g d a imm)
/-- ANDI (R85). -/
def execAndi (g : SGuard) (d a : BitVec 6) (imm : Imm 6) (s : State) : Host.Outcome State Fault Refusal :=
  issueOne s (.andi g d a imm) (semAndi g d a imm)
/-- ORI (R85). -/
def execOri (g : SGuard) (d a : BitVec 6) (imm : Imm 6) (s : State) : Host.Outcome State Fault Refusal :=
  issueOne s (.ori g d a imm) (semOri g d a imm)
/-- SHLI (R85). -/
def execShli (g : SGuard) (d a : BitVec 6) (sh : BitVec 6) (s : State) : Host.Outcome State Fault Refusal :=
  issueOne s (.shli g d a sh) (semShli g d a sh)
/-- SHRI (R85). -/
def execShri (g : SGuard) (d a : BitVec 6) (sh : BitVec 6) (s : State) : Host.Outcome State Fault Refusal :=
  issueOne s (.shri g d a sh) (semShri g d a sh)
/-- SARI (R85). -/
def execSari (g : SGuard) (d a : BitVec 6) (sh : BitVec 6) (s : State) : Host.Outcome State Fault Refusal :=
  issueOne s (.sari g d a sh) (semSari g d a sh)
/-- LI (R86). -/
def execLi (g : SGuard) (d : BitVec 6) (imm : Imm 12) (s : State) : Host.Outcome State Fault Refusal :=
  issueOne s (.li g d imm) (semLi g d imm)
/-- LIH (R86). -/
def execLih (g : SGuard) (d : BitVec 6) (lit : BitVec 32) (s : State) : Host.Outcome State Fault Refusal :=
  issueOne s (.lih g d lit) (semLih g d lit)
/-- CMP (R87). -/
def execCmp (g : SGuard) (c q : BitVec 3) (a b : BitVec 6) (s : State) : Host.Outcome State Fault Refusal :=
  issueOne s (.cmp g c q a b) (semCmp g c q a b)
/-- CMPI (R87). -/
def execCmpi (g : SGuard) (c q : BitVec 3) (a : BitVec 6) (imm : Imm 6) (s : State) : Host.Outcome State Fault Refusal :=
  issueOne s (.cmpi g c q a imm) (semCmpi g c q a imm)
/-- PLOG (R88). -/
def execPlog (g : SGuard) (f q x y : BitVec 3) (s : State) : Host.Outcome State Fault Refusal :=
  issueOne s (.plog g f q x y) (semPlog g f q x y)
/-- BR (R89). -/
def execBr (g : SGuard) (imm : Imm 18) (s : State) : Host.Outcome State Fault Refusal :=
  issueOne s (.br g imm) (semBr g imm)
/-- CALL (R89). -/
def execCall (g : SGuard) (imm : Imm 18) (s : State) : Host.Outcome State Fault Refusal :=
  issueOne s (.call g imm) (semCall g imm)
/-- JR (R89). -/
def execJr (g : SGuard) (d a : BitVec 6) (s : State) : Host.Outcome State Fault Refusal :=
  issueOne s (.jr g d a) (semJr g d a)
/-- LOOP (R92). -/
def execLoop (g : SGuard) (n : BitVec 1) (a : BitVec 6) (off : Imm 6) (s : State) : Host.Outcome State Fault Refusal :=
  issueOne s (.loop g n a off) (semLoop g n a off)
/-- TEND (R94). -/
def execTend (g : SGuard) (s : State) : Host.Outcome State Fault Refusal :=
  issueOne s (.tend g) (semTend g)
/-- TRAP (R95). -/
def execTrap (g : SGuard) (code : BitVec 12) (s : State) : Host.Outcome State Fault Refusal :=
  issueOne s (.trap g code) (semTrap g code)
/-- RTE (R96). -/
def execRte (g : SGuard) (s : State) : Host.Outcome State Fault Refusal :=
  issueOne s (.rte g) (semRte g)
/-- BRK (R95). -/
def execBrk (g : SGuard) (code : BitVec 12) (s : State) : Host.Outcome State Fault Refusal :=
  issueOne s (.brk g code) (semBrk g code)
/-- LDS.B (R98). -/
def execLdsB (g : SGuard) (d a : BitVec 6) (off : Imm 6) (s : State) : Host.Outcome State Fault Refusal :=
  issueOne s (.ldsB g d a off) (semLdsB g d a off)
/-- LDS.H (R98). -/
def execLdsH (g : SGuard) (d a : BitVec 6) (off : Imm 6) (s : State) : Host.Outcome State Fault Refusal :=
  issueOne s (.ldsH g d a off) (semLdsH g d a off)
/-- LDS.W (R98). -/
def execLdsW (g : SGuard) (d a : BitVec 6) (off : Imm 6) (s : State) : Host.Outcome State Fault Refusal :=
  issueOne s (.ldsW g d a off) (semLdsW g d a off)
/-- LDS.D (R98). -/
def execLdsD (g : SGuard) (d a : BitVec 6) (off : Imm 6) (s : State) : Host.Outcome State Fault Refusal :=
  issueOne s (.ldsD g d a off) (semLdsD g d a off)
/-- STS.B (R98). -/
def execStsB (g : SGuard) (d a : BitVec 6) (off : Imm 6) (s : State) : Host.Outcome State Fault Refusal :=
  issueOne s (.stsB g d a off) (semStsB g d a off)
/-- STS.H (R98). -/
def execStsH (g : SGuard) (d a : BitVec 6) (off : Imm 6) (s : State) : Host.Outcome State Fault Refusal :=
  issueOne s (.stsH g d a off) (semStsH g d a off)
/-- STS.W (R98). -/
def execStsW (g : SGuard) (d a : BitVec 6) (off : Imm 6) (s : State) : Host.Outcome State Fault Refusal :=
  issueOne s (.stsW g d a off) (semStsW g d a off)
/-- STS.D (R98). -/
def execStsD (g : SGuard) (d a : BitVec 6) (off : Imm 6) (s : State) : Host.Outcome State Fault Refusal :=
  issueOne s (.stsD g d a off) (semStsD g d a off)
/-- GLD (R101). -/
def execGld (g : SGuard) (d a : BitVec 6) (sz : BitVec 2) (cls : BitVec 4) (off : Option (BitVec 32))
    (s : State) : Host.Outcome State Fault Refusal :=
  issueOne s (.gld g d a sz cls off) (semGld g d a sz cls off)
/-- GST (R101). -/
def execGst (g : SGuard) (d a : BitVec 6) (sz : BitVec 2) (cls : BitVec 4) (off : Option (BitVec 32))
    (s : State) : Host.Outcome State Fault Refusal :=
  issueOne s (.gst g d a sz cls off) (semGst g d a sz cls off)
/-- MFC (R104). -/
def execMfc (g : SGuard) (d c : BitVec 6) (s : State) : Host.Outcome State Fault Refusal :=
  issueOne s (.mfc g d c) (semMfc g d c)
/-- MTC (R104). -/
def execMtc (g : SGuard) (c a : BitVec 6) (s : State) : Host.Outcome State Fault Refusal :=
  issueOne s (.mtc g c a) (semMtc g c a)
/-- TWAIT (R105). -/
def execTwait (g : SGuard) (o : BitVec 4) (s : State) : Host.Outcome State Fault Refusal :=
  issueOne s (.twait g o) (semTwait g o)
/-- VADD (R154). -/
def execVadd (m : VMask) (d a b : BitVec 6) (s : State) : Host.Outcome State Fault Refusal :=
  issueOne s (.vadd m d a b) (semVadd m d a b)
/-- VSUB (R154). -/
def execVsub (m : VMask) (d a b : BitVec 6) (s : State) : Host.Outcome State Fault Refusal :=
  issueOne s (.vsub m d a b) (semVsub m d a b)
/-- VMUL (R154). -/
def execVmul (m : VMask) (d a b : BitVec 6) (s : State) : Host.Outcome State Fault Refusal :=
  issueOne s (.vmul m d a b) (semVmul m d a b)
/-- VFMA (R155). -/
def execVfma (m : VMask) (d a b : BitVec 6) (s : State) : Host.Outcome State Fault Refusal :=
  issueOne s (.vfma m d a b) (semVfma m d a b)
/-- VFMS (R155). -/
def execVfms (m : VMask) (d a b : BitVec 6) (s : State) : Host.Outcome State Fault Refusal :=
  issueOne s (.vfms m d a b) (semVfms m d a b)
/-- VMIN (R154). -/
def execVmin (m : VMask) (d a b : BitVec 6) (s : State) : Host.Outcome State Fault Refusal :=
  issueOne s (.vmin m d a b) (semVmin m d a b)
/-- VMAX (R154). -/
def execVmax (m : VMask) (d a b : BitVec 6) (s : State) : Host.Outcome State Fault Refusal :=
  issueOne s (.vmax m d a b) (semVmax m d a b)
/-- VABS (R154). -/
def execVabs (m : VMask) (d a : BitVec 6) (s : State) : Host.Outcome State Fault Refusal :=
  issueOne s (.vabs m d a) (semVabs m d a)
/-- VNEG (R154). -/
def execVneg (m : VMask) (d a : BitVec 6) (s : State) : Host.Outcome State Fault Refusal :=
  issueOne s (.vneg m d a) (semVneg m d a)
/-- VRCP (R158). -/
def execVrcp (m : VMask) (d a : BitVec 6) (s : State) : Host.Outcome State Fault Refusal :=
  issueOne s (.vrcp m d a) (semVrcp m d a)
/-- VRSQ (R158). -/
def execVrsq (m : VMask) (d a : BitVec 6) (s : State) : Host.Outcome State Fault Refusal :=
  issueOne s (.vrsq m d a) (semVrsq m d a)
/-- VSQRT (R158). -/
def execVsqrt (m : VMask) (d a : BitVec 6) (s : State) : Host.Outcome State Fault Refusal :=
  issueOne s (.vsqrt m d a) (semVsqrt m d a)
/-- VEXP2 (R158). -/
def execVexp2 (m : VMask) (d a : BitVec 6) (s : State) : Host.Outcome State Fault Refusal :=
  issueOne s (.vexp2 m d a) (semVexp2 m d a)
/-- VLOG2 (R158). -/
def execVlog2 (m : VMask) (d a : BitVec 6) (s : State) : Host.Outcome State Fault Refusal :=
  issueOne s (.vlog2 m d a) (semVlog2 m d a)
/-- VAND (R157). -/
def execVand (m : VMask) (d a b : BitVec 6) (s : State) : Host.Outcome State Fault Refusal :=
  issueOne s (.vand m d a b) (semVand m d a b)
/-- VOR (R157). -/
def execVor (m : VMask) (d a b : BitVec 6) (s : State) : Host.Outcome State Fault Refusal :=
  issueOne s (.vor m d a b) (semVor m d a b)
/-- VXOR (R157). -/
def execVxor (m : VMask) (d a b : BitVec 6) (s : State) : Host.Outcome State Fault Refusal :=
  issueOne s (.vxor m d a b) (semVxor m d a b)
/-- VSHL (R157). -/
def execVshl (m : VMask) (d a b : BitVec 6) (s : State) : Host.Outcome State Fault Refusal :=
  issueOne s (.vshl m d a b) (semVshl m d a b)
/-- VSHR (R157). -/
def execVshr (m : VMask) (d a b : BitVec 6) (s : State) : Host.Outcome State Fault Refusal :=
  issueOne s (.vshr m d a b) (semVshr m d a b)
/-- VSAR (R157). -/
def execVsar (m : VMask) (d a b : BitVec 6) (s : State) : Host.Outcome State Fault Refusal :=
  issueOne s (.vsar m d a b) (semVsar m d a b)
/-- VADDS (R156). -/
def execVadds (m : VMask) (d a b : BitVec 6) (s : State) : Host.Outcome State Fault Refusal :=
  issueOne s (.vadds m d a b) (semVadds m d a b)
/-- VCMP (R159). -/
def execVcmp (m : VMask) (c q : BitVec 3) (a b : BitVec 6) (s : State) : Host.Outcome State Fault Refusal :=
  issueOne s (.vcmp m c q a b) (semVcmp m c q a b)
/-- VSEL (R161). -/
def execVsel (k : BitVec 3) (d a b : BitVec 6) (s : State) : Host.Outcome State Fault Refusal :=
  issueOne s (.vsel k d a b) (semVsel k d a b)
/-- VRSUM (R162). -/
def execVrsum (m : VMask) (d a : BitVec 6) (s : State) : Host.Outcome State Fault Refusal :=
  issueOne s (.vrsum m d a) (semVrsum m d a)
/-- VRMAX (R162). -/
def execVrmax (m : VMask) (d a : BitVec 6) (s : State) : Host.Outcome State Fault Refusal :=
  issueOne s (.vrmax m d a) (semVrmax m d a)
/-- VBCAST (R163). -/
def execVbcast (m : VMask) (d : BitVec 6) (src : BcSrc) (f : BitVec 4) (s : State) : Host.Outcome State Fault Refusal :=
  issueOne s (.vbcast m d src f) (semVbcast m d src f)
/-- VEXT (R164). -/
def execVext (d a b : BitVec 6) (s : State) : Host.Outcome State Fault Refusal :=
  issueOne s (.vext d a b) (semVext d a b)
/-- VPERM (R177). -/
def execVperm (m : VMask) (d a b : BitVec 6) (s : State) : Host.Outcome State Fault Refusal :=
  issueOne s (.vperm m d a b) (semVperm m d a b)
/-- VROT (R177). -/
def execVrot (m : VMask) (d a b : BitVec 6) (s : State) : Host.Outcome State Fault Refusal :=
  issueOne s (.vrot m d a b) (semVrot m d a b)
/-- VINTL (R177). -/
def execVintl (m : VMask) (d a b : BitVec 6) (s : State) : Host.Outcome State Fault Refusal :=
  issueOne s (.vintl m d a b) (semVintl m d a b)
/-- VCVT (R166). -/
def execVcvt (m : VMask) (d a : BitVec 6) (sr half : Bool) (f : BitVec 4) (s : State) : Host.Outcome State Fault Refusal :=
  issueOne s (.vcvt m d a sr half f) (semVcvt m d a sr half f)
/-- VQMX (R167). -/
def execVqmx (k : BitVec 3) (d a : BitVec 6) (sr : Bool) (f : BitVec 4) (s : State) : Host.Outcome State Fault Refusal :=
  issueOne s (.vqmx k d a sr f) (semVqmx k d a sr f)
/-- VQC4 (R167). -/
def execVqc4 (k : BitVec 3) (d a : BitVec 6) (f : BitVec 4) (s : State) : Host.Outcome State Fault Refusal :=
  issueOne s (.vqc4 k d a f) (semVqc4 k d a f)
/-- VDQ (R168). -/
def execVdq (m : VMask) (d a : BitVec 6) (f : BitVec 4) (s : State) : Host.Outcome State Fault Refusal :=
  issueOne s (.vdq m d a f) (semVdq m d a f)
/-- VTAG (R169). -/
def execVtag (d : BitVec 6) (f : BitVec 4) (s : State) : Host.Outcome State Fault Refusal :=
  issueOne s (.vtag d f) (semVtag d f)
/-- VRAND (R170). -/
def execVrand (m : VMask) (d : BitVec 6) (s : State) : Host.Outcome State Fault Refusal :=
  issueOne s (.vrand m d) (semVrand m d)
/-- VLD (R172). -/
def execVld (m : VMask) (d a : BitVec 6) (f : BitVec 4) (off : Option (BitVec 32))
    (s : State) : Host.Outcome State Fault Refusal :=
  issueOne s (.vld m d a f off) (semVld m d a f off)
/-- VST (R173). -/
def execVst (k : BitVec 3) (d a : BitVec 6) (f : BitVec 4) (off : Option (BitVec 32))
    (s : State) : Host.Outcome State Fault Refusal :=
  issueOne s (.vst k d a f off) (semVst k d a f off)
/-- VLDX (R174). -/
def execVldx (m : VMask) (d a b : BitVec 6) (s : State) : Host.Outcome State Fault Refusal :=
  issueOne s (.vldx m d a b) (semVldx m d a b)
/-- VSTX (R174). -/
def execVstx (k : BitVec 3) (d a b : BitVec 6) (s : State) : Host.Outcome State Fault Refusal :=
  issueOne s (.vstx k d a b) (semVstx k d a b)
/-- VLDM (R176). -/
def execVldm (q : BitVec 3) (a : BitVec 6) (off : Option (BitVec 32)) (s : State) : Host.Outcome State Fault Refusal :=
  issueOne s (.vldm q a off) (semVldm q a off)
/-- KLOG (R178). -/
def execKlog (f q x y : BitVec 3) (s : State) : Host.Outcome State Fault Refusal :=
  issueOne s (.klog f q x y) (semKlog f q x y)
/-- KPOP (R178). -/
def execKpop (d : BitVec 6) (x : BitVec 3) (s : State) : Host.Outcome State Fault Refusal :=
  issueOne s (.kpop d x) (semKpop d x)
/-- KSET (R149). -/
def execKset (q : BitVec 3) (a : BitVec 6) (s : State) : Host.Outcome State Fault Refusal :=
  issueOne s (.kset q a) (semKset q a)
/-- KMOV (R178). -/
def execKmov (q x : BitVec 3) (s : State) : Host.Outcome State Fault Refusal :=
  issueOne s (.kmov q x) (semKmov q x)
/-- ANG.LD (R219). -/
def execAngLd (t : EGuard) (a : BitVec 6) (s : State) : Host.Outcome State Fault Refusal :=
  issueOne s (.angLd t a) (semAngLd t a)
/-- ANG.SWAP (R202). -/
def execAngSwap (t : EGuard) (s : State) : Host.Outcome State Fault Refusal :=
  issueOne s (.angSwap t) (semAngSwap t)
/-- PAT.LD (R219). -/
def execPatLd (t : EGuard) (n : BitVec 5) (a : BitVec 6) (s : State) : Host.Outcome State Fault Refusal :=
  issueOne s (.patLd t n a) (semPatLd t n a)
/-- ROTP (R221). -/
def execRotp (t : EGuard) (d a b : BitVec 6) (s : State) : Host.Outcome State Fault Refusal :=
  issueOne s (.rotp t d a b) (semRotp t d a b)
/-- ROTI (R221). -/
def execRoti (t : EGuard) (d a b : BitVec 6) (s : State) : Host.Outcome State Fault Refusal :=
  issueOne s (.roti t d a b) (semRoti t d a b)
/-- ROTG (R222). -/
def execRotg (t : EGuard) (d a b : BitVec 6) (s : State) : Host.Outcome State Fault Refusal :=
  issueOne s (.rotg t d a b) (semRotg t d a b)
/-- TAIL.SET (R220). -/
def execTailSet (t : EGuard) (a b : BitVec 6) (s : State) : Host.Outcome State Fault Refusal :=
  issueOne s (.tailSet t a b) (semTailSet t a b)
/-- ACT.LD (R219). -/
def execActLd (t : EGuard) (a : BitVec 6) (s : State) : Host.Outcome State Fault Refusal :=
  issueOne s (.actLd t a) (semActLd t a)
/-- TRI (R223). -/
def execTri (t : EGuard) (d a b : BitVec 6) (s : State) : Host.Outcome State Fault Refusal :=
  issueOne s (.tri t d a b) (semTri t d a b)
/-- GROT (R223). -/
def execGrot (t : EGuard) (d a b : BitVec 6) (s : State) : Host.Outcome State Fault Refusal :=
  issueOne s (.grot t d a b) (semGrot t d a b)
/-- SWP.SV (R224). -/
def execSwpSv (t : EGuard) (a : BitVec 6) (s : State) : Host.Outcome State Fault Refusal :=
  issueOne s (.swpSv t a) (semSwpSv t a)
/-- SWP.LD (R225). -/
def execSwpLd (t : EGuard) (a : BitVec 6) (s : State) : Host.Outcome State Fault Refusal :=
  issueOne s (.swpLd t a) (semSwpLd t a)
/-- MPROD (R227). -/
def execMprod (t : EGuard) (q : BitVec 3) (a b : BitVec 6) (s : State) : Host.Outcome State Fault Refusal :=
  issueOne s (.mprod t q a b) (semMprod t q a b)
/-- MPRODB (R227). -/
def execMprodb (t : EGuard) (q : BitVec 3) (a b : BitVec 6) (s : State) : Host.Outcome State Fault Refusal :=
  issueOne s (.mprodb t q a b) (semMprodb t q a b)
/-- ACC.Z (R229). -/
def execAccZ (t : EGuard) (q : BitVec 3) (s : State) : Host.Outcome State Fault Refusal :=
  issueOne s (.accZ t q) (semAccZ t q)
/-- ACC.LD (R229). -/
def execAccLd (t : EGuard) (q : BitVec 3) (a : BitVec 6) (s : State) : Host.Outcome State Fault Refusal :=
  issueOne s (.accLd t q a) (semAccLd t q a)
/-- ACC.OUT (R230). -/
def execAccOut (t : EGuard) (q : BitVec 3) (a b : BitVec 6) (s : State) : Host.Outcome State Fault Refusal :=
  issueOne s (.accOut t q a b) (semAccOut t q a b)
/-- ACC.PEER (R232). -/
def execAccPeer (t : EGuard) (q : BitVec 3) (a b : BitVec 6) (s : State) : Host.Outcome State Fault Refusal :=
  issueOne s (.accPeer t q a b) (semAccPeer t q a b)
/-- DRIFT.RD (R233). -/
def execDriftRd (t : EGuard) (d : BitVec 6) (s : State) : Host.Outcome State Fault Refusal :=
  issueOne s (.driftRd t d) (semDriftRd t d)
/-- ARR.Q (R234). -/
def execArrQ (t : EGuard) (d sel : BitVec 6) (s : State) : Host.Outcome State Fault Refusal :=
  issueOne s (.arrQ t d sel) (semArrQ t d sel)
/-- COPY (R280). -/
def execCopy (t : EGuard) (x : BitVec 4) (a b : BitVec 6) (s : State) : Host.Outcome State Fault Refusal :=
  issueOne s (.copy t x a b) (semCopy t x a b)
/-- COPY.RED (R282). -/
def execCopyRed (t : EGuard) (x : BitVec 4) (a b : BitVec 6) (s : State) : Host.Outcome State Fault Refusal :=
  issueOne s (.copyRed t x a b) (semCopyRed t x a b)
/-- GATH (R283). -/
def execGath (t : EGuard) (x : BitVec 4) (a b : BitVec 6) (s : State) : Host.Outcome State Fault Refusal :=
  issueOne s (.gath t x a b) (semGath t x a b)
/-- TPL.LD (R279). -/
def execTplLd (t : EGuard) (x : BitVec 4) (a : BitVec 6) (s : State) : Host.Outcome State Fault Refusal :=
  issueOne s (.tplLd t x a) (semTplLd t x a)
/-- STRM (R284). -/
def execStrm (t : EGuard) (r : BitVec 2) (a : BitVec 6) (x : BitVec 4) (s : State) : Host.Outcome State Fault Refusal :=
  issueOne s (.strm t r a x) (semStrm t r a x)
/-- STRM.CL (R284). -/
def execStrmCl (t : EGuard) (r : BitVec 2) (s : State) : Host.Outcome State Fault Refusal :=
  issueOne s (.strmCl t r) (semStrmCl t r)
/-- XS.OPEN (R285). -/
def execXsOpen (t : EGuard) (d a b : BitVec 6) (s : State) : Host.Outcome State Fault Refusal :=
  issueOne s (.xsOpen t d a b) (semXsOpen t d a b)
/-- TT.SET (R286). -/
def execTtSet (t : EGuard) (e a b : BitVec 6) (s : State) : Host.Outcome State Fault Refusal :=
  issueOne s (.ttSet t e a b) (semTtSet t e a b)
/-- TT.READY (R286). -/
def execTtReady (t : EGuard) (e : BitVec 6) (s : State) : Host.Outcome State Fault Refusal :=
  issueOne s (.ttReady t e) (semTtReady t e)
/-- TT.REL (R286). -/
def execTtRel (t : EGuard) (e : BitVec 6) (s : State) : Host.Outcome State Fault Refusal :=
  issueOne s (.ttRel t e) (semTtRel t e)
/-- TT.BIND (R286). -/
def execTtBind (t : EGuard) (e a : BitVec 6) (s : State) : Host.Outcome State Fault Refusal :=
  issueOne s (.ttBind t e a) (semTtBind t e a)
/-- TT.Q (R287). -/
def execTtQ (t : EGuard) (d e : BitVec 6) (s : State) : Host.Outcome State Fault Refusal :=
  issueOne s (.ttQ t d e) (semTtQ t d e)
/-- FENCE (R263). -/
def execFence (t : EGuard) (sc : BitVec 2) (mask : BitVec 16) (s : State) : Host.Outcome State Fault Refusal :=
  issueOne s (.fence t sc mask) (semFence t sc mask)
/-- DRAIN (R236). -/
def execDrain (t : EGuard) (a : BitVec 6) (s : State) : Host.Outcome State Fault Refusal :=
  issueOne s (.drain t a) (semDrain t a)
/-- ARRIVE (R290). -/
def execArrive (t : EGuard) (a b : BitVec 6) (s : State) : Host.Outcome State Fault Refusal :=
  issueOne s (.arrive t a b) (semArrive t a b)
/-- TREC (R291). -/
def execTrec (t : EGuard) (d a b : BitVec 6) (s : State) : Host.Outcome State Fault Refusal :=
  issueOne s (.trec t d a b) (semTrec t d a b)
/-- POST (R292). -/
def execPost (t : EGuard) (a : BitVec 6) (s : State) : Host.Outcome State Fault Refusal :=
  issueOne s (.post t a) (semPost t a)
/-- TOK.CL (R293). -/
def execTokCl (t : EGuard) (mask : BitVec 16) (s : State) : Host.Outcome State Fault Refusal :=
  issueOne s (.tokCl t mask) (semTokCl t mask)
/-- ATOM.ADD (R294). -/
def execAtomAdd (t : EGuard) (d a b : BitVec 6) (s : State) : Host.Outcome State Fault Refusal :=
  issueOne s (.atomAdd t d a b) (semAtomAdd t d a b)
/-- ATOM.MIN (R294). -/
def execAtomMin (t : EGuard) (d a b : BitVec 6) (s : State) : Host.Outcome State Fault Refusal :=
  issueOne s (.atomMin t d a b) (semAtomMin t d a b)
/-- ATOM.MAX (R294). -/
def execAtomMax (t : EGuard) (d a b : BitVec 6) (s : State) : Host.Outcome State Fault Refusal :=
  issueOne s (.atomMax t d a b) (semAtomMax t d a b)
/-- ATOM.XCH (R294). -/
def execAtomXch (t : EGuard) (d a b : BitVec 6) (s : State) : Host.Outcome State Fault Refusal :=
  issueOne s (.atomXch t d a b) (semAtomXch t d a b)
/-- ATOM.AND (R294). -/
def execAtomAnd (t : EGuard) (d a b : BitVec 6) (s : State) : Host.Outcome State Fault Refusal :=
  issueOne s (.atomAnd t d a b) (semAtomAnd t d a b)
/-- ATOM.OR (R294). -/
def execAtomOr (t : EGuard) (d a b : BitVec 6) (s : State) : Host.Outcome State Fault Refusal :=
  issueOne s (.atomOr t d a b) (semAtomOr t d a b)
/-- ATOM.CAS (R294). -/
def execAtomCas (t : EGuard) (d a b : BitVec 6) (s : State) : Host.Outcome State Fault Refusal :=
  issueOne s (.atomCas t d a b) (semAtomCas t d a b)
/-- RED.ADD (R294). -/
def execRedAdd (t : EGuard) (a b : BitVec 6) (s : State) : Host.Outcome State Fault Refusal :=
  issueOne s (.redAdd t a b) (semRedAdd t a b)
/-- RED.MIN (R294). -/
def execRedMin (t : EGuard) (a b : BitVec 6) (s : State) : Host.Outcome State Fault Refusal :=
  issueOne s (.redMin t a b) (semRedMin t a b)
/-- RED.MAX (R294). -/
def execRedMax (t : EGuard) (a b : BitVec 6) (s : State) : Host.Outcome State Fault Refusal :=
  issueOne s (.redMax t a b) (semRedMax t a b)
/-- COL.SET (R331). -/
def execColSet (t : EGuard) (d a b : BitVec 6) (s : State) : Host.Outcome State Fault Refusal :=
  issueOne s (.colSet t d a b) (semColSet t d a b)
/-- PAV (R332). -/
def execPav (t : EGuard) (d a b : BitVec 6) (s : State) : Host.Outcome State Fault Refusal :=
  issueOne s (.pav t d a b) (semPav t d a b)
/-- BRD.RD (R333). -/
def execBrdRd (t : EGuard) (d a b : BitVec 6) (s : State) : Host.Outcome State Fault Refusal :=
  issueOne s (.brdRd t d a b) (semBrdRd t d a b)
/-- BRD.LV (R334). -/
def execBrdLv (t : EGuard) (d a : BitVec 6) (s : State) : Host.Outcome State Fault Refusal :=
  issueOne s (.brdLv t d a) (semBrdLv t d a)
/-- DPOST (R335). -/
def execDpost (t : EGuard) (d a b : BitVec 6) (s : State) : Host.Outcome State Fault Refusal :=
  issueOne s (.dpost t d a b) (semDpost t d a b)
/-- CAL.RD (R336). -/
def execCalRd (t : EGuard) (d a b : BitVec 6) (s : State) : Host.Outcome State Fault Refusal :=
  issueOne s (.calRd t d a b) (semCalRd t d a b)
/-- CAL.GO (R337). -/
def execCalGo (t : EGuard) (d a b : BitVec 6) (s : State) : Host.Outcome State Fault Refusal :=
  issueOne s (.calGo t d a b) (semCalGo t d a b)
/-- GTIME (R338). -/
def execGtime (t : EGuard) (d : BitVec 6) (s : State) : Host.Outcome State Fault Refusal :=
  issueOne s (.gtime t d) (semGtime t d)
/-- TRIG (R339). -/
def execTrig (t : EGuard) (a : BitVec 6) (s : State) : Host.Outcome State Fault Refusal :=
  issueOne s (.trig t a) (semTrig t a)

end Sys2Proof.Machine
end

