-- ==== Sys2Proof/Machine/ExecEvents.lean ====
section
/-! DEFINITION. The meaning of each event, as a step of the machine. -/

namespace Sys2Proof.Machine

open Sys2Proof

/-- DEFERRED_TRAP_TAKEN (R109). -/
def execDeferredTrapTaken (s : State) : Host.Outcome State Fault Refusal :=
  .next (evDeferredTrapTaken s).tick
/-- EXPOSED_RESULT_LANDING (R24). -/
def execExposedResultLanding (idx : Nat) (s : State) : Host.Outcome State Fault Refusal :=
  .next (evExposedResultLanding idx s).tick
/-- SCOREBOARDED_RESULT_LANDING (R27). -/
def execScoreboardedResultLanding (idx : Nat) (uncorrectable : Bool) (s : State) : Host.Outcome State Fault Refusal :=
  .next (evScoreboardedResultLanding idx uncorrectable s).tick
/-- ENGINE_INSTRUCTION_START (R17). -/
def execEngineInstructionStart (eng : Nat) (s : State) : Host.Outcome State Fault Refusal :=
  .next (evEngineInstructionStart eng s).tick
/-- TOKEN_DONE (R264). -/
def execTokenDone (idx count : Nat) (s : State) : Host.Outcome State Fault Refusal :=
  .next (evTokenDone idx count s).tick
/-- PRE_EMPTION (R115). -/
def execPreEmption (s : State) : Host.Outcome State Fault Refusal :=
  .next (evPreEmption s).tick
/-- CONTEXT_RESTORE (R118). -/
def execContextRestore (lid : BitVec 32) (wid : W64) (s : State) : Host.Outcome State Fault Refusal :=
  .next (evContextRestore lid wid s).tick
/-- DISPATCH_DECISION (R353). -/
def execDispatchDecision (s : State) : Host.Outcome State Fault Refusal :=
  .next (evDispatchDecision s).tick
/-- QUANTUM_END (R353). -/
def execQuantumEnd (s : State) : Host.Outcome State Fault Refusal :=
  .next (evQuantumEnd s).tick
/-- TASK_END (R94). -/
def execTaskEnd (other : Option (BitVec 32 × W64 × List (Nat × BitVec 8))) (s : State) : Host.Outcome State Fault Refusal :=
  .next (evTaskEnd other s).tick
/-- KILL (R119). -/
def execKill (lid : BitVec 32) (wid : Option W64) (s : State) : Host.Outcome State Fault Refusal :=
  .next (evKill lid wid s).tick
/-- KILL_COMPLETION (R119). -/
def execKillCompletion (lid : BitVec 32) (wid : W64) (s : State) : Host.Outcome State Fault Refusal :=
  .next (evKillCompletion lid wid s).tick
/-- LAUNCH_MESSAGE (R340). -/
def execLaunchMessage (host : BitVec 20) (asid : BitVec 16) (hdr : BitVec 2048)
    (s : State) : Host.Outcome State Fault Refusal :=
  .next (evLaunchMessage host asid hdr s).tick
/-- LAUNCH_COMPLETION (R351). -/
def execLaunchCompletion (lid : BitVec 32) (s : State) : Host.Outcome State Fault Refusal :=
  .next (evLaunchCompletion lid s).tick
/-- RECORD_ARRIVAL (R345). -/
def execRecordArrival (h : W64) (arrivals bytes : BitVec 32) (s : State) : Host.Outcome State Fault Refusal :=
  .next (evRecordArrival h arrivals bytes s).tick
/-- RECORD_CREDIT (R345). -/
def execRecordCredit (h : W64) (bytes : Nat) (kind : CreditKind) (s : State) : Host.Outcome State Fault Refusal :=
  .next (evRecordCredit h bytes kind s).tick
/-- PAGE_WALK (R255). -/
def execPageWalk (asid : BitVec 16) (gen : BitVec 20) (va : W64) (s : State) : Host.Outcome State Fault Refusal :=
  .next (evPageWalk asid gen va s).tick
/-- PAGE_REQUEST_ANSWER (R255). -/
def execPageRequestAnswer (asid : BitVec 16) (page : W64) (mapped : Bool) (s : State) : Host.Outcome State Fault Refusal :=
  .next (evPageRequestAnswer asid page mapped s).tick
/-- GENERATION_RAISE (R256). -/
def execGenerationRaise (asid : BitVec 16) (s : State) : Host.Outcome State Fault Refusal :=
  .next (evGenerationRaise asid s).tick
/-- GENERATION_RAISE_COMPLETION (R256). -/
def execGenerationRaiseCompletion (asid : BitVec 16) (s : State) : Host.Outcome State Fault Refusal :=
  .next (evGenerationRaiseCompletion asid s).tick
/-- REMOTE_LINE_EXPIRY (R252). -/
def execRemoteLineExpiry (line : Nat) (s : State) : Host.Outcome State Fault Refusal :=
  .next (evRemoteLineExpiry line s).tick
/-- WRITE_AT_HOME (R246). -/
def execWriteAtHome (wr : HomeWrite) (s : State) : Host.Outcome State Fault Refusal :=
  .next (evWriteAtHome wr s).tick
/-- ATOM_AT_HOME (R267). -/
def execAtomAtHome (idx : Nat) (uncorrectable : Bool) (s : State) : Host.Outcome State Fault Refusal :=
  .next (evAtomAtHome idx uncorrectable s).tick
/-- ACKNOWLEDGEMENT (R266). -/
def execAcknowledgement (idx : Nat) (s : State) : Host.Outcome State Fault Refusal :=
  .next (evAcknowledgement idx s).tick
/-- PEER_DRAIN_ARRIVAL (R214). -/
def execPeerDrainArrival (pkg : BitVec 19) (lcore : BitVec 9 × BitVec 9) (wid : W64) (seq : Nat) (dacc : BitVec 5) (h : W64)
    (data : List (BitVec 32)) (s : State) : Host.Outcome State Fault Refusal :=
  .next (evPeerDrainArrival pkg lcore.1 lcore.2 wid seq dacc h data s).tick
/-- COLLECTIVE_CHUNK (R314). -/
def execCollectiveChunk (idx : Nat) (arrival : Option (BitVec 256 × List (BitVec 8) × Bool))
    (s : State) : Host.Outcome State Fault Refusal :=
  .next (evCollectiveChunk idx arrival s).tick
/-- COLLECTIVE_FIRING_END (R318). -/
def execCollectiveFiringEnd (idx : Nat) (s : State) : Host.Outcome State Fault Refusal :=
  .next (evCollectiveFiringEnd idx s).tick
/-- ENDPOINT_LOST (R307). -/
def execEndpointLost (ep : BitVec 20) (s : State) : Host.Outcome State Fault Refusal :=
  .next (evEndpointLost ep s).tick
/-- FLIT_RECEIVE (R305). -/
def execFlitReceive (port : BitVec 5) (crcValid : Bool) (hdr : BitVec 128) (payload : List (BitVec 8))
    (s : State) : Host.Outcome State Fault Refusal :=
  .next (evFlitReceive port crcValid hdr payload s).tick
/-- BOARD_POST_AT_HOME (R296). -/
def execBoardPostAtHome (who : Caller) (board : W64) (level : BitVec 32) (value : W64)
    (s : State) : Host.Outcome State Fault Refusal :=
  .next (evBoardPostAtHome who board level value s).tick
/-- BOARD_READ_AT_HOME (R297). -/
def execBoardReadAtHome (who : Caller) (board : W64) (slot : Option W64) (s : State) : Host.Outcome State Fault Refusal :=
  .next (evBoardReadAtHome who board slot s).tick
/-- DEMAND_ROW_AT_ARBITER (R325). -/
def execDemandRowAtArbiter (who : Caller) (group : W64) (block : BitVec 8704) (stamp : W64)
    (s : State) : Host.Outcome State Fault Refusal :=
  .next (evDemandRowAtArbiter who group block stamp s).tick
/-- DELIVERED_NOTICE (R326). -/
def execDeliveredNotice (group : W64) (round : BitVec 32) (s : State) : Host.Outcome State Fault Refusal :=
  .next (evDeliveredNotice group round s).tick
/-- STANDBY_TIMEOUT (R326). -/
def execStandbyTimeout (group : W64) (round : BitVec 32) (s : State) : Host.Outcome State Fault Refusal :=
  .next (evStandbyTimeout group round s).tick
/-- PHASE_START (R301). -/
def execPhaseStart (idx : Nat) (s : State) : Host.Outcome State Fault Refusal :=
  .next (evPhaseStart idx s).tick
/-- EXCHANGE_DATA_FLIT (R302). -/
def execExchangeDataFlit (group : W64) (round : BitVec 32) (src dst : Nat) (off : Nat) (data : List (BitVec 8))
    (phase : BitVec 10) (s : State) : Host.Outcome State Fault Refusal :=
  .next (evExchangeDataFlit group round src dst off data phase s).tick
/-- CLOSING_FLIT (R301). -/
def execClosingFlit (group : W64) (round : BitVec 32) (src dst : Nat) (bytes : Nat) (phase : BitVec 10)
    (s : State) : Host.Outcome State Fault Refusal :=
  .next (evClosingFlit group round src dst bytes phase s).tick
/-- ROUND_CANCEL (R329). -/
def execRoundCancel (group : W64) (round : BitVec 32) (s : State) : Host.Outcome State Fault Refusal :=
  .next (evRoundCancel group round s).tick
/-- BOARD_CREATE (R322). -/
def execBoardCreate (handle : W64) (home : BitVec 19) (slots : Nat) (s : State) : Host.Outcome State Fault Refusal :=
  .next (evBoardCreate handle home slots s).tick
/-- REGISTER_PARTICIPANT (R295). -/
def execRegisterParticipant (handle : W64) (pkg : BitVec 19) (lcore : BitVec 9) (index : Nat)
    (s : State) : Host.Outcome State Fault Refusal :=
  .next (evRegisterParticipant handle pkg lcore index s).tick
/-- GROUP_CREATE (R325). -/
def execGroupCreate (handle : W64) (primary standby : BitVec 19) (size : Nat) (s : State) : Host.Outcome State Fault Refusal :=
  .next (evGroupCreate handle primary standby size s).tick
/-- PARTITION_MODE_CHANGE (R368). -/
def execPartitionModeChange (parts : Nat) (s : State) : Host.Outcome State Fault Refusal :=
  .next (evPartitionModeChange parts s).tick
/-- BIND_RECORD_WRITE (R352). -/
def execBindRecordWrite (core : BitVec 9) (rec : BitVec 1024) (s : State) : Host.Outcome State Fault Refusal :=
  .next (evBindRecordWrite core rec s).tick
/-- REDUCTION_WINDOW_SET (R257). -/
def execReductionWindowSet (base len : W64) (s : State) : Host.Outcome State Fault Refusal :=
  .next (evReductionWindowSet base len s).tick
/-- GRAPH_REGISTER (R360). -/
def execGraphRegister (host : BitVec 20) (asid : BitVec 16) (hdrs : List (BitVec 2048)) (after : List (List Nat))
    (s : State) : Host.Outcome State Fault Refusal :=
  .next (evGraphRegister host asid hdrs after s).tick
/-- REPLAY_MESSAGE (R360). -/
def execReplayMessage (graph : Nat) (s : State) : Host.Outcome State Fault Refusal :=
  .next (evReplayMessage graph s).tick
/-- ATTESTATION_REQUEST (R363). -/
def execAttestationRequest (nonce : BitVec 256) (s : State) : Host.Outcome State Fault Refusal :=
  .next (evAttestationRequest nonce s).tick
/-- FEATURE_VECTOR_WRITE (R366). -/
def execFeatureVectorWrite (vec : BitVec 128) (s : State) : Host.Outcome State Fault Refusal :=
  .next (evFeatureVectorWrite vec s).tick
/-- TRIGGER_MESSAGE (R369). -/
def execTriggerMessage (tagv : BitVec 16) (fromFault : Bool) (s : State) : Host.Outcome State Fault Refusal :=
  .next (evTriggerMessage tagv fromFault s).tick
/-- SNAPSHOT_READOUT (R369). -/
def execSnapshotReadout (s : State) : Host.Outcome State Fault Refusal :=
  .next (evSnapshotReadout s).tick
/-- TENANT_SEAL (R364). -/
def execTenantSeal (partn : BitVec 3) (s : State) : Host.Outcome State Fault Refusal :=
  .next (evTenantSeal partn s).tick
/-- TENANT_UNSEAL (R364). -/
def execTenantUnseal (partn : BitVec 3) (s : State) : Host.Outcome State Fault Refusal :=
  .next (evTenantUnseal partn s).tick
/-- INJECTION_CEILING_SET (R364). -/
def execInjectionCeilingSet (port : Option (BitVec 3) × BitVec 5) (vc : BitVec 3) (rate : Nat) (byHost : Bool)
    (s : State) : Host.Outcome State Fault Refusal :=
  .next (evInjectionCeilingSet port.1 port.2 vc rate byHost s).tick
/-- TIME_MESSAGE (R308). -/
def execTimeMessage (now : W64) (s : State) : Host.Outcome State Fault Refusal :=
  .next (evTimeMessage now s).tick
/-- MODULE_RESET (R361). -/
def execModuleReset (img : BootImage) (dies : BitVec 8) (s : State) : Host.Outcome State Fault Refusal :=
  .next (evModuleReset img dies s).tick
/-- RECOVERY_IMAGE (R361). -/
def execRecoveryImage (img : BootImage) (dies : BitVec 8) (s : State) : Host.Outcome State Fault Refusal :=
  .next (evRecoveryImage img dies s).tick
/-- VERSION_COUNTER_ADVANCE (R362). -/
def execVersionCounterAdvance (s : State) : Host.Outcome State Fault Refusal :=
  .next (evVersionCounterAdvance s).tick
/-- CLAMP_STEP_DOWN (R365). -/
def execClampStepDown (s : State) : Host.Outcome State Fault Refusal :=
  .next (evClampStepDown s).tick
/-- CLAMP_STEP_UP (R365). -/
def execClampStepUp (s : State) : Host.Outcome State Fault Refusal :=
  .next (evClampStepUp s).tick
/-- LANE_FAILURE (R307). -/
def execLaneFailure (port : BitVec 5) (s : State) : Host.Outcome State Fault Refusal :=
  .next (evLaneFailure port s).tick
/-- LINK_RETRAIN (R371). -/
def execLinkRetrain (link : Nat) (kind : RetrainKind) (s : State) : Host.Outcome State Fault Refusal :=
  .next (evLinkRetrain link kind s).tick
/-- SRAM_ERROR (R370). -/
def execSramError (block : SramBlock × Nat) (addr : Nat) (double : Bool) (s : State) : Host.Outcome State Fault Refusal :=
  .next (evSramError block.1 block.2 addr double s).tick
/-- BACKGROUND_SCRUB (R370). -/
def execBackgroundScrub (block : SramBlock) (addr : Nat) (s : State) : Host.Outcome State Fault Refusal :=
  .next (evBackgroundScrub block addr s).tick
/-- DIE_RETURN_FROM_RESET (R249). -/
def execDieReturnFromReset (die : BitVec 3) (s : State) : Host.Outcome State Fault Refusal :=
  .next (evDieReturnFromReset die s).tick
/-- CALENDAR_AT_MEMBER (R326). -/
def execCalendarAtMember (group : W64) (round : BitVec 32) (fromStandby : Bool)
    (s : State) : Host.Outcome State Fault Refusal :=
  .next (evCalendarAtMember group round fromStandby s).tick
/-- GRAPH_PATCH (R360). -/
def execGraphPatch (graph : Nat) (node : Nat) (hdr : BitVec 2048) (s : State) : Host.Outcome State Fault Refusal :=
  .next (evGraphPatch graph node hdr s).tick
/-- EVICTED_CONTEXT_RELAUNCH (R120). -/
def execEvictedContextRelaunch (lid : BitVec 32) (wid : W64) (s : State) : Host.Outcome State Fault Refusal :=
  .next (evEvictedContextRelaunch lid wid s).tick
/-- LINK_RETRAIN_DONE (R371). -/
def execLinkRetrainDone (link : Nat) (s : State) : Host.Outcome State Fault Refusal :=
  .next (evLinkRetrainDone link s).tick

end Sys2Proof.Machine
end

