-- ==== Sys2Proof/Machine/Dispatch.lean ====
section
/-! DEFINITION. One arm for each constructor of `Instr`, each a direct call of its meaning. -/

namespace Sys2Proof.Machine

open Sys2Proof

def exec (i : Instr) (s : State) : Host.Outcome State Fault Refusal :=
  match i with
  | .add g d a b => Sys2Proof.Machine.execAdd g d a b s
  | .sub g d a b => Sys2Proof.Machine.execSub g d a b s
  | .mul g d a b => Sys2Proof.Machine.execMul g d a b s
  | .mulh g d a b => Sys2Proof.Machine.execMulh g d a b s
  | .div g d a b => Sys2Proof.Machine.execDiv g d a b s
  | .divu g d a b => Sys2Proof.Machine.execDivu g d a b s
  | .rem g d a b => Sys2Proof.Machine.execRem g d a b s
  | .and g d a b => Sys2Proof.Machine.execAnd g d a b s
  | .or g d a b => Sys2Proof.Machine.execOr g d a b s
  | .xor g d a b => Sys2Proof.Machine.execXor g d a b s
  | .shl g d a b => Sys2Proof.Machine.execShl g d a b s
  | .shr g d a b => Sys2Proof.Machine.execShr g d a b s
  | .sar g d a b => Sys2Proof.Machine.execSar g d a b s
  | .min g d a b => Sys2Proof.Machine.execMin g d a b s
  | .max g d a b => Sys2Proof.Machine.execMax g d a b s
  | .clz g d a => Sys2Proof.Machine.execClz g d a s
  | .popc g d a => Sys2Proof.Machine.execPopc g d a s
  | .sext g d a sz => Sys2Proof.Machine.execSext g d a sz s
  | .addv g d a b => Sys2Proof.Machine.execAddv g d a b s
  | .addi g d a imm => Sys2Proof.Machine.execAddi g d a imm s
  | .andi g d a imm => Sys2Proof.Machine.execAndi g d a imm s
  | .ori g d a imm => Sys2Proof.Machine.execOri g d a imm s
  | .shli g d a sh => Sys2Proof.Machine.execShli g d a sh s
  | .shri g d a sh => Sys2Proof.Machine.execShri g d a sh s
  | .sari g d a sh => Sys2Proof.Machine.execSari g d a sh s
  | .li g d imm => Sys2Proof.Machine.execLi g d imm s
  | .lih g d lit => Sys2Proof.Machine.execLih g d lit s
  | .cmp g c q a b => Sys2Proof.Machine.execCmp g c q a b s
  | .cmpi g c q a imm => Sys2Proof.Machine.execCmpi g c q a imm s
  | .plog g f q x y => Sys2Proof.Machine.execPlog g f q x y s
  | .br g imm => Sys2Proof.Machine.execBr g imm s
  | .call g imm => Sys2Proof.Machine.execCall g imm s
  | .jr g d a => Sys2Proof.Machine.execJr g d a s
  | .loop g n a off => Sys2Proof.Machine.execLoop g n a off s
  | .tend g => Sys2Proof.Machine.execTend g s
  | .trap g code => Sys2Proof.Machine.execTrap g code s
  | .rte g => Sys2Proof.Machine.execRte g s
  | .brk g code => Sys2Proof.Machine.execBrk g code s
  | .ldsB g d a off => Sys2Proof.Machine.execLdsB g d a off s
  | .ldsH g d a off => Sys2Proof.Machine.execLdsH g d a off s
  | .ldsW g d a off => Sys2Proof.Machine.execLdsW g d a off s
  | .ldsD g d a off => Sys2Proof.Machine.execLdsD g d a off s
  | .stsB g d a off => Sys2Proof.Machine.execStsB g d a off s
  | .stsH g d a off => Sys2Proof.Machine.execStsH g d a off s
  | .stsW g d a off => Sys2Proof.Machine.execStsW g d a off s
  | .stsD g d a off => Sys2Proof.Machine.execStsD g d a off s
  | .gld g d a sz cls off => Sys2Proof.Machine.execGld g d a sz cls off s
  | .gst g d a sz cls off => Sys2Proof.Machine.execGst g d a sz cls off s
  | .mfc g d c => Sys2Proof.Machine.execMfc g d c s
  | .mtc g c a => Sys2Proof.Machine.execMtc g c a s
  | .twait g o => Sys2Proof.Machine.execTwait g o s
  | .vadd m d a b => Sys2Proof.Machine.execVadd m d a b s
  | .vsub m d a b => Sys2Proof.Machine.execVsub m d a b s
  | .vmul m d a b => Sys2Proof.Machine.execVmul m d a b s
  | .vfma m d a b => Sys2Proof.Machine.execVfma m d a b s
  | .vfms m d a b => Sys2Proof.Machine.execVfms m d a b s
  | .vmin m d a b => Sys2Proof.Machine.execVmin m d a b s
  | .vmax m d a b => Sys2Proof.Machine.execVmax m d a b s
  | .vabs m d a => Sys2Proof.Machine.execVabs m d a s
  | .vneg m d a => Sys2Proof.Machine.execVneg m d a s
  | .vrcp m d a => Sys2Proof.Machine.execVrcp m d a s
  | .vrsq m d a => Sys2Proof.Machine.execVrsq m d a s
  | .vsqrt m d a => Sys2Proof.Machine.execVsqrt m d a s
  | .vexp2 m d a => Sys2Proof.Machine.execVexp2 m d a s
  | .vlog2 m d a => Sys2Proof.Machine.execVlog2 m d a s
  | .vand m d a b => Sys2Proof.Machine.execVand m d a b s
  | .vor m d a b => Sys2Proof.Machine.execVor m d a b s
  | .vxor m d a b => Sys2Proof.Machine.execVxor m d a b s
  | .vshl m d a b => Sys2Proof.Machine.execVshl m d a b s
  | .vshr m d a b => Sys2Proof.Machine.execVshr m d a b s
  | .vsar m d a b => Sys2Proof.Machine.execVsar m d a b s
  | .vadds m d a b => Sys2Proof.Machine.execVadds m d a b s
  | .vcmp m c q a b => Sys2Proof.Machine.execVcmp m c q a b s
  | .vsel k d a b => Sys2Proof.Machine.execVsel k d a b s
  | .vrsum m d a => Sys2Proof.Machine.execVrsum m d a s
  | .vrmax m d a => Sys2Proof.Machine.execVrmax m d a s
  | .vbcast m d src f => Sys2Proof.Machine.execVbcast m d src f s
  | .vext d a b => Sys2Proof.Machine.execVext d a b s
  | .vperm m d a b => Sys2Proof.Machine.execVperm m d a b s
  | .vrot m d a b => Sys2Proof.Machine.execVrot m d a b s
  | .vintl m d a b => Sys2Proof.Machine.execVintl m d a b s
  | .vcvt m d a sr half f => Sys2Proof.Machine.execVcvt m d a sr half f s
  | .vqmx k d a sr f => Sys2Proof.Machine.execVqmx k d a sr f s
  | .vqc4 k d a f => Sys2Proof.Machine.execVqc4 k d a f s
  | .vdq m d a f => Sys2Proof.Machine.execVdq m d a f s
  | .vtag d f => Sys2Proof.Machine.execVtag d f s
  | .vrand m d => Sys2Proof.Machine.execVrand m d s
  | .vld m d a f off => Sys2Proof.Machine.execVld m d a f off s
  | .vst k d a f off => Sys2Proof.Machine.execVst k d a f off s
  | .vldx m d a b => Sys2Proof.Machine.execVldx m d a b s
  | .vstx k d a b => Sys2Proof.Machine.execVstx k d a b s
  | .vldm q a off => Sys2Proof.Machine.execVldm q a off s
  | .klog f q x y => Sys2Proof.Machine.execKlog f q x y s
  | .kpop d x => Sys2Proof.Machine.execKpop d x s
  | .kset q a => Sys2Proof.Machine.execKset q a s
  | .kmov q x => Sys2Proof.Machine.execKmov q x s
  | .angLd t a => Sys2Proof.Machine.execAngLd t a s
  | .angSwap t => Sys2Proof.Machine.execAngSwap t s
  | .patLd t n a => Sys2Proof.Machine.execPatLd t n a s
  | .rotp t d a b => Sys2Proof.Machine.execRotp t d a b s
  | .roti t d a b => Sys2Proof.Machine.execRoti t d a b s
  | .rotg t d a b => Sys2Proof.Machine.execRotg t d a b s
  | .tailSet t a b => Sys2Proof.Machine.execTailSet t a b s
  | .actLd t a => Sys2Proof.Machine.execActLd t a s
  | .tri t d a b => Sys2Proof.Machine.execTri t d a b s
  | .grot t d a b => Sys2Proof.Machine.execGrot t d a b s
  | .swpSv t a => Sys2Proof.Machine.execSwpSv t a s
  | .swpLd t a => Sys2Proof.Machine.execSwpLd t a s
  | .mprod t q a b => Sys2Proof.Machine.execMprod t q a b s
  | .mprodb t q a b => Sys2Proof.Machine.execMprodb t q a b s
  | .accZ t q => Sys2Proof.Machine.execAccZ t q s
  | .accLd t q a => Sys2Proof.Machine.execAccLd t q a s
  | .accOut t q a b => Sys2Proof.Machine.execAccOut t q a b s
  | .accPeer t q a b => Sys2Proof.Machine.execAccPeer t q a b s
  | .driftRd t d => Sys2Proof.Machine.execDriftRd t d s
  | .arrQ t d sel => Sys2Proof.Machine.execArrQ t d sel s
  | .copy t x a b => Sys2Proof.Machine.execCopy t x a b s
  | .copyRed t x a b => Sys2Proof.Machine.execCopyRed t x a b s
  | .gath t x a b => Sys2Proof.Machine.execGath t x a b s
  | .tplLd t x a => Sys2Proof.Machine.execTplLd t x a s
  | .strm t r a x => Sys2Proof.Machine.execStrm t r a x s
  | .strmCl t r => Sys2Proof.Machine.execStrmCl t r s
  | .xsOpen t d a b => Sys2Proof.Machine.execXsOpen t d a b s
  | .ttSet t e a b => Sys2Proof.Machine.execTtSet t e a b s
  | .ttReady t e => Sys2Proof.Machine.execTtReady t e s
  | .ttRel t e => Sys2Proof.Machine.execTtRel t e s
  | .ttBind t e a => Sys2Proof.Machine.execTtBind t e a s
  | .ttQ t d e => Sys2Proof.Machine.execTtQ t d e s
  | .fence t sc mask => Sys2Proof.Machine.execFence t sc mask s
  | .drain t a => Sys2Proof.Machine.execDrain t a s
  | .arrive t a b => Sys2Proof.Machine.execArrive t a b s
  | .trec t d a b => Sys2Proof.Machine.execTrec t d a b s
  | .post t a => Sys2Proof.Machine.execPost t a s
  | .tokCl t mask => Sys2Proof.Machine.execTokCl t mask s
  | .atomAdd t d a b => Sys2Proof.Machine.execAtomAdd t d a b s
  | .atomMin t d a b => Sys2Proof.Machine.execAtomMin t d a b s
  | .atomMax t d a b => Sys2Proof.Machine.execAtomMax t d a b s
  | .atomXch t d a b => Sys2Proof.Machine.execAtomXch t d a b s
  | .atomAnd t d a b => Sys2Proof.Machine.execAtomAnd t d a b s
  | .atomOr t d a b => Sys2Proof.Machine.execAtomOr t d a b s
  | .atomCas t d a b => Sys2Proof.Machine.execAtomCas t d a b s
  | .redAdd t a b => Sys2Proof.Machine.execRedAdd t a b s
  | .redMin t a b => Sys2Proof.Machine.execRedMin t a b s
  | .redMax t a b => Sys2Proof.Machine.execRedMax t a b s
  | .colSet t d a b => Sys2Proof.Machine.execColSet t d a b s
  | .pav t d a b => Sys2Proof.Machine.execPav t d a b s
  | .brdRd t d a b => Sys2Proof.Machine.execBrdRd t d a b s
  | .brdLv t d a => Sys2Proof.Machine.execBrdLv t d a s
  | .dpost t d a b => Sys2Proof.Machine.execDpost t d a b s
  | .calRd t d a b => Sys2Proof.Machine.execCalRd t d a b s
  | .calGo t d a b => Sys2Proof.Machine.execCalGo t d a b s
  | .gtime t d => Sys2Proof.Machine.execGtime t d s
  | .trig t a => Sys2Proof.Machine.execTrig t a s
  | .deferredTrapTaken => Sys2Proof.Machine.execDeferredTrapTaken s
  | .exposedResultLanding idx => Sys2Proof.Machine.execExposedResultLanding idx s
  | .scoreboardedResultLanding idx uncorrectable => Sys2Proof.Machine.execScoreboardedResultLanding idx uncorrectable s
  | .engineInstructionStart eng => Sys2Proof.Machine.execEngineInstructionStart eng s
  | .tokenDone idx count => Sys2Proof.Machine.execTokenDone idx count s
  | .preEmption => Sys2Proof.Machine.execPreEmption s
  | .contextRestore lid wid => Sys2Proof.Machine.execContextRestore lid wid s
  | .dispatchDecision => Sys2Proof.Machine.execDispatchDecision s
  | .quantumEnd => Sys2Proof.Machine.execQuantumEnd s
  | .taskEnd other => Sys2Proof.Machine.execTaskEnd other s
  | .kill lid wid => Sys2Proof.Machine.execKill lid wid s
  | .killCompletion lid wid => Sys2Proof.Machine.execKillCompletion lid wid s
  | .launchMessage host asid hdr => Sys2Proof.Machine.execLaunchMessage host asid hdr s
  | .launchCompletion lid => Sys2Proof.Machine.execLaunchCompletion lid s
  | .recordArrival h arrivals bytes => Sys2Proof.Machine.execRecordArrival h arrivals bytes s
  | .recordCredit h bytes kind => Sys2Proof.Machine.execRecordCredit h bytes kind s
  | .pageWalk asid gen va => Sys2Proof.Machine.execPageWalk asid gen va s
  | .pageRequestAnswer asid page mapped => Sys2Proof.Machine.execPageRequestAnswer asid page mapped s
  | .generationRaise asid => Sys2Proof.Machine.execGenerationRaise asid s
  | .generationRaiseCompletion asid => Sys2Proof.Machine.execGenerationRaiseCompletion asid s
  | .remoteLineExpiry line => Sys2Proof.Machine.execRemoteLineExpiry line s
  | .writeAtHome wr => Sys2Proof.Machine.execWriteAtHome wr s
  | .atomAtHome idx uncorrectable => Sys2Proof.Machine.execAtomAtHome idx uncorrectable s
  | .acknowledgement idx => Sys2Proof.Machine.execAcknowledgement idx s
  | .peerDrainArrival pkg lcore wid seq dacc h data => Sys2Proof.Machine.execPeerDrainArrival pkg lcore wid seq dacc h data s
  | .collectiveChunk idx arrival => Sys2Proof.Machine.execCollectiveChunk idx arrival s
  | .collectiveFiringEnd idx => Sys2Proof.Machine.execCollectiveFiringEnd idx s
  | .endpointLost ep => Sys2Proof.Machine.execEndpointLost ep s
  | .flitReceive port crcValid hdr payload => Sys2Proof.Machine.execFlitReceive port crcValid hdr payload s
  | .boardPostAtHome who board level value => Sys2Proof.Machine.execBoardPostAtHome who board level value s
  | .boardReadAtHome who board slot => Sys2Proof.Machine.execBoardReadAtHome who board slot s
  | .demandRowAtArbiter who group block stamp => Sys2Proof.Machine.execDemandRowAtArbiter who group block stamp s
  | .deliveredNotice group round => Sys2Proof.Machine.execDeliveredNotice group round s
  | .standbyTimeout group round => Sys2Proof.Machine.execStandbyTimeout group round s
  | .phaseStart idx => Sys2Proof.Machine.execPhaseStart idx s
  | .exchangeDataFlit group round src dst off data phase => Sys2Proof.Machine.execExchangeDataFlit group round src dst off data phase s
  | .closingFlit group round src dst bytes phase => Sys2Proof.Machine.execClosingFlit group round src dst bytes phase s
  | .roundCancel group round => Sys2Proof.Machine.execRoundCancel group round s
  | .boardCreate handle home slots => Sys2Proof.Machine.execBoardCreate handle home slots s
  | .registerParticipant handle pkg lcore index => Sys2Proof.Machine.execRegisterParticipant handle pkg lcore index s
  | .groupCreate handle primary standby size => Sys2Proof.Machine.execGroupCreate handle primary standby size s
  | .partitionModeChange parts => Sys2Proof.Machine.execPartitionModeChange parts s
  | .bindRecordWrite core rec => Sys2Proof.Machine.execBindRecordWrite core rec s
  | .reductionWindowSet base len => Sys2Proof.Machine.execReductionWindowSet base len s
  | .graphRegister host asid hdrs after => Sys2Proof.Machine.execGraphRegister host asid hdrs after s
  | .replayMessage graph => Sys2Proof.Machine.execReplayMessage graph s
  | .attestationRequest nonce => Sys2Proof.Machine.execAttestationRequest nonce s
  | .featureVectorWrite vec => Sys2Proof.Machine.execFeatureVectorWrite vec s
  | .triggerMessage tagv fromFault => Sys2Proof.Machine.execTriggerMessage tagv fromFault s
  | .snapshotReadout => Sys2Proof.Machine.execSnapshotReadout s
  | .tenantSeal partn => Sys2Proof.Machine.execTenantSeal partn s
  | .tenantUnseal partn => Sys2Proof.Machine.execTenantUnseal partn s
  | .injectionCeilingSet port vc rate byHost => Sys2Proof.Machine.execInjectionCeilingSet port vc rate byHost s
  | .timeMessage now => Sys2Proof.Machine.execTimeMessage now s
  | .moduleReset img dies => Sys2Proof.Machine.execModuleReset img dies s
  | .recoveryImage img dies => Sys2Proof.Machine.execRecoveryImage img dies s
  | .versionCounterAdvance => Sys2Proof.Machine.execVersionCounterAdvance s
  | .clampStepDown => Sys2Proof.Machine.execClampStepDown s
  | .clampStepUp => Sys2Proof.Machine.execClampStepUp s
  | .laneFailure port => Sys2Proof.Machine.execLaneFailure port s
  | .linkRetrain link kind => Sys2Proof.Machine.execLinkRetrain link kind s
  | .sramError block addr double => Sys2Proof.Machine.execSramError block addr double s
  | .backgroundScrub block addr => Sys2Proof.Machine.execBackgroundScrub block addr s
  | .dieReturnFromReset die => Sys2Proof.Machine.execDieReturnFromReset die s
  | .calendarAtMember group round fromStandby => Sys2Proof.Machine.execCalendarAtMember group round fromStandby s
  | .graphPatch graph node hdr => Sys2Proof.Machine.execGraphPatch graph node hdr s
  | .evictedContextRelaunch lid wid => Sys2Proof.Machine.execEvictedContextRelaunch lid wid s
  | .linkRetrainDone link => Sys2Proof.Machine.execLinkRetrainDone link s

end Sys2Proof.Machine
end

