-- ==== Sys2Proof/Machine/Bundle.lean ====
section
/-! DEFINITION. Bundles of several slots: the meaning of each slot where it stands, and the slots of a bundle in order (R19, R22,
R49). -/

namespace Sys2Proof.Machine

open Sys2Proof

/-- What a slot does, read at its bundle's start. An event never stands in a bundle. -/
def semOf (i : Instr) : State → At → SlotSem :=
  match i with
  | .add g d a b => semAdd g d a b
  | .sub g d a b => semSub g d a b
  | .mul g d a b => semMul g d a b
  | .mulh g d a b => semMulh g d a b
  | .div g d a b => semDiv g d a b
  | .divu g d a b => semDivu g d a b
  | .rem g d a b => semRem g d a b
  | .and g d a b => semAnd g d a b
  | .or g d a b => semOr g d a b
  | .xor g d a b => semXor g d a b
  | .shl g d a b => semShl g d a b
  | .shr g d a b => semShr g d a b
  | .sar g d a b => semSar g d a b
  | .min g d a b => semMin g d a b
  | .max g d a b => semMax g d a b
  | .clz g d a => semClz g d a
  | .popc g d a => semPopc g d a
  | .sext g d a sz => semSext g d a sz
  | .addv g d a b => semAddv g d a b
  | .addi g d a imm => semAddi g d a imm
  | .andi g d a imm => semAndi g d a imm
  | .ori g d a imm => semOri g d a imm
  | .shli g d a sh => semShli g d a sh
  | .shri g d a sh => semShri g d a sh
  | .sari g d a sh => semSari g d a sh
  | .li g d imm => semLi g d imm
  | .lih g d lit => semLih g d lit
  | .cmp g c q a b => semCmp g c q a b
  | .cmpi g c q a imm => semCmpi g c q a imm
  | .plog g f q x y => semPlog g f q x y
  | .br g imm => semBr g imm
  | .call g imm => semCall g imm
  | .jr g d a => semJr g d a
  | .loop g n a off => semLoop g n a off
  | .tend g => semTend g
  | .trap g code => semTrap g code
  | .rte g => semRte g
  | .brk g code => semBrk g code
  | .ldsB g d a off => semLdsB g d a off
  | .ldsH g d a off => semLdsH g d a off
  | .ldsW g d a off => semLdsW g d a off
  | .ldsD g d a off => semLdsD g d a off
  | .stsB g d a off => semStsB g d a off
  | .stsH g d a off => semStsH g d a off
  | .stsW g d a off => semStsW g d a off
  | .stsD g d a off => semStsD g d a off
  | .gld g d a sz cls off => semGld g d a sz cls off
  | .gst g d a sz cls off => semGst g d a sz cls off
  | .mfc g d c => semMfc g d c
  | .mtc g c a => semMtc g c a
  | .twait g o => semTwait g o
  | .vadd m d a b => semVadd m d a b
  | .vsub m d a b => semVsub m d a b
  | .vmul m d a b => semVmul m d a b
  | .vfma m d a b => semVfma m d a b
  | .vfms m d a b => semVfms m d a b
  | .vmin m d a b => semVmin m d a b
  | .vmax m d a b => semVmax m d a b
  | .vabs m d a => semVabs m d a
  | .vneg m d a => semVneg m d a
  | .vrcp m d a => semVrcp m d a
  | .vrsq m d a => semVrsq m d a
  | .vsqrt m d a => semVsqrt m d a
  | .vexp2 m d a => semVexp2 m d a
  | .vlog2 m d a => semVlog2 m d a
  | .vand m d a b => semVand m d a b
  | .vor m d a b => semVor m d a b
  | .vxor m d a b => semVxor m d a b
  | .vshl m d a b => semVshl m d a b
  | .vshr m d a b => semVshr m d a b
  | .vsar m d a b => semVsar m d a b
  | .vadds m d a b => semVadds m d a b
  | .vcmp m c q a b => semVcmp m c q a b
  | .vsel k d a b => semVsel k d a b
  | .vrsum m d a => semVrsum m d a
  | .vrmax m d a => semVrmax m d a
  | .vbcast m d src f => semVbcast m d src f
  | .vext d a b => semVext d a b
  | .vperm m d a b => semVperm m d a b
  | .vrot m d a b => semVrot m d a b
  | .vintl m d a b => semVintl m d a b
  | .vcvt m d a sr half f => semVcvt m d a sr half f
  | .vqmx k d a sr f => semVqmx k d a sr f
  | .vqc4 k d a f => semVqc4 k d a f
  | .vdq m d a f => semVdq m d a f
  | .vtag d f => semVtag d f
  | .vrand m d => semVrand m d
  | .vld m d a f off => semVld m d a f off
  | .vst k d a f off => semVst k d a f off
  | .vldx m d a b => semVldx m d a b
  | .vstx k d a b => semVstx k d a b
  | .vldm q a off => semVldm q a off
  | .klog f q x y => semKlog f q x y
  | .kpop d x => semKpop d x
  | .kset q a => semKset q a
  | .kmov q x => semKmov q x
  | .angLd t a => semAngLd t a
  | .angSwap t => semAngSwap t
  | .patLd t n a => semPatLd t n a
  | .rotp t d a b => semRotp t d a b
  | .roti t d a b => semRoti t d a b
  | .rotg t d a b => semRotg t d a b
  | .tailSet t a b => semTailSet t a b
  | .actLd t a => semActLd t a
  | .tri t d a b => semTri t d a b
  | .grot t d a b => semGrot t d a b
  | .swpSv t a => semSwpSv t a
  | .swpLd t a => semSwpLd t a
  | .mprod t q a b => semMprod t q a b
  | .mprodb t q a b => semMprodb t q a b
  | .accZ t q => semAccZ t q
  | .accLd t q a => semAccLd t q a
  | .accOut t q a b => semAccOut t q a b
  | .accPeer t q a b => semAccPeer t q a b
  | .driftRd t d => semDriftRd t d
  | .arrQ t d sel => semArrQ t d sel
  | .copy t x a b => semCopy t x a b
  | .copyRed t x a b => semCopyRed t x a b
  | .gath t x a b => semGath t x a b
  | .tplLd t x a => semTplLd t x a
  | .strm t r a x => semStrm t r a x
  | .strmCl t r => semStrmCl t r
  | .xsOpen t d a b => semXsOpen t d a b
  | .ttSet t e a b => semTtSet t e a b
  | .ttReady t e => semTtReady t e
  | .ttRel t e => semTtRel t e
  | .ttBind t e a => semTtBind t e a
  | .ttQ t d e => semTtQ t d e
  | .fence t sc mask => semFence t sc mask
  | .drain t a => semDrain t a
  | .arrive t a b => semArrive t a b
  | .trec t d a b => semTrec t d a b
  | .post t a => semPost t a
  | .tokCl t mask => semTokCl t mask
  | .atomAdd t d a b => semAtomAdd t d a b
  | .atomMin t d a b => semAtomMin t d a b
  | .atomMax t d a b => semAtomMax t d a b
  | .atomXch t d a b => semAtomXch t d a b
  | .atomAnd t d a b => semAtomAnd t d a b
  | .atomOr t d a b => semAtomOr t d a b
  | .atomCas t d a b => semAtomCas t d a b
  | .redAdd t a b => semRedAdd t a b
  | .redMin t a b => semRedMin t a b
  | .redMax t a b => semRedMax t a b
  | .colSet t d a b => semColSet t d a b
  | .pav t d a b => semPav t d a b
  | .brdRd t d a b => semBrdRd t d a b
  | .brdLv t d a => semBrdLv t d a
  | .dpost t d a b => semDpost t d a b
  | .calRd t d a b => semCalRd t d a b
  | .calGo t d a b => semCalGo t d a b
  | .gtime t d => semGtime t d
  | .trig t a => semTrig t a
  | .deferredTrapTaken => fun _ _ => SlotSem.nop
  | .exposedResultLanding _ => fun _ _ => SlotSem.nop
  | .scoreboardedResultLanding _ _ => fun _ _ => SlotSem.nop
  | .engineInstructionStart _ => fun _ _ => SlotSem.nop
  | .tokenDone _ _ => fun _ _ => SlotSem.nop
  | .preEmption => fun _ _ => SlotSem.nop
  | .contextRestore _ _ => fun _ _ => SlotSem.nop
  | .dispatchDecision => fun _ _ => SlotSem.nop
  | .quantumEnd => fun _ _ => SlotSem.nop
  | .taskEnd _ => fun _ _ => SlotSem.nop
  | .kill _ _ => fun _ _ => SlotSem.nop
  | .killCompletion _ _ => fun _ _ => SlotSem.nop
  | .launchMessage _ _ _ => fun _ _ => SlotSem.nop
  | .launchCompletion _ => fun _ _ => SlotSem.nop
  | .recordArrival _ _ _ => fun _ _ => SlotSem.nop
  | .recordCredit _ _ _ => fun _ _ => SlotSem.nop
  | .pageWalk _ _ _ => fun _ _ => SlotSem.nop
  | .pageRequestAnswer _ _ _ => fun _ _ => SlotSem.nop
  | .generationRaise _ => fun _ _ => SlotSem.nop
  | .generationRaiseCompletion _ => fun _ _ => SlotSem.nop
  | .remoteLineExpiry _ => fun _ _ => SlotSem.nop
  | .writeAtHome _ => fun _ _ => SlotSem.nop
  | .atomAtHome _ _ => fun _ _ => SlotSem.nop
  | .acknowledgement _ => fun _ _ => SlotSem.nop
  | .peerDrainArrival _ _ _ _ _ _ _ => fun _ _ => SlotSem.nop
  | .collectiveChunk _ _ => fun _ _ => SlotSem.nop
  | .collectiveFiringEnd _ => fun _ _ => SlotSem.nop
  | .endpointLost _ => fun _ _ => SlotSem.nop
  | .flitReceive _ _ _ _ => fun _ _ => SlotSem.nop
  | .boardPostAtHome _ _ _ _ => fun _ _ => SlotSem.nop
  | .boardReadAtHome _ _ _ => fun _ _ => SlotSem.nop
  | .demandRowAtArbiter _ _ _ _ => fun _ _ => SlotSem.nop
  | .deliveredNotice _ _ => fun _ _ => SlotSem.nop
  | .standbyTimeout _ _ => fun _ _ => SlotSem.nop
  | .phaseStart _ => fun _ _ => SlotSem.nop
  | .exchangeDataFlit _ _ _ _ _ _ _ => fun _ _ => SlotSem.nop
  | .closingFlit _ _ _ _ _ _ => fun _ _ => SlotSem.nop
  | .roundCancel _ _ => fun _ _ => SlotSem.nop
  | .boardCreate _ _ _ => fun _ _ => SlotSem.nop
  | .registerParticipant _ _ _ _ => fun _ _ => SlotSem.nop
  | .groupCreate _ _ _ _ => fun _ _ => SlotSem.nop
  | .partitionModeChange _ => fun _ _ => SlotSem.nop
  | .bindRecordWrite _ _ => fun _ _ => SlotSem.nop
  | .reductionWindowSet _ _ => fun _ _ => SlotSem.nop
  | .graphRegister _ _ _ _ => fun _ _ => SlotSem.nop
  | .replayMessage _ => fun _ _ => SlotSem.nop
  | .attestationRequest _ => fun _ _ => SlotSem.nop
  | .featureVectorWrite _ => fun _ _ => SlotSem.nop
  | .triggerMessage _ _ => fun _ _ => SlotSem.nop
  | .snapshotReadout => fun _ _ => SlotSem.nop
  | .tenantSeal _ => fun _ _ => SlotSem.nop
  | .tenantUnseal _ => fun _ _ => SlotSem.nop
  | .injectionCeilingSet _ _ _ _ => fun _ _ => SlotSem.nop
  | .timeMessage _ => fun _ _ => SlotSem.nop
  | .moduleReset _ _ => fun _ _ => SlotSem.nop
  | .recoveryImage _ _ => fun _ _ => SlotSem.nop
  | .versionCounterAdvance => fun _ _ => SlotSem.nop
  | .clampStepDown => fun _ _ => SlotSem.nop
  | .clampStepUp => fun _ _ => SlotSem.nop
  | .laneFailure _ => fun _ _ => SlotSem.nop
  | .linkRetrain _ _ => fun _ _ => SlotSem.nop
  | .sramError _ _ _ => fun _ _ => SlotSem.nop
  | .backgroundScrub _ _ => fun _ _ => SlotSem.nop
  | .dieReturnFromReset _ => fun _ _ => SlotSem.nop
  | .calendarAtMember _ _ _ => fun _ _ => SlotSem.nop
  | .graphPatch _ _ _ => fun _ _ => SlotSem.nop
  | .evictedContextRelaunch _ _ => fun _ _ => SlotSem.nop
  | .linkRetrainDone _ => fun _ _ => SlotSem.nop

/-- The place of a slot among the earlier slots of its class. -/
def nthOf (k : Nat) (done : List Slot) : Nat := (done.filter fun x => x.2.cls == k).length

/-- The slots of a bundle of `len` words, in order: each knows its place and the ports that earlier slots pop (R19, R49). -/
def placeSlots (s : State) (len : Nat) : List Slot → List Slot → List Nat → List Placed
  | [], _, _ => []
  | x :: rest, done, popped =>
    let sem := semOf x.2 s ⟨s.ctx.regs.pc, len, x.1, nthOf x.2.cls done, popped⟩
    (x.1, sem) :: placeSlots s len rest (done ++ [x]) (popped ++ sem.pops)

/-- The slots of the bundle at the address of the next bundle. -/
def placed (s : State) (ws : List IWord) (slots : List Slot) : List Placed := placeSlots s ws.length slots [] []

end Sys2Proof.Machine
end

