-- ==== Sys2Proof/Machine/Progress.lean ====
section
/-! DEFINITION. What the machine does on its own when its agenda is empty: the fetched bundle, and the internal event that
comes next while the core stalls or is idle (log entry 1); and a word placed for the next fetch (log entry 9). -/

namespace Sys2Proof.Machine

open Sys2Proof

/-! ### Internal events -/

/-- The effect of an internal event: one that the units of this package bring about without a message from outside. Other
instructions have none here. -/
def internalEffect (e : Instr) (s : State) : State :=
  match e with
  | .writeAtHome wr => evWriteAtHome wr s
  | .atomAtHome i u => evAtomAtHome i u s
  | .acknowledgement i => evAcknowledgement i s
  | .scoreboardedResultLanding i u => evScoreboardedResultLanding i u s
  | .tokenDone i n => evTokenDone i n s
  | .engineInstructionStart n => evEngineInstructionStart n s
  | .boardPostAtHome who b l v => evBoardPostAtHome who b l v s
  | .boardReadAtHome who b x => evBoardReadAtHome who b x s
  | .demandRowAtArbiter who g b t => evDemandRowAtArbiter who g b t s
  | .calendarAtMember g k x => evCalendarAtMember g k x s
  | .phaseStart i => evPhaseStart i s
  | .collectiveChunk i x => evCollectiveChunk i x s
  | .collectiveFiringEnd i => evCollectiveFiringEnd i s
  | .taskEnd x => evTaskEnd x s
  | .killCompletion lid wid => evKillCompletion lid wid s
  | .launchCompletion lid => evLaunchCompletion lid s
  | .generationRaiseCompletion asid => evGenerationRaiseCompletion asid s
  | .dispatchDecision => evDispatchDecision s
  | _ => s

/-- The accesses, results and started instructions of the running context and of the saved ones, by number. -/
def indices (s : State) (size : Ctx → Nat) : List Nat :=
  List.range (s.sched.saved.foldl (fun n x => n + size x.ctx) (size s.ctx))

/-- The internal events that may come next, in the order in which the machine looks for one. -/
def internalEvents (s : State) : List Instr :=
  let accs := indices s fun c => c.eng.accs.length
  let begun := indices s fun c => c.eng.started.length
  let own := begun.flatMap fun i =>
    [Instr.tokenDone i 1, .boardPostAtHome (.own i) 0 0 0, .boardReadAtHome (.own i) 0 none,
      .demandRowAtArbiter (.own i) 0 0 0, .phaseStart i]
  (accs.map fun i => Instr.writeAtHome (.own i)) ++ (accs.map fun i => .atomAtHome i false) ++
    (accs.map fun i => .acknowledgement i) ++
    ((indices s fun c => c.pipe.sb.length).map fun i => .scoreboardedResultLanding i false) ++
    own ++ [.engineInstructionStart 0, .engineInstructionStart 1, .engineInstructionStart 2] ++
    (s.fab.groups.flatMap fun g => g.rounds.map fun r => .calendarAtMember g.handle r.num (s.pkgLost g.primary)) ++
    ((List.range s.fab.colls.length).flatMap fun i => [.collectiveChunk i none, .collectiveFiringEnd i]) ++
    [.taskEnd none, .killCompletion s.ctx.lid s.ctx.ctl.wid] ++
    (s.sched.saved.map fun x => .killCompletion x.ctx.lid x.ctx.ctl.wid) ++
    (s.sched.launches.map fun l => .launchCompletion l.lid) ++
    (s.mem.raises.map fun a => .generationRaiseCompletion a) ++ [.dispatchDecision]

/-- The first internal event that changes something. -/
def nextInternal (s : State) : Option Instr := (internalEvents s).find? fun e => internalEffect e s != s

/-- The internal event that comes next, or time alone passes. -/
def goOn (s : State) : State :=
  match nextInternal s with
  | some e => (internalEffect e s).tick
  | none => s.tick

/-! ### The sequencer -/

/-- A bundle of several slots issues, unless it stalls: then an internal event comes next (R17, R22). -/
def runSlots (s : State) (ws : List IWord) (slots : List Slot) : State :=
  let ps := placed s ws slots
  if stalls s ps then goOn s.spend
  else issueBundle s ps s.ctx.regs.pc (s.ctx.regs.pc + BitVec.ofNat 64 ws.length)

/-- The slot of a bundle that stands alone in it. -/
def onlySlot (slots : List Slot) : Option Instr :=
  match slots with
  | [(_, i)] => some i
  | _ => none

/-- Whether an instruction that is a bundle of its own stalls. -/
def stallsAlone (s : State) (i : Instr) : Bool := stalls s [(0, semOf i s (alone s i))]

/-- Whether an instruction is an event, which no bundle holds. -/
def isEvent (i : Instr) : Bool := (i.enc true).isNone

/-! ### A word placed for the next fetch (log entry 9) -/

/-- The bytes of code words. -/
def wordBytes (ws : List IWord) : List Byte := ws.flatMap fun w => leBytes 4 w.toNat

/-- Eight words of code: the word `w` with E = 1, the word after it, and zeros. -/
def placedWords (nbits w : Nat) : List IWord :=
  let v := w % 2 ^ nbits
  [BitVec.ofNat 32 v ||| 0x80000000, BitVec.ofNat 32 (v / 2 ^ 32), 0, 0, 0, 0, 0, 0]

/-- A TLB entry that maps the 1 GiB page at a base to the same local address, writable and executable. -/
def flatEntry (s : State) (base : Nat) : TlbEntry :=
  ⟨s.ctx.asid, s.mem.gen s.ctx.asid, base, 30, BitVec.ofNat 64 (base + 15)⟩

/-- A launch header with CODE 0 and the largest CODELEN. -/
def openCode (h : BitVec 2048) : BitVec 2048 :=
  BitVec.ofNat 2048 (h.toNat - hdrBits h 64 32 * 2 ^ 64 - hdrBits h 128 57 * 2 ^ 128 + (2 ^ 32 - 1) * 2 ^ 64)

/-- Words stored at the code address of the next bundle, with what fetching and issuing them needs: a running task, a header
and a TLB entry that reach them, no die in reset, no deferred trap, no agenda. -/
def placeWords (s : State) (ws : List IWord) : State :=
  let pc := s.ctx.regs.pc.toNat % 2 ^ 31
  let base := 4 * pc / 2 ^ 30 * 2 ^ 30
  let keys := (List.range ws.length).map fun i => keptKey s.ctx.lid (pc + i)
  { s with
    mode := .running
    agenda := []
    ctx := { s.ctx with
      hdr := openCode s.ctx.hdr
      regs := { s.ctx.regs with pc := BitVec.ofNat 64 pc }
      pipe := { s.ctx.pipe with deferred := [] } }
    mem := { s.mem with
      gmem := s.mem.gmem.writeAll (4 * pc) (wordBytes ws)
      tlb1 := flatEntry s base :: flatEntry s (base + 2 ^ 30) :: s.mem.tlb1.take 126
      heldReset := 0
      kept := keys.zip ws ++ s.mem.kept.filter fun k => !(keys.contains k.1) } }

end Sys2Proof.Machine
end

