-- ==== Sys2Proof/Machine/Step.lean ====
section
/-! DEFINITION. One step of the machine: the next event of the agenda, else what the core and its units do on their own. -/

namespace Sys2Proof.Machine

open Sys2Proof

/-- A fetched bundle: a slot that stands alone is executed, unless it stalls. -/
def runBundle (s : State) (ws : List IWord) (slots : List Slot) : Host.Outcome State Fault Refusal :=
  match onlySlot slots with
  | some i => if stallsAlone s i then .next (goOn s.spend) else exec i s
  | none => .next (runSlots s ws slots)

/-- The running core: a deferred trap that is due is taken (R109); else the bundle at the pc is fetched and runs. -/
def stepRunning (s : State) : Host.Outcome State Fault Refusal :=
  if s.trapDue then exec .deferredTrapTaken s
  else
    match fetchBundle s with
    | .stop st nb => .next ((takeStop s st s.ctx.regs.pc nb).spend.tick)
    | .waits => .next (goOn s)
    | .bundle ws slots => runBundle (s.keepWords ws) ws slots

/-- One step: the first event of the agenda; with none, the running core, or an internal event. -/
def step (s : State) : Host.Outcome State Fault Refusal :=
  match s.agenda with
  | e :: rest => if isEvent e then exec e { s with agenda := rest } else .fault .agendaNotEvent
  | [] => if s.mode == .running then stepRunning s else .next (goOn s)

/-- `s` with an instruction stored where `step` fetches its next one (log entry 9). -/
def State.withFetchWord (s : State) (nbits w : Nat) : State := placeWords s (placedWords nbits w)

end Sys2Proof.Machine
end

