-- ==== Sys2Proof/Safety.lean ====
section
/-! DEFINITION. What holds of a machine that runs as it should: memory in its canonical form, the hard-wired registers, legal
modes (R30 to R32, R108, R365, R367). -/

namespace Sys2Proof.Machine

open Sys2Proof

/-- The byte maps of a context are in canonical form. -/
def Ctx.memWf (c : Ctx) : Bool :=
  c.basin.reg.wf && c.basin.acc.wf && c.basin.spad.wf && c.basin.side.wf && c.log.wf && c.snap.wf

/-- The byte maps of a launch are in canonical form. -/
def Launch.memWf (l : Launch) : Bool := Mem.wf l.snap && (l.logs.all fun x => Mem.wf x.2.2) && l.restLogs.all fun x => Mem.wf x.2.2

/-- Every byte map of the machine is in canonical form. -/
def State.memWf (s : State) : Bool :=
  s.mem.gmem.wf && s.mem.cistern.wf && s.ctx.memWf && (s.sched.saved.all fun x => x.ctx.memWf) &&
    (s.sched.launches.all fun l => l.memWf) && s.sched.tasks.all fun t => Mem.wf t.log

/-- The management registers hold legal values: a partition mode of Table 23-4 and a clock within the clamp's range. -/
def Mgmt.legal (m : Mgmt) : Bool := modeExists m.parts && decide (2000 ≤ m.clamp) && decide (m.clamp ≤ 3000)

/-- The hard-wired registers of a context: s0 is stored as 0, p0 and k0 too, and are read as the manual says. -/
def Regs.wired (r : Regs) : Bool := r.s[0] == 0

/-- A step that ends in a next state. -/
def completes (o : Host.Outcome State Fault Refusal) : Bool :=
  match o with
  | .next _ => true
  | .fault _ => false
  | .refused _ => false

/-! ### A bundle of one slot -/

/-- The bundle at the pc ends no active loop (R93). -/
def State.noLoopEnd (s : State) : Prop :=
  (s.ctx.loopActive false = true → s.ctx.tr.lend0 ≠ s.ctx.regs.pc) ∧
    (s.ctx.loopActive true = true → s.ctx.tr.lend1 ≠ s.ctx.regs.pc)

/-- No result is in flight or outstanding, so that every register reads as it stands (R24, R27), and the bundle at the pc ends
no active loop. -/
def State.ready (s : State) : Prop := s.ctx.pipe.pend = [] ∧ s.ctx.pipe.sb = [] ∧ s.noLoopEnd

/-- The address after an instruction that is a bundle of its own. -/
def State.nb (s : State) (i : Instr) : W64 := s.ctx.regs.pc + BitVec.ofNat 64 i.len

/-- `s` after a bundle that leaves the context `c`: control goes to `pc`, the bundle is counted, cycles and time pass. -/
def State.finished (s : State) (c : Ctx) (pc : W64) : State :=
  { s with
    ctx := { c with
      regs := { c.regs with pc := pc }
      pipe := { c.pipe with bundleNo := s.ctx.pipe.bundleNo + 1 }
      ctl := { c.ctl with cycle := s.ctx.ctl.cycle + 1 + BitVec.ofNat 64 (Config.freeNat s.freeCtr 0) } }
    freeCtr := s.freeCtr + 1
    fab := { s.fab with time := laterTime s.fab.time (Config.freeNat s.freeCtr 1) } }

/-- A result on its way to `d`, in place before the bundle `lat` bundles later issues (R24); one that `d` discards is none. -/
def Ctx.flying (c : Ctx) (d : PDest) (lat : Nat) : Ctx :=
  if d.discarded then c
  else { c with pipe := { c.pipe with pend := c.pipe.pend ++ [⟨d, c.pipe.bundleNo + lat, false⟩] } }

/-- A scalar result that is scoreboarded and whose value is ready (R27); s0 keeps nothing outstanding. -/
def Ctx.owing (c : Ctx) (d : BitVec 6) (v addr : W64) : Ctx :=
  { c with pipe := { c.pipe with
      nextId := c.pipe.nextId + 1
      sb := if d = 0 then c.pipe.sb else c.pipe.sb ++ [⟨c.pipe.nextId, .sreg d, .value v 0, addr, false, []⟩] } }

end Sys2Proof.Machine
end

