-- ==== Sys2Proof/Certificates/Slice0/Obligations.lean ====
section
/-! DEFINITION. The statements for the provers: what each instruction and event does where it completes, where it traps or waits,
decoding, the step, reset, and what every step keeps. `Sys2Proof.Claims` holds what they are stated with. -/

/-! ### The scalar slots (R80 to R105) -/

namespace Sys2Proof.Claims

open Sys2Proof Sys2Proof.Machine

/-- The three-register operations of Table 5-2 with latency 1, and what each computes. -/
def aluRows : List ((SGuard → BitVec 6 → BitVec 6 → BitVec 6 → Instr) × (W64 → W64 → W64)) :=
  [(.add, fun x y => x + y), (.sub, fun x y => x - y), (.and, fun x y => x &&& y), (.or, fun x y => x ||| y),
    (.xor, fun x y => x ^^^ y), (.shl, fun x y => x <<< (y.toNat % 64)), (.shr, fun x y => x >>> (y.toNat % 64)),
    (.sar, fun x y => x.sshiftRight (y.toNat % 64)), (.min, fun x y => if x.toInt < y.toInt then x else y),
    (.max, fun x y => if x.toInt < y.toInt then y else x)]

/-- MUL and MULH (latency 3): the product modulo 2^64, and bits 127:64 of the signed product. -/
def mulRows : List ((SGuard → BitVec 6 → BitVec 6 → BitVec 6 → Instr) × (W64 → W64 → W64)) :=
  [(.mul, fun x y => x * y),
    (.mulh, fun x y => (x.signExtend 128 * y.signExtend 128).extractLsb' 64 64)]

/-- The divisions of R84. -/
def divRows : List ((SGuard → BitVec 6 → BitVec 6 → BitVec 6 → Instr) × (W64 → W64 → W64)) :=
  [(.div, fun x y => BitVec.ofInt 64 (x.toInt.tdiv y.toInt)), (.divu, fun x y => BitVec.ofNat 64 (x.toNat / y.toNat)),
    (.rem, fun x y => BitVec.ofInt 64 (x.toInt.tmod y.toInt))]

/-- The immediate operations of Table 5-3 with a signed immediate or literal. -/
def immRows : List ((SGuard → BitVec 6 → BitVec 6 → Imm 6 → Instr) × (W64 → W64 → W64)) :=
  [(.addi, fun x y => x + y), (.andi, fun x y => x &&& y), (.ori, fun x y => x ||| y)]

/-- The shifts of Table 5-3 by an unsigned immediate. -/
def shiftRows : List ((SGuard → BitVec 6 → BitVec 6 → BitVec 6 → Instr) × (W64 → Nat → W64)) :=
  [(.shli, fun x n => x <<< n), (.shri, fun x n => x >>> n), (.sari, fun x n => x.sshiftRight n)]

/-- The value of an immediate: its bits, or the literal that replaces them, sign-extended. -/
def immValue {n : Nat} (i : Imm n) : W64 :=
  match i with
  | .short v => v.signExtend 64
  | .lit v => v.signExtend 64

/-- The conditions of Table 5-4, by their codes. -/
def condRows : List (BitVec 3 × (W64 → W64 → Bool)) :=
  [(0, fun x y => decide (x = y)), (1, fun x y => decide (x ≠ y)), (2, fun x y => decide (x.toInt < y.toInt)),
    (3, fun x y => decide (y.toInt ≤ x.toInt)), (4, fun x y => decide (x.toNat < y.toNat)),
    (5, fun x y => decide (y.toNat ≤ x.toNat)), (6, fun x y => decide (x &&& y ≠ 0)), (7, fun x y => decide (x &&& y = 0))]

/-- The functions of PLOG (R88), by their codes. -/
def plogRows : List (BitVec 3 × (Bool → Bool → Bool)) :=
  [(0, fun x y => x && y), (1, fun x y => x || y), (2, fun x y => x != y), (3, fun x y => x && !y),
    (4, fun x y => x || !y), (5, fun x y => !(x || y))]

/-- The encoding of an S instruction without a literal: class 0, L = 0, the operation, the guard, the fields D, A and B (R47, R58). -/
def encodedS (i : Instr) (op : BitVec 6) (g : SGuard) (d a b : BitVec 6) : Prop :=
  ∀ last, i.enc last = some (⟨last, 0, 0#1 ++ op, BitVec.ofBool g.neg ++ g.p, d, a, b⟩, none)

/-- The encoding of an S instruction with a literal, L = 1 (R51). -/
def encodedLit (i : Instr) (op : BitVec 6) (g : SGuard) (d a b : BitVec 6) (lit : BitVec 32) : Prop :=
  ∀ last, i.enc last = some (⟨last, 0, 1#1 ++ op, BitVec.ofBool g.neg ++ g.p, d, a, b⟩, some lit)

/-- No word with these fields in an S slot is an instruction: it raises ILLEGAL_OPCODE (R56, R57). -/
def refusedS (bad : Raw → Prop) : Prop := ∀ w x, (rawOf w).k = 0 → bad (rawOf w) → decodeSlot w x = none

/-- The encodings of Table 5-2: each three-register operation of the two lists with its operation code. -/
def tripleCodes : List ((SGuard → BitVec 6 → BitVec 6 → BitVec 6 → Instr) × BitVec 6) :=
  [(.add, 0x01), (.sub, 0x02), (.mul, 0x03), (.mulh, 0x04), (.and, 0x08), (.or, 0x09), (.xor, 0x0A), (.shl, 0x0B), (.shr, 0x0C),
    (.sar, 0x0D), (.min, 0x0E), (.max, 0x0F)]

/-- `s` after a bundle of the instruction alone that only writes registers. -/
def wrote (s : State) (i : Instr) (r : Regs) : State := s.finished { s.ctx with regs := r } (s.nb i)

end Sys2Proof.Claims

open Sys2Proof Sys2Proof.Machine Sys2Proof.Claims

/-- R82: ADD, SUB, AND, OR, XOR, SHL, SHR, SAR, MIN and MAX complete: sD holds the result after the bundle, and nothing but sD,
the pc, the bundle count, CYCLE and time has changed. -/
def Sys2Proof.Claims.ScalarArithmeticCompletes : Prop :=
  ∀ row ∈ aluRows, ∀ (s : State) (g : SGuard) (d a b : BitVec 6), s.ready → sGuard s g = true →
    exec (row.1 g d a b) s = .next (wrote s (row.1 g d a b)
      (s.ctx.regs.setS d (row.2 (s.ctx.regs.getS a) (s.ctx.regs.getS b))))

/-- R82: MUL and MULH complete: the half of the signed product is on its way to sD with latency 3. -/
def Sys2Proof.Claims.MultiplyCompletes : Prop :=
  ∀ row ∈ mulRows, ∀ (s : State) (g : SGuard) (d a b : BitVec 6), s.ready → sGuard s g = true →
    exec (row.1 g d a b) s = .next (s.finished
      (s.ctx.flying (.sreg d (row.2 (s.ctx.regs.getS a) (s.ctx.regs.getS b))) 3) (s.nb (row.1 g d a b)))

/-- R82: CLZ, POPC and SEXT complete. CLZ gives n such that exactly the bits above bit 63 - n are zero, POPC the number of one bits,
SEXT the low 8, 16 or 32 bits sign-extended. -/
def Sys2Proof.Claims.BitCountsComplete : Prop :=
  ∀ (s : State) (g : SGuard) (d a : BitVec 6), s.ready → sGuard s g = true →
    (∃ n : Nat, n ≤ 64 ∧ (s.ctx.regs.getS a).toNat < 2 ^ (64 - n) ∧ (n < 64 → 2 ^ (63 - n) ≤ (s.ctx.regs.getS a).toNat) ∧
      exec (.clz g d a) s = .next (wrote s (.clz g d a) (s.ctx.regs.setS d (BitVec.ofNat 64 n)))) ∧
    exec (.popc g d a) s = .next (wrote s (.popc g d a) (s.ctx.regs.setS d
      (BitVec.ofNat 64 ((List.range 64).filter fun i => (s.ctx.regs.getS a).getLsbD i).length))) ∧
    ∀ sz : BitVec 2, sz ≠ 3 →
      exec (.sext g d a sz) s = .next (wrote s (.sext g d a sz) (s.ctx.regs.setS d
        (((s.ctx.regs.getS a).setWidth (8 * 2 ^ sz.toNat)).signExtend 64)))

/-- R82: the instructions of Table 5-2 have its encodings; a word of CLZ or POPC whose field B is not zero, and of SEXT whose size
code is 3 or more, is no instruction. -/
def Sys2Proof.Claims.ArithmeticEncodings : Prop :=
  (∀ row ∈ tripleCodes, ∀ (g : SGuard) (d a b : BitVec 6), encodedS (row.1 g d a b) row.2 g d a b) ∧
    (∀ (g : SGuard) (d a : BitVec 6), encodedS (.clz g d a) 0x10 g d a 0 ∧ encodedS (.popc g d a) 0x11 g d a 0 ∧
      ∀ sz : BitVec 2, encodedS (.sext g d a sz) 0x12 g d a (0#4 ++ sz)) ∧
    refusedS (fun r => (r.op = 0x10 ∨ r.op = 0x11) ∧ r.b ≠ 0) ∧ refusedS (fun r => r.op = 0x12 ∧ 3 ≤ r.b.toNat)

/-- R82: each instruction of Table 5-2 completes with its result from sA and sB, in place after the bundle, or with latency 3 for MUL and
MULH; none of them traps; they are encoded as the table says. -/
def Obligations.ArithmeticCompletes : Prop :=
  ScalarArithmeticCompletes ∧ MultiplyCompletes ∧ BitCountsComplete ∧ ArithmeticEncodings

/-- R84: DIV, DIVU and REM by a divisor that is not zero complete with a scoreboarded result; by zero they take DIV_ZERO. -/
def Sys2Proof.Claims.DivisionCompletes : Prop :=
  ∀ row ∈ divRows, ∀ (s : State) (g : SGuard) (d a b : BitVec 6), s.ready → sGuard s g = true →
    (s.ctx.regs.getS b ≠ 0 →
      exec (row.1 g d a b) s = .next (s.finished
        (s.ctx.owing d (row.2 (s.ctx.regs.getS a) (s.ctx.regs.getS b)) s.ctx.regs.pc) (s.nb (row.1 g d a b)))) ∧
    (s.ctx.regs.getS b = 0 →
      exec (row.1 g d a b) s = .next (enterTrap s 0x06 0 s.ctx.regs.pc (s.nb (row.1 g d a b))).spend.tick)

/-- R83: ADDV completes with the sum when it fits 64 signed bits, and takes INT_OVERFLOW when it does not. -/
def Sys2Proof.Claims.AddvCompletesOrTraps : Prop :=
  ∀ (s : State) (g : SGuard) (d a b : BitVec 6), s.ready → sGuard s g = true →
    let sum := (s.ctx.regs.getS a).toInt + (s.ctx.regs.getS b).toInt
    (-(2 : Int) ^ 63 ≤ sum → sum < 2 ^ 63 →
      exec (.addv g d a b) s = .next (wrote s (.addv g d a b) (s.ctx.regs.setS d (BitVec.ofInt 64 sum)))) ∧
    (sum < -(2 : Int) ^ 63 ∨ 2 ^ 63 ≤ sum →
      exec (.addv g d a b) s = .next (enterTrap s 0x05 0 s.ctx.regs.pc (s.nb (.addv g d a b))).spend.tick)

/-- R83, R84: the divisions and ADDV complete with their result or take their trap. -/
def Obligations.DivisionAndAddvComplete : Prop := DivisionCompletes ∧ AddvCompletesOrTraps

/-- R85, R86: ADDI, ANDI, ORI, SHLI, SHRI, SARI, LI and LIH complete, in the short and in the literal form; they are encoded as Table 5-3
says; a shift with a literal and an LIH without one are no instruction. -/
def Obligations.ImmediatesComplete : Prop :=
  ∀ (s : State) (g : SGuard) (d a : BitVec 6), s.ready → sGuard s g = true →
    (∀ row ∈ immRows, ∀ imm : Imm 6, exec (row.1 g d a imm) s = .next (wrote s (row.1 g d a imm)
      (s.ctx.regs.setS d (row.2 (s.ctx.regs.getS a) (immValue imm))))) ∧
    (∀ row ∈ shiftRows, ∀ n : BitVec 6, exec (row.1 g d a n) s = .next (wrote s (row.1 g d a n)
      (s.ctx.regs.setS d (row.2 (s.ctx.regs.getS a) n.toNat)))) ∧
    (∀ imm : Imm 12, exec (.li g d imm) s = .next (wrote s (.li g d imm) (s.ctx.regs.setS d (immValue imm)))) ∧
    (∀ lit : BitVec 32, exec (.lih g d lit) s = .next (wrote s (.lih g d lit)
      (s.ctx.regs.setS d (lit ++ (s.ctx.regs.getS d).setWidth 32)))) ∧
    (∀ row ∈ [(Instr.addi, 0x14#6), (Instr.andi, 0x15#6), (Instr.ori, 0x16#6)],
      (∀ b, encodedS (row.1 g d a (.short b)) row.2 g d a b) ∧ ∀ v, encodedLit (row.1 g d a (.lit v)) row.2 g d a 0 v) ∧
    (∀ row ∈ [(Instr.shli, 0x17#6), (Instr.shri, 0x18#6), (Instr.sari, 0x19#6)], ∀ b, encodedS (row.1 g d a b) row.2 g d a b) ∧
    refusedS (fun r => r.op = 0x57 ∨ r.op = 0x58 ∨ r.op = 0x59) ∧ refusedS (fun r => r.op = 0x1B)

/-- R87, R88: CMP, CMPI and PLOG complete: pD holds the condition of Table 5-4, or the function of R88, after the bundle; a PLOG word with
code 6 or 7 is no instruction; PLOG.XOR with p0 writes the complement. -/
def Obligations.PredicatesComplete : Prop :=
  ∀ (s : State) (g : SGuard) (q : BitVec 3), s.ready → sGuard s g = true →
    (∀ row ∈ condRows, ∀ a b : BitVec 6, exec (.cmp g row.1 q a b) s = .next (wrote s (.cmp g row.1 q a b)
      (s.ctx.regs.setP q (row.2 (s.ctx.regs.getS a) (s.ctx.regs.getS b))))) ∧
    (∀ row ∈ condRows, ∀ (a : BitVec 6) (imm : Imm 6), exec (.cmpi g row.1 q a imm) s = .next (wrote s (.cmpi g row.1 q a imm)
      (s.ctx.regs.setP q (row.2 (s.ctx.regs.getS a) (immValue imm))))) ∧
    (∀ row ∈ plogRows, ∀ x y : BitVec 3, exec (.plog g row.1 q x y) s = .next (wrote s (.plog g row.1 q x y)
      (s.ctx.regs.setP q (row.2 (s.ctx.regs.getP x) (s.ctx.regs.getP y))))) ∧
    (∀ x, exec (.plog g 2 q x 0) s = .next (wrote s (.plog g 2 q x 0) (s.ctx.regs.setP q (!(s.ctx.regs.getP x))))) ∧
    refusedS (fun r => r.op = 0x1E ∧ 6 ≤ (r.d.extractLsb' 3 3).toNat) ∧
    decodeSlot 0x870220C4 0 = some (.cmp ⟨false, 0⟩ 4 2 3 4)

/-! ### Control transfer, loops, traps (R89 to R96, R108 to R111) -/

namespace Sys2Proof.Claims

open Sys2Proof Sys2Proof.Machine

/-- A code address: 32 bits (R13, R89). -/
def codeAddr (x : W64) : W64 := (x.setWidth 32).setWidth 64

/-- Whether `next` lies outside a range of code addresses, inclusive. -/
def outside (lo hi next : W64) : Bool := !(lo.toNat ≤ next.toNat && next.toNat ≤ hi.toNat)

/-- The loop registers after a taken BR or JR to `next` (R90): a loop active at the bundle's start whose range does not contain
`next` has the count 0. -/
def leftLoops (s : State) (next : W64) : TrapRegs :=
  { s.ctx.tr with
    lcnt0 := if s.ctx.loopActive false && outside s.ctx.tr.lbeg0 s.ctx.tr.lend0 next then 0 else s.ctx.tr.lcnt0
    lcnt1 := if s.ctx.loopActive true && outside s.ctx.tr.lbeg1 s.ctx.tr.lend1 next then 0 else s.ctx.tr.lcnt1 }

/-- The loop registers after LOOP on a set (R92): count, first and last bundle, LSn clear. -/
def startedLoop (s : State) (n : BitVec 1) (count beg fin : W64) : TrapRegs :=
  if n = 0 then { s.ctx.tr with lcnt0 := count, lbeg0 := beg, lend0 := fin, tstat := s.ctx.tr.tstat &&& ~~~ 2 }
  else { s.ctx.tr with lcnt1 := count, lbeg1 := beg, lend1 := fin, tstat := s.ctx.tr.tstat &&& ~~~ 4 }

/-- The loop-end action of R93 for a bundle at the pc that writes no loop register: the loop registers and the next address. -/
def loopEndAction (s : State) (nb : W64) : TrapRegs × W64 :=
  let tr := s.ctx.tr
  let at0 := s.ctx.loopActive false && tr.lend0 == s.ctx.regs.pc
  let at1 := s.ctx.loopActive true && tr.lend1 == s.ctx.regs.pc
  if at0 && decide (1 < tr.lcnt0.toNat) then ({ tr with lcnt0 := tr.lcnt0 - 1 }, tr.lbeg0)
  else
    let tr := if at0 then { tr with lcnt0 := 0 } else tr
    if at1 && decide (1 < tr.lcnt1.toNat) then ({ tr with lcnt1 := tr.lcnt1 - 1 }, tr.lbeg1)
    else (if at1 then { tr with lcnt1 := 0 } else tr, nb)

end Sys2Proof.Claims

/-- R89, R90: BR, CALL and JR complete at their target, whatever loop the bundle ends; BR and JR leave the loops whose range does
not hold the target, CALL and JR write the link. -/
def Obligations.BranchesComplete : Prop :=
  ∀ (s : State) (g : SGuard), s.ctx.pipe.pend = [] → s.ctx.pipe.sb = [] → sGuard s g = true →
    (∀ imm : Imm 18, exec (.br g imm) s = .next
      (let next := codeAddr (s.ctx.regs.pc + immValue imm)
       s.finished { s.ctx with tr := leftLoops s next } next)) ∧
    (∀ imm : Imm 18, exec (.call g imm) s = .next
      (s.finished { s.ctx with regs := s.ctx.regs.setS 63 (s.nb (.call g imm)) } (codeAddr (s.ctx.regs.pc + immValue imm)))) ∧
    ∀ d a : BitVec 6, exec (.jr g d a) s = .next
      (let next := s.ctx.regs.getS a
       s.finished { s.ctx with regs := s.ctx.regs.setS d (s.nb (.jr g d a)), tr := leftLoops s next } next)

/-- R92: LOOP with a count starts its loop set and goes on to the next bundle; with a count of zero it sets the count 0 and
branches past the bundle at the loop's end, whose framing gives its length, and leaves the other loop as a branch does. -/
def Sys2Proof.Claims.LoopCompletes : Prop :=
  ∀ (s : State) (g : SGuard) (n : BitVec 1) (a : BitVec 6) (off : Imm 6), s.ready → sGuard s g = true →
    (Instr.loop g n a off).len ≤ loopOff off →
    let fin := s.ctx.regs.pc + BitVec.ofNat 64 (loopOff off)
    let nb := s.nb (.loop g n a off)
    (s.ctx.regs.getS a ≠ 0 → exec (.loop g n a off) s = .next
      (s.finished { s.ctx with tr := startedLoop s n (s.ctx.regs.getS a) nb fin } nb)) ∧
    ∀ ws len slots, s.ctx.regs.getS a = 0 → fetchAt s fin.toNat = .words ws (.ok len slots) →
      ∃ t, exec (.loop g n a off) s = .next t ∧ t.ctx.regs.pc = fin + BitVec.ofNat 64 ws.length ∧
        (if n = 0 then t.ctx.tr.lcnt0 else t.ctx.tr.lcnt1) = 0 ∧
        (if n = 0 then t.ctx.tr.lcnt1 = (leftLoops s t.ctx.regs.pc).lcnt1 else t.ctx.tr.lcnt0 = (leftLoops s t.ctx.regs.pc).lcnt0) ∧
        t.ctx.basin = s.ctx.basin ∧ t.mem = s.mem

/-- R93: a bundle of one arithmetic instruction takes the loop-end action of R93 after its own effect: loop 0 first, loop 1 when
loop 0 does not jump. -/
def Sys2Proof.Claims.LoopEndActs : Prop :=
  ∀ row ∈ aluRows, ∀ (s : State) (g : SGuard) (d a b : BitVec 6), s.ctx.pipe.pend = [] → s.ctx.pipe.sb = [] →
    sGuard s g = true →
    exec (row.1 g d a b) s = .next
      (let r := loopEndAction s (s.nb (row.1 g d a b))
       s.finished { s.ctx with
         regs := s.ctx.regs.setS d (row.2 (s.ctx.regs.getS a) (s.ctx.regs.getS b)), tr := r.1 } r.2)

/-- R92, R93: LOOP completes, and a bundle at a loop's end takes the loop-end action. -/
def Obligations.LoopsCompleteAndEnd : Prop := LoopCompletes ∧ LoopEndActs

/-- R94: TEND completes: the core issues no further bundle of the task, which counts as running until its queues are empty, and
every exposed result has landed. -/
def Sys2Proof.Claims.TendCompletes : Prop :=
  ∀ (s : State) (g : SGuard), sGuard s g = true →
    (∃ t, exec (.tend g) s = .next t ∧ t.mode = .draining ∧ t.ctx.pipe.pend = [] ∧
      t.ctx.eng.undone.map EngOp.instr = s.ctx.eng.undone.map EngOp.instr) ∧
    (s.ready → exec (.tend g) s = .next { s.finished s.ctx (s.nb (.tend g)) with mode := .draining })

/-- R95: TRAP takes SOFTWARE and BRK takes BREAKPOINT, with the code as TVAL, TPC at the bundle and TNPC after it. -/
def Sys2Proof.Claims.SoftwareTrapsComplete : Prop :=
  ∀ (s : State) (g : SGuard) (code : BitVec 12), sGuard s g = true →
    exec (.trap g code) s = .next
      (enterTrap s 0x0D (code.setWidth 64) s.ctx.regs.pc (s.nb (.trap g code))).spend.tick ∧
    exec (.brk g code) s = .next
      (enterTrap s 0x0E (code.setWidth 64) s.ctx.regs.pc (s.nb (.brk g code))).spend.tick

/-- R108: outside a handler, with TVEC inside the code, trap entry lands every exposed result, writes TPC, TNPC, TCAUSE and TVAL,
sets LS0 and LS1 for the active loops and INTRAP, goes to TVEC, and leaves the task running. -/
def Sys2Proof.Claims.TrapEntryFollowsR108 : Prop :=
  ∀ (s : State) (cause tval tpc tnpc : W64), s.ctx.inTrap = false → s.ctx.tr.tvec.toNat < s.ctx.codeLen →
    let t := enterTrap s cause tval tpc tnpc
    let c := s.ctx.landAll s.freeCtr
    t.ctx.tr.tpc = tpc ∧ t.ctx.tr.tnpc = tnpc ∧ t.ctx.tr.tcause = cause ∧ t.ctx.tr.tval = tval ∧
      t.ctx.tr.tstat = s.ctx.tr.tstat ||| (if s.ctx.loopActive false then 2 else 0) |||
        (if s.ctx.loopActive true then 4 else 0) ||| 1 ∧
      t.ctx.regs.pc = s.ctx.tr.tvec ∧ t.mode = s.mode ∧ t.ctx.pipe.pend = [] ∧ t.ctx.basin = c.basin ∧
      t.ctx.regs.s = c.regs.s ∧ t.ctx.tr.lcnt0 = s.ctx.tr.lcnt0 ∧ t.ctx.tr.lcnt1 = s.ctx.tr.lcnt1 ∧
      t.ctx.eng.qm = c.eng.qm ∧ t.ctx.eng.tokens = c.eng.tokens ∧ t.ctx.pipe.sb = s.ctx.pipe.sb ∧ t.mem = s.mem

/-- R95, R108: TRAP and BRK take their trap, and trap entry does what R108 says. -/
def Obligations.TrapsAreTaken : Prop := SoftwareTrapsComplete ∧ TrapEntryFollowsR108

/-- R91, R111: a trap inside a handler aborts the task: it is killed with reason 1, the second trap in the group of CAUSE2 and the
core's copy of the handler's own trap in that of CAUSE1. A trap whose TVEC lies at or beyond the end of the code aborts it too: the
trap is in the group of CAUSE1, the failed fetch of TVEC, PROTECTION at that address, in that of CAUSE2. Its queued instructions
do not run, and their atomic accesses do not perform. -/
def Obligations.TrapInHandlerAborts : Prop :=
  ∀ (s : State) (cause tval tpc tnpc : W64),
    let t := enterTrap s cause tval tpc tnpc
    let aborted := t.ctx.eng.qm = [] ∧ t.ctx.eng.q0 = [] ∧ t.ctx.eng.q1 = [] ∧
      (∀ a ∈ t.ctx.eng.accs, a ∈ s.ctx.eng.accs ∧ s.ctx.eng.queued a.id = false)
    (s.ctx.inTrap = true →
      t.mode = .killing 1 cause tpc tval s.ctx.tr.copyCause s.ctx.tr.copyPc s.ctx.tr.copyVal ∧ t.ctx.tr = s.ctx.tr ∧ aborted) ∧
    (s.ctx.inTrap = false → s.ctx.codeLen ≤ s.ctx.tr.tvec.toNat →
      t.mode = .killing 1 0x0B s.ctx.tr.tvec s.ctx.tr.tvec cause tpc tval ∧ aborted)

/-- R96: RTE completes at TPC: LS0, LS1 and INTRAP of TSTAT are clear and the rest of it stands, no loop is left, and the bundle
takes no loop-end action. -/
def Sys2Proof.Claims.RteCompletes : Prop :=
  ∀ (s : State) (g : SGuard), s.ctx.pipe.pend = [] → sGuard s g = true →
    exec (.rte g) s = .next
      (s.finished { s.ctx with tr := { s.ctx.tr with tstat := s.ctx.tr.tstat &&& ~~~ 7 } } s.ctx.tr.tpc)

/-- R94, R96: TEND and RTE complete. -/
def Obligations.TendAndRteComplete : Prop := TendCompletes ∧ RteCompletes

/-! ### Scratchpad and global accesses, control registers, TWAIT (R97 to R105) -/

namespace Sys2Proof.Claims

open Sys2Proof Sys2Proof.Machine

/-- LDS.B, LDS.H, LDS.W and LDS.D with their sizes (Table 5-5). -/
def ldsRows : List ((SGuard → BitVec 6 → BitVec 6 → Imm 6 → Instr) × Nat) :=
  [(.ldsB, 1), (.ldsH, 2), (.ldsW, 4), (.ldsD, 8)]

/-- STS.B, STS.H, STS.W and STS.D with their sizes (Table 5-5). -/
def stsRows : List ((SGuard → BitVec 6 → BitVec 6 → Imm 6 → Instr) × Nat) :=
  [(.stsB, 1), (.stsH, 2), (.stsW, 4), (.stsD, 8)]

/-- The address of R98: sA plus imm6 times the size, or plus the sign-extended literal, modulo 2^64. -/
def smemVa (s : State) (size : Nat) (a : BitVec 6) (off : Imm 6) : W64 :=
  match off with
  | .short v => s.ctx.regs.getS a + BitVec.ofNat 64 (v.toNat * size)
  | .lit v => s.ctx.regs.getS a + v.signExtend 64

/-- The aligned run of `size` bytes at `va` lies in the scratchpad (R98). -/
def inSpad (s : State) (va : W64) (size : Nat) : Prop := va.toNat % size = 0 ∧ va.toNat + size ≤ s.ctx.spSize

/-- The address of a global access (R101). -/
def globalVa (s : State) (a : BitVec 6) (off : Option (BitVec 32)) : W64 :=
  match off with
  | none => s.ctx.regs.getS a
  | some v => s.ctx.regs.getS a + v.signExtend 64

/-- An off-core access has a place: no FENCE is outstanding, or fewer than 64 accesses wait behind one (R263). -/
def accessRoom (s : State) : Prop := s.ctx.eng.fences = [] ∨ heldCount s < 64

/-- The context with one more off-core access, which has not performed (R102, R259). -/
def withAccess (s : State) (kind : AccKind) (cls : BitVec 4) (key : Nat) (leaf va : W64) (data : List Byte) (size : Nat) : Ctx :=
  { s.ctx with
    pipe := { s.ctx.pipe with nextId := s.ctx.pipe.nextId + 1 }
    eng := { s.ctx.eng with accs := s.ctx.eng.accs ++
      [⟨s.ctx.pipe.nextId, s.ctx.pipe.bundleNo, kind, cls.toNat, key, va, size, data, isRemote key, pteC leaf, pteRwin leaf, false,
        s.mem.gen s.ctx.asid, 0⟩] } }

/-- The control registers that MTC writes, with where each stands, the bits that MTC writes, and the bits that stay (Tables 2-4 and
2-6, R44). That bits 63:4 of ACL are dropped and read as zero is the model's choice (log entry 20). -/
def cregRows : List (BitVec 6 × (Ctx → W64) × (Ctx → W64 → Ctx) × W64 × W64) :=
  [(0x08, fun c => c.ctl.viewv, fun c v => { c with ctl := { c.ctl with viewv := v } }, 0xFFF00, 0),
    (0x09, fun c => c.ctl.viewt, fun c v => { c with ctl := { c.ctl with viewt := v } }, 0xFF01F, 0),
    (0x0A, fun c => c.ctl.viewa, fun c v => { c with ctl := { c.ctl with viewa := v } }, 0x7C000, 0),
    (0x0B, fun c => c.ctl.rmode, fun c v => { c with ctl := { c.ctl with rmode := v } }, 3, 0),
    (0x0C, fun c => c.ctl.fflags, fun c v => { c with ctl := { c.ctl with fflags := v } }, 0x1F, 0),
    (0x0D, fun c => c.ctl.seed, fun c v => { c with ctl := { c.ctl with seed := v } }, BitVec.allOnes 64, 0),
    (0x0E, fun c => c.ctl.tensor, fun c v => { c with ctl := { c.ctl with tensor := v } }, BitVec.allOnes 64, 0),
    (0x0F, fun c => c.ctl.coord, fun c v => { c with ctl := { c.ctl with coord := v } }, BitVec.allOnes 64, 0),
    (0x10, fun c => c.ctl.acl, fun c v => { c with ctl := { c.ctl with acl := v } }, 0xF, 0),
    (0x12, fun c => c.ctl.mshape, fun c v => { c with ctl := { c.ctl with mshape := v } }, 0x3F3F, 0),
    (0x18, fun c => c.tr.tvec, fun c v => { c with tr := { c.tr with tvec := v } }, BitVec.allOnes 64, 0),
    (0x19, fun c => c.tr.tcause, fun c v => { c with tr := { c.tr with tcause := v } }, BitVec.allOnes 64, 0),
    (0x1A, fun c => c.tr.tpc, fun c v => { c with tr := { c.tr with tpc := v } }, BitVec.allOnes 64, 0),
    (0x1B, fun c => c.tr.tnpc, fun c v => { c with tr := { c.tr with tnpc := v } }, BitVec.allOnes 64, 0),
    (0x1C, fun c => c.tr.tval, fun c v => { c with tr := { c.tr with tval := v } }, BitVec.allOnes 64, 0),
    (0x1D, fun c => c.tr.tstat, fun c v => { c with tr := { c.tr with tstat := v } }, 0xFE, 0x101),
    (0x20, fun c => c.tr.lcnt0, fun c v => { c with tr := { c.tr with lcnt0 := v, tstat := c.tr.tstat &&& ~~~ 2 } }, BitVec.allOnes 64, 0),
    (0x21, fun c => c.tr.lbeg0, fun c v => { c with tr := { c.tr with lbeg0 := v } }, BitVec.allOnes 64, 0),
    (0x22, fun c => c.tr.lend0, fun c v => { c with tr := { c.tr with lend0 := v } }, BitVec.allOnes 64, 0),
    (0x23, fun c => c.tr.lcnt1, fun c v => { c with tr := { c.tr with lcnt1 := v, tstat := c.tr.tstat &&& ~~~ 4 } }, BitVec.allOnes 64, 0),
    (0x24, fun c => c.tr.lbeg1, fun c v => { c with tr := { c.tr with lbeg1 := v } }, BitVec.allOnes 64, 0),
    (0x25, fun c => c.tr.lend1, fun c v => { c with tr := { c.tr with lend1 := v } }, BitVec.allOnes 64, 0)]

/-- The control registers that MTC may not write (Table 2-6). -/
def readOnlyCregs : List (BitVec 6) := [0x00, 0x01, 0x02, 0x03, 0x04, 0x05, 0x06, 0x07, 0x11]

/-- Where the read-only control registers stand; PCORE is the core's own number, FEAT the survivors and the features. -/
def readOnlyRows : List (BitVec 6 × (State → W64)) :=
  [(0x00, fun s => s.ctx.ctl.wid), (0x01, fun s => s.ctx.ctl.launchArg), (0x02, fun s => s.ctx.ctl.lcore),
    (0x03, fun _ => (0 : BitVec 55) ++ Config.pcore), (0x04, fun s => s.ctx.ctl.part), (0x05, fun s => s.ctx.ctl.prio),
    (0x06, fun s => featWord s.mgmt), (0x07, fun s => s.ctx.ctl.cycle), (0x11, fun s => s.ctx.ctl.spkey)]

/-- The guard of an S instruction; TWAIT, TRAP and the like have one too. -/
def guardOfS (i : Instr) : Option SGuard :=
  match i with
  | .add g _ _ _ => some g
  | .sub g _ _ _ => some g
  | .mul g _ _ _ => some g
  | .mulh g _ _ _ => some g
  | .div g _ _ _ => some g
  | .divu g _ _ _ => some g
  | .rem g _ _ _ => some g
  | .and g _ _ _ => some g
  | .or g _ _ _ => some g
  | .xor g _ _ _ => some g
  | .shl g _ _ _ => some g
  | .shr g _ _ _ => some g
  | .sar g _ _ _ => some g
  | .min g _ _ _ => some g
  | .max g _ _ _ => some g
  | .clz g _ _ => some g
  | .popc g _ _ => some g
  | .sext g _ _ _ => some g
  | .addv g _ _ _ => some g
  | .addi g _ _ _ => some g
  | .andi g _ _ _ => some g
  | .ori g _ _ _ => some g
  | .shli g _ _ _ => some g
  | .shri g _ _ _ => some g
  | .sari g _ _ _ => some g
  | .li g _ _ => some g
  | .lih g _ _ => some g
  | .cmp g _ _ _ _ => some g
  | .cmpi g _ _ _ _ => some g
  | .plog g _ _ _ _ => some g
  | .br g _ => some g
  | .call g _ => some g
  | .jr g _ _ => some g
  | .loop g _ _ _ => some g
  | .tend g => some g
  | .trap g _ => some g
  | .rte g => some g
  | .brk g _ => some g
  | .ldsB g _ _ _ => some g
  | .ldsH g _ _ _ => some g
  | .ldsW g _ _ _ => some g
  | .ldsD g _ _ _ => some g
  | .stsB g _ _ _ => some g
  | .stsH g _ _ _ => some g
  | .stsW g _ _ _ => some g
  | .stsD g _ _ _ => some g
  | .gld g _ _ _ _ _ => some g
  | .gst g _ _ _ _ _ => some g
  | .mfc g _ _ => some g
  | .mtc g _ _ => some g
  | .twait g _ => some g
  | _ => none

/-- A LOOP whose end lies before the next bundle, which no guard keeps from being an illegal opcode (R92). -/
def badLoop (i : Instr) : Bool :=
  match i with
  | .loop _ _ _ off => decide (loopOff off < i.len)
  | _ => false

end Sys2Proof.Claims

/-- R98: LDS completes on an aligned run inside the scratchpad that no engine instruction still writes and no failed word holds:
the bytes that stand, zero-extended, are on their way to sD with latency 3. -/
def Sys2Proof.Claims.ScratchpadLoadsComplete : Prop :=
  ∀ row ∈ ldsRows, ∀ (s : State) (g : SGuard) (d a : BitVec 6) (off : Imm 6), s.ready → sGuard s g = true →
    let va := smemVa s row.2 a off
    inSpad s va row.2 → s.ctx.basin.poisoned 2 va.toNat row.2 = false →
    (∀ i, i < row.2 → s.ctx.eng.busyAt false (va.toNat + i) = false) →
    exec (row.1 g d a off) s = .next (s.finished
      (s.ctx.flying (.sreg d (BitVec.ofNat 64 (ofLe (s.ctx.spadBytes va.toNat row.2)))) 3) (s.nb (row.1 g d a off)))

/-- R98: STS completes on an aligned run inside the scratchpad: the low bytes of sD, the least significant first, are on their
way to it and stand within 2 bundles, and nothing else but the pc and the counts changes. -/
def Sys2Proof.Claims.ScratchpadStoresComplete : Prop :=
  ∀ row ∈ stsRows, ∀ (s : State) (g : SGuard) (d a : BitVec 6) (off : Imm 6), s.ready → sGuard s g = true →
    let va := smemVa s row.2 a off
    inSpad s va row.2 →
    exec (row.1 g d a off) s = .next (s.finished
      (s.ctx.flying (.spad va.toNat ((leBytes row.2 (s.ctx.regs.getS d).toNat).map some)) 2) (s.nb (row.1 g d a off)))

/-- R98: LDS and STS check the alignment first and the range after it, with the address as TVAL. -/
def Sys2Proof.Claims.ScratchpadChecksTrap : Prop :=
  ∀ row ∈ ldsRows ++ stsRows, ∀ (s : State) (g : SGuard) (d a : BitVec 6) (off : Imm 6), s.ready → sGuard s g = true →
    let va := smemVa s row.2 a off
    let trapped := fun cause => exec (row.1 g d a off) s =
      .next (enterTrap s cause va s.ctx.regs.pc (s.nb (row.1 g d a off))).spend.tick
    (va.toNat % row.2 ≠ 0 → trapped 0x07) ∧
      (va.toNat % row.2 = 0 → s.ctx.spSize < va.toNat + row.2 → trapped 0x08)

/-- R98, R33: a store that lands in the scratchpad writes each of its bytes and no other byte; registers, predicates, masks, views,
the register space and the accumulators stand. -/
def Sys2Proof.Claims.ScratchpadStoreLands : Prop :=
  ∀ (ctr : Nat) (c : Ctx) (va : Nat) (data : List Byte), Mem.wf c.basin.spad = true → c.eng.undone = [] →
    let t := c.writeDst ctr (.spad va (data.map some))
    Mem.wf t.basin.spad = true ∧
      (∀ x, Mem.get t.basin.spad x =
        if va ≤ x ∧ x < va + data.length then data[x - va]? else Mem.get c.basin.spad x) ∧
      t.regs = c.regs ∧ t.basin.reg = c.basin.reg ∧ t.basin.acc = c.basin.acc ∧ t.basin.side = c.basin.side ∧
      t.basin.tags = c.basin.tags ∧ t.ctl = c.ctl ∧ t.tr = c.tr

/-- R33, R98: LDS and STS complete, and a store lands byte for byte. -/
def Obligations.ScratchpadAccessesComplete : Prop :=
  ScratchpadLoadsComplete ∧ ScratchpadStoresComplete ∧ ScratchpadStoreLands

/-- R101, R102, R259: GLD and GST complete on an aligned address whose translation permits the access: the access enters the
program order of its class, GLD owes its result to sD and binds it when it lands, and nothing else but the pc and the counts changes. -/
def Obligations.GlobalAccessesComplete : Prop :=
  ∀ (s : State) (g : SGuard) (d a : BitVec 6) (sz : BitVec 2) (cls : BitVec 4) (off : Option (BitVec 32)) (key : Nat) (leaf : W64),
    s.ready → sGuard s g = true → accessRoom s →
    let va := globalVa s a off
    let size := 2 ^ sz.toNat
    va.toNat < 2 ^ 57 → va.toNat % size = 0 →
    (translate s va.toNat .read = .ok key leaf →
      exec (.gld g d a sz cls off) s = .next (s.finished
        (let c := withAccess s .load cls key leaf va [] size
         { c with pipe := { c.pipe with sb := [⟨s.ctx.pipe.nextId, .sreg d, .load s.ctx.pipe.nextId, va, false, []⟩] } })
        (s.nb (.gld g d a sz cls off)))) ∧
    (translate s va.toNat .write = .ok key leaf →
      exec (.gst g d a sz cls off) s = .next (s.finished
        (withAccess s .store cls key leaf va (leBytes size (s.ctx.regs.getS d).toNat) size) (s.nb (.gst g d a sz cls off))))

/-- R101: GLD and GST trap with TVAL the address: PROTECTION above 2^57 first, ALIGN next, PROTECTION where the page forbids the
access, and TRANSLATION where the fault is unresolvable, with a fault record of reason 3 to the host; a miss pauses the task
instead. -/
def Sys2Proof.Claims.GlobalAccessesTrap : Prop :=
  ∀ (s : State) (g : SGuard) (d a : BitVec 6) (sz : BitVec 2) (cls : BitVec 4) (off : Option (BitVec 32)),
    s.ready → sGuard s g = true → accessRoom s →
    ∀ p ∈ [(Instr.gld g d a sz cls off, AccMode.read), (Instr.gst g d a sz cls off, AccMode.write)],
    let va := globalVa s a off
    let trapped := fun cause => exec p.1 s = .next (enterTrap s cause va s.ctx.regs.pc (s.nb p.1)).spend.tick
    (2 ^ 57 ≤ va.toNat → trapped 0x0B) ∧
      (va.toNat < 2 ^ 57 →
        (va.toNat % 2 ^ sz.toNat ≠ 0 → trapped 0x07) ∧
        (va.toNat % 2 ^ sz.toNat = 0 →
          (translate s va.toNat p.2 = .protection → trapped 0x0B) ∧
          (translate s va.toNat p.2 = .unresolvable → ∃ t,
            exec p.1 s = .next (enterTrap t 0x0A va s.ctx.regs.pc (s.nb p.1)).spend.tick ∧ t.ctx = s.ctx ∧ t.mode = s.mode ∧
            t.host = s.host ++ [.faultRecord (faultRecord 3 s.ctx.ctl.wid s.ctx.ctl.lcore.toNat Config.pcore.toNat
              (0x0A, s.ctx.regs.pc, va) (0, 0, 0))] ∧ t.mem.gmem = s.mem.gmem ∧ t.sched = s.sched) ∧
          ∀ pg, translate s va.toNat p.2 = .miss pg → exec p.1 s = .next (pausePage s pg).spend.tick))

/-- R104, R43, R44, R45: MTC completes on every writable control register, with the bits that the register has; an LCNTn write clears
LSn. -/
def Sys2Proof.Claims.ControlRegisterWritesComplete : Prop :=
  ∀ row ∈ cregRows, ∀ (s : State) (g : SGuard) (a : BitVec 6), s.ready → sGuard s g = true →
    exec (.mtc g row.1 a) s = .next (s.finished
      (row.2.2.1 s.ctx ((row.2.1 s.ctx &&& row.2.2.2.2) ||| (s.ctx.regs.getS a &&& row.2.2.2.1))) (s.nb (.mtc g row.1 a)))

/-- R104, R43: MFC completes on every assigned control register with its value, and MTC of a read-only one takes CTL_RO with the
register's number. -/
def Sys2Proof.Claims.ControlRegisterReadsComplete : Prop :=
  ∀ (s : State) (g : SGuard) (d a : BitVec 6), s.ready → sGuard s g = true →
    (∀ row ∈ cregRows, exec (.mfc g d row.1) s =
      .next (wrote s (.mfc g d row.1) (s.ctx.regs.setS d (row.2.1 s.ctx)))) ∧
    (∀ row ∈ readOnlyRows, exec (.mfc g d row.1) s =
      .next (wrote s (.mfc g d row.1) (s.ctx.regs.setS d (row.2 s)))) ∧
    ∀ n ∈ readOnlyCregs, exec (.mtc g n a) s =
      .next (enterTrap s 0x0F (n.setWidth 64) s.ctx.regs.pc (s.nb (.mtc g n a))).spend.tick

/-- R43 to R45, R104: MTC and MFC complete on every control register that the spec assigns, and MTC of a read-only one traps; what
becomes of bits 63:4 of ACL is the model's choice (log entry 20). -/
def Obligations.ControlRegistersComplete : Prop := ControlRegisterWritesComplete ∧ ControlRegisterReadsComplete

/-- R105: TWAIT completes and changes nothing when the token is done; until then its bundle does not issue. -/
def Sys2Proof.Claims.TwaitWaits : Prop :=
  ∀ (s : State) (g : SGuard) (o : BitVec 4), sGuard s g = true →
    let done := s.ctx.instDone (o.toNat, (s.ctx.token o.toNat).inst)
    (done = true → s.ctx.pipe.pend = [] → s.noLoopEnd →
      exec (.twait g o) s = .next (s.finished s.ctx (s.nb (.twait g o)))) ∧
    (done = false → exec (.twait g o) s = .next s.spend.tick)

/-- R80: an S instruction whose guard is false completes and does nothing: it reads nothing, writes nothing, waits for nothing and
raises none of its traps, whatever results are outstanding. -/
def Sys2Proof.Claims.FalseGuardDoesNothing : Prop :=
  ∀ (i : Instr) (g : SGuard) (s : State), guardOfS i = some g → badLoop i = false → sGuard s g = false →
    s.ctx.pipe.pend = [] → s.noLoopEnd → exec i s = .next (s.finished s.ctx (s.nb i))

/-! ### Vector instructions (R147 to R178) -/

namespace Sys2Proof.Claims

open Sys2Proof Sys2Proof.Machine

/-- `i`, alone in its bundle, takes the trap `cause` with the value `val` instead of issuing (R107, R108). -/
def traps (s : State) (i : Instr) (cause val : W64) : Prop :=
  exec i s = .next (enterTrap s cause val s.ctx.regs.pc (s.nb i)).spend.tick

/-- TVAL of REGSPACE_RANGE for the one slot of a bundle: the field, 0 D, 1 A, 2 B; whether it is an accumulator; the address (Table 6-1). -/
def rangeVal (field : Nat) (acc : Bool) (addr : Nat) : W64 :=
  BitVec.ofNat 64 (16 * field + (if acc then 64 else 0) + 65536 * (addr % 2 ^ 48))

/-- TVAL of FORMAT: the field, the tag found, the tag expected, the granule (Table 6-1). -/
def formatVal (field : Nat) (found expected : Fmt) (addr : Nat) : W64 :=
  BitVec.ofNat 64 (16 * field + 256 * found.code + 4096 * expected.code + 65536 * (addr % 2 ^ 20))

/-- TVAL of STREAM: the field and the port (Table 6-1). -/
def streamVal (field q : Nat) : W64 := BitVec.ofNat 64 (16 * field + 256 * q)

/-- vK is a register inside the register space (R35, R36). -/
def vregOk (s : State) (v : BitVec 6) : Prop := v.toNat < 60 ∧ s.ctx.vecAddr v.toNat + 256 ≤ s.ctx.regSize

/-- The tag of vK. -/
def vtag (s : State) (v : BitVec 6) : Fmt := s.ctx.basin.tagAt (s.ctx.vecAddr v.toNat)

/-- vK as a source: a register that no engine instruction still writes (R153). -/
def vsrcOk (s : State) (v : BitVec 6) : Prop :=
  vregOk s v ∧ ∀ i, i < 256 → s.ctx.eng.busyAt true (s.ctx.vecAddr v.toNat + i) = false

/-- The lanes of vK under a tag, the lowest first. -/
def vlanes (s : State) (v : BitVec 6) (t : Fmt) : List Nat := lanesOf t.width (s.ctx.regBytes (s.ctx.vecAddr v.toNat) 256)

/-- vK as the destination of a masked result with tag t: a merging mask needs the tag to stand (R40). -/
def vdstOk (s : State) (m : VMask) (d : BitVec 6) (t : Fmt) : Prop :=
  vregOk s d ∧ (m.k = 0 ∨ m.z = true ∨ vtag s d = t)

/-- The context with a vector result on its way to vD: the tag is set at issue, bytes, sideband zeros and flags land within the
latency (R24, R40, R45, R152). -/
def vresult (s : State) (d : BitVec 6) (t : Fmt) (bytes : List (Option Byte)) (f : Flags) (lat : Nat) : Ctx :=
  let a := s.ctx.vecAddr d.toNat
  let c := { s.ctx with basin := s.ctx.basin.setTags a 256 t }
  (c.flying (.vec a bytes zeroSide) lat).flying (.flags f) lat

/-- The result of lanes under a mask: active lanes take the values, the others stay, or are zero under Z; the flags are those of
the active lanes (R148, R152). -/
def maskedResult (s : State) (m : VMask) (d : BitVec 6) (t : Fmt) (rs : List Elem) (f : Flags) (lat : Nat) : Ctx :=
  let mask := s.ctx.regs.getK m.k
  vresult s d t (maskedBytes t.width mask m.z (rs.map Prod.fst)) (laneFlags mask rs ||| f) lat

/-- The two-source operations on one tag: the tags they accept, their latency, and what a pair of lanes gives (Tables 10-3 and
10-4, R154, R156, R157). -/
def vec2Rows : List ((VMask → BitVec 6 → BitVec 6 → BitVec 6 → Instr) × (Fmt → Bool) × Nat × (State → Fmt → Nat → Nat → Elem)) :=
  [(.vadd, Fmt.isAri, 3, fun s t x y => elemAdd t (rmodeOf s) x y),
    (.vsub, Fmt.isAri, 3, fun s t x y => elemSub t (rmodeOf s) x y),
    (.vmul, Fmt.isAri, 5, fun s t x y => elemMul t (rmodeOf s) x y),
    (.vmin, Fmt.isAri, 3, fun _ t x y => elemMin t x y),
    (.vmax, Fmt.isAri, 3, fun _ t x y => elemMax t x y),
    (.vadds, Fmt.isInt, 3, fun _ t x y => elemAdds t x y),
    (.vand, Fmt.isLog, 3, fun _ _ x y => (x &&& y, 0)),
    (.vor, Fmt.isLog, 3, fun _ _ x y => (x ||| y, 0)),
    (.vxor, Fmt.isLog, 3, fun _ _ x y => (x ^^^ y, 0)),
    (.vshl, isShift, 3, fun _ t x y => (if t.width ≤ y then 0 else x * 2 ^ y % 2 ^ t.width, 0)),
    (.vshr, isShift, 3, fun _ t x y => (if t.width ≤ y then 0 else x / 2 ^ y, 0)),
    (.vsar, isShift, 3, fun _ t x y => elemSar t x y)]

/-- The one-source operations: what a lane gives (R154, R158). -/
def vec1Rows : List ((VMask → BitVec 6 → BitVec 6 → Instr) × (Fmt → Bool) × Nat × (Fmt → Nat → Elem)) :=
  [(.vabs, Fmt.isAri, 3, elemAbs), (.vneg, Fmt.isAri, 3, elemNeg), (.vrcp, Fmt.isFlt, 9, elemTransc rcpVal),
    (.vrsq, Fmt.isFlt, 9, elemTransc rsqVal), (.vsqrt, Fmt.isFlt, 9, elemTransc sqrtVal),
    (.vexp2, Fmt.isFlt, 9, elemTransc exp2Val), (.vlog2, Fmt.isFlt, 9, elemTransc log2Val)]

/-- The reductions: what two values give (R162). -/
def reduceRows : List ((VMask → BitVec 6 → BitVec 6 → Instr) × (State → Fmt → Nat → Nat → Elem)) :=
  [(.vrsum, fun s t x y => elemAdd t (rmodeOf s) x y), (.vrmax, fun _ t x y => elemMax t x y)]

/-- The fused operations: what D, A and B give (R155). -/
def fusedRows : List ((VMask → BitVec 6 → BitVec 6 → BitVec 6 → Instr) × (State → Fmt → Nat → Nat → Nat → Elem)) :=
  [(.vfma, fun s t x y z => elemFma t (rmodeOf s) x y z), (.vfms, fun s t x y z => elemFms t (rmodeOf s) x y z)]

/-- The functions of KLOG (R178), by their codes. -/
def klogRows : List (BitVec 3 × (BitVec 512 → BitVec 512 → BitVec 512)) :=
  [(0, fun x y => x &&& y), (1, fun x y => x ||| y), (2, fun x y => x ^^^ y), (3, fun x y => x &&& ~~~ y),
    (4, fun x y => x ||| ~~~ y), (5, fun x y => ~~~ (x ||| y))]

/-- A lane mask with the bits of a list, the lowest first, and zeros above. -/
def bitsOf (bs : List Bool) : BitVec 512 :=
  BitVec.ofNat 512 (bs.zipIdx.foldl (fun acc b => if b.1 then acc + 2 ^ b.2 else acc) 0)

/-- The flags of the elements of active lanes (R148). -/
def activeFlags (mask : BitVec 512) (fs : List Flags) : Flags :=
  fs.zipIdx.foldl (fun acc f => if mask.getLsbD f.2 then acc ||| f.1 else acc) 0

end Sys2Proof.Claims

/-- R151, R152, R154, R156, R157: the two-source vector operations complete on registers of one accepted tag, lane by lane. -/
def Sys2Proof.Claims.VectorPairsComplete : Prop :=
  ∀ row ∈ vec2Rows, ∀ (s : State) (m : VMask) (d a b : BitVec 6), s.ready → vsrcOk s a → vsrcOk s b →
    vtag s b = vtag s a → row.2.1 (vtag s a) = true → vdstOk s m d (vtag s a) →
    let t := vtag s a
    exec (row.1 m d a b) s = .next (s.finished
      (maskedResult s m d t (List.zipWith (row.2.2.2 s t) (vlanes s a t) (vlanes s b t)) 0 row.2.2.1) (s.nb (row.1 m d a b)))

/-- R154, R158: the one-source vector operations complete on a register of an accepted tag, lane by lane. -/
def Obligations.VectorLanesComplete : Prop :=
  ∀ row ∈ vec1Rows, ∀ (s : State) (m : VMask) (d a : BitVec 6), s.ready → vsrcOk s a → row.2.1 (vtag s a) = true →
    vdstOk s m d (vtag s a) →
    let t := vtag s a
    exec (row.1 m d a) s = .next (s.finished
      (maskedResult s m d t ((vlanes s a t).map (row.2.2.2 t)) 0 row.2.2.1) (s.nb (row.1 m d a)))

/-- R155: VFMA and VFMS complete on registers of one tag, with vD as the addend. -/
def Sys2Proof.Claims.FusedMultiplyAddCompletes : Prop :=
  ∀ row ∈ fusedRows, ∀ (s : State) (m : VMask) (d a b : BitVec 6), s.ready → vsrcOk s d → vsrcOk s a → vsrcOk s b →
    vtag s a = vtag s d → vtag s b = vtag s d → (vtag s d).isAri = true →
    let t := vtag s d
    exec (row.1 m d a b) s = .next (s.finished
      (maskedResult s m d t (List.zipWith (fun (q : Nat × Nat) z => row.2 s t q.1 q.2 z)
        ((vlanes s d t).zip (vlanes s a t)) (vlanes s b t)) 0 5) (s.nb (row.1 m d a b)))

/-- R162: VRSUM and VRMAX complete: neighbours are combined pairwise, over and over, and every active lane takes the result and its
flags; the mask does not keep a lane out of the tree. -/
def Sys2Proof.Claims.ReductionsComplete : Prop :=
  ∀ row ∈ reduceRows, ∀ (s : State) (m : VMask) (d a : BitVec 6), s.ready → vsrcOk s a → (vtag s a).isAri = true →
    vdstOk s m d (vtag s a) →
    let t := vtag s a
    let r := treeReduce (row.2 s t) (Nat.log2 t.lanes) (vlanes s a t) 0
    exec (row.1 m d a) s = .next (s.finished
      (maskedResult s m d t (List.replicate t.lanes (r.1, 0)) r.2 6) (s.nb (row.1 m d a)))

/-- R159, R160, R161: VCMP completes: the lanes of kD take the condition where the mask is 1, zero under Z and above the lanes, and
the other bits stay; VSEL completes: each lane comes from vA where the mask is 1 and from vB where it is 0. -/
def Sys2Proof.Claims.ComparesAndSelectsComplete : Prop :=
  ∀ (s : State) (d a b : BitVec 6), s.ready → vsrcOk s a → vsrcOk s b → vtag s b = vtag s a →
    let t := vtag s a
    (∀ (m : VMask) (c q : BitVec 3), t.isAri = true →
      let active := s.ctx.regs.getK m.k
      exec (.vcmp m c q a b) s = .next (s.finished
        (s.ctx.flying (.kmask q (bitsOf (List.zipWith (elemCmp t c.toNat) (vlanes s a t) (vlanes s b t)) &&& active)
          (if m.z then BitVec.allOnes 512 else active ||| ~~~ (lowMask t.lanes))) 3) (s.nb (.vcmp m c q a b)))) ∧
    ∀ k : BitVec 3, t.isLog = true → vregOk s d →
      exec (.vsel k d a b) s = .next (s.finished
        (vresult s d t (maskedBytes t.width (BitVec.allOnes 512) false
          (((vlanes s a t).zip (vlanes s b t)).zipIdx.map fun q =>
            if (s.ctx.regs.getK k).getLsbD q.2 then q.1.1 else q.1.2)) 0 3) (s.nb (.vsel k d a b)))

/-- R163, R164: VBCAST completes with the low bits of its scalar or literal in every lane, a 32-bit pattern over each four lanes of
bits; VEXT completes with lane sB mod LANES, zero-extended. -/
def Sys2Proof.Claims.BroadcastAndExtractComplete : Prop :=
  ∀ (s : State), s.ready →
    (∀ (m : VMask) (d : BitVec 6) (src : BcSrc) (f : BitVec 4), vdstOk s m d (Fmt.ofCode f) →
      let t := Fmt.ofCode f
      let x : W64 := match src with
        | .reg a => s.ctx.regs.getS a
        | .lit v => v.setWidth 64
      exec (.vbcast m d src f) s = .next (s.finished
        (maskedResult s m d t ((List.range t.lanes).map fun i =>
          (if t = .bits then x.toNat / 2 ^ (8 * (i % 4)) % 256 else x.toNat % 2 ^ t.width, 0)) 0 2)
        (s.nb (.vbcast m d src f)))) ∧
    ∀ d a b : BitVec 6, vsrcOk s a → vtag s a ≠ .raw →
      let t := vtag s a
      exec (.vext d a b) s = .next (s.finished
        (s.ctx.flying (.sreg d (BitVec.ofNat 64 ((vlanes s a t).getD ((s.ctx.regs.getS b).toNat % t.lanes) 0))) 3)
        (s.nb (.vext d a b)))

/-- R177: VROT, VPERM and VINTL complete: lane i of the result is lane (i + sB) mod LANES of vA, lane vB[i] mod LANES of vA, or lane
i/2 of vA and vB in turn. -/
def Sys2Proof.Claims.PermutesComplete : Prop :=
  ∀ (s : State) (m : VMask) (d a b : BitVec 6), s.ready → vsrcOk s a → (vtag s a).isLog = true → vdstOk s m d (vtag s a) →
    let t := vtag s a
    let xs := vlanes s a t
    exec (.vrot m d a b) s = .next (s.finished (maskedResult s m d t ((List.range t.lanes).map fun i =>
      (xs.getD ((i + (s.ctx.regs.getS b).toNat) % t.lanes) 0, 0)) 0 3) (s.nb (.vrot m d a b))) ∧
    (vsrcOk s b → indexTag t.width (vtag s b) = true →
      exec (.vperm m d a b) s = .next (s.finished (maskedResult s m d t ((vlanes s b (vtag s b)).map fun v =>
        (xs.getD (v % t.lanes) 0, 0)) 0 3) (s.nb (.vperm m d a b)))) ∧
    (vsrcOk s b → vtag s b = t →
      exec (.vintl m d a b) s = .next (s.finished (maskedResult s m d t ((List.range t.lanes).map fun i =>
        (if i % 2 = 0 then xs.getD (i / 2) 0 else (vlanes s b t).getD (i / 2) 0, 0)) 0 3) (s.nb (.vintl m d a b))))

/-- R178: KLOG and KMOV complete with the mask after the bundle, KPOP with the number of one bits on its way to sD. -/
def Sys2Proof.Claims.LaneMasksComplete : Prop :=
  ∀ s : State, s.ready →
    (∀ row ∈ klogRows, ∀ q x y : BitVec 3, exec (.klog row.1 q x y) s = .next (wrote s (.klog row.1 q x y)
      (s.ctx.regs.setK q (row.2 (s.ctx.regs.getK x) (s.ctx.regs.getK y))))) ∧
    (∀ q x : BitVec 3, exec (.kmov q x) s = .next (wrote s (.kmov q x) (s.ctx.regs.setK q (s.ctx.regs.getK x)))) ∧
    ∀ (d : BitVec 6) (x : BitVec 3), exec (.kpop d x) s = .next (s.finished
      (s.ctx.flying (.sreg d (BitVec.ofNat 64 ((List.range 512).filter fun i => (s.ctx.regs.getK x).getLsbD i).length)) 2)
      (s.nb (.kpop d x)))

/-- R165, R166: VCVT between tags of one width or to a wider one completes: lane i of the result is the conversion of element i of
the source, or of element i plus LANES of the target from the upper half, in the mode of RMODE, or stochastic at COORD plus i. -/
def Sys2Proof.Claims.SameAndWideConversionsComplete : Prop :=
  ∀ (s : State) (m : VMask) (d a : BitVec 6) (sr half : Bool) (f : BitVec 4), s.ready → vsrcOk s a →
    let src := vtag s a
    let t := Fmt.ofCode f
    cvtPair src t = true → src.width ≤ t.width → vdstOk s m d t →
    let first := if src.width < t.width ∧ half = true then t.lanes else 0
    let mode := fun i => if sr then
        RMode.sr (generator s.ctx.ctl.seed s.ctx.ctl.tensor (s.ctx.ctl.coord + BitVec.ofNat 64 i)) else rmodeOf s
    exec (.vcvt m d a sr half f) s = .next (s.finished
      (maskedResult s m d t ((sliceOf (vlanes s a src) first t.lanes).zipIdx.map fun x => elemCvt src t (mode x.2) x.1) 0 3)
      (s.nb (.vcvt m d a sr half f)))

/-- R39, R169, R170: VTAG completes: the tag stands, the data bytes do not change, and the granule's sideband is zero but for a block format,
which keeps it; VRAND completes with the low 32 bits of the generator at
COORD plus the lane. -/
def Sys2Proof.Claims.RetagAndRandomComplete : Prop :=
  ∀ (s : State) (d : BitVec 6), s.ready → vregOk s d →
    (∀ f : BitVec 4, ∃ t, exec (.vtag d f) s = .next t ∧ vtag t d = Fmt.ofCode f ∧
      t.ctx.basin.reg = s.ctx.basin.reg ∧ t.ctx.basin.acc = s.ctx.basin.acc ∧ t.ctx.basin.spad = s.ctx.basin.spad ∧
      t.ctx.regs = { s.ctx.regs with pc := s.nb (.vtag d f) } ∧ t.ctx.pipe.pend = [] ∧ t.mem = s.mem ∧
      (∀ a, a / 256 ≠ s.ctx.vecAddr d.toNat / 256 → t.ctx.basin.tagAt a = s.ctx.basin.tagAt a) ∧
      ((Fmt.ofCode f).isBlk = true → t.ctx.basin.side = s.ctx.basin.side) ∧
      ((Fmt.ofCode f).isBlk = false → Mem.wf s.ctx.basin.side = true → ∀ a, t.ctx.basin.sideAt a =
        if a / 256 = s.ctx.vecAddr d.toNat / 256 then List.replicate 16 0 else s.ctx.basin.sideAt a)) ∧
    ∀ m : VMask, m.k = 0 ∨ m.z = true ∨ vtag s d = .int32 →
      exec (.vrand m d) s = .next (s.finished
        (maskedResult s m d .int32 ((List.range 64).map fun i =>
          ((generator s.ctx.ctl.seed s.ctx.ctl.tensor (s.ctx.ctl.coord + BitVec.ofNat 64 i)).toNat % 2 ^ 32, 0)) 0 4)
        (s.nb (.vrand m d)))

/-- R151, R107: a vector operation on two registers whose tags differ takes FORMAT, with the field, the tag found and the tag
expected in TVAL. -/
def Sys2Proof.Claims.TagMismatchTraps : Prop :=
  ∀ row ∈ vec2Rows, ∀ (s : State) (d a b : BitVec 6), s.ready → vsrcOk s a → vsrcOk s b → vregOk s d →
    row.2.1 (vtag s a) = true → vtag s b ≠ vtag s a →
    traps s (row.1 ⟨false, 0⟩ d a b) 0x04 (formatVal 2 (vtag s b) (vtag s a) (s.ctx.vecAddr b.toNat))

/-- R179: a vector operation whose source names a port that is not bound as a source takes STREAM with field A; one whose destination
names a port that is not a sink takes it with field D, which comes first. -/
def Sys2Proof.Claims.UnboundPortsTrap : Prop :=
  ∀ row ∈ vec1Rows, ∀ (s : State) (m : VMask) (q : Nat), q < 4 → s.ready →
    let port : BitVec 6 := BitVec.ofNat 6 (60 + q)
    (∀ d : BitVec 6, vregOk s d → (s.ctx.port q).st ≠ .source → traps s (row.1 m d port) 0x11 (streamVal 1 q)) ∧
    ∀ a : BitVec 6, vsrcOk s a → row.2.1 (vtag s a) = true → (s.ctx.port q).st ≠ .sink →
      traps s (row.1 m port a) 0x11 (streamVal 0 q)

/-- R154 to R157: the two-source operations and the fused ones complete, lane by lane. -/
def Obligations.VectorArithmeticCompletes : Prop := VectorPairsComplete ∧ FusedMultiplyAddCompletes

/-- R162, R177: the reductions and the permutes complete. -/
def Obligations.ReductionsAndPermutesComplete : Prop := ReductionsComplete ∧ PermutesComplete

/-- R159 to R161, R178: compares, selects and the lane-mask instructions complete. -/
def Obligations.MasksAndSelectsComplete : Prop := ComparesAndSelectsComplete ∧ LaneMasksComplete

/-- R39, R163, R164, R169, R170: VBCAST, VEXT, VTAG and VRAND complete. -/
def Obligations.BroadcastsAndTagsComplete : Prop := BroadcastAndExtractComplete ∧ RetagAndRandomComplete

/-- R149: KSET completes with the bits 0 to min(c, 512) - 1 of kD set and every other one clear, c the unsigned value of sA, so none for 0 and
all 512 for a negative one; it is encoded as V operation 0x3A with kD in D and sA in A. -/
def Obligations.KsetFollowsR149 : Prop :=
  ∀ (s : State) (q : BitVec 3) (a : BitVec 6), s.ready →
    let c := (s.ctx.regs.getS a).toNat
    (∃ k : BitVec 512, (∀ i, k.getLsbD i = decide (i < min c 512)) ∧ (c = 0 → k = 0) ∧
      ((s.ctx.regs.getS a).toInt < 0 → k = BitVec.allOnes 512) ∧
      exec (.kset q a) s = .next (wrote s (.kset q a) (s.ctx.regs.setK q k))) ∧
    ∀ last, (Instr.kset q a).enc last = some (⟨last, 1, 0x3A, 0, 0#3 ++ q, a, 0⟩, none)

namespace Sys2Proof.Claims

open Sys2Proof Sys2Proof.Machine

/-- The context with a whole granule and its sideband on its way to vD. -/
def granuleResult (s : State) (d : BitVec 6) (t : Fmt) (data side : List Byte) (f : Flags) (lat : Nat) : Ctx :=
  let a := s.ctx.vecAddr d.toNat
  let c := { s.ctx with basin := s.ctx.basin.setTags a 256 t }
  (c.flying (.vec a (data.map some) side) lat).flying (.flags f) lat

/-- The bytes of a run of the scratchpad can be read: no failed word holds one, and no engine instruction still writes one. -/
def spadReadable (s : State) (va n : Nat) : Prop :=
  s.ctx.basin.poisoned 2 va n = false ∧ ∀ i, i < n → s.ctx.eng.busyAt false (va + i) = false

/-- The bytes that a granule takes in memory: its data, and its sideband in a block format (R172). -/
def granuleLen (t : Fmt) : Nat := if t.isBlk then 272 else 256

/-- The granule at `va` of the scratchpad is aligned to 32 bytes and in range (R172). -/
def granuleOk (s : State) (va : W64) (n : Nat) : Prop := va.toNat % 32 = 0 ∧ va.toNat + n ≤ s.ctx.spSize

/-- The address of lane `v` of a gather or scatter with data tag t and index tag it (R174). -/
def laneVa (s : State) (a : BitVec 6) (t it : Fmt) (v : Nat) : W64 :=
  s.ctx.regs.getS a + BitVec.ofInt 64 (it.intVal v * ((t.width / 8 : Nat) : Int))

/-- The lanes of a gather or scatter and whether the mask selects them. -/
def laneList (s : State) (k : BitVec 3) (a b : BitVec 6) (t : Fmt) : List (W64 × Bool) :=
  (vlanes s b (vtag s b)).zipIdx.map fun q => (laneVa s a t (vtag s b) q.1, (s.ctx.regs.getK k).getLsbD q.2)

/-- Every selected lane lies aligned inside the scratchpad and can be read (R174). -/
def lanesOk (s : State) (k : BitVec 3) (a b : BitVec 6) (t : Fmt) : Prop :=
  ∀ l ∈ laneList s k a b t, l.2 = true → inSpad s l.1 (t.width / 8) ∧ spadReadable s l.1.toNat (t.width / 8)

/-- The values of a run of registers from vA on, under a mask: an element whose bit is 0 is +0 (R167). -/
def runValues (s : State) (a : BitVec 6) (n : Nat) (t : Fmt) (k : BitVec 3) : List FVal :=
  ((List.range n).flatMap fun i =>
    lanesOf t.width (s.ctx.regBytes (s.ctx.vecAddr (a.toNat + i)) 256)).zipIdx.map fun q =>
      if (s.ctx.regs.getK k).getLsbD q.2 then t.fval q.1 else .fin false 0 0

/-- A run of n registers from v on: in the register space, free of engine writes, and of one tag. -/
def runOk (s : State) (v : BitVec 6) (n : Nat) (t : Fmt) : Prop :=
  v.toNat + n ≤ 60 ∧ s.ctx.vecAddr v.toNat + 256 * n ≤ s.ctx.regSize ∧
    (∀ i, i < 256 * n → s.ctx.eng.busyAt true (s.ctx.vecAddr v.toNat + i) = false) ∧
    ∀ i, i < n → s.ctx.basin.tagAt (s.ctx.vecAddr (v.toNat + i)) = t

/-- The mode of element i of a quantisation: stochastic at COORD plus i, or to nearest even. -/
def quantMode (s : State) (sr : Bool) (i : Nat) : RMode :=
  if sr then .sr (generator s.ctx.ctl.seed s.ctx.ctl.tensor (s.ctx.ctl.coord + BitVec.ofNat 64 i)) else .rne

/-- The blocks of 32 of an MX quantisation (R133, R167). -/
def mxBlocks (s : State) (t : Fmt) (sr : Bool) (vals : List FVal) : List MxBlock :=
  (List.range (t.lanes / 32)).map fun b =>
    mxQuant (if t = .mxfp8 then e4m3F else e2m1F) (if t = .mxfp8 then 8 else 2) (fun i => quantMode s sr (32 * b + i))
      (sliceOf vals (32 * b) 32)

/-- The bytes that VST stores of vD under a lane mask (R173): a whole record of a block format, a whole raw granule, or the selected
lanes. -/
def storedBytes (s : State) (k : BitVec 3) (d : BitVec 6) : List (Option Byte) :=
  let t := vtag s d
  let data := s.ctx.regBytes (s.ctx.vecAddr d.toNat) 256
  if t.isBlk then (data ++ s.ctx.basin.sideAt (s.ctx.vecAddr d.toNat)).map some
  else if t = .raw then data.map some
  else maskedBytes t.width (s.ctx.regs.getK k) false (vlanes s d t)

/-- VST may store vD with the tag code f at `va` (R173). -/
def storeOk (s : State) (k : BitVec 3) (d : BitVec 6) (f : BitVec 4) (va : W64) : Prop :=
  vsrcOk s d ∧ (f = 0 ∨ Fmt.ofCode f = vtag s d) ∧ ((vtag s d).isBlk = true ∨ vtag s d = .raw → k = 0) ∧
    granuleOk s va (granuleLen (vtag s d))

end Sys2Proof.Claims

/-- R171, R172: VLD completes on an aligned granule inside the scratchpad: its lanes under the mask, or the whole record of a
block format with its sideband, are on their way to vD with latency 4. -/
def Sys2Proof.Claims.VectorLoadsComplete : Prop :=
  ∀ (s : State) (m : VMask) (d a : BitVec 6) (f : BitVec 4) (off : Option (BitVec 32)), s.ready →
    let t := Fmt.ofCode f
    let va := globalVa s a off
    vdstOk s m d t → granuleOk s va (granuleLen t) → spadReadable s va.toNat (granuleLen t) →
    exec (.vld m d a f off) s = .next (s.finished
      (if t.isBlk then granuleResult s d t (s.ctx.spadBytes va.toNat 272 |>.take 256) (s.ctx.spadBytes va.toNat 272 |>.drop 256) 0 4
        else maskedResult s m d t ((lanesOf t.width (s.ctx.spadBytes va.toNat 256)).map fun x => (x, 0)) 0 4)
      (s.nb (.vld m d a f off)))

/-- R173: VST completes: the selected lanes of vD, or a whole raw granule or record, are on their way to the scratchpad within 2
bundles; the bytes of other lanes are not written. -/
def Sys2Proof.Claims.VectorStoresComplete : Prop :=
  ∀ (s : State) (k : BitVec 3) (d a : BitVec 6) (f : BitVec 4) (off : Option (BitVec 32)), s.ready →
    let va := globalVa s a off
    storeOk s k d f va →
    exec (.vst k d a f off) s = .next (s.finished (s.ctx.flying (.spad va.toNat (storedBytes s k d)) 2) (s.nb (.vst k d a f off)))

/-- R174, R175: VLDX and VSTX complete when every selected lane's address is aligned and in range: the gathered bytes are owed to vD
and the scattered ones to the scratchpad, as scoreboarded results. -/
def Obligations.GatherAndScatterComplete : Prop :=
  ∀ (s : State) (d a b : BitVec 6), s.ready → vsrcOk s d → vsrcOk s b →
    let t := vtag s d
    let size := t.width / 8
    t.isLog = true → indexTag t.width (vtag s b) = true →
    (∀ m : VMask, lanesOk s m.k a b t →
      exec (.vldx m d a b) s = .next (s.finished
        { s.ctx with
          basin := s.ctx.basin.setTags (s.ctx.vecAddr d.toNat) 256 t
          pipe := { s.ctx.pipe with
            nextId := s.ctx.pipe.nextId + 1
            sb := [⟨s.ctx.pipe.nextId, .vec (s.ctx.vecAddr d.toNat), .gather ((laneList s m.k a b t).flatMap fun l =>
              if l.2 then (s.ctx.spadBytes l.1.toNat size).map some
              else if m.z then List.replicate size (some 0) else List.replicate size none) false, 0, false, []⟩] } }
        (s.nb (.vldx m d a b)))) ∧
    ∀ k : BitVec 3, lanesOk s k a b t →
      exec (.vstx k d a b) s = .next (s.finished
        { s.ctx with
          pipe := { s.ctx.pipe with
            nextId := s.ctx.pipe.nextId + 1
            sb := [⟨s.ctx.pipe.nextId, .spad, .scatter (((laneList s k a b t).zip (vlanes s d t)).flatMap fun l =>
              if l.1.2 then (leBytes size l.2).zipIdx.map fun x => (l.1.1.toNat + x.2, x.1) else []) s.ctx.pipe.bundleNo, s.ctx.regs.pc,
              false, []⟩] } }
        (s.nb (.vstx k d a b)))

/-- R176: VLDM completes on 64 aligned bytes inside the scratchpad: bit 8j + b of the mask on its way to kD is bit b of byte j. -/
def Sys2Proof.Claims.MaskLoadCompletes : Prop :=
  ∀ (s : State) (q : BitVec 3) (a : BitVec 6) (off : Option (BitVec 32)), s.ready →
    let va := globalVa s a off
    inSpad s va 64 → spadReadable s va.toNat 64 →
    ∃ k : BitVec 512, (∀ j b, j < 64 → b < 8 → k.getLsbD (8 * j + b) = ((s.ctx.spadBytes va.toNat 64).getD j 0).getLsbD b) ∧
      exec (.vldm q a off) s = .next (s.finished (s.ctx.flying (.kmask q k (BitVec.allOnes 512)) 4) (s.nb (.vldm q a off)))

/-- R166: VCVT to a narrower tag completes: half H of vD takes the converted elements of vA under the mask, element j of the half
in the stochastic mode at COORD plus its place in vD; the other half stays, and the tag must stand already. -/
def Sys2Proof.Claims.NarrowingConversionsComplete : Prop :=
  ∀ (s : State) (m : VMask) (d a : BitVec 6) (sr half : Bool) (f : BitVec 4), s.ready → vsrcOk s a → vregOk s d →
    let src := vtag s a
    let t := Fmt.ofCode f
    cvtPair src t = true → t.width < src.width → vtag s d = t →
    let n := src.lanes
    let lo := if half then n else 0
    let mask := s.ctx.regs.getK m.k
    let mode := fun i => if sr then
        RMode.sr (generator s.ctx.ctl.seed s.ctx.ctl.tensor (s.ctx.ctl.coord + BitVec.ofNat 64 i)) else rmodeOf s
    let elem := fun i => elemCvt src t (mode i) ((vlanes s a src).getD (i - lo) 0)
    exec (.vcvt m d a sr half f) s = .next (s.finished
      (vresult s d t
        ((List.range (2 * n)).flatMap fun i =>
          if lo ≤ i ∧ i < lo + n then
            if mask.getLsbD i then (leBytes (t.width / 8) (elem i).1).map some
            else if m.z then List.replicate (t.width / 8) (some 0) else List.replicate (t.width / 8) none
          else List.replicate (t.width / 8) none)
        ((List.range n).foldl (fun acc j => if mask.getLsbD (lo + j) then acc ||| (elem (lo + j)).2 else acc) 0) 3)
      (s.nb (.vcvt m d a sr half f)))

/-- R133, R136, R167: VQMX and VQC4 complete on a run of LANES(target)/LANES(source) registers of one floating-point tag: the whole
granule with its scales in the sideband is on its way to vD with latency 6. -/
def Sys2Proof.Claims.QuantisersComplete : Prop :=
  ∀ (s : State) (k : BitVec 3) (d a : BitVec 6) (src : Fmt), s.ready → vregOk s d → src.isFlt = true →
    (∀ (f : BitVec 4) (sr : Bool), Fmt.ofCode f = .mxfp8 ∨ Fmt.ofCode f = .mxfp4 →
      let t := Fmt.ofCode f
      let n := t.lanes / src.lanes
      runOk s a n src → k = 0 ∨ vtag s d = t →
      let blocks := mxBlocks s t sr (runValues s a n src k)
      let scales := blocks.map fun b => BitVec.ofNat 8 b.scale
      exec (.vqmx k d a sr f) s = .next (s.finished
        (granuleResult s d t (bytesOf t.width (blocks.flatMap MxBlock.elems))
          (scales ++ List.replicate (16 - scales.length) 0) (blocks.foldl (fun acc b => acc ||| b.flags) 0) 6)
        (s.nb (.vqmx k d a sr f)))) ∧
    ∀ f : BitVec 4,
      let n := 512 / src.lanes
      runOk s a n src → k = 0 ∨ vtag s d = .qc4 →
      let vals := runValues s a n src k
      let b0 := qcQuant (vals.take 256)
      let b1 := qcQuant (vals.drop 256)
      exec (.vqc4 k d a f) s = .next (s.finished
        (granuleResult s d .qc4 (bytesOf 4 (b0.codes ++ b1.codes))
          ((b0.scales ++ b1.scales).map (BitVec.ofNat 8) ++ leBytes 4 b0.super ++ leBytes 4 b1.super) (b0.flags ||| b1.flags) 6)
        (s.nb (.vqc4 k d a f)))

/-- R168: VDQ completes: each element of the granule, rounded once to nearest even, is on its way to its lane of a run of
registers under the mask, with latency 6. -/
def Sys2Proof.Claims.DequantiserCompletes : Prop :=
  ∀ (s : State) (m : VMask) (d a : BitVec 6) (f : BitVec 4), s.ready → vsrcOk s a →
    let src := vtag s a
    let t := Fmt.ofCode f
    let n := src.lanes / t.lanes
    src.isBlk = true → t.isFlt = true → d.toNat + n ≤ 60 → s.ctx.vecAddr d.toNat + 256 * n ≤ s.ctx.regSize →
    (m.k = 0 ∨ m.z = true ∨ ∀ i, i < n → s.ctx.basin.tagAt (s.ctx.vecAddr (d.toNat + i)) = t) →
    let mask := s.ctx.regs.getK m.k
    let elem := fun j => t.rnd .rne (blkValue src (s.ctx.regBytes (s.ctx.vecAddr a.toNat) 256)
      (s.ctx.basin.sideAt (s.ctx.vecAddr a.toNat)) j)
    ∃ flags : Flags, (∀ b, flags.getLsbD b = true ↔ ∃ j, j < src.lanes ∧ mask.getLsbD j = true ∧ (elem j).2.getLsbD b = true) ∧
      exec (.vdq m d a f) s = .next (s.finished
        (let dst := s.ctx.vecAddr d.toNat
         let c := { s.ctx with basin := s.ctx.basin.setTags dst (256 * n) t }
         (c.flying (.vec dst ((List.range src.lanes).flatMap fun j =>
            if mask.getLsbD j then (leBytes (t.width / 8) (elem j).1).map some
            else if m.z then List.replicate (t.width / 8) (some 0) else List.replicate (t.width / 8) none)
            (List.replicate (16 * n) 0)) 6).flying (.flags flags) 6)
        (s.nb (.vdq m d a f)))

/-- R179, R183, R184, R185: a one-source vector operation on a source port takes the vector at the head of the stream as its operand
and moves the port on by its lanes, or sets QENDn past the end, its reads filling caches where they do, and raises the flags that the
chain raised for the elements of active lanes (R148); one whose destination is a sink port hands its lanes, +0 where
inactive, to the port, which gathers them or stores its units. -/
def Obligations.PortsFeedAndTake : Prop :=
  ∀ row ∈ vec1Rows, ∀ (s : State) (m : VMask) (q : Nat), q < 4 → s.ready →
    (∀ d : BitVec 6, (s.ctx.port q).st = .source →
      let a : BitVec 6 := BitVec.ofNat 6 (60 + q)
      let i := row.1 m d a
      let v := popVec s ((alone s i).site 1 + 2 ^ 16) q 0
      v.ready = true → v.stop = none → v.unc = none → row.2.1 v.tag = true → vdstOk s m d v.tag →
      ∃ t, exec i s = .next t ∧
        (t.ctx.port q).st = .source ∧ (t.ctx.port q).chain = (s.ctx.port q).chain ∧ (t.ctx.port q).tmpl = (s.ctx.port q).tmpl ∧
        (t.ctx.port q).pos = (s.ctx.port q).pos + (if v.past then 0 else v.tag.lanes) ∧
        (v.times = [] → v.fills = [] → v.lines = [] → t.mem = s.mem ∧
          t.ctx.port q = (if v.past then s.ctx.port q else { s.ctx.port q with pos := (s.ctx.port q).pos + v.tag.lanes })) ∧
        t.ctx.tr.tstat = (if v.past then s.ctx.tr.tstat ||| BitVec.ofNat 64 (2 ^ (4 + q)) else s.ctx.tr.tstat) ∧
        t.ctx.ctl.fflags = s.ctx.ctl.fflags ||| ((0 : BitVec 59) ++ activeFlags (s.ctx.regs.getK m.k) v.flags) ∧
        t.ctx.regs = { s.ctx.regs with pc := s.nb i } ∧ t.mem.gmem = s.mem.gmem ∧ t.mem.cistern = s.mem.cistern ∧
        t.ctx.pipe.pend = (maskedResult s m d v.tag ((lanesOf v.tag.width v.bytes).map (row.2.2.2 v.tag)) 0 row.2.2.1).pipe.pend) ∧
    ∀ a : BitVec 6, vsrcOk s a → (s.ctx.port q).st = .sink →
      let d : BitVec 6 := BitVec.ofNat 6 (60 + q)
      let t := vtag s a
      let i := row.1 m d a
      let rs := (vlanes s a t).map (row.2.2.2 t)
      let mask := s.ctx.regs.getK m.k
      let p := s.ctx.port q
      let u := pushVec s q (rs.zipIdx.map fun x => if mask.getLsbD x.2 then x.1.1 else 0) []
      row.2.1 t = true → p.fmt = t → p.tmpl.isSome = true → p.held + 1 ≤ 8 → u.stop = none →
      ∃ r, exec i s = .next r ∧
        r.ctx.port q = (if u.past then p else { p with pos := p.pos + u.count, part := u.part, keys := u.keys, buf := if u.writes.isEmpty then p.buf else p.buf ++ [u.writes] }) ∧
        r.ctx.tr.tstat = (if u.past then s.ctx.tr.tstat ||| BitVec.ofNat 64 (2 ^ (4 + q)) else s.ctx.tr.tstat) ∧
        r.ctx.basin = s.ctx.basin ∧ r.ctx.regs = { s.ctx.regs with pc := s.nb i } ∧ r.mem = s.mem

/-- R172, R173, R176: VLD, VST and VLDM check the alignment of their address, to 32 bytes and to 64, and then that the whole granule,
record or mask lies in the scratchpad, with the address as TVAL. -/
def Sys2Proof.Claims.VectorMemoryTraps : Prop :=
  ∀ (s : State) (m : VMask) (q : BitVec 3) (d a : BitVec 6) (f : BitVec 4) (off : Option (BitVec 32)), s.ready →
    let va := globalVa s a off
    let checked := fun (i : Instr) (align n : Nat) =>
      (va.toNat % align ≠ 0 → traps s i 0x07 va) ∧
        (va.toNat % align = 0 → s.ctx.spSize < va.toNat + n → traps s i 0x08 va)
    (vdstOk s m d (Fmt.ofCode f) → checked (.vld m d a f off) 32 (granuleLen (Fmt.ofCode f))) ∧
    (vsrcOk s d → (f = 0 ∨ Fmt.ofCode f = vtag s d) → ((vtag s d).isBlk = true ∨ vtag s d = .raw → m.k = 0) →
      checked (.vst m.k d a f off) 32 (granuleLen (vtag s d))) ∧
    checked (.vldm q a off) 64 64

/-- R174, R175: the first selected lane of VLDX and VSTX whose address is not aligned to the element, or lies outside the scratchpad,
takes ALIGN or SPAD_RANGE with that address; lanes that the mask does not select raise nothing. -/
def Sys2Proof.Claims.IndexedLanesTrap : Prop :=
  ∀ (s : State) (m : VMask) (d a b : BitVec 6), s.ready → vsrcOk s d → vsrcOk s b →
    let t := vtag s d
    let size := t.width / 8
    t.isLog = true → indexTag t.width (vtag s b) = true →
    ∀ before (l : W64 × Bool) after, laneList s m.k a b t = before ++ l :: after → l.2 = true →
      (∀ e ∈ before, e.2 = true → inSpad s e.1 size) →
      ∀ i ∈ [Instr.vldx m d a b, .vstx m.k d a b],
        (l.1.toNat % size ≠ 0 → traps s i 0x07 l.1) ∧
          (l.1.toNat % size = 0 → s.ctx.spSize < l.1.toNat + size → traps s i 0x08 l.1)

/-- R171 to R173, R176: VLD, VLDM and VST complete. -/
def Obligations.VectorLoadsAndStoresComplete : Prop := VectorLoadsComplete ∧ MaskLoadCompletes ∧ VectorStoresComplete

/-- R133, R136, R165 to R168: VCVT completes, to the same width, a wider one or a narrower one, and so do VQMX, VQC4 and VDQ. -/
def Obligations.ConversionsComplete : Prop :=
  SameAndWideConversionsComplete ∧ NarrowingConversionsComplete ∧ QuantisersComplete ∧ DequantiserCompletes

/-! ### Element arithmetic and conversions against the exact values (R124 to R138, R154 to R158, R166) -/

namespace Sys2Proof.Claims

open Sys2Proof Sys2Proof.Machine

/-- The layout of a floating-point element format (Table 8-1): width, fraction bits, bias, the largest finite magnitude, the code of
+∞ where there is one, and the canonical NaN. -/
structure Layout where
  w : Nat
  fb : Nat
  bias : Nat
  largest : Nat
  inf : Option Nat
  nan : Nat

/-- fp32, bf16 and fp16 (Table 8-1). -/
def arithRows : List (Fmt × Layout) :=
  [(.fp32, ⟨32, 23, 127, 0x7F7FFFFF, some 0x7F800000, 0x7FC00000⟩), (.bf16, ⟨16, 7, 127, 0x7F7F, some 0x7F80, 0x7FC0⟩),
    (.fp16, ⟨16, 10, 15, 0x7BFF, some 0x7C00, 0x7E00⟩)]

/-- All formats of Table 8-1 that stand alone in a lane. -/
def floatRows : List (Fmt × Layout) :=
  arithRows ++ [(.e4m3, ⟨8, 3, 7, 0x7E, none, 0x7F⟩), (.e5m2, ⟨8, 2, 15, 0x7B, some 0x7C, 0x7E⟩)]

/-- The elements of the MX formats with EMAX (Table 8-1, R133). -/
def mxRows : List (FltFmt × Layout × Int) := [(e4m3F, ⟨8, 3, 7, 0x7E, none, 0x7F⟩, 8), (e2m1F, ⟨4, 1, 1, 7, none, 0⟩, 2)]

/-- The integer formats: width and whether signed (R130). -/
def intRows : List (Fmt × Nat × Bool) := [(.int32, 32, true), (.int16, 16, true), (.int8, 8, true), (.uint8, 8, false)]

/-- The modes of RMODE (Table 8-2). -/
def plainModes : List RMode := [.rne, .rtz, .rdn, .rup]

/-- The magnitude code of an encoding. -/
def Layout.mag (l : Layout) (v : Nat) : Nat := v % 2 ^ (l.w - 1)
/-- The sign of an encoding. -/
def Layout.negative (l : Layout) (v : Nat) : Bool := v / 2 ^ (l.w - 1) % 2 == 1
/-- An encoding of a finite value. -/
def Layout.finite (l : Layout) (v : Nat) : Prop := v < 2 ^ l.w ∧ l.mag v ≤ l.largest
/-- An encoding of an infinity. -/
def Layout.infinite (l : Layout) (v : Nat) : Prop := v < 2 ^ l.w ∧ some (l.mag v) = l.inf
/-- An encoding of a NaN. -/
def Layout.isNan (l : Layout) (v : Nat) : Prop := v < 2 ^ l.w ∧ l.largest < l.mag v ∧ some (l.mag v) ≠ l.inf

/-- The value of a finite encoding (R124): 0.fraction · 2^(1 − bias), or 1.fraction · 2^(exponent − bias), with its sign. -/
def Layout.val (l : Layout) (v : Nat) : ℚ :=
  let e := l.mag v / 2 ^ l.fb
  let f : ℚ := ((l.mag v % 2 ^ l.fb : ℕ) : ℚ) / 2 ^ l.fb
  let m : ℚ := if e = 0 then f * 2 ^ (1 - (l.bias : ℤ)) else (1 + f) * 2 ^ ((e : ℤ) - l.bias)
  if l.negative v then -m else m

/-- The largest finite value. -/
def Layout.top (l : Layout) : ℚ := l.val l.largest
/-- The step of the highest exponent. -/
def Layout.step (l : Layout) : ℚ := 2 ^ (((l.largest / 2 ^ l.fb : ℕ) : ℤ) - l.bias - l.fb)

/-- A magnitude code with a sign. -/
def Layout.signed (l : Layout) (neg : Bool) (k : Nat) : Nat := if neg then 2 ^ (l.w - 1) + k else k

/-- x, rounded under the mode with an unbounded exponent range, would exceed the largest finite magnitude (R127, R128). -/
def Layout.overflows (l : Layout) (mode : RMode) (x : ℝ) : Prop :=
  match mode with
  | .rne => (l.top : ℝ) + l.step / 2 < |x| ∨ (|x| = (l.top : ℝ) + l.step / 2 ∧ l.largest % 2 = 1)
  | .rtz => (l.top : ℝ) + l.step ≤ |x|
  | .rdn => x < -(l.top : ℝ) ∨ (l.top : ℝ) + l.step ≤ x
  | .rup => (l.top : ℝ) < x ∨ x ≤ -((l.top : ℝ) + l.step)
  | .sr _ => False

/-- The magnitude that an overflow delivers (Table 8-3). -/
def Layout.delivered (l : Layout) (mode : RMode) (neg : Bool) : Nat :=
  match l.inf, mode with
  | none, _ => l.largest
  | some i, .rne => i
  | some _, .rtz => l.largest
  | some i, .rdn => if neg then i else l.largest
  | some i, .rup => if neg then l.largest else i
  | some i, .sr _ => i

/-- z is the finite encoding that the mode chooses for x (Table 8-2). -/
def Layout.chosen (l : Layout) (mode : RMode) (x : ℝ) (z : Nat) : Prop :=
  let y : ℝ := l.val z
  match mode with
  | .rne => ∀ v, l.finite v → |y - x| ≤ |(l.val v : ℝ) - x| ∧ (|y - x| = |(l.val v : ℝ) - x| → l.val v ≠ l.val z → z % 2 = 0)
  | .rtz => |y| ≤ |x| ∧ 0 ≤ y * x ∧ ∀ v, l.finite v → |(l.val v : ℝ)| ≤ |x| → |(l.val v : ℝ)| ≤ |y|
  | .rdn => y ≤ x ∧ ∀ v, l.finite v → (l.val v : ℝ) ≤ x → (l.val v : ℝ) ≤ y
  | .rup => x ≤ y ∧ ∀ v, l.finite v → x ≤ (l.val v : ℝ) → y ≤ (l.val v : ℝ)
  | .sr _ => True

/-- `r` is RND(x, format, mode) with the flags of R128, for a real x that is not 0 (R126 to R128). -/
def Layout.rounds (l : Layout) (mode : RMode) (x : ℝ) (r : Nat × Flags) : Prop :=
  (l.overflows mode x → r = (l.signed (decide (l.negative r.1 = true)) (l.delivered mode (l.negative r.1)), fOF ||| fNX) ∧
    (l.negative r.1 = true ↔ x < 0)) ∧
  (¬l.overflows mode x → l.finite r.1 ∧ (l.negative r.1 = true ↔ x < 0) ∧ l.chosen mode x r.1 ∧
    ((l.val r.1 : ℝ) = x → r.2 = 0) ∧
    ((l.val r.1 : ℝ) ≠ x → (|x| < 2 ^ (1 - (l.bias : ℤ)) → r.2 = fUF ||| fNX) ∧ (2 ^ (1 - (l.bias : ℤ)) ≤ |x| → r.2 = fNX)))

/-- The value of an integer element (R130). -/
def intOf (w : Nat) (sg : Bool) (v : Nat) : Int := if sg then (BitVec.ofNat w v).toInt else v

/-- The bounds of an integer format. -/
def intBounds (w : Nat) (sg : Bool) : Int × Int := if sg then (-(2 ^ (w - 1)), 2 ^ (w - 1) - 1) else (0, 2 ^ w - 1)

/-- n is x rounded to an integer under the mode (R131). -/
def roundsToInt (mode : RMode) (x : ℚ) (n : Int) : Prop :=
  match mode with
  | .rne => |(n : ℚ) - x| ≤ 1 / 2 ∧ (|(n : ℚ) - x| = 1 / 2 → n % 2 = 0)
  | .rtz => |(n : ℚ)| ≤ |x| ∧ |x| < |(n : ℚ)| + 1 ∧ 0 ≤ n * x
  | .rdn => (n : ℚ) ≤ x ∧ x < n + 1
  | .rup => x ≤ n ∧ (n : ℚ) - 1 < x
  | .sr _ => True

/-- A number: finite or infinite. -/
def Layout.number (l : Layout) (v : Nat) : Prop := l.finite v ∨ l.infinite v

/-- a is smaller than b, the zeros of either sign being equal (R159). -/
def Layout.below (l : Layout) (a b : Nat) : Prop :=
  (l.infinite a ∧ l.negative a = true ∧ ¬(l.infinite b ∧ l.negative b = true)) ∨
    (l.infinite b ∧ l.negative b = false ∧ ¬(l.infinite a ∧ l.negative a = false)) ∨
    (l.finite a ∧ l.finite b ∧ l.val a < l.val b)

/-- `r` is RND(x, format, SR) where the generator gave z, for an x that is not 0 (R128, R142): |x| lies f units above a multiple of the
spacing there, and goes up a unit where the top 24 bits of z are below f · 2^24. -/
def Layout.stochastic (l : Layout) (z : W64) (x : ℚ) (r : Nat × Flags) : Prop :=
  ∃ e : ℤ, 2 ^ e ≤ |x| ∧ |x| < 2 ^ (e + 1) ∧
    let u : ℚ := 2 ^ (max e (1 - (l.bias : ℤ)) - (l.fb : ℤ))
    let n : ℤ := ⌊|x| / u⌋
    let up : Prop := ((z.toNat / 2 ^ 40 : ℕ) : ℤ) < ⌊(|x| / u - n) * 2 ^ 24⌋
    (l.negative r.1 = true ↔ x < 0) ∧
    ∃ m : ℚ, (up → m = (n + 1) * u) ∧ (¬up → m = n * u) ∧
      (m ≤ l.top → l.finite r.1 ∧ |l.val r.1| = m ∧
        r.2 = if m = |x| then 0 else if |x| < 2 ^ (1 - (l.bias : ℤ)) then fUF ||| fNX else fNX) ∧
      (l.top < m → r.2 = fOF ||| fNX ∧ (up → l.mag r.1 = l.inf.getD l.largest) ∧ (¬up → l.mag r.1 = l.largest))

/-- What VCMP writes for a pair of which `lt` says that a is smaller, `gt` that b is, by its condition code (Table 10-5). -/
def cmpTable (lt gt : Prop) (c : Nat) : Prop :=
  match c with
  | 0 => ¬lt ∧ ¬gt
  | 1 => lt ∨ gt
  | 2 => lt
  | 3 => ¬gt
  | 4 => gt
  | 5 => ¬lt
  | 6 => False
  | _ => True

end Sys2Proof.Claims

/-- R125, R154, R159: VMIN and VMAX pick the smaller and the larger number, -0 below +0, VABS and VNEG change the sign bit alone, and VCMP
compares by Table 10-5, -0 equal to +0; of a NaN operand they give the canonical NaN, or what the table says, with no flag. -/
def Sys2Proof.Claims.FloatsCompare : Prop :=
  ∀ row ∈ arithRows, ∀ a b : Nat,
    let t := row.1
    let l := row.2
    (l.number a → l.number b →
      (l.below a b → elemMin t a b = (a, 0) ∧ elemMax t a b = (b, 0)) ∧
      (l.below b a → elemMin t a b = (b, 0) ∧ elemMax t a b = (a, 0)) ∧
      (¬l.below a b → ¬l.below b a → elemMin t a b = (if l.negative a then a else b, 0) ∧
        elemMax t a b = (if l.negative a then b else a, 0)) ∧
      ∀ c, c < 8 → (elemCmp t c a b = true ↔ cmpTable (l.below a b) (l.below b a) c)) ∧
    (l.number a → elemAbs t a = (l.mag a, 0) ∧ elemNeg t a = (l.signed (!l.negative a) (l.mag a), 0)) ∧
    (l.isNan a → elemAbs t a = (l.nan, 0) ∧ elemNeg t a = (l.nan, 0)) ∧
    (a < 2 ^ l.w → b < 2 ^ l.w → l.isNan a ∨ l.isNan b → elemMin t a b = (l.nan, 0) ∧ elemMax t a b = (l.nan, 0) ∧
      ∀ c, c < 8 → (elemCmp t c a b = true ↔ c = 1 ∨ c = 6))

/-- R154, R157, R159, R166: VMIN, VMAX and VCMP compare integers by their values, VABS and VNEG wrap, VSAR shifts in copies of the sign bit
and on uint8 and bits zeros, and VCVT of an integer to an integer format clamps; none raises a flag. -/
def Sys2Proof.Claims.IntegersCompareAndShift : Prop :=
  (∀ row ∈ intRows, ∀ a b : Nat,
    let t := row.1
    let w := row.2.1
    let iv := intOf w row.2.2
    a < 2 ^ w → b < 2 ^ w →
      elemMin t a b = (if iv b < iv a then b else a, 0) ∧ elemMax t a b = (if iv a < iv b then b else a, 0) ∧
      elemAbs t a = ((|iv a| % 2 ^ w).toNat, 0) ∧ elemNeg t a = ((-iv a % 2 ^ w).toNat, 0) ∧
      (∀ c, c < 8 → (elemCmp t c a b = true ↔ cmpTable (iv a < iv b) (iv b < iv a) c)) ∧
      (row.2.2 = true → elemSar t a b = ((iv a / 2 ^ min w b % 2 ^ w).toNat, 0)) ∧
      ∀ tgt ∈ intRows, cvtPair t tgt.1 = true → ∀ mode : RMode, ∃ r : Nat, r < 2 ^ tgt.2.1 ∧ elemCvt t tgt.1 mode a = (r, 0) ∧
        intOf tgt.2.1 tgt.2.2 r = max (intBounds tgt.2.1 tgt.2.2).1 (min (intBounds tgt.2.1 tgt.2.2).2 (iv a))) ∧
  ∀ t ∈ [Fmt.uint8, .bits], ∀ a b : Nat, a < 256 → b < 256 → elemSar t a b = (a / 2 ^ b, 0)

/-- R142, R166: a conversion to a floating-point format under SR rounds by the generator's output at its element; a NaN, an infinity and a
zero convert as under RNE. -/
def Sys2Proof.Claims.StochasticConversionsRound : Prop :=
  ∀ tgt ∈ floatRows, ∀ z : W64,
    (∀ src ∈ floatRows, cvtPair src.1 tgt.1 = true → ∀ v : Nat,
      (src.2.finite v → src.2.val v ≠ 0 → tgt.2.stochastic z (src.2.val v) (elemCvt src.1 tgt.1 (.sr z) v)) ∧
      (src.2.isNan v ∨ src.2.infinite v ∨ (src.2.finite v ∧ src.2.val v = 0) →
        elemCvt src.1 tgt.1 (.sr z) v = elemCvt src.1 tgt.1 .rne v)) ∧
    ∀ src ∈ intRows, cvtPair src.1 tgt.1 = true → ∀ v : Nat, v < 2 ^ src.2.1 →
      let n := intOf src.2.1 src.2.2 v
      n ≠ 0 → tgt.2.stochastic z (n : ℚ) (elemCvt src.1 tgt.1 (.sr z) v)

/-- R125 to R128, R154, R155: sums, differences, products and fused sums of finite elements are the exact value rounded once; an exact
zero has the sign of IEEE 754; a NaN operand gives the canonical NaN without a flag, and a NaN that is created raises NV. -/
def Sys2Proof.Claims.FloatArithmeticRounds : Prop :=
  ∀ row ∈ arithRows, ∀ mode ∈ plainModes, ∀ d a b : Nat,
    let t := row.1
    let l := row.2
    (l.finite d → l.finite a → l.finite b →
      (∀ p ∈ [(elemAdd t mode a b, l.val a + l.val b), (elemSub t mode a b, l.val a - l.val b), (elemMul t mode a b, l.val a * l.val b),
          (elemFma t mode d a b, l.val d + l.val a * l.val b), (elemFms t mode d a b, l.val d - l.val a * l.val b)],
        p.2 ≠ 0 → l.rounds mode ((p.2 : ℚ) : ℝ) p.1) ∧
      (l.val a + l.val b = 0 → elemAdd t mode a b =
        (l.signed (if l.mag a = 0 ∧ l.negative a = l.negative b then l.negative a else mode == .rdn) 0, 0)) ∧
      (l.val a * l.val b = 0 → elemMul t mode a b = (l.signed (l.negative a != l.negative b) 0, 0))) ∧
    (a < 2 ^ l.w → b < 2 ^ l.w → l.isNan a ∨ l.isNan b →
      elemAdd t mode a b = (l.nan, 0) ∧ elemSub t mode a b = (l.nan, 0) ∧ elemMul t mode a b = (l.nan, 0) ∧
      (l.finite d → elemFma t mode d a b = (l.nan, 0))) ∧
    (l.infinite a → l.infinite b →
      elemAdd t mode a b = (if l.negative a = l.negative b then (a, 0) else (l.nan, fNV)) ∧
      elemSub t mode a b = (if l.negative a = l.negative b then (l.nan, fNV) else (a, 0))) ∧
    (l.infinite a → l.finite b → elemAdd t mode a b = (a, 0) ∧ (l.val b = 0 → elemMul t mode a b = (l.nan, fNV)))

/-- R130, R154 to R156: integer arithmetic wraps modulo 2^w and raises no flag; VADDS clamps to the range of its format. -/
def Sys2Proof.Claims.IntegerArithmeticWraps : Prop :=
  ∀ row ∈ intRows, ∀ (mode : RMode) (d a b : Nat),
    let t := row.1
    let w := row.2.1
    let iv := intOf w row.2.2
    d < 2 ^ w → a < 2 ^ w → b < 2 ^ w →
    elemAdd t mode a b = ((a + b) % 2 ^ w, 0) ∧ elemSub t mode a b = ((a + (2 ^ w - b)) % 2 ^ w, 0) ∧
    elemMul t mode a b = (a * b % 2 ^ w, 0) ∧ elemFma t mode d a b = ((d + a * b) % 2 ^ w, 0) ∧
    elemFms t mode d a b = ((d + (2 ^ w - a * b % 2 ^ w)) % 2 ^ w, 0) ∧
    ∃ r : Nat, r < 2 ^ w ∧ elemAdds t a b = (r, 0) ∧
      iv r = max (intBounds w row.2.2).1 (min (intBounds w row.2.2).2 (iv a + iv b))

/-- R127 to R131, R138, R166: a conversion rounds the exact value of its element once; into an integer it clamps, raising NV alone (log
entry 89); into ang16 it is taken modulo a turn; NaNs and infinities convert as the rules say. -/
def Sys2Proof.Claims.ConversionsRound : Prop :=
  (∀ src ∈ floatRows, ∀ tgt ∈ floatRows, cvtPair src.1 tgt.1 = true → ∀ mode ∈ plainModes, ∀ v : Nat,
    let r := elemCvt src.1 tgt.1 mode v
    (src.2.finite v → src.2.val v ≠ 0 → tgt.2.rounds mode ((src.2.val v : ℚ) : ℝ) r) ∧
    (src.2.finite v → src.2.val v = 0 → r = (tgt.2.signed (src.2.negative v) 0, 0)) ∧
    (src.2.isNan v → r = (tgt.2.nan, 0)) ∧
    (src.2.infinite v → r = match tgt.2.inf with
      | some i => (tgt.2.signed (src.2.negative v) i, 0)
      | none => (tgt.2.signed (src.2.negative v) tgt.2.largest, fOF ||| fNX))) ∧
  (∀ src ∈ intRows, ∀ tgt ∈ floatRows, cvtPair src.1 tgt.1 = true → ∀ mode ∈ plainModes, ∀ v : Nat, v < 2 ^ src.2.1 →
    let n := intOf src.2.1 src.2.2 v
    (n ≠ 0 → tgt.2.rounds mode ((n : ℤ) : ℝ) (elemCvt src.1 tgt.1 mode v)) ∧ (n = 0 → elemCvt src.1 tgt.1 mode v = (0, 0))) ∧
  (∀ src ∈ floatRows, ∀ tgt ∈ intRows, cvtPair src.1 tgt.1 = true → ∀ mode ∈ plainModes, ∀ v : Nat,
    let r := elemCvt src.1 tgt.1 mode v
    let iv := intOf tgt.2.1 tgt.2.2
    let lo := (intBounds tgt.2.1 tgt.2.2).1
    let hi := (intBounds tgt.2.1 tgt.2.2).2
    (src.2.finite v → ∃ n : Int, roundsToInt mode (src.2.val v) n ∧ r.1 < 2 ^ tgt.2.1 ∧ iv r.1 = max lo (min hi n) ∧
      (n < lo ∨ hi < n → r.2 = fNV) ∧ (lo ≤ n → n ≤ hi → ((n : ℚ) = src.2.val v → r.2 = 0) ∧ ((n : ℚ) ≠ src.2.val v → r.2 = fNX))) ∧
    (src.2.isNan v → r = (0, fNV)) ∧
    (src.2.infinite v → r.1 < 2 ^ tgt.2.1 ∧ iv r.1 = (if src.2.negative v then lo else hi) ∧ r.2 = fNV)) ∧
  ∀ row ∈ arithRows, row.1 = .fp32 → ∀ mode ∈ plainModes, ∀ v : Nat,
    (row.2.finite v → ∃ n : Int, roundsToInt mode (row.2.val v * 65536) n ∧
      elemCvt .fp32 .ang16 mode v = ((n % 65536).toNat, if (n : ℚ) = row.2.val v * 65536 then 0 else fNX)) ∧
    (row.2.isNan v ∨ row.2.infinite v → elemCvt .fp32 .ang16 mode v = (0, fNV)) ∧
    (v < 65536 → ∃ z, elemCvt .ang16 .fp32 mode v = (z, 0) ∧ row.2.finite z ∧ row.2.val z = (v : ℚ) / 65536)

/-- R128, R158: VRCP, VSQRT and VRSQ give the correctly rounded 1/x, √x and 1/√x whatever RMODE is, VEXP2 of an integer and VLOG2 of a
power of two their exact value; of a zero, a negative number or a NaN they give what Table 10-4 says. -/
def Sys2Proof.Claims.TranscendentalsRound : Prop :=
  ∀ row ∈ arithRows, ∀ v : Nat,
    let t := row.1
    let l := row.2
    let x : ℝ := ((l.val v : ℚ) : ℝ)
    (l.finite v →
      (l.val v ≠ 0 → l.rounds .rne (1 / x) (elemTransc rcpVal t v)) ∧
      (l.val v = 0 → l.inf.map (fun i => (l.signed (l.negative v) i, fDZ)) = some (elemTransc rcpVal t v) ∧
        elemTransc sqrtVal t v = (v, 0) ∧ l.inf.map (fun i => (l.signed (l.negative v) i, fDZ)) = some (elemTransc rsqVal t v) ∧
        l.inf.map (fun i => (l.signed true i, fDZ)) = some (elemTransc log2Val t v)) ∧
      (0 < l.val v → l.rounds .rne (Real.sqrt x) (elemTransc sqrtVal t v) ∧
        l.rounds .rne (1 / Real.sqrt x) (elemTransc rsqVal t v)) ∧
      (l.val v < 0 → elemTransc sqrtVal t v = (l.nan, fNV) ∧ elemTransc rsqVal t v = (l.nan, fNV) ∧
        elemTransc log2Val t v = (l.nan, fNV)) ∧
      (∀ n : ℤ, l.val v = n → l.rounds .rne ((2 : ℝ) ^ n) (elemTransc exp2Val t v)) ∧
      ∀ n : ℤ, n ≠ 0 → l.val v = 2 ^ n → l.rounds .rne (n : ℝ) (elemTransc log2Val t v)) ∧
    (l.isNan v → ∀ g ∈ [rcpVal, sqrtVal, rsqVal, exp2Val, log2Val], elemTransc g t v = (l.nan, 0))

/-- R133: an MX block of finite values takes the scale that its largest magnitude gives, and each element is the scaled value rounded to
nearest even, its flags those of its elements but OF, so that saturation raises NX alone; a block that holds a NaN or an infinity takes the scale 0xFF. -/
def Sys2Proof.Claims.MxBlocksRound : Prop :=
  ∀ row ∈ mxRows, ∀ fp ∈ arithRows, ∀ vs : List Nat, vs.length = 32 →
    let q := mxQuant row.1 row.2.2 (fun _ => .rne) (vs.map fp.1.fval)
    let l := row.2.1
    ((∀ v ∈ vs, fp.2.finite v) → (∃ v ∈ vs, fp.2.val v ≠ 0) →
      ∃ (a : Nat) (n : ℤ), a ∈ vs ∧ (∀ v ∈ vs, |fp.2.val v| ≤ |fp.2.val a|) ∧ 2 ^ n ≤ |fp.2.val a| ∧ |fp.2.val a| < 2 ^ (n + 1) ∧
        ((q.scale : ℕ) : ℤ) = max 0 (min 254 (n - row.2.2 + 127)) ∧ q.elems.length = 32 ∧
        ∃ fls : List Flags, fls.length = 32 ∧
          (∀ b, q.flags.getLsbD b = true ↔ ∃ fl ∈ fls, (fl &&& ~~~fOF).getLsbD b = true) ∧
          ∀ (i v z : Nat) (fl : Flags), vs[i]? = some v → q.elems[i]? = some z → fls[i]? = some fl →
            let x : ℚ := fp.2.val v / 2 ^ ((q.scale : ℤ) - 127)
            (x = 0 → z = l.signed (fp.2.negative v) 0 ∧ fl = 0) ∧ (x ≠ 0 → l.rounds .rne ((x : ℚ) : ℝ) (z, fl))) ∧
    ((∀ v ∈ vs, fp.2.finite v ∧ fp.2.val v = 0) → q = ⟨0, List.replicate 32 0, 0⟩) ∧
    ((∃ v ∈ vs, fp.2.isNan v ∨ fp.2.infinite v) → q.scale = 0xFF ∧ q.elems = List.replicate 32 0)

/-- R128, R129, R134, R137, R158, R166: the worked values of the rules. That the MX example of R134 raises UF beside NX is log entry 26. -/
def Sys2Proof.Claims.WorkedValuesHold : Prop :=
  (∀ c ∈ [(elemAdd .fp32 .rne 0x3F800000 0x33800000, (0x3F800000, fNX)), (elemAdd .fp32 .rup 0x3F800000 0x33800000, (0x3F800001, fNX)),
      (elemCvt .fp32 .bf16 .rne 0x3F818000, (0x3F82, fNX)), (elemCvt .fp32 .fp16 .rne 0x477FF000, (0x7C00, fOF ||| fNX)),
      (elemCvt .fp32 .fp16 .rtz 0x477FF000, (0x7BFF, fNX)), (elemCvt .fp16 .e4m3 .rne 0x5FD0, (0x7E, fOF ||| fNX)),
      (elemCvt .fp16 .e5m2 .rne 0x5FD0, (0x60, fNX)), (elemCvt .fp32 .fp16 .rne 0x4788B800, (0x7C00, fOF ||| fNX)),
      (elemCvt .fp32 .int16 .rne 0xC06CCCCD, (0xFFFC, fNX)), (elemCvt .fp32 .int32 .rup 0x7FC00000, (0, fNV)),
      (elemCvt .fp32 .ang16 .rne 0x3E99999A, (0x4CCD, fNX)), (elemCvt .fp32 .ang16 .rtz 0x3FA00000, (0x4000, 0)),
      (elemCvt .bf16 .e4m3 .rne 0x3F81, (0x38, fNX)), (elemCvt .int16 .uint8 .rne 0xFFFB, (0, 0)),
      (elemCvt .e4m3 .bf16 .rne 0xFF, (0x7FC0, 0)), (elemTransc rcpVal .fp16 1, (0x7C00, fOF ||| fNX)),
      (elemTransc exp2Val .fp32 0xC3158000, (1, fUF ||| fNX)), (elemTransc rsqVal .fp32 0x40000000, (0x3F3504F3, fNX))], c.1 = c.2) ∧
    (let q := mxQuant e2m1F 2 (fun _ => .rne) ([0x41500000, 0x40A00000, 0xBF333333].map Fmt.fp32.fval ++
        List.replicate 29 (Fmt.fp32.fval 0))
     q.scale = 0x80 ∧ q.elems.take 4 = [7, 4, 9, 0] ∧ q.flags &&& fNX = fNX) ∧
    (let q := qcQuant (([0x40000000, 0xBF800000].map Fmt.fp32.fval ++ List.replicate 62 (Fmt.fp32.fval 0)) ++
        ([0x3F000000, 0x3E800000].map Fmt.fp32.fval ++ List.replicate 62 (Fmt.fp32.fval 0)) ++ List.replicate 128 (Fmt.fp32.fval 0))
     q.super = 0x40000000 ∧ q.scales = [255, 64, 0, 0] ∧ q.codes.take 4 = [15, 2, 8, 8] ∧ (q.codes.drop 64).take 3 = [15, 13, 8] ∧
       q.codes.drop 128 = List.replicate 128 8 ∧ q.flags = fNX)

/-- R124 to R138, R142, R154 to R159, R166: what the element operations give is the exact value of their operands rounded by the tables of the
number formats, with their flags; comparisons, signs and shifts go by the values. -/
def Obligations.ElementsFollowTheFormats : Prop :=
  FloatArithmeticRounds ∧ FloatsCompare ∧ IntegerArithmeticWraps ∧ IntegersCompareAndShift ∧ ConversionsRound ∧
    StochasticConversionsRound ∧ TranscendentalsRound ∧ MxBlocksRound ∧ WorkedValuesHold

/-! ### Engine instructions at issue (R17, R18, R27, R46, R53, R217) -/

namespace Sys2Proof.Claims

open Sys2Proof Sys2Proof.Machine

/-- The context after an engine instruction `o` has entered the queue of its engine: it takes the next place in program order, its
token a new instance that is not done, and its result an outstanding scoreboard entry; what waits for bytes that `o` will write, to know
its own, may write any bytes from here on. -/
def queuedCtx (s : State) (g : EGuard) (eng : Nat) (res : Option SbDest) (o : EngOp) : Ctx :=
  let id := s.ctx.pipe.nextId
  let tokens := match producesTok g with
    | none => s.ctx.eng.tokens
    | some n => s.ctx.eng.tokens.setIfInBounds n.toNat ⟨(s.ctx.token n.toNat).inst + 1, false, 0⟩
  let e := if o.wr = [] then s.ctx.eng else s.ctx.eng.unsettle o.wr
  { s.ctx with
    pipe := { s.ctx.pipe with
      nextId := id + 1
      sb := match res with
        | none => []
        | some d => [⟨id, d, .waiting, s.ctx.regs.pc, false, []⟩] }
    eng := { (e.setQueue eng (e.queue eng ++ [o])) with tokens := tokens } }

/-- The K of a product: imm12, or with 0 the smaller of the full widths of the two operands (R226). -/
def prodK (g : EGuard) (fa fb : Fmt) : Nat :=
  if g.imm12.toNat != 0 then g.imm12.toNat else (minOpt (fullWidth fa) (fullWidth fb)).getD 0

/-- What an entry of a queue holds beside the values of its operands, resolved at issue under the views of that moment (R37, R46): the
addresses of tiles, accumulators and vector registers, tags, K, the lanes of an index vector, and operands in place of sD. -/
def resolvedAt (s : State) (i : Instr) (o : EngOp) : Prop :=
  let tile := fun (v : BitVec 6) => s.ctx.tileAddr v.toNat
  let acc := fun (q : BitVec 3) => s.ctx.accAddr q.toNat
  match i with
  | .rotp _ d a _ | .roti _ d a _ => o.daddr = tile d ∧ o.aaddr = tile a ∧ Fmt.ofCode o.atag = s.ctx.basin.tagAt (tile a)
  | .rotg _ d a b => o.daddr = tile d ∧ o.aaddr = tile a ∧ o.gaddr = s.ctx.accAddr (passGacc (s.ctx.regs.getS b))
  | .tri _ d _ _ | .grot _ d _ _ => o.daddr = tile d
  | .mprod g q a b | .mprodb g q a b => o.daddr = acc q ∧ (a.toNat < 60 → o.aaddr = tile a) ∧ (b.toNat < 60 → o.baddr = tile b) ∧
      prodFmt s a = some (Fmt.ofCode o.atag) ∧ prodFmt s b = some (Fmt.ofCode o.btag) ∧
      o.dlen = prodK g (Fmt.ofCode o.atag) (Fmt.ofCode o.btag) ∧
      o.view = BitVec.ofNat 1024 (s.ctx.tileAddr (a.toNat + 8) + 2 ^ 64 * s.ctx.tileAddr (b.toNat + 8))
  | .accZ _ q | .accLd _ q _ | .accPeer _ q _ _ => o.daddr = acc q
  | .accOut _ q _ b => o.daddr = acc q ∧ o.baddr = s.ctx.tileAddr (outTile (s.ctx.regs.getS b))
  | .driftRd _ d => o.daddr = s.ctx.vecAddr d.toNat
  | .gath g _ _ _ => o.idx = s.ctx.regBytes (s.ctx.vecAddr (immOf g % 64)) 256
  | .pav _ d _ _ | .calRd _ d _ _ | .calGo _ d _ _ => o.sd = s.ctx.regs.getS d
  | .atomCas g d _ _ => o.sd.toNat = (s.ctx.regs.getS d).toNat % 2 ^ (if immOf g % 2 = 1 then 32 else 64)
  | .brdRd g _ _ _ => o.view = s.ctx.regs.getW (BitVec.ofNat 2 (immOf g))
  | _ => True

/-- What an engine instruction keeps from its issue: itself, its place, its operands, the token instances it waits for and the
one it produces, the registers that R46 reads at issue, and what it resolves then (R37); it has not begun. -/
def capturedAt (s : State) (i : Instr) (g : EGuard) (eng : Nat) (res : Option SbDest) (va vb : W64) (o : EngOp) : Prop :=
  o.instr = i ∧ o.eng = eng ∧ o.id = s.ctx.pipe.nextId ∧ o.bpc = s.ctx.regs.pc ∧ o.sa = va ∧ o.sb = vb ∧
    o.waits = s.ctx.captures g ∧
    o.prod = (producesTok g).map (fun n => (n.toNat, (s.ctx.token n.toNat).inst + 1)) ∧
    o.sbId = (if res.isSome then some s.ctx.pipe.nextId else none) ∧ o.begun = false ∧ o.held = [] ∧
    o.rmode = s.ctx.ctl.rmode ∧ o.seed = s.ctx.ctl.seed ∧ o.tensor = s.ctx.ctl.tensor ∧ o.coord = s.ctx.ctl.coord ∧
    o.acl = s.ctx.ctl.acl ∧ o.mshape = s.ctx.ctl.mshape ∧ o.tailCmd = s.ctx.casc.tailKept ∧ resolvedAt s i o

/-- The instruction `i` completes at issue by entering the queue of its engine with the operands `va` and `vb`. -/
def enters (s : State) (i : Instr) (g : EGuard) (eng : Nat) (res : Option SbDest) (va vb : W64) : Prop :=
  ∃ o, exec i s = .next (s.finished (queuedCtx s g eng res o) (s.nb i)) ∧ capturedAt s i g eng res va vb o

/-- An engine slot whose guard holds finds room in the queue of engine `eng`. -/
def engReady (s : State) (g : EGuard) (eng : Nat) : Prop :=
  s.ready ∧ eGuard s g = true ∧ (s.ctx.eng.queue eng).length < 16

/-- The copy engine that serves the first C slot of a bundle: 1, or 2 when only that one survives (R20). -/
def firstCopyEngine (s : State) : Nat := if s.mgmt.survive.getLsbD 2 then 1 else 2

/-- An aligned image of n bytes inside the scratchpad. -/
def imageFits (s : State) (va : W64) (align n : Nat) : Prop := va.toNat % align = 0 ∧ va.toNat + n ≤ s.ctx.spSize

/-- Tile k has a legal size, lies in the register space, and holds n bytes (R36). -/
def tileOk (s : State) (k n : Nat) : Prop :=
  (s.ctx.tileLog2 = 12 ∨ s.ctx.tileLog2 = 13 ∨ s.ctx.tileLog2 = 14) ∧
    s.ctx.tileAddr k + s.ctx.tileSize ≤ s.ctx.regSize ∧ n ≤ s.ctx.tileSize

/-- n granules from `a` on carry the tag t. -/
def tagged (s : State) (a n : Nat) (t : Fmt) : Prop := ∀ i, i < n → s.ctx.basin.tagAt (a + 256 * i) = t

/-- Accumulator q lies in the accumulator storage (R36). -/
def accOk (s : State) (q : Nat) : Prop := s.ctx.accAddr q + 16384 ≤ s.ctx.accSize

/-- An image of n bytes where an accumulator address descriptor points (Table 14-2): in the register space aligned to 256, in the
scratchpad to 64. -/
def descOk (s : State) (w : W64) (n : Nat) : Prop :=
  if descSpad w then descAddr w % 64 = 0 ∧ descAddr w + n ≤ s.ctx.spSize
  else descAddr w % 256 = 0 ∧ descAddr w + n ≤ s.ctx.regSize

/-- A product-mode operand of `rows` rows of k elements: a port that is a SOURCE, or a tile with its granules of one tag, and with a
bitmap the tile eight further on, tagged bits (R226). -/
def prodOperandOk (s : State) (v : BitVec 6) (rows k : Nat) (f : Fmt) (bitmap : Bool) : Prop :=
  if 60 ≤ v.toNat then (s.ctx.port (v.toNat - 60)).st = .source
  else
    tileOk s v.toNat (prodSpan rows k f) ∧ tagged s (s.ctx.tileAddr v.toNat) ((prodSpan rows k f + 255) / 256) f ∧
      (bitmap = true → tileOk s (v.toNat + 8) ((rows * k + 7) / 8) ∧
        tagged s (s.ctx.tileAddr (v.toNat + 8)) ((rows * k + 2047) / 2048) .bits)

/-- The context with an atomic queued and its access in program order (R237, R294). -/
def atomCtx (s : State) (g : EGuard) (res : Option SbDest) (o : EngOp) (acc : Access) : Ctx :=
  let c := queuedCtx s g (firstCopyEngine s) res o
  { c with eng := { c.eng with accs := s.ctx.eng.accs ++ [acc] } }

/-- The atomics that return the old value, with their operation numbers. -/
def atomRows : List ((EGuard → BitVec 6 → BitVec 6 → BitVec 6 → Instr) × Nat) :=
  [(.atomAdd, 0), (.atomMin, 1), (.atomMax, 2), (.atomXch, 3), (.atomAnd, 4), (.atomOr, 5)]

/-- The reductions, with their operation numbers. -/
def redRows : List ((EGuard → BitVec 6 → BitVec 6 → Instr) × Nat) := [(.redAdd, 0), (.redMin, 1), (.redMax, 2)]

/-- The guard of an M or C instruction. -/
def guardOfE (i : Instr) : Option EGuard :=
  match i with
  | .angLd g _ => some g
  | .angSwap g => some g
  | .patLd g _ _ => some g
  | .rotp g _ _ _ => some g
  | .roti g _ _ _ => some g
  | .rotg g _ _ _ => some g
  | .tailSet g _ _ => some g
  | .actLd g _ => some g
  | .tri g _ _ _ => some g
  | .grot g _ _ _ => some g
  | .swpSv g _ => some g
  | .swpLd g _ => some g
  | .mprod g _ _ _ => some g
  | .mprodb g _ _ _ => some g
  | .accZ g _ => some g
  | .accLd g _ _ => some g
  | .accOut g _ _ _ => some g
  | .accPeer g _ _ _ => some g
  | .driftRd g _ => some g
  | .arrQ g _ _ => some g
  | .copy g _ _ _ => some g
  | .copyRed g _ _ _ => some g
  | .gath g _ _ _ => some g
  | .tplLd g _ _ => some g
  | .strm g _ _ _ => some g
  | .strmCl g _ => some g
  | .xsOpen g _ _ _ => some g
  | .ttSet g _ _ _ => some g
  | .ttReady g _ => some g
  | .ttRel g _ => some g
  | .ttBind g _ _ => some g
  | .ttQ g _ _ => some g
  | .fence g _ _ => some g
  | .drain g _ => some g
  | .arrive g _ _ => some g
  | .trec g _ _ _ => some g
  | .post g _ => some g
  | .tokCl g _ => some g
  | .atomAdd g _ _ _ => some g
  | .atomMin g _ _ _ => some g
  | .atomMax g _ _ _ => some g
  | .atomXch g _ _ _ => some g
  | .atomAnd g _ _ _ => some g
  | .atomOr g _ _ _ => some g
  | .atomCas g _ _ _ => some g
  | .redAdd g _ _ => some g
  | .redMin g _ _ => some g
  | .redMax g _ _ => some g
  | .colSet g _ _ _ => some g
  | .pav g _ _ _ => some g
  | .brdRd g _ _ _ => some g
  | .brdLv g _ _ => some g
  | .dpost g _ _ _ => some g
  | .calRd g _ _ _ => some g
  | .calGo g _ _ _ => some g
  | .gtime g _ => some g
  | .trig g _ => some g
  | _ => none

/-- Whether an instruction is one of the M slot (Table 3-10): it enters the cascade's queue, a C instruction that of its copy engine. -/
def isCascade (i : Instr) : Bool :=
  match i with
  | .angLd _ _ => true
  | .angSwap _ => true
  | .patLd _ _ _ => true
  | .rotp _ _ _ _ => true
  | .roti _ _ _ _ => true
  | .rotg _ _ _ _ => true
  | .tailSet _ _ _ => true
  | .actLd _ _ => true
  | .tri _ _ _ _ => true
  | .grot _ _ _ _ => true
  | .swpSv _ _ => true
  | .swpLd _ _ => true
  | .mprod _ _ _ _ => true
  | .mprodb _ _ _ _ => true
  | .accZ _ _ => true
  | .accLd _ _ _ => true
  | .accOut _ _ _ _ => true
  | .accPeer _ _ _ _ => true
  | .driftRd _ _ => true
  | .arrQ _ _ _ => true
  | _ => false

/-- SWP.SV acts at issue and takes no place in a queue (R224). -/
def isSwpSv (i : Instr) : Bool :=
  match i with
  | .swpSv _ _ => true
  | _ => false

/-- Granule i of the run at `a` is the first whose tag is not t. -/
def firstWrong (s : State) (a n : Nat) (t : Fmt) (i : Nat) : Prop :=
  i < n ∧ tagged s a i t ∧ s.ctx.basin.tagAt (a + 256 * i) ≠ t

/-- The first granule that does not carry the tag t takes FORMAT on the field. -/
def granulesTrap (s : State) (i : Instr) (field a n : Nat) (t : Fmt) : Prop :=
  ∀ k, firstWrong s a n t k →
    traps s i 0x04 (formatVal field (s.ctx.basin.tagAt (a + 256 * k)) t (a + 256 * k))

/-- The scratchpad image of n bytes at `va` takes ALIGN, and SPAD_RANGE where it is aligned, with the address as TVAL. -/
def imageTraps (s : State) (i : Instr) (va : W64) (align n : Nat) : Prop :=
  (va.toNat % align ≠ 0 → traps s i 0x07 va) ∧ (va.toNat % align = 0 → s.ctx.spSize < va.toNat + n → traps s i 0x08 va)

/-- The space of an accumulator address descriptor does not hold its image: REGSPACE_RANGE of field A comes first, the granules' tags next
where `tags` asks, ALIGN and SPAD_RANGE last (R107, R217, Table 14-2). -/
def descTraps (s : State) (i : Instr) (w : W64) (n : Nat) (tags : Bool) : Prop :=
  let a := descAddr w
  (descSpad w = false →
    (s.ctx.regSize < a + n → traps s i 0x09 (rangeVal 1 false a)) ∧
      (a + n ≤ s.ctx.regSize →
        (tags = true → granulesTrap s i 1 (a / 256 * 256) 64 .fp32) ∧
          ((tags = true → tagged s (a / 256 * 256) 64 .fp32) → a % 256 ≠ 0 → traps s i 0x07 (BitVec.ofNat 64 a)))) ∧
  (descSpad w = true →
    (a % 64 ≠ 0 → traps s i 0x07 (BitVec.ofNat 64 a)) ∧
      (a % 64 = 0 → s.ctx.spSize < a + n → traps s i 0x08 (BitVec.ofNat 64 a)))

end Sys2Proof.Claims

/-- R18: an M or C slot whose guard is false is discarded at issue: it enters no queue, consumes and produces no token, and the token
that it names keeps its state. -/
def Sys2Proof.Claims.FalseEngineGuardDiscards : Prop :=
  ∀ (i : Instr) (g : EGuard) (s : State), guardOfE i = some g → eGuard s g = false → s.ctx.pipe.pend = [] → s.noLoopEnd →
    exec i s = .next (s.finished s.ctx (s.nb i))

/-- R202, R219, R220, R225, R229, R232, R233, R234: the loads of the array, ANG.SWAP, ACC.Z, ACC.LD, ACC.OUT, ACC.PEER, DRIFT.RD and
ARR.Q complete at issue by entering the cascade's queue. -/
def Sys2Proof.Claims.CascadeLoadsEnterQueue : Prop :=
  ∀ (s : State) (g : EGuard) (a b : BitVec 6), engReady s g 0 →
    let va := s.ctx.regs.getS a
    let vb := s.ctx.regs.getS b
    (imageFits s va 64 8256 → enters s (.angLd g a) g 0 none va 0) ∧
    enters s (.angSwap g) g 0 none 0 0 ∧
    (∀ n : BitVec 5, imageFits s va 64 128 → enters s (.patLd g n a) g 0 none va 0) ∧
    (imageFits s va 64 2064 → enters s (.actLd g a) g 0 none va 0) ∧
    (imageFits s va 64 64 → enters s (.swpLd g a) g 0 none va 0) ∧
    (∀ q : BitVec 3, accOk s q.toNat →
      enters s (.accZ g q) g 0 none 0 0 ∧ enters s (.accPeer g q a b) g 0 none va vb ∧
      (descOk s va 16384 → (descSpad va = false → tagged s (descAddr va) 64 .fp32) →
        enters s (.accLd g q a) g 0 none va 0) ∧
      (let out := tailOut s.ctx.casc.tailKept
       let n := (if descSpad va && out.isBlk then 272 else 256) * outGranules out (64 * mshapeM s.ctx.ctl.mshape)
       descOk s va n → (outMask vb = true → tileOk s (outTile vb) 0 ∧ tagged s (s.ctx.tileAddr (outTile vb)) 2 .bits) →
        enters s (.accOut g q a b) g 0 none va vb)) ∧
    (∀ d : BitVec 6, d.toNat < 60 → s.ctx.vecAddr d.toNat + 512 ≤ s.ctx.regSize → enters s (.driftRd g d) g 0 none 0 0) ∧
    ∀ d sel : BitVec 6, enters s (.arrQ g d sel) g 0 (some (.sreg d)) 0 0

/-- R208, R220: TAIL.SET enters the queue with the address and the word, and a valid word is the tail command of the M
instructions after it from its issue on. -/
def Sys2Proof.Claims.TailSetKeepsWord : Prop :=
  ∀ (s : State) (g : EGuard) (a b : BitVec 6), engReady s g 0 → imageFits s (s.ctx.regs.getS a) 64 1024 →
    ∃ o, capturedAt s (.tailSet g a b) g 0 none (s.ctx.regs.getS a) (s.ctx.regs.getS b) o ∧
      exec (.tailSet g a b) s = .next (s.finished
        (let c := queuedCtx s g 0 none o
         if tailWordOk (s.ctx.regs.getS b) then { c with casc := { c.casc with tailKept := s.ctx.regs.getS b } } else c)
        (s.nb (.tailSet g a b)))

/-- R189, R190, R199, R221 to R223: ROTP, ROTI, ROTG, TRI and GROT complete at issue by entering the queue when their tiles, tags and
logs are as their checks ask. -/
def Sys2Proof.Claims.PassesEnterQueue : Prop :=
  ∀ (s : State) (g : EGuard) (d a b : BitVec 6), engReady s g 0 →
    let va := s.ctx.regs.getS a
    let vb := s.ctx.regs.getS b
    let ta := s.ctx.tileAddr a.toNat
    let td := s.ctx.tileAddr d.toNat
    (let f := s.ctx.basin.tagAt ta
     let n := passV vb * inBytes f
     f.isFlt = true → tagged s ta ((n + 255) / 256) f → tileOk s a.toNat n →
     tileOk s d.toNat (256 * outGranules (tailOut s.ctx.casc.tailKept) (128 * passV vb)) →
     enters s (.rotp g d a b) g 0 none 0 vb ∧ enters s (.roti g d a b) g 0 none 0 vb) ∧
    (tileOk s d.toNat (512 * passV vb) → tileOk s a.toNat (512 * passV vb) → tagged s td (2 * passV vb) .fp32 →
     tagged s ta (2 * passV vb) .fp32 → s.ctx.accAddr (passGacc vb) + 16384 ≤ s.ctx.accSize →
     enters s (.rotg g d a b) g 0 none 0 vb) ∧
    (tileOk s d.toNat (256 * sweepM va) → tagged s td (sweepM va) .fp32 →
     (let n := 8 * (sweepOf va).length
      ((sweepLog va = true → imageFits s vb 8 n) → enters s (.tri g d a b) g 0 none va vb) ∧
      (imageFits s vb 8 n → enters s (.grot g d a b) g 0 none va vb)))

/-- R226, R227: MPROD and MPRODB complete at issue by entering the queue on operands whose formats pair, with K a multiple of 32 for
the MX formats. -/
def Sys2Proof.Claims.ProductsEnterQueue : Prop :=
  ∀ (s : State) (g : EGuard) (q : BitVec 3) (a b : BitVec 6) (fa fb : Fmt), engReady s g 0 → accOk s q.toNat →
    prodFmt s a = some fa → prodFmt s b = some fb → prodClass fa ≠ 0 → prodClass fa = prodClass fb →
    let k := prodK g fa fb
    (prodClass fa = 3 → k % 32 = 0) →
    ∀ row ∈ [(Instr.mprod g q a b, false), (Instr.mprodb g q a b, true)],
      prodOperandOk s a (mshapeM s.ctx.ctl.mshape) k fa row.2 → prodOperandOk s b (mshapeN s.ctx.ctl.mshape) k fb row.2 →
      enters s row.1 g 0 none 0 0

/-- R217, R219, R220, R224, R225: ANG.LD, PAT.LD of a pattern 7 to 31, TAIL.SET, ACT.LD, SWP.LD and SWP.SV take ALIGN on an image that is
not aligned to 64 bytes, and SPAD_RANGE on one that does not lie in the scratchpad. -/
def Sys2Proof.Claims.CascadeImagesTrap : Prop :=
  ∀ (s : State) (g : EGuard) (a b : BitVec 6) (n : BitVec 5), engReady s g 0 → 7 ≤ n.toNat →
    let va := s.ctx.regs.getS a
    imageTraps s (.angLd g a) va 64 8256 ∧ imageTraps s (.patLd g n a) va 64 128 ∧
      imageTraps s (.tailSet g a b) va 64 1024 ∧ imageTraps s (.actLd g a) va 64 2064 ∧ imageTraps s (.swpLd g a) va 64 64 ∧
      ((∀ x ∈ s.ctx.captures g, s.ctx.instDone x = true) → imageTraps s (.swpSv g a) va 64 64)

/-- R36, R106, R217, R221 to R223: a pass or a sweep takes REGSPACE_RANGE for a tile of no legal size, one outside the register space or one
too small for what it reads or writes there, with the fields D, then A; ROTG then for its accumulator, on field B; then FORMAT for the first
granule of the wrong tag; and a sweep ALIGN or SPAD_RANGE for its log last. -/
def Sys2Proof.Claims.PassChecksTrap : Prop :=
  ∀ (s : State) (g : EGuard) (d a b : BitVec 6), engReady s g 0 →
    let va := s.ctx.regs.getS a
    let vb := s.ctx.regs.getS b
    let ta := s.ctx.tileAddr a.toNat
    let td := s.ctx.tileAddr d.toNat
    (∀ i ∈ [Instr.rotp g d a b, .roti g d a b],
      let f := s.ctx.basin.tagAt ta
      let n := if f.isFlt then passV vb * inBytes f else 256
      let m := 256 * outGranules (tailOut s.ctx.casc.tailKept) (128 * passV vb)
      (¬ tileOk s d.toNat m → traps s i 0x09 (rangeVal 0 false td)) ∧
        (tileOk s d.toNat m → ¬ tileOk s a.toNat n → traps s i 0x09 (rangeVal 1 false ta)) ∧
        (tileOk s d.toNat m → tileOk s a.toNat n →
          (f.isFlt = false → traps s i 0x04 (formatVal 1 f .fp32 ta)) ∧
            (f.isFlt = true → granulesTrap s i 1 ta ((n + 255) / 256) f))) ∧
    (let i := Instr.rotg g d a b
     let n := 512 * passV vb
     let ga := s.ctx.accAddr (passGacc vb)
     (¬ tileOk s d.toNat n → traps s i 0x09 (rangeVal 0 false td)) ∧
       (tileOk s d.toNat n → ¬ tileOk s a.toNat n → traps s i 0x09 (rangeVal 1 false ta)) ∧
       (tileOk s d.toNat n → tileOk s a.toNat n →
         (s.ctx.accSize < ga + 16384 → traps s i 0x09 (rangeVal 2 true ga)) ∧
           (ga + 16384 ≤ s.ctx.accSize →
             granulesTrap s i 0 td (2 * passV vb) .fp32 ∧
               (tagged s td (2 * passV vb) .fp32 → granulesTrap s i 1 ta (2 * passV vb) .fp32)))) ∧
    ∀ row ∈ [(Instr.tri g d a b, sweepLog va), (Instr.grot g d a b, true)],
      (¬ tileOk s d.toNat (256 * sweepM va) → traps s row.1 0x09 (rangeVal 0 false td)) ∧
        (tileOk s d.toNat (256 * sweepM va) →
          granulesTrap s row.1 0 td (sweepM va) .fp32 ∧
            (tagged s td (sweepM va) .fp32 → row.2 = true → imageTraps s row.1 vb 8 (8 * (sweepOf va).length)))

/-- R36, R106, R217, R226: MPROD and MPRODB take REGSPACE_RANGE for the accumulator, on field D, then for a tile operand, on its field; then
FORMAT for a granule of another tag, for a K that is no multiple of 32 with an MX format (the tag expected reads 15), and for formats that do not
pair; and STREAM for an operand port that is no source. MPRODB's bitmap tiles take REGSPACE_RANGE, and FORMAT for a granule that is not tagged
bits, each after its operand and with its operand's field (the model's choice, log entry 95). -/
def Sys2Proof.Claims.ProductChecksTrap : Prop :=
  ∀ (s : State) (g : EGuard) (q : BitVec 3) (a b : BitVec 6), engReady s g 0 →
    let fa := prodFmt s a
    let fb := prodFmt s b
    let k := if g.imm12.toNat ≠ 0 then g.imm12.toNat else (minOpt (fa.bind fullWidth) (fb.bind fullWidth)).getD 0
    let m := mshapeM s.ctx.ctl.mshape
    let n := mshapeN s.ctx.ctl.mshape
    ∀ row ∈ [(Instr.mprod g q a b, false), (Instr.mprodb g q a b, true)],
      let i := row.1
      let inRange := fun (v : BitVec 6) (rows : Nat) => v.toNat < 60 → tileOk s v.toNat (prodSpan rows k ((prodFmt s v).getD .raw)) ∧
        (row.2 = true → tileOk s (v.toNat + 8) ((rows * k + 7) / 8))
      (s.ctx.accSize < s.ctx.accAddr q.toNat + 16384 → traps s i 0x09 (rangeVal 0 true (s.ctx.accAddr q.toNat))) ∧
      (accOk s q.toNat →
        (a.toNat < 60 → ¬ tileOk s a.toNat (prodSpan m k (fa.getD .raw)) → traps s i 0x09 (rangeVal 1 false (s.ctx.tileAddr a.toNat))) ∧
        (a.toNat < 60 → tileOk s a.toNat (prodSpan m k (fa.getD .raw)) → row.2 = true →
          ¬ tileOk s (a.toNat + 8) ((m * k + 7) / 8) → traps s i 0x09 (rangeVal 1 false (s.ctx.tileAddr (a.toNat + 8)))) ∧
        (inRange a m → b.toNat < 60 → ¬ tileOk s b.toNat (prodSpan n k (fb.getD .raw)) →
          traps s i 0x09 (rangeVal 2 false (s.ctx.tileAddr b.toNat))) ∧
        (inRange a m → b.toNat < 60 → tileOk s b.toNat (prodSpan n k (fb.getD .raw)) → row.2 = true →
          ¬ tileOk s (b.toNat + 8) ((n * k + 7) / 8) → traps s i 0x09 (rangeVal 2 false (s.ctx.tileAddr (b.toNat + 8)))) ∧
        (inRange a m → inRange b n →
          (∀ f, fa = some f → a.toNat < 60 → granulesTrap s i 1 (s.ctx.tileAddr a.toNat) ((prodSpan m k f + 255) / 256) f) ∧
          (∀ f, fa = some f → a.toNat < 60 → row.2 = true → tagged s (s.ctx.tileAddr a.toNat) ((prodSpan m k f + 255) / 256) f →
            (∀ f', fb = some f' → prodClass f = 3 ∨ prodClass f' = 3 → k % 32 = 0) →
            granulesTrap s i 1 (s.ctx.tileAddr (a.toNat + 8)) ((m * k + 2047) / 2048) .bits) ∧
          (∀ f f', fa = some f → fb = some f' → prodOperandOk s a m k f row.2 →
            (prodClass f = 3 ∨ prodClass f' = 3 → k % 32 ≠ 0 →
              traps s i 0x04 (BitVec.ofNat 64 (16 + 256 * f.code + 4096 * 15 + 65536 * (prodAddr s a % 2 ^ 20)))) ∧
            ((prodClass f = 3 ∨ prodClass f' = 3 → k % 32 = 0) →
              (prodClass f = 0 ∨ prodClass f ≠ prodClass f' → traps s i 0x04 (formatVal 2 f' f (prodAddr s b))) ∧
              (prodClass f ≠ 0 → prodClass f = prodClass f' → b.toNat < 60 →
                granulesTrap s i 2 (s.ctx.tileAddr b.toNat) ((prodSpan n k f' + 255) / 256) f' ∧
                  (row.2 = true → tagged s (s.ctx.tileAddr b.toNat) ((prodSpan n k f' + 255) / 256) f' →
                    granulesTrap s i 2 (s.ctx.tileAddr (b.toNat + 8)) ((n * k + 2047) / 2048) .bits)))) ∧
          (∀ f, fb = some f → fa = none → prodOperandOk s b n k f row.2 → (prodClass f = 3 → k % 32 = 0) →
            traps s i 0x11 (streamVal 1 (a.toNat - 60))) ∧
          ∀ f, fa = some f → fb = none → prodOperandOk s a m k f row.2 → (prodClass f = 3 → k % 32 = 0) →
            traps s i 0x11 (streamVal 2 (b.toNat - 60))))

/-- R36, R106, R217, R229 to R233: ACC.Z, ACC.PEER, ACC.LD and ACC.OUT take REGSPACE_RANGE for their accumulator, on field D; the image of ACC.LD
and of ACC.OUT then takes the traps of its space, between whose range and ALIGN the bitmap tile of ACC.OUT takes REGSPACE_RANGE and FORMAT on
field B; DRIFT.RD takes REGSPACE_RANGE for the two registers that it writes. -/
def Sys2Proof.Claims.AccumulatorChecksTrap : Prop :=
  ∀ (s : State) (g : EGuard) (q : BitVec 3) (d a b : BitVec 6), engReady s g 0 →
    let va := s.ctx.regs.getS a
    let vb := s.ctx.regs.getS b
    (∀ i ∈ [Instr.accZ g q, .accPeer g q a b, .accLd g q a, .accOut g q a b],
      s.ctx.accSize < s.ctx.accAddr q.toNat + 16384 → traps s i 0x09 (rangeVal 0 true (s.ctx.accAddr q.toNat))) ∧
    (accOk s q.toNat → descTraps s (.accLd g q a) va 16384 true) ∧
    (let out := tailOut s.ctx.casc.tailKept
     let n := (if descSpad va && out.isBlk then 272 else 256) * outGranules out (64 * mshapeM s.ctx.ctl.mshape)
     let t := outTile vb
     accOk s q.toNat →
      ((outMask vb = true → tileOk s t 0 ∧ tagged s (s.ctx.tileAddr t) 2 .bits) → descTraps s (.accOut g q a b) va n false) ∧
      ((descSpad va = false → descAddr va + n ≤ s.ctx.regSize) → outMask vb = true →
        (¬ tileOk s t 0 → traps s (.accOut g q a b) 0x09 (rangeVal 2 false (s.ctx.tileAddr t))) ∧
          (tileOk s t 0 → granulesTrap s (.accOut g q a b) 2 (s.ctx.tileAddr t) 2 .bits))) ∧
    (d.toNat < 60 → s.ctx.regSize < s.ctx.vecAddr d.toNat + 512 →
      traps s (.driftRd g d) 0x09 (rangeVal 0 false (s.ctx.vecAddr d.toNat)))

/-- R17: a bundle of one M or C instruction whose guard holds and whose engine's queue is full stalls: nothing of it issues. SWP.SV alone
takes no place in a queue (R224). -/
def Sys2Proof.Claims.FullQueueStalls : Prop :=
  ∀ (i : Instr) (g : EGuard) (s : State), guardOfE i = some g → isSwpSv i = false → eGuard s g = true →
    16 ≤ (s.ctx.eng.queue (if isCascade i then 0 else firstCopyEngine s)).length → exec i s = .next s.spend.tick

/-- R235, R236, R244, R263, R276, R279 to R283, R285 to R292, R331 to R339: the C instructions complete at issue by entering the
queue of their copy engine, with their operands and the result they owe; a copy address that names this core's own basin as a remote
one is taken as that of the own space (R275). -/
def Obligations.CopyEngineInstructionsEnterQueue : Prop :=
  ∀ (s : State) (g : EGuard) (d a b e : BitVec 6) (x : BitVec 4),
    let n := firstCopyEngine s
    let va := s.ctx.regs.getS a
    let vb := s.ctx.regs.getS b
    engReady s g n →
    (∀ i ∈ [Instr.copy g x a b, .copyRed g x a b], enters s i g n none (localise s va) (localise s vb)) ∧
    (∀ i ∈ [Instr.ttSet g e a b, .arrive g a b], enters s i g n none va vb) ∧
    (∀ i ∈ [Instr.ttBind g e a, .drain g a, .trig g a], enters s i g n none va 0) ∧
    (∀ i ∈ [Instr.ttReady g e, .ttRel g e], enters s i g n none 0 0) ∧
    (∀ (sc : BitVec 2) (mask : BitVec 16), enters s (.fence g sc mask) g n none 0 0) ∧
    (∀ i ∈ [Instr.ttQ g d e, .gtime g d], enters s i g n (some (.sreg d)) 0 0) ∧
    enters s (.brdLv g d a) g n (some (.sreg d)) va 0 ∧
    (∀ i ∈ [Instr.xsOpen g d a b, .brdRd g d a b], enters s i g n (some (.sreg d)) va vb) ∧
    enters s (.pav g d a b) g n (some (.sregView d (BitVec.ofNat 2 (immOf g)))) va vb ∧
    (imageFits s va 64 128 → enters s (.tplLd g x a) g n none va 0) ∧
    (imageFits s va 64 64 → enters s (.trec g d a b) g n (some (.sreg d)) va vb ∧ enters s (.post g a) g n none va 0) ∧
    (imageFits s va 64 1088 → enters s (.dpost g d a b) g n (some (.sreg d)) va vb) ∧
    (imageFits s va 16 (16 * immOf g) → enters s (.calRd g d a b) g n (some (.sreg d)) va vb) ∧
    (imageFits s vb 64 16 → enters s (.calGo g d a b) g n (some (.sreg d)) va vb) ∧
    ((vb = 0 → imageFits s va 64 64) → enters s (.colSet g d a b) g n (some (.sreg d)) va vb) ∧
    (let v : BitVec 6 := BitVec.ofNat 6 (immOf g)
     vsrcOk s v → vtag s v = .int32 → enters s (.gath g x a b) g n none (localise s va) (localise s vb))

/-- R237, R294: the atomics and reductions complete at issue on an aligned address that the task may write: the instruction enters
the queue, owes the old value to sD, and its access stands in the program order of class ACL. -/
def Obligations.AtomicsEnterQueue : Prop :=
  ∀ (s : State) (g : EGuard) (d a b : BitVec 6) (key : Nat) (leaf : W64), engReady s g (firstCopyEngine s) → accessRoom s →
    let va := s.ctx.regs.getS a
    let size := if immOf g % 2 = 1 then 4 else 8
    let low := fun (v : W64) => BitVec.ofNat 64 (v.toNat % 2 ^ (8 * size))
    let acc := fun (op : Nat) (cmp : W64) (returns : Bool) => (⟨s.ctx.pipe.nextId, s.ctx.pipe.bundleNo,
      .atom op (immOf g / 2 % 4) (low (s.ctx.regs.getS b)) cmp returns, s.ctx.ctl.acl.toNat % 16, key, va, size, [],
      isRemote key, pteC leaf, pteRwin leaf, false, s.mem.gen s.ctx.asid, 0⟩ : Access)
    va.toNat < 2 ^ 57 → va.toNat % size = 0 → translate s va.toNat .write = .ok key leaf → s.ctx.det = false →
    (∀ row ∈ atomRows, ∃ o, capturedAt s (row.1 g d a b) g (firstCopyEngine s) (some (.sreg d)) va (low (s.ctx.regs.getS b)) o ∧
      exec (row.1 g d a b) s = .next (s.finished (atomCtx s g (some (.sreg d)) o (acc row.2 0 true)) (s.nb (row.1 g d a b)))) ∧
    (∃ o, capturedAt s (.atomCas g d a b) g (firstCopyEngine s) (some (.sreg d)) va (low (s.ctx.regs.getS b)) o ∧
      exec (.atomCas g d a b) s = .next (s.finished
        (atomCtx s g (some (.sreg d)) o (acc 6 (low (s.ctx.regs.getS d)) true)) (s.nb (.atomCas g d a b)))) ∧
    ∀ row ∈ redRows, ∃ o, capturedAt s (row.1 g a b) g (firstCopyEngine s) none va (low (s.ctx.regs.getS b)) o ∧
      exec (row.1 g a b) s = .next (s.finished (atomCtx s g none o (acc row.2 0 false)) (s.nb (row.1 g a b)))

/-- R179, R284: STRM and STRM.CL complete at issue: the port is bound by a good chain word, as a source or a sink, or is left
unbound, and the instruction enters its queue. A sink is closed first: where the padding of its last granule meets a page that the host must
map, the task pauses for the host with the bundle unissued, and where it meets a home that does not answer the bundle waits (the model's
choices, log entry 90); every other closing completes. -/
def Sys2Proof.Claims.StreamPortsChangeAtIssue : Prop :=
  ∀ (s : State) (g : EGuard) (r : BitVec 2) (a : BitVec 6) (x : BitVec 4), engReady s g (firstCopyEngine s) →
    (∀ i ∈ [Instr.strm g r a x, .strmCl g r],
      (∀ pg, closeStop s r.toNat = some (.page pg) → exec i s = .next (pausePage s pg).spend.tick) ∧
        (closeStop s r.toNat = some .hold → exec i s = .next s.spend.tick)) ∧
    (closeStop s r.toNat = none →
    (∃ t, exec (.strm g r a x) s = .next t ∧
      (t.ctx.port r.toNat).st = (match chainFormats (s.ctx.regs.getS a) with
        | none => .unbound
        | some _ => if chDir (s.ctx.regs.getS a) == 0 then .source else .sink) ∧
      (∀ q, q < 4 → q ≠ r.toNat → t.ctx.port q = s.ctx.port q) ∧
      (t.ctx.eng.queue (firstCopyEngine s)).map EngOp.instr =
        (s.ctx.eng.queue (firstCopyEngine s)).map EngOp.instr ++ [.strm g r a x] ∧
      t.ctx.basin = s.ctx.basin ∧ t.ctx.regs = { s.ctx.regs with pc := s.nb (.strm g r a x) } ∧
      t.mem.gmem = s.mem.gmem ∧ t.mem.cistern = s.mem.cistern ∧ ((s.ctx.port r.toNat).st ≠ .sink → t.mem = s.mem)) ∧
    ∃ t, exec (.strmCl g r) s = .next t ∧ t.ctx.port r.toNat = Port.start ∧
      (∀ q, q < 4 → q ≠ r.toNat → t.ctx.port q = s.ctx.port q) ∧
      (t.ctx.eng.queue (firstCopyEngine s)).map EngOp.instr =
        (s.ctx.eng.queue (firstCopyEngine s)).map EngOp.instr ++ [.strmCl g r] ∧
      t.ctx.basin = s.ctx.basin ∧ t.ctx.regs = { s.ctx.regs with pc := s.nb (.strmCl g r) } ∧
      t.mem.gmem = s.mem.gmem ∧ t.mem.cistern = s.mem.cistern ∧ ((s.ctx.port r.toNat).st ≠ .sink → t.mem = s.mem))

/-- R224, R293: SWP.SV acts at issue and takes no queue place: with no sweep to interrupt it writes 64 zero bytes, which its token
waits for; TOK.CL, which stalls on a full queue as every C slot does (R17), gives each token of its mask a new instance that is done with status 0
and leaves the other tokens alone. That it too waits at issue for the tokens that its token word names is the model's choice (log entry 33). -/
def Sys2Proof.Claims.ImmediateEngineInstructions : Prop :=
  ∀ (s : State) (g : EGuard), s.ready → eGuard s g = true → (∀ x ∈ s.ctx.captures g, s.ctx.instDone x = true) →
    (∀ a : BitVec 6, imageFits s (s.ctx.regs.getS a) 64 64 → s.ctx.eng.started = [] → Mem.wf s.ctx.basin.spad = true →
      ∃ t, exec (.swpSv g a) s = .next t ∧
        (∀ x, Mem.get t.ctx.basin.spad x =
          if (s.ctx.regs.getS a).toNat ≤ x ∧ x < (s.ctx.regs.getS a).toNat + 64 then some 0 else Mem.get s.ctx.basin.spad x) ∧
        t.ctx.eng.qm = s.ctx.eng.qm ∧ t.ctx.regs = { s.ctx.regs with pc := s.nb (.swpSv g a) } ∧ t.mem = s.mem ∧
        ∀ n, producesTok g = some n → t.ctx.token n.toNat = ⟨(s.ctx.token n.toNat).inst + 1, true, 0⟩) ∧
    ∀ mask : BitVec 16, producesTok g = none → (s.ctx.eng.queue (firstCopyEngine s)).length < 16 → ∃ t, exec (.tokCl g mask) s = .next t ∧
      (∀ n, n < 16 → t.ctx.token n =
        if mask.getLsbD n then ⟨(s.ctx.token n).inst + 1, true, 0⟩ else s.ctx.token n) ∧
      t.ctx.eng.q0 = s.ctx.eng.q0 ∧ t.ctx.eng.q1 = s.ctx.eng.q1 ∧ t.ctx.basin = s.ctx.basin ∧
      t.ctx.regs = { s.ctx.regs with pc := s.nb (.tokCl g mask) } ∧ t.mem = s.mem

/-- R18, R80: a slot whose guard is false does nothing. -/
def Obligations.FalseGuardsDiscard : Prop := FalseGuardDoesNothing ∧ FalseEngineGuardDiscards

namespace Sys2Proof.Claims

open Sys2Proof Sys2Proof.Machine

/-- `s` after a bundle of two slots, of `n` words, that leaves the context `c`. -/
def finished2 (s : State) (n : Nat) (c : Ctx) : State := s.finished c (s.ctx.regs.pc + BitVec.ofNat 64 n)

/-- The result of a second vector slot of a bundle, computed from the state `s` at its start, on its way beside the first one's in `c`. -/
def alsoResult (s : State) (c : Ctx) (m : VMask) (d : BitVec 6) (t : Fmt) (rs : List Elem) (lat : Nat) : Ctx :=
  let mask := s.ctx.regs.getK m.k
  let a := s.ctx.vecAddr d.toNat
  (({ c with basin := c.basin.setTags a 256 t }).flying (.vec a (maskedBytes t.width mask m.z (rs.map Prod.fst)) zeroSide) lat).flying
    (.flags (laneFlags mask rs)) lat

/-- Lane i is written under a mask: it is active, or the mask zeroes the others (R23, R148). -/
def writesLane (s : State) (m : VMask) (i : Nat) : Prop := m.z = true ∨ (s.ctx.regs.getK m.k).getLsbD i = true

/-- The slots `i` and `j` of a bundle, the words `x` and `y` of it, collide in bytes of a kind: WRITE_COLLISION is taken instead of
issuing (R23, Table 6-1). -/
def collide (s : State) (ws : List IWord) (x y : Nat) (i j : Instr) (kind : Nat) : Prop :=
  runSlots s ws [(x, i), (y, j)] = (enterTrap s 0x03 (BitVec.ofNat 64 (x + 16 * y + 256 * kind)) s.ctx.regs.pc
    (s.ctx.regs.pc + BitVec.ofNat 64 ws.length)).spend.tick

end Sys2Proof.Claims

/-- R22: the slots of a bundle read what stood before it. A vector slot reads the scalar register that the S slot writes; two vector
slots swap their registers; MTC leaves the view of the other slots alone; a load gets the bytes that a store of its bundle
overwrites. -/
def Sys2Proof.Claims.ReadsPrecedeWrites : Prop :=
  ∀ (s : State) (ws : List IWord) (x y : Nat), s.ready →
    (∀ row ∈ aluRows, ∀ (g : SGuard) (d a b : BitVec 6) (m : VMask) (v : BitVec 6) (f : BitVec 4), sGuard s g = true →
      vdstOk s m v (Fmt.ofCode f) → Fmt.ofCode f ≠ .bits →
      runSlots s ws [(x, row.1 g d a b), (y, .vbcast m v (.reg d) f)] = finished2 s ws.length
        { maskedResult s m v (Fmt.ofCode f) ((List.range (Fmt.ofCode f).lanes).map fun _ =>
            ((s.ctx.regs.getS d).toNat % 2 ^ (Fmt.ofCode f).width, 0)) 0 2 with
          regs := s.ctx.regs.setS d (row.2 (s.ctx.regs.getS a) (s.ctx.regs.getS b)) }) ∧
    (∀ row ∈ vec1Rows, ∀ row' ∈ vec1Rows, ∀ (m m' : VMask) (d a : BitVec 6), d ≠ a → vsrcOk s a → vsrcOk s d →
      row.2.1 (vtag s a) = true → row'.2.1 (vtag s d) = true → vdstOk s m d (vtag s a) → vdstOk s m' a (vtag s d) →
      runSlots s ws [(x, row.1 m d a), (y, row'.1 m' a d)] = finished2 s ws.length
        (alsoResult s (maskedResult s m d (vtag s a) ((vlanes s a (vtag s a)).map (row.2.2.2 (vtag s a))) 0 row.2.2.1)
          m' a (vtag s d) ((vlanes s d (vtag s d)).map (row'.2.2.2 (vtag s d))) row'.2.2.1)) ∧
    (∀ row ∈ vec1Rows, ∀ (g : SGuard) (r : BitVec 6) (m : VMask) (d a : BitVec 6), sGuard s g = true → vsrcOk s a →
      row.2.1 (vtag s a) = true → vdstOk s m d (vtag s a) →
      runSlots s ws [(x, .mtc g 0x08 r), (y, row.1 m d a)] = finished2 s ws.length
        { maskedResult s m d (vtag s a) ((vlanes s a (vtag s a)).map (row.2.2.2 (vtag s a))) 0 row.2.2.1 with
          ctl := { s.ctx.ctl with viewv := s.ctx.regs.getS r &&& 0xFFF00 } }) ∧
    ∀ row ∈ ldsRows, ∀ (g : SGuard) (d a : BitVec 6) (off : Imm 6) (k : BitVec 3) (v b : BitVec 6) (f : BitVec 4)
      (off' : Option (BitVec 32)), sGuard s g = true →
      let la := smemVa s row.2 a off
      let va := globalVa s b off'
      inSpad s la row.2 → spadReadable s la.toNat row.2 → storeOk s k v f va →
      runSlots s ws [(x, row.1 g d a off), (y, .vst k v b f off')] = finished2 s ws.length
        ((s.ctx.flying (.sreg d (BitVec.ofNat 64 (ofLe (s.ctx.spadBytes la.toNat row.2)))) 3).flying
          (.spad va.toNat (storedBytes s k v)) 2)

/-- R23: two slots that write one scalar register, one vector lane, one scratchpad byte or one token take WRITE_COLLISION, with both
words and the kind in TVAL; a write to s0 takes no part; vector writes of disjoint lanes merge. -/
def Sys2Proof.Claims.WritersCollide : Prop :=
  ∀ (s : State) (ws : List IWord) (x y : Nat), x < 8 → y < 8 → s.ready →
    (∀ row ∈ aluRows, ∀ (g : SGuard) (d a b : BitVec 6) (q : BitVec 3), sGuard s g = true →
      (d ≠ 0 → collide s ws x y (row.1 g d a b) (.kpop d q) 0) ∧
      (d = 0 → runSlots s ws [(x, row.1 g d a b), (y, .kpop d q)] = finished2 s ws.length s.ctx)) ∧
    (∀ row ∈ vec1Rows, ∀ row' ∈ vec1Rows, ∀ (m m' : VMask) (d a b : BitVec 6), vsrcOk s a → vsrcOk s b → vtag s b = vtag s a →
      row.2.1 (vtag s a) = true → row'.2.1 (vtag s a) = true → vdstOk s m d (vtag s a) → vdstOk s m' d (vtag s a) →
      ((∃ i, i < (vtag s a).lanes ∧ writesLane s m i ∧ writesLane s m' i) → collide s ws x y (row.1 m d a) (row'.1 m' d b) 1) ∧
      ((∀ i, i < (vtag s a).lanes → ¬(writesLane s m i ∧ writesLane s m' i)) →
        runSlots s ws [(x, row.1 m d a), (y, row'.1 m' d b)] = finished2 s ws.length
          (alsoResult s (maskedResult s m d (vtag s a) ((vlanes s a (vtag s a)).map (row.2.2.2 (vtag s a))) 0 row.2.2.1)
            m' d (vtag s a) ((vlanes s b (vtag s a)).map (row'.2.2.2 (vtag s a))) row'.2.2.1))) ∧
    (∀ row ∈ stsRows, ∀ (g : SGuard) (d a : BitVec 6) (off : Imm 6) (k : BitVec 3) (v b : BitVec 6) (f : BitVec 4)
      (off' : Option (BitVec 32)), sGuard s g = true →
      let sa := smemVa s row.2 a off
      let va := globalVa s b off'
      inSpad s sa row.2 → storeOk s k v f va →
      (∃ i j, i < row.2 ∧ sa.toNat + i = va.toNat + j ∧ ∃ w, (storedBytes s k v)[j]? = some (some w)) →
      collide s ws x y (row.1 g d a off) (.vst k v b f off') 2) ∧
    ∀ (g g' : EGuard) (d d' : BitVec 6) (n : BitVec 4), eGuard s g = true → eGuard s g' = true → d ≠ d' → producesTok g = some n →
      producesTok g' = some n → s.ctx.eng.q0.length ≤ 14 → s.ctx.eng.q1.length ≤ 14 →
      collide s ws x y (.gtime g d) (.gtime g' d') 3

/-- R17, R22, R23, R105: the slots of a bundle issue together or not at all. They read what stood before it; two writers of one thing take
WRITE_COLLISION instead; TWAIT holds its bundle until its token is done, and a full queue holds the bundle that would enter it;
SWP.SV alone passes a full queue (R224). -/
def Obligations.BundlesIssueTogether : Prop := TwaitWaits ∧ FullQueueStalls ∧ ReadsPrecedeWrites ∧ WritersCollide

/-- R98, R101, R107, R151, R172 to R176, R179: the checks of scratchpad and global accesses, of vector tags and of ports take their traps. -/
def Obligations.OperandChecksTrap : Prop :=
  ScratchpadChecksTrap ∧ GlobalAccessesTrap ∧ TagMismatchTraps ∧ UnboundPortsTrap ∧ VectorMemoryTraps ∧ IndexedLanesTrap

/-- R36, R106, R107, R217: the checks of the cascade's images, tiles, accumulators, granules and ports take their traps in their order. That
each operand's name and span are checked before the next one's is log entry 47, the K of a product with one accepted tag is 110, and the
field of a bitmap tile is 95: the model's choices. -/
def Obligations.CascadeChecksTrap : Prop :=
  CascadeImagesTrap ∧ PassChecksTrap ∧ ProductChecksTrap ∧ AccumulatorChecksTrap

/-- R202, R208, R219, R220, R225, R229, R232 to R234: the cascade's loads, its tail word, its accumulators and its queries enter its queue. -/
def Obligations.CascadeInstructionsEnterQueue : Prop := CascadeLoadsEnterQueue ∧ TailSetKeepsWord

/-- R199, R221 to R223, R226, R227: the passes, the sweeps and the products enter the cascade's queue. -/
def Obligations.PassesAndProductsEnterQueue : Prop := PassesEnterQueue ∧ ProductsEnterQueue

/-- R179, R224, R284, R293: STRM, STRM.CL, SWP.SV and TOK.CL complete with their effect at issue. The waits of SWP.SV and
TOK.CL for the tokens that they consume are log entry 33; what a closing sink does whose padding meets a missing page is log entry 90. -/
def Obligations.IssueEffectsComplete : Prop := StreamPortsChangeAtIssue ∧ ImmediateEngineInstructions

/-! ### Events of the core (R17, R24, R27, R94, R109, R115, R118, R119, R264, R353) -/

namespace Sys2Proof.Claims

open Sys2Proof Sys2Proof.Machine

/-- The event `e` completes: it takes `s` to `t`, and time passes. -/
def happens (e : Instr) (s t : State) : Prop := exec e s = .next t.tick

/-- No record waits with both its counts at zero for a cascade to end (R215). -/
def noneDue (s : State) : Prop := s.sched.records.filter Record.due = []

/-- A task holds the core, no engine instruction is under way, and no page is asked for by an engine. -/
def enginesIdle (s : State) : Prop := s.mode = .running ∧ s.ctx.eng.started = [] ∧ s.ctx.eng.wants = none

/-- No store of a VSTX issued two or more bundles before `o` is outstanding: `o` would wait for it (R218). -/
def scatterDone (s : State) (o : EngOp) : Prop := ∀ e ∈ s.ctx.pipe.sb, ∀ ws k, e.src = .scatter ws k → o.bundle < k + 2

/-- The queue of engine `n` holds `o` first, which may start: it is a C instruction that waits for nothing, holds no entry, and has no
earlier instruction queued beside it. -/
def heads (s : State) (n : Nat) (o : EngOp) (rest : List EngOp) : Prop :=
  (n = 1 ∨ n = 2) ∧ s.ctx.eng.queue n = o :: rest ∧ o.eng = n ∧ o.waits = [] ∧ o.held = [] ∧ o.alsoProd = [] ∧
    scatterDone s o ∧ ∀ x ∈ s.ctx.eng.undone, o.id ≤ x.id

/-- The instruction `o` is under way at place `idx` and holds no entry; no record waits for a cascade to end. -/
def underWay (s : State) (idx : Nat) (o : EngOp) : Prop :=
  s.mode = .running ∧ s.ctx.eng.wants = none ∧ s.ctx.eng.started[idx]? = some o ∧ o.held = [] ∧ o.alsoProd = [] ∧ noneDue s

/-- The token that an instruction produces is done with a status; the other tokens are as they were. -/
def tokenDone (s t : State) (o : EngOp) (status : W64) : Prop :=
  ∀ k, k < 16 → t.ctx.token k =
    if o.prod = some (k, (s.ctx.token k).inst) then ⟨(s.ctx.token k).inst, true, status⟩ else s.ctx.token k

/-- What an engine instruction leaves alone that answers no register and writes no memory: registers, memory, management. -/
def sameCore (s t : State) : Prop :=
  t.ctx.regs = s.ctx.regs ∧ t.ctx.ctl = s.ctx.ctl ∧ t.ctx.tr = s.ctx.tr ∧ t.mem.gmem = s.mem.gmem ∧
    t.mem.cistern = s.mem.cistern ∧ t.mgmt = s.mgmt ∧ t.mode = s.mode ∧ t.host = s.host

/-- The same, with the basin and the tasks and records of the package. -/
def sameBut (s t : State) : Prop := sameCore s t ∧ t.ctx.basin = s.ctx.basin ∧ t.sched = s.sched

/-- The engine instruction of the given place in program order is no longer under way. -/
def ended (s t : State) (id : Nat) : Prop := t.ctx.eng.started = s.ctx.eng.started.filter fun x => x.id != id

/-- The head of the queue starts and ends at once with a status, leaving all but its own effect alone. -/
def actsAtStart (s : State) (n : Nat) (o : EngOp) (rest : List EngOp) (status : W64) (t : State) : Prop :=
  happens (.engineInstructionStart n) s t ∧ t.ctx.eng.queue n = rest ∧ tokenDone s t o status ∧ t.ctx.casc = s.ctx.casc ∧ sameCore s t

/-- The result that an instruction owes has the value v. -/
def owes (s t : State) (id : Nat) (v : W64) : Prop :=
  t.ctx.pipe.sb = s.ctx.pipe.sb.map fun e => if e.id = id then { e with src := .value v 0 } else e

/-- The bits from `lo` on of a value are those of the bytes, the first byte lowest. -/
def holdsBytes {w : Nat} (v : BitVec w) (lo : Nat) (bs : List Byte) : Prop :=
  ∀ i, i < bs.length → v.extractLsb' (lo + 8 * i) 8 = bs.getD i 0

/-- A value is what a byte list writes at an address, and what stood where it writes nothing. -/
def laidOver (new old : Mem) (a : Nat) (bs : List (Option Byte)) : Prop :=
  ∀ x, Mem.get new x = (if a ≤ x then (bs.getD (x - a) none).or (Mem.get old x) else Mem.get old x)

/-- What an instruction of the cascade leaves alone that works on tiles and an accumulator: FFLAGS apart, the registers, the other spaces'
owners, tags, memory, tasks, management. -/
def aroundTiles (s t : State) : Prop :=
  t.ctx.regs = s.ctx.regs ∧ t.ctx.ctl = { s.ctx.ctl with fflags := t.ctx.ctl.fflags } ∧ t.ctx.tr = s.ctx.tr ∧
    t.ctx.basin.acc = s.ctx.basin.acc ∧ t.ctx.basin.tags = s.ctx.basin.tags ∧ t.mem = s.mem ∧ t.sched = s.sched ∧
    t.mgmt = s.mgmt ∧ t.mode = s.mode ∧ t.host = s.host

/-- The instruction under way has made one more of its `n` units: it stays under way, or has ended with its token done. -/
def unitMade (s t : State) (o : EngOp) (n : Nat) : Prop :=
  (o.pos + 1 < n → t.ctx.eng.tokens = s.ctx.eng.tokens ∧
    t.ctx.eng.started = s.ctx.eng.started.map fun x => if x.id = o.id then { o with pos := o.pos + 1 } else x) ∧
  (o.pos + 1 = n → ended s t o.id ∧ tokenDone s t o 0)

/-- The rotations of a sweep over `m` rows and `n` columns, column and lower row, in the order of R191. -/
def sweepOrder (m n : Nat) : List (Nat × Nat) :=
  (List.range (min n (m - 1))).flatMap fun j => (List.range (m - 1 - j)).map fun k => (j, m - 1 - k)

/-- Word `k` of row `i` of a tile of fp32 rows of 256 bytes. -/
def tileWord (s : State) (a i k : Nat) : Nat := ofLe (s.ctx.regBytes (a + 256 * i + 4 * k) 4)

/-- Whether an fp32 code is a zero. -/
def isZero32 (x : Nat) : Prop := x = 0 ∨ x = 0x80000000

/-- Every byte of the register space outside columns `lo` to `hi - 1` of rows `i - 1` and `i` of a tile stands. -/
def rowsOnly (s t : State) (a i lo hi : Nat) : Prop :=
  ∀ x, (∀ r k, r = i - 1 ∨ r = i → lo ≤ k → k < hi → x < a + 256 * r + 4 * k ∨ a + 256 * r + 4 * k + 4 ≤ x) →
    Mem.get t.ctx.basin.reg x = Mem.get s.ctx.basin.reg x

/-- Every byte of a memory outside the run stands. -/
def restStands (new old : Mem) (a n : Nat) : Prop := ∀ x, x < a ∨ a + n ≤ x → Mem.get new x = Mem.get old x

/-- The drift vector with 1.0 in every lane. -/
def noDrift (d : BitVec 4096) : Prop := ∀ l, l < 128 → d.extractLsb' (32 * l) 32 = (0x3F800000 : BitVec 32)

/-- The dispatch decision of the idle core chooses task `k` of launch `l` (R353). -/
def chosen (s : State) (l : Launch) (k : Task) : Prop :=
  s.mode = .idle ∧ s.mgmt.dispatchOff = false ∧ bindEn s.sched.bind = true ∧ chooseTask s = some (l, k)

/-- No started instruction of the cascade has to come to its interruption point before a save. -/
def cascadeSettled (s : State) : Prop := ∀ o ∈ s.ctx.eng.started, finishesFirst o = false

/-- What a save keeps of a context whose exposed results have landed (R115, R268): the registers, the tokens, and the started instructions
that run on or stay with their progress; one that is abandoned stands again in its queue, unstarted, its entries EMPTY. -/
def savedKeeps (s : State) (c : Ctx) : Prop :=
  s.ctx.pipe.pend = [] → s.ctx.pipe.sb = [] → s.ctx.casc.live = none → (s.ctx.eng.started.map EngOp.id).Nodup →
    c.regs = s.ctx.regs ∧ c.ctl = s.ctx.ctl ∧ c.tr = s.ctx.tr ∧ c.eng.tokens = s.ctx.eng.tokens ∧ c.eng.accs = s.ctx.eng.accs ∧
      c.basin = { s.ctx.basin with dirty := [] } ∧ c.casc = s.ctx.casc ∧
      c.eng.started = s.ctx.eng.started.filter (fun o => saveKind o != .abandon) ∧
      (∀ o ∈ s.ctx.eng.started, saveKind o = .abandon →
        (∃ x ∈ c.eng.queue o.eng, x.id = o.id ∧ x.instr = o.instr ∧ x.begun = false ∧ x.pos = 0 ∧ x.held = []) ∧
          ∀ e ∈ o.held, e < 64 → (c.tile e).st = .empty) ∧
      ((∀ o ∈ s.ctx.eng.started, saveKind o ≠ .abandon) → c = { s.ctx with basin := { s.ctx.basin with dirty := [] } })

/-- A task that has stopped leaves the core, its context kept in its context area with no window open (R115): an exposed result has landed,
and so has a scoreboarded one whose value is there. -/
def parked (s t : State) (why : SaveReason) : Prop :=
  ∃ c, t.mode = .idle ∧ t.ctx = Ctx.start ∧ t.sched.saved = s.sched.saved ++ [⟨c, why, s.mode == .draining, false⟩] ∧
    c.pipe.pend = [] ∧ savedKeeps s c ∧
    (∀ n v due, s.ctx.pipe.pend = [⟨.sreg n v, due, false⟩] → s.ctx.pipe.sb = [] → s.ctx.eng.started = [] →
      s.ctx.casc.live = none → c.regs = s.ctx.regs.setS n v) ∧
    (∀ id n v a, s.ctx.pipe.pend = [] → s.ctx.pipe.sb = [⟨id, .sreg n, .value v 0, a, false, []⟩] → s.ctx.eng.started = [] →
      s.ctx.casc.live = none → c.regs = s.ctx.regs.setS n v ∧ c.pipe.sb = []) ∧
    t.mem = s.mem ∧ t.host = s.host

/-- The snapshot registers are latched as a fault triggers them, or the trigger is counted while a latch is held (R369). -/
def faultLatched (s t : State) : Prop :=
  (s.mgmt.snapshot = none → ∃ tag vals, t.mgmt = { s.mgmt with snapshot := some ⟨tag, s.fab.time, vals⟩ }) ∧
    (s.mgmt.snapshot ≠ none → t.mgmt = { s.mgmt with missed := s.mgmt.missed + 1 })

/-- A context that a kill has taken hold of (R119): instructions that have not started are gone with their accesses, and so are those that
stood behind a FENCE; the streams store nothing more. -/
def discarded (c : Ctx) : Ctx :=
  { c with eng := { c.eng with
      qm := []
      q0 := []
      q1 := []
      started := c.eng.started.filter fun o => !(o.instr matches .strm _ _ _ _ | .strmCl _ _)
      ports := Vector.replicate 4 Port.start
      accs := c.eng.accs.filter fun a => !(c.eng.heldAt a.id || c.eng.queued a.id) } }

/-- fp32 (Table 8-1). -/
def single : Layout := ⟨32, 23, 127, 0x7F7FFFFF, some 0x7F800000, 0x7FC00000⟩

/-- The value of a finite fp32 code. -/
def of32 (x : Nat) : ℝ := ((single.val x : ℚ) : ℝ)

/-- `r` is RNE32 of the exact value x with the flags of R128; a zero is a zero of either sign and raises none. -/
def nearest (x : ℝ) (r : Nat × Flags) : Prop :=
  (x ≠ 0 → single.rounds .rne x r) ∧ (x = 0 → single.finite r.1 ∧ single.val r.1 = 0 ∧ r.2 = 0)

/-- All of the flags `f` are among `fl`. -/
def among (f fl : Flags) : Prop := f ||| fl = fl

/-- The lanes of a stage's pairs are lanes of a vector, each at most once. -/
def stageLanes (st : StagePairs) : Prop :=
  (st.flatMap fun p => [p.1.1, p.1.2]).Nodup ∧ ∀ p ∈ st, p.1.1 < 128 ∧ p.1.2 < 128

/-- The cosine of a code (R139). -/
def cosOf (code : Nat) : ℝ := (((cosSin code).1 / 2 ^ 18 : ℚ) : ℝ)
/-- The sine of a code (R139). -/
def sinOf (code : Nat) : ℝ := (((cosSin code).2 / 2 ^ 18 : ℚ) : ℝ)

/-- The operand formats of product mode: their elements and the terms of a group (R143). -/
def prodRows : List (Fmt × Layout × Nat) :=
  [(.bf16, ⟨16, 7, 127, 0x7F7F, some 0x7F80, 0x7FC0⟩, 4), (.e4m3, ⟨8, 3, 7, 0x7E, none, 0x7F⟩, 16),
    (.e5m2, ⟨8, 2, 15, 0x7B, some 0x7C, 0x7E⟩, 16), (.mxfp8, ⟨8, 3, 7, 0x7E, none, 0x7F⟩, 32), (.mxfp4, ⟨4, 1, 1, 7, none, 0⟩, 32)]

/-- Element `n` of a run of elements of width `w` (R123). -/
def codeAt (w : Nat) (bs : List Byte) (n : Nat) : Nat := ofLe (sliceOf bs (n * w / 8) 4) / 2 ^ (n * w % 8) % 2 ^ w

/-- `r` is the accumulator after a group of finite terms, whose products scale by 2^sc (R144 to R147). -/
def groupAdds (fp8 : Bool) (sc : ℤ) (acc : Nat) (ts : List ℚ) (r : Nat × Flags) : Prop :=
  (ts.sum = 0 → r = (acc, 0)) ∧
  (ts.sum ≠ 0 → fp8 = false → nearest (of32 acc + ((ts.sum * 2 ^ sc : ℚ) : ℝ)) r) ∧
  (ts.sum ≠ 0 → fp8 = true → ∀ e : ℤ, (∃ t ∈ ts, 2 ^ e ≤ |t|) → (∀ t ∈ ts, |t| < 2 ^ (e + 1)) →
    let units := fun t : ℚ => ⌊|t| * 2 ^ (18 - e)⌋
    let field : ℤ := (ts.map fun t => if t < 0 then -units t else units t).sum
    ∃ f, nearest (of32 acc + (((field : ℚ) * 2 ^ (e - 18) : ℚ) : ℝ)) (r.1, f) ∧
      ((∀ t ∈ ts, (units t : ℚ) = |t| * 2 ^ (18 - e)) → r.2 = f) ∧
      ((∃ t ∈ ts, (units t : ℚ) ≠ |t| * 2 ^ (18 - e)) → r.2 = f ||| fNX))

/-- The flags that an instruction of the cascade has raised hold all of `fs`. -/
def raises (s t : State) (fs : List Flags) : Prop :=
  ∃ fl : Flags, t.ctx.ctl.fflags = s.ctx.ctl.fflags ||| ((0 : BitVec 59) ++ fl) ∧ ∀ f ∈ fs, among f fl

end Sys2Proof.Claims

/-- R24, R45: an exposed result that lands within its window is written, its window staying open: a scalar register takes its value, a lane
mask the bits that the result writes, FFLAGS the flags raised. -/
def Sys2Proof.Claims.ExposedRegistersLand : Prop :=
  ∀ (s : State) (idx : Nat) (due : Nat),
    let lands := fun (d : PDest) (regs : Regs) (flags : W64) =>
      happens (.exposedResultLanding idx) s { s with ctx := { s.ctx with
        regs := regs
        ctl := { s.ctx.ctl with fflags := flags }
        pipe := { s.ctx.pipe with pend := s.ctx.pipe.pend.set idx ⟨d, due, true⟩ } } }
    (∀ n v, s.ctx.pipe.pend[idx]? = some ⟨.sreg n v, due, false⟩ →
      lands (.sreg n v) (s.ctx.regs.setS n v) s.ctx.ctl.fflags) ∧
    (∀ q v w, s.ctx.pipe.pend[idx]? = some ⟨.kmask q v w, due, false⟩ →
      ∃ k : BitVec 512, (∀ i, k.getLsbD i = if w.getLsbD i then v.getLsbD i else (s.ctx.regs.getK q).getLsbD i) ∧
        lands (.kmask q v w) (s.ctx.regs.setK q k) s.ctx.ctl.fflags) ∧
    ∀ f : Flags, s.ctx.pipe.pend[idx]? = some ⟨.flags f, due, false⟩ →
      lands (.flags f) s.ctx.regs (s.ctx.ctl.fflags ||| ((0 : BitVec 59) ++ f))

/-- R24, R39, R152, R153: a vector result that lands writes the bytes of its active lanes and the sideband of its granule; the other bytes of
the register space, the tags, the registers and the other spaces stand. -/
def Sys2Proof.Claims.ExposedVectorsLand : Prop :=
  ∀ (s : State) (idx due a : Nat) (bytes : List (Option Byte)) (side : List Byte),
    s.ctx.pipe.pend[idx]? = some ⟨.vec a bytes side, due, false⟩ → Mem.wf s.ctx.basin.reg = true → Mem.wf s.ctx.basin.side = true →
    s.ctx.eng.undone = [] → a % 256 = 0 → bytes.length = 256 → side.length = 16 →
    ∃ t, happens (.exposedResultLanding idx) s t ∧ laidOver t.ctx.basin.reg s.ctx.basin.reg a bytes ∧
      t.ctx.basin.sideAt a = side ∧ (∀ x, x / 256 ≠ a / 256 → t.ctx.basin.sideAt x = s.ctx.basin.sideAt x) ∧
      t.ctx.basin.tags = s.ctx.basin.tags ∧ t.ctx.basin.acc = s.ctx.basin.acc ∧ t.ctx.basin.spad = s.ctx.basin.spad ∧
      t.ctx.pipe.pend = s.ctx.pipe.pend.set idx ⟨.vec a bytes side, due, true⟩ ∧
      t.ctx.regs = s.ctx.regs ∧ t.ctx.ctl = s.ctx.ctl ∧ t.ctx.tr = s.ctx.tr ∧ t.mem = s.mem

/-- R27, R109, R174, R175, R296: a scoreboarded result whose value is there is written and no longer awaited: a scalar register, with the view
register beside it where there is one; the gathered bytes, with a deferred MEM_UNCORR where one could not be corrected; the scattered
bytes, a later lane over an earlier one. That a VLDX defers MEM_UNCORR as LDS and GLD do is the model's choice (log entry 85). -/
def Sys2Proof.Claims.ScoreboardedValuesLand : Prop :=
  ∀ (s : State) (idx id : Nat) (addr : W64),
    (∀ n v view, s.ctx.pipe.sb[idx]? = some ⟨id, .sreg n, .value v view, addr, false, []⟩ →
      happens (.scoreboardedResultLanding idx false) s { s with ctx := { s.ctx with
        regs := s.ctx.regs.setS n v
        pipe := { s.ctx.pipe with sb := s.ctx.pipe.sb.filter fun e => e.id != id } } }) ∧
    (∀ n w v view, s.ctx.pipe.sb[idx]? = some ⟨id, .sregView n w, .value v view, addr, false, []⟩ →
      happens (.scoreboardedResultLanding idx false) s { s with ctx := { s.ctx with
        regs := (s.ctx.regs.setS n v).setW w view
        pipe := { s.ctx.pipe with sb := s.ctx.pipe.sb.filter fun e => e.id != id } } }) ∧
    (∀ a bytes bad, s.ctx.pipe.sb[idx]? = some ⟨id, .vec a, .gather bytes bad, addr, false, []⟩ → Mem.wf s.ctx.basin.reg = true →
      s.ctx.eng.undone = [] →
      ∃ t, happens (.scoreboardedResultLanding idx false) s t ∧ laidOver t.ctx.basin.reg s.ctx.basin.reg a bytes ∧
        t.ctx.pipe.deferred = s.ctx.pipe.deferred ++ (if bad then [⟨0x0C, addr⟩] else []) ∧
        t.ctx.pipe.sb = s.ctx.pipe.sb.filter (fun e => e.id != id) ∧ t.ctx.basin.spad = s.ctx.basin.spad ∧
        t.ctx.basin.side = s.ctx.basin.side ∧ t.ctx.basin.tags = s.ctx.basin.tags ∧ t.ctx.regs = s.ctx.regs ∧ t.mem = s.mem) ∧
    ∀ ws n, s.ctx.pipe.sb[idx]? = some ⟨id, .spad, .scatter ws n, addr, false, []⟩ → Mem.wf s.ctx.basin.spad = true →
      s.ctx.eng.undone = [] →
      ∃ t, happens (.scoreboardedResultLanding idx false) s t ∧
        (∀ x, Mem.get t.ctx.basin.spad x =
          ((ws.reverse.find? fun w => w.1 == x).map Prod.snd).or (Mem.get s.ctx.basin.spad x)) ∧
        t.ctx.pipe.sb = s.ctx.pipe.sb.filter (fun e => e.id != id) ∧ t.ctx.basin.reg = s.ctx.basin.reg ∧
        t.ctx.regs = s.ctx.regs ∧ t.mem = s.mem

/-- R102, R103, R109: a load binds what its home holds, and one that is uncorrectable gives a free value (log entry 4) with a deferred
MEM_UNCORR. -/
def Sys2Proof.Claims.LoadsBind : Prop :=
  ∀ (s : State) (idx id : Nat) (n : BitVec 6) (acc : Nat) (a : W64) (x : Access) (hurt : Bool),
    s.ctx.pipe.sb[idx]? = some ⟨id, .sreg n, .load acc, a, false, []⟩ →
    (s.ctx.eng.accs.find? fun y => y.id == acc) = some x → loadCanBind s x = true →
    inMerge s.ctx.hdr x.va.toNat = false → isRemote x.key = false → x.remote = false →
    let bad := hurt || s.mem.poisoned x.key x.size
    ∃ t, happens (.scoreboardedResultLanding idx hurt) s t ∧
      (bad = false → t.ctx.regs = s.ctx.regs.setS n (BitVec.ofNat 64 (ofLe (s.mem.homeBytes x.key x.size))) ∧
        t.ctx.pipe.deferred = s.ctx.pipe.deferred) ∧
      (bad = true → t.ctx.pipe.deferred = s.ctx.pipe.deferred ++ [⟨0x0C, a⟩] ∧
        ∃ v, t.ctx.regs = s.ctx.regs.setS n v) ∧
      t.ctx.pipe.sb = s.ctx.pipe.sb.filter (fun e => e.id != id) ∧
      t.ctx.eng.accs = s.ctx.eng.accs.filter (fun y => y.id != acc) ∧ t.ctx.ctl = s.ctx.ctl ∧ t.ctx.tr = s.ctx.tr ∧
      t.ctx.basin = s.ctx.basin ∧ t.mem.gmem = s.mem.gmem ∧ t.mem.cistern = s.mem.cistern ∧ t.sched = s.sched

/-- R109: a deferred trap is taken at the bundle that would issue next. -/
def Sys2Proof.Claims.DeferredTrapsAreTaken : Prop :=
  ∀ (s : State) d ds ws slots, s.mode = .running → s.ctx.inTrap = false → s.ctx.pipe.deferred = d :: ds →
    fetchBundle s = .bundle ws slots →
    happens .deferredTrapTaken s (enterTrap
      { s with ctx := { s.ctx with pipe := { s.ctx.pipe with deferred := ds } } } d.cause d.tval s.ctx.regs.pc
      (s.ctx.regs.pc + BitVec.ofNat 64 ws.length))

/-- R24, R27, R39, R45, R102, R103, R109, R152, R175: what stands in each kind of destination when its result lands: a scalar register, a lane
mask, FFLAGS, a vector register with its sideband, a view register, the scratchpad; and the deferred traps are taken. That the gather of VLDX
defers MEM_UNCORR is the model's choice (log entry 85): R109 names LDS and GLD. -/
def Obligations.ResultsLand : Prop :=
  ExposedRegistersLand ∧ ExposedVectorsLand ∧ ScoreboardedValuesLand ∧ LoadsBind ∧ DeferredTrapsAreTaken

/-- R263, R264, R274, R287, R338: GTIME owes the time; a FENCE whose accesses have performed drops the remote read cache at sys scope; TT.Q
owes an entry, or a token where IMM12 names one. -/
def Sys2Proof.Claims.QueriesAndFencesAct : Prop :=
  ∀ (s : State) (o : EngOp) (n : Nat) (rest : List EngOp), enginesIdle s → heads s n o rest →
    (∀ g d id, o.instr = .gtime g d → o.sbId = some id → ∃ t, actsAtStart s n o rest 0 t ∧ owes s t id s.fab.time ∧
      t.mem = s.mem ∧ sameBut s t) ∧
    (∀ g mask, o.instr = .fence g 3 mask → o.sbId = none → s.ctx.eng.accs = [] →
      s.ctx.eng.ports = Vector.replicate 4 Port.start →
      ∃ t, actsAtStart s n o rest 0 t ∧ t.mem = { s.mem with rrc := [] } ∧ t.ctx.pipe = s.ctx.pipe ∧ sameBut s t) ∧
    ∀ g d (e : BitVec 6) id, o.instr = .ttQ g d e → o.sbId = some id → ∃ t, actsAtStart s n o rest 0 t ∧ sameBut s t ∧
      (16 ≤ immOf g →
        let k := s.ctx.token (immOf g % 16)
        owes s t id (if k.done then (1 : BitVec 1) ++ k.status.extractLsb' 0 63 else 0)) ∧
      (immOf g < 16 → ∃ v : W64, owes s t id v ∧
        let x := s.ctx.tile e.toNat
        v.toNat % 4 = (match x.st with
          | .empty => 0
          | .filling => 1
          | .ready => 2
          | .draining => 3) ∧
        v.getLsbD 2 = (x.col != 0) ∧ v.getLsbD 3 = x.slot.isSome ∧ v.getLsbD 31 = x.rs ∧
        (v.extractLsb' 8 23).toNat = x.len % 2 ^ 23 ∧ (v.extractLsb' 32 22).toNat = x.base % 2 ^ 22)

/-- R243, R244, R286: TT.READY makes an unbound EMPTY entry READY, TT.REL a READY one EMPTY; TT.SET defines an entry inside its space, unbound
and EMPTY, and ends with RANGE on one outside it; TT.BIND unbinds an entry that no die stream binds. -/
def Sys2Proof.Claims.TileEntriesAct : Prop :=
  ∀ (s : State) (o : EngOp) (n : Nat) (rest : List EngOp) (g : EGuard) (e : BitVec 6), enginesIdle s → heads s n o rest → o.sbId = none →
    let x := s.ctx.tile e.toNat
    let becomes := fun (t : State) (new : Tile) => t.ctx.pipe = s.ctx.pipe ∧ t.mem = s.mem ∧ sameBut s t ∧
      ∀ k, k < 64 → t.ctx.tile k = if k = e.toNat then new else s.ctx.tile k
    (o.instr = .ttReady g e → s.fab.colls = [] → x.st = .empty → x.col = 0 →
      ∃ t, actsAtStart s n o rest 0 t ∧ becomes t { x with st := .ready, orphan := false }) ∧
    (o.instr = .ttRel g e → x.st = .ready → x.slot = none → ∃ t, actsAtStart s n o rest 0 t ∧ becomes t { x with st := .empty }) ∧
    (∀ a b, o.instr = .ttSet g e a b → x.st = .empty ∨ x.st = .ready →
      let rs := o.sa.getLsbD 63
      let base := o.sa.toNat % 2 ^ 22
      let len := o.sb.toNat % 2 ^ 23
      let fits := 0 < len ∧ len ≤ 2 ^ 22 ∧ base + len ≤ (if rs then s.ctx.regSize else s.ctx.spSize)
      (fits → ∃ t, actsAtStart s n o rest 0 t ∧ becomes t ⟨rs, base, len, .empty, 0, none, false⟩) ∧
        (¬ fits → ∃ t side, actsAtStart s n o rest (BitVec.ofNat 64 (5 + 256 * side)) t ∧ becomes t x)) ∧
    ∀ a, o.instr = .ttBind g e a → o.sa = 0 → x.slot = none → x.st = .empty ∨ x.st = .ready →
      ∃ t, actsAtStart s n o rest 0 t ∧ becomes t { x with col := 0 }

/-- R235, R236, R289 to R292, R345: DRAIN ends when nothing before it is outstanding; ARRIVE lowers the counts of the record that its handle
names, and is REFUSED, with SIDE 2, where none is named; TREC creates a record of the counts and the image, and owes its handle; POST adds
the task of its image to its launch, or ends with TEMPLATE where the reserved quadword of the image is not zero. -/
def Sys2Proof.Claims.RecordInstructionsAct : Prop :=
  ∀ (s : State) (o : EngOp) (n : Nat) (rest : List EngOp), enginesIdle s → heads s n o rest →
    let unread := o.clob = [] ∧ s.ctx.basin.poisoned 2 o.sa.toNat 64 = false ∧ s.ctx.eng.tiles = Vector.replicate 64 Tile.start
    let image := s.ctx.spadBytes o.sa.toNat 64
    (∀ g a, o.instr = .drain g a → o.sbId = none → s.ctx.eng.accs = [] → o.sa = 0 →
      ∃ t, actsAtStart s n o rest 0 t ∧ t.mem = s.mem ∧ sameBut s t) ∧
    (∀ g a b, o.instr = .arrive g a b → o.sbId = none →
      (∀ r, s.recordOf o.sa = some r → o.sb.toNat % 2 ^ 32 ≤ r.arrivals → o.sb.toNat / 2 ^ 32 ≤ r.bytes →
        ¬ (o.sb.toNat % 2 ^ 32 = r.arrivals ∧ o.sb.toNat / 2 ^ 32 = r.bytes) →
        ∃ t, actsAtStart s n o rest 0 t ∧ t.ctx.basin = s.ctx.basin ∧ t.mem = s.mem ∧
          t.sched = { s.sched with records := s.sched.records.map fun x => if x.slot = r.slot then
            { r with arrivals := r.arrivals - o.sb.toNat % 2 ^ 32, bytes := r.bytes - o.sb.toNat / 2 ^ 32 } else x }) ∧
      (s.recordOf o.sa = none → handleLocal o.sa = true → ∃ t, actsAtStart s n o rest 0x206 t ∧ t.mem = s.mem ∧ sameBut s t)) ∧
    (∀ g d a b id slot, o.instr = .trec g d a b → o.sbId = some id → unread → (∀ i, i < 8 → image.getD (56 + i) 0 = 0) →
      freeSlot s = some slot → o.sb ≠ 0 →
      ∃ t r, actsAtStart s n o rest 0 t ∧ t.ctx.basin = s.ctx.basin ∧ t.mem = s.mem ∧ r ∈ t.sched.records ∧ r.slot = slot ∧
        r.lid = s.ctx.lid ∧ r.arrivals = o.sb.toNat % 2 ^ 32 ∧ r.bytes = o.sb.toNat / 2 ^ 32 ∧ holdsBytes r.image 0 image ∧
        owes s t id (recordHandle r)) ∧
    ∀ g a, o.instr = .post g a → o.sbId = none → unread →
      ((∃ i, i < 8 ∧ image.getD (56 + i) 0 ≠ 0) → ∃ t, actsAtStart s n o rest 0x304 t ∧ t.mem = s.mem ∧ sameBut s t) ∧
      ∀ l, (∀ i, i < 8 → image.getD (56 + i) 0 = 0) → s.launchOf s.ctx.lid = some l → l.killing = false →
        ∃ t k, actsAtStart s n o rest 0 t ∧ t.ctx.basin = s.ctx.basin ∧ t.mem = s.mem ∧ t.sched.tasks = s.sched.tasks ++ [k] ∧
          k.lid = l.lid ∧ k.st = .queued ∧ k.prio = hdrPrio l.hdr ∧ holdsBytes k.entry 0 (image.take 8) ∧
          holdsBytes k.wid 0 ((image.drop 40).take 8) ∧ k.args.length = 4 ∧
          ∀ j, j < 4 → holdsBytes (k.args.getD j 0) 0 ((image.drop (8 * (j + 1))).take 8)

/-- R276, R279, R280: TPL.LD loads its template register from the 128 bytes of its image; COPY of one byte of the scratchpad to another place of
it ends with that byte there. -/
def Sys2Proof.Claims.CopiesAct : Prop :=
  ∀ (s : State) (o : EngOp) (idx : Nat), underWay s idx o → o.eng ≠ 0 → o.sbId = none → o.clob = [] →
    (∀ g (x : BitVec 4) a count, o.instr = .tplLd g x a → s.ctx.basin.poisoned 2 o.sa.toNat 128 = false →
      ∃ t v, happens (.tokenDone idx count) s t ∧ holdsBytes v 0 (s.ctx.spadBytes o.sa.toNat 128) ∧ tokenDone s t o 0 ∧
        ended s t o.id ∧ t.ctx.eng.templates = s.ctx.eng.templates.setIfInBounds x.toNat v ∧ sameBut s t) ∧
    ∀ g x a b, o.instr = .copy g x a b → caSpace o.sa = 1 → caSpace o.sb = 1 → caAddr o.sa ≠ caAddr o.sb →
      tmBad o.tmpl = false → tmEsize o.tmpl = 1 → tmNdim o.tmpl = 1 → tmCount o.tmpl 0 = 1 → tmSoff o.tmpl = 0 → tmDoff o.tmpl = 0 →
      tmRec o.tmpl = 0 → o.seen = [] → o.writes = [] → s.ctx.basin.poisoned 2 (caAddr o.sa).toNat 1 = false →
      Mem.wf s.ctx.basin.spad = true →
      ∃ t, happens (.tokenDone idx 2) s t ∧ tokenDone s t o 0 ∧ ended s t o.id ∧ sameCore s t ∧ t.sched = s.sched ∧
        laidOver t.ctx.basin.spad s.ctx.basin.spad (caAddr o.sb).toNat ((s.ctx.spadBytes (caAddr o.sa).toNat 1).map some) ∧
        t.ctx.basin.reg = s.ctx.basin.reg ∧ t.ctx.basin.acc = s.ctx.basin.acc

/-- R200, R201, R202, R208, R219, R220, R229, R233, R234: the cascade's loads take their image: ANG.LD the shadow plane, PAT.LD a pattern if the
image is a permutation and else PATERR, TAIL.SET the tail vectors if its word is valid and else TAILERR, ACT.LD the activation table; ANG.SWAP
exchanges the planes; ACC.Z and ACC.LD replace an accumulator; DRIFT.RD writes the drift to its two registers; ARR.Q owes what it asks
for, and clears the status where it says so. -/
def Sys2Proof.Claims.CascadeInstructionsAct : Prop :=
  ∀ (s : State) (o : EngOp) (idx count : Nat), underWay s idx o → o.eng = 0 → o.clob = [] →
    let c := s.ctx.casc
    let image := fun n => s.ctx.spadBytes o.sa.toNat n
    let reads := fun n => s.ctx.basin.poisoned 2 o.sa.toNat n = false
    let gives := fun (c' : Cascade → Prop) =>
      ∃ t, happens (.tokenDone idx count) s t ∧ c' t.ctx.casc ∧ tokenDone s t o 0 ∧ ended s t o.id ∧ sameBut s t
    (o.sbId = none →
      (∀ g a, o.instr = .angLd g a → reads 8256 → gives fun c' => ∃ p : Plane,
        holdsBytes p.codes 0 ((image 8256).take 8192) ∧
          (∀ k, k < 64 → p.sels.extractLsb' (5 * k) 5 = ((image 8256).getD (8192 + k) 0).setWidth 5) ∧
          c' = if c.active then { c with plane0 := p } else { c with plane1 := p }) ∧
      (∀ g, o.instr = .angSwap g → gives fun c' => c' = { c with active := !c.active }) ∧
      (∀ g k a, o.instr = .patLd g k a → reads 128 → gives fun c' =>
        ((∀ l, l < 128 → ∃ i, i < 128 ∧ ((image 128).getD i 0).toNat = l) → ∃ img : BitVec 1024, holdsBytes img 0 (image 128) ∧
          c' = { c with patterns := c.patterns.setIfInBounds (k.toNat - 7) img }) ∧
        ((∃ l, l < 128 ∧ ∀ i, i < 128 → ((image 128).getD i 0).toNat ≠ l) → c' = { c with status := c.status ||| 1 })) ∧
      (∀ g a b, o.instr = .tailSet g a b → reads 1024 → gives fun c' =>
        (tailWordOk o.sb = true → ∃ v w : BitVec 4096, holdsBytes v 0 ((image 1024).take 512) ∧ holdsBytes w 0 ((image 1024).drop 512) ∧
          c' = { c with tailCmd := o.sb, g := v, b := w }) ∧
        (tailWordOk o.sb = false → c' = { c with status := c.status ||| 2 })) ∧
      (∀ g a, o.instr = .actLd g a → reads 2064 → gives fun c' =>
        ∃ v : BitVec 16512, holdsBytes v 0 (image 2064) ∧ c' = { c with act := v }) ∧
      (∀ g q, o.instr = .accZ g q → c.live = some o.daddr → gives fun c' => c' = { c with liveVal := 0 }) ∧
      (∀ g q a, o.instr = .accLd g q a → c.live = some o.daddr → descSpad o.sa = true →
        s.ctx.basin.poisoned 2 (descAddr o.sa) 16384 = false → gives fun c' =>
          ∃ v : BitVec 131072, holdsBytes v 0 (s.ctx.spadBytes (descAddr o.sa) 16384) ∧ c' = { c with liveVal := v }) ∧
      (∀ g q a, o.instr = .accLd g q a → c.live = none → descSpad o.sa = true →
        s.ctx.basin.poisoned 2 (descAddr o.sa) 16384 = false → Mem.wf s.ctx.basin.acc = true →
        ∃ t, happens (.tokenDone idx count) s t ∧ t.ctx.casc = c ∧ tokenDone s t o 0 ∧ ended s t o.id ∧ sameCore s t ∧ t.sched = s.sched ∧
          laidOver t.ctx.basin.acc s.ctx.basin.acc o.daddr ((s.ctx.spadBytes (descAddr o.sa) 16384).map some) ∧
          t.ctx.basin.reg = s.ctx.basin.reg ∧ t.ctx.basin.spad = s.ctx.basin.spad) ∧
      (∀ g d, o.instr = .driftRd g d → Mem.wf s.ctx.basin.reg = true →
        ∃ t bs, happens (.tokenDone idx count) s t ∧ t.ctx.casc = c ∧ tokenDone s t o 0 ∧ ended s t o.id ∧ sameCore s t ∧
          t.sched = s.sched ∧ bs.length = 512 ∧ holdsBytes c.drift 0 bs ∧
          laidOver t.ctx.basin.reg s.ctx.basin.reg o.daddr (bs.map some) ∧ t.ctx.basin.spad = s.ctx.basin.spad)) ∧
    ∀ g d sel id, o.instr = .arrQ g d sel → o.sbId = some id →
      ∃ t, happens (.tokenDone idx count) s t ∧ tokenDone s t o 0 ∧ ended s t o.id ∧ sameBut s t ∧
        t.ctx.casc = (if sel = 1 then { c with status := 0 } else c) ∧
        owes s t id (if sel.toNat < 2 then c.status.setWidth 64 else if sel = 2 then c.peerDup
          else if sel = 3 then (if c.active then 1 else 0) else c.peerSeq)

/-- R200 to R202, R208, R219, R220, R229, R233 to R236, R243, R244, R263, R264, R274, R276, R279, R280, R286, R287, R289 to R292, R338: what
GTIME, FENCE at sys scope, TT.Q, TT.READY, TT.REL, TT.SET, TT.BIND, DRAIN, ARRIVE, TREC, POST, TPL.LD, a COPY of one byte, ANG.LD, ANG.SWAP,
PAT.LD, TAIL.SET, ACT.LD, ACC.Z, ACC.LD, DRIFT.RD and ARR.Q do when they run, each ending with its token done. -/
def Obligations.EngineInstructionsAct : Prop :=
  QueriesAndFencesAct ∧ TileEntriesAct ∧ RecordInstructionsAct ∧ CopiesAct ∧ CascadeInstructionsAct

/-- R139, R191, R192, R200, R203, R204: a rotation gives each of its two sums rounded once; a stage does so for each of its pairs from
the values before it, forward for ROTP and back for ROTI, and an identity angle passes a lane whatever the other holds; a sweep's angle is
hypot and two quotients, each rounded; the code and the lanes of each pair of a stage. -/
def Sys2Proof.Claims.RotationsRound : Prop :=
  (∀ c s a b : Nat, single.finite c → single.finite s → single.finite a → single.finite b →
    let r := rotPair false (val32 c) (val32 s) a b
    ∃ f g, r.2.2 = f ||| g ∧ nearest (of32 c * of32 a + of32 s * of32 b) (r.1, f) ∧
      nearest (of32 c * of32 b - of32 s * of32 a) (r.2.1, g)) ∧
  (∀ (inverse : Bool) (st : StagePairs) (xs : List Nat), stageLanes st → xs.length = 128 → (∀ x ∈ xs, single.finite x) →
    let r := stageStep inverse st xs
    ∃ fl : Nat → Flags, r.1.length = 128 ∧ (∀ b, r.2.getLsbD b = true ↔ ∃ l, l < 128 ∧ (fl l).getLsbD b = true) ∧
      (∀ p ∈ st,
        let c := cosOf p.2
        let s := if inverse then sinOf p.2 else -sinOf p.2
        let x := of32 (xs.getD p.1.1 0)
        let y := of32 (xs.getD p.1.2 0)
        nearest (c * x + s * y) (r.1.getD p.1.1 0, fl p.1.1) ∧ nearest (c * y - s * x) (r.1.getD p.1.2 0, fl p.1.2)) ∧
      ∀ l, l < 128 → (∀ p ∈ st, p.1.1 ≠ l ∧ p.1.2 ≠ l) → r.1.getD l 0 = xs.getD l 0 ∧ fl l = 0) ∧
  (∀ (inverse : Bool) (a b : Nat) (xs : List Nat), a < 128 → b < 128 → a ≠ b → xs.length = 128 →
    ∀ l, l = a ∨ l = b → (single.number (xs.getD l 0) → (stageStep inverse [((a, b), 0)] xs).1.getD l 0 = xs.getD l 0) ∧
      (single.isNan (xs.getD l 0) → (stageStep inverse [((a, b), 0)] xs).1.getD l 0 = single.nan)) ∧
  (∀ a b : Nat, single.finite a → single.finite b →
    (of32 a = 0 → of32 b = 0 → triAngle a b = (0x3F800000, 0, none, 0)) ∧
    (¬(of32 a = 0 ∧ of32 b = 0) → ∃ h c s fh fc fs, triAngle a b = (c, s, some h, fh ||| fc ||| fs) ∧
      single.rounds .rne (Real.sqrt (of32 a ^ 2 + of32 b ^ 2)) (h, fh) ∧
      (single.finite h → nearest (of32 a / of32 h) (c, fc) ∧ nearest (of32 b / of32 h) (s, fs)) ∧
      (single.infinite h → nearest 0 (c, fc) ∧ nearest 0 (s, fs)))) ∧
  (∀ a b : Nat, a < 2 ^ 32 → b < 2 ^ 32 →
    (single.infinite a ∨ single.infinite b → (triAngle a b).2.2.1 = some 0x7F800000) ∧
    (¬single.infinite a → ¬single.infinite b → single.isNan a ∨ single.isNan b →
      triAngle a b = (single.nan, single.nan, some single.nan, 0))) ∧
  (∀ code, code < 65536 → cosSin (negCode code) = ((cosSin code).1, -(cosSin code).2)) ∧
  cosSin 0 = (2 ^ 18, 0) ∧ cosSin 0x2000 = (185364, 185364) ∧
  ∀ (k : Cascade) (plane : Bool) (st p : Nat), st < 64 → p < 64 →
    let pl := if plane then k.plane1 else k.plane0
    let sel := (pl.sels.extractLsb' (5 * st) 5).toNat
    ∃ a b, (stageOf k plane st)[p]? = some ((a, b), (pl.codes.extractLsb' (16 * (64 * st + p)) 16).toNat) ∧
      (sel < 7 → a < 128 ∧ a / 2 ^ sel % 2 = 0 ∧ a / 2 ^ (sel + 1) * 2 ^ sel + a % 2 ^ sel = p ∧ b = a + 2 ^ sel) ∧
      (7 ≤ sel → ∃ img, k.patterns[sel - 7]? = some img ∧ a = (img.extractLsb' (16 * p) 8).toNat ∧
        b = (img.extractLsb' (16 * p + 8) 8).toNat)

/-- R205: the drift of no stage is 1.0 in every lane; each further stage multiplies the lanes of its pairs by RNE32(c² + s²), rounded; and
the worked pass of two stages. -/
def Sys2Proof.Claims.DriftRounds : Prop :=
  driftOf [] = List.replicate 128 0x3F800000 ∧
  (∀ (sts : List StagePairs) (st : StagePairs), stageLanes st →
    let d := driftOf sts
    let e := driftOf (sts ++ [st])
    (∀ p ∈ st, ∀ l, l = p.1.1 ∨ l = p.1.2 → single.finite (d.getD l 0) → ∃ q f g, nearest (cosOf p.2 ^ 2 + sinOf p.2 ^ 2) (q, f) ∧
      (single.finite q → nearest (of32 (d.getD l 0) * of32 q) (e.getD l 0, g))) ∧
    ∀ l, (∀ p ∈ st, p.1.1 ≠ l ∧ p.1.2 ≠ l) → e.getD l 0 = d.getD l 0) ∧
  let turn : StagePairs := [((0, 1), 0x2000)]
  (driftOf [turn, turn]).take 3 = [0x3F800024, 0x3F800024, 0x3F800000] ∧
    (stagesStep false [turn, turn] (0x3F800000 :: List.replicate 127 0)).1.take 2 = [0, 0x3F800012] ∧
    (scaleBy 0x3F800000 0x3F800024).1 = 0x3F7FFFDC ∧ (elemMul .fp32 .rne 0x3F800012 0x3F7FFFDC).1 = 0x3F800000

/-- R206: a stage of ROTG adds to each gradient entry the rounded difference of products of its pair, and turns both pairs back. That a term
whose coefficient is zero is left out there, as of ROTP and ROTI, is log entry 107; the values of finite lanes do not show it. -/
def Sys2Proof.Claims.GradientsRound : Prop :=
  ∀ (st : StagePairs) (y g grad : List Nat), stageLanes st → y.length = 128 → g.length = 128 → st.length ≤ grad.length →
    (∀ x ∈ y ++ g ++ grad, single.finite x) →
    let r := gradStep st y g grad
    r.1.length = 128 ∧ r.2.1.length = 128 ∧ r.2.2.1.length = grad.length ∧
    ∀ (i : Nat) (p : (Nat × Nat) × Nat), st[i]? = some p →
      let c := cosOf p.2
      let s := sinOf p.2
      let ya := of32 (y.getD p.1.1 0)
      let yb := of32 (y.getD p.1.2 0)
      let ga := of32 (g.getD p.1.1 0)
      let gb := of32 (g.getD p.1.2 0)
      let gives := fun (x : ℝ) (z : Nat) => ∃ f, nearest x (z, f) ∧ among f r.2.2.2
      (∃ m, gives (ya * gb - yb * ga) m ∧
        (single.finite m → gives (of32 (grad.getD i 0) + of32 m) (r.2.2.1.getD i 0))) ∧
      gives (c * ya + s * yb) (r.1.getD p.1.1 0) ∧ gives (c * yb - s * ya) (r.1.getD p.1.2 0) ∧
      gives (c * ga + s * gb) (r.2.1.getD p.1.1 0) ∧ gives (c * gb - s * ga) (r.2.1.getD p.1.2 0)

/-- R207: SCALE, BIAS and ACT of a finite element, each with its roundings, one after the other, a stage that is off changing nothing; QNT
rounds an element to its format, with the generator where QSR is set. -/
def Sys2Proof.Claims.TailRounds : Prop :=
  (∀ (t : TailCfg) (l d x : Nat), single.finite x →
    let scale := t.en.getLsbD 0
    let norm := t.en.getLsbD 1
    let g := if scale then (t.g.extractLsb' (32 * l) 32).toNat else 0x3F800000
    let b := (t.b.extractLsb' (32 * l) 32).toNat
    let word := fun k => (t.act.extractLsb' (32 * k) 32).toNat
    (scale = false → norm = false → tailScale t l d x = (x, 0)) ∧
    (scale = true → norm = false → single.finite g → nearest (of32 x * of32 g) (tailScale t l d x)) ∧
    (norm = true → single.finite g → single.finite d → 0 < of32 d →
      ∃ f fl fm, nearest (of32 g / Real.sqrt (of32 d)) (f, fl) ∧
        (single.finite f → nearest (of32 x * of32 f) ((tailScale t l d x).1, fm) ∧ (tailScale t l d x).2 = fm ||| fl)) ∧
    (t.en.getLsbD 2 = false → tailBias t l x = (x, 0)) ∧
    (t.en.getLsbD 2 = true → single.finite b → nearest (of32 x + of32 b) (tailBias t l x)) ∧
    (t.en.getLsbD 3 = false → tailAct t x = (x, 0)) ∧
    (t.en.getLsbD 3 = true → single.finite (word 0) → single.finite (word 1) → single.finite (word 2) →
      let i := max 0 (min 255 ⌊(single.val x - single.val (word 0)) * single.val (word 2)⌋)
      let y0 := word (4 + 2 * i.toNat)
      let slope := word (5 + 2 * i.toNat)
      single.finite y0 → single.finite slope →
        nearest (of32 y0 + of32 slope * (of32 x - of32 (word 0) - i * of32 (word 1))) (tailAct t x))) ∧
  (∀ (t : TailCfg) (x : Nat), single.isNan x → t.en.getLsbD 3 = true → tailAct t x = (single.nan, 0)) ∧
  (∀ (t : TailCfg) (l d x : Nat),
    let a := tailScale t l d x
    let b := tailBias t l a.1
    tailElem t l d x = ((tailAct t b.1).1, a.2 ||| b.2 ||| (tailAct t b.1).2)) ∧
  ∀ row ∈ floatRows, row.1 ≠ .fp32 → ∀ (t : TailCfg) (mode : Nat → RMode) (xs : List Nat) (k x : Nat), t.en.getLsbD 4 = true →
    t.qfmt = row.1 → xs[k]? = some x → single.finite x →
    let q := tailQuant t mode xs
    let z := codeAt row.2.w q.1 k
    (of32 x = 0 → z = row.2.signed (single.negative x) 0) ∧
    ∀ w, of32 x ≠ 0 → (t.qsr = true → mode k = .sr w) → ∃ fl, among fl q.2.2 ∧
      (t.qsr = false → row.2.rounds .rne (of32 x) (z, fl)) ∧ (t.qsr = true → row.2.stochastic w (single.val x) (z, fl))

/-- R122, R143 to R147, R227: an output element of a product takes its terms in groups in ascending k, one rounding a group, the terms whose
bits are off left out; a group with a NaN or an infinity adds what R144 says (of one with both a NaN input and a NaN that it creates, log
entry 98). -/
def Sys2Proof.Claims.GroupsRound : Prop :=
  (∀ ra ∈ prodRows, ∀ rb ∈ prodRows, ra.2.2 = rb.2.2 → ∀ (a b : ProdSrc) (k i j acc : Nat), a.fmt = ra.1 → b.fmt = rb.1 →
    (ra.2.2 = 32 → 32 ∣ k) → single.finite acc →
    let size := ra.2.2
    let on := fun (x : ProdSrc) n => ∀ bs, x.bits = some bs → (bs.getD (n / 8) 0).getLsbD (n % 8) = true
    let ea := fun x => codeAt ra.2.1.w a.bytes (i * k + x)
    let eb := fun x => codeAt rb.2.1.w b.bytes (j * k + x)
    let code := fun (x : ProdSrc) (w n : Nat) => (x.sides.getD (n / 32 / (64 / w) * 16 + n / 32 % (64 / w)) 0).toNat
    let ca := fun q => code a ra.2.1.w (i * k + 32 * q)
    let cb := fun q => code b rb.2.1.w (j * k + 32 * q)
    (∀ x, x < k → on a (i * k + x) → on b (j * k + x) → ra.2.1.finite (ea x) ∧ rb.2.1.finite (eb x)) →
    (size = 32 → ∀ q, 32 * q < k → ca q ≠ 255 ∧ cb q ≠ 255) →
    ∃ as : Nat → Nat × Flags, (as 0).1 = acc ∧ (prodElem a b k i j acc).1 = (as ((k + size - 1) / size)).1 ∧
      (∀ c, (prodElem a b k i j acc).2.getLsbD c = true ↔ ∃ q, q < (k + size - 1) / size ∧ (as (q + 1)).2.getLsbD c = true) ∧
      ∀ q, q < (k + size - 1) / size → single.finite (as q).1 → ∀ ks : List Nat, ks.Nodup →
        (∀ x, x ∈ ks ↔ size * q ≤ x ∧ x < size * (q + 1) ∧ x < k ∧ on a (i * k + x) ∧ on b (j * k + x)) →
        groupAdds (size == 16) (if size = 32 then (ca q : ℤ) + cb q - 254 else 0) (as q).1
          (ks.map fun x => ra.2.1.val (ea x) * rb.2.1.val (eb x)) (as (q + 1))) ∧
  ∀ (fp8 : Bool) (sc : ℤ) (acc : Nat) (ps : List Prod32),
    addGroup fp8 none acc ps = (single.nan, 0) ∧
    let given := (FVal.nan, (0 : Flags)) ∈ ps
    let made := (∃ p ∈ ps, p.1 = .nan ∧ p.2 ≠ 0) ∨ ((∃ p ∈ ps, p.1 = .inf false) ∧ ∃ p ∈ ps, p.1 = .inf true)
    (given → ¬made → addGroup fp8 (some sc) acc ps = (single.nan, 0)) ∧
    (made → ¬given → addGroup fp8 (some sc) acc ps = (single.nan, fNV)) ∧
    ∀ neg, ¬made → ¬given → (∃ p ∈ ps, p.1 = .inf neg) → single.finite acc →
      addGroup fp8 (some sc) acc ps = (single.signed neg 0x7F800000, 0)

/-- R191 to R193, R223: a rotation of TRI turns columns j to N - 1 of rows i - 1 and i by the angle of T[i-1][j] and T[i][j], in whose places
stand hypot and +0, unless the pair is zero, which changes nothing in the tile; it logs its angle where LOG is set; one of GROT turns columns 0 to
W - 1 by its log entry. -/
def Sys2Proof.Claims.SweepsAct : Prop :=
  ∀ (s : State) (o : EngOp) (idx j i : Nat), underWay s idx o → o.eng = 0 → o.sbId = none → o.clob = [] →
    Mem.wf s.ctx.basin.reg = true → Mem.wf s.ctx.basin.spad = true →
    let seq := sweepOrder (sweepM o.sa) (sweepN o.sa)
    let log := o.sb.toNat + 8 * o.pos
    let turned := fun (t : State) (c s' : Nat) k =>
      let r := rotPair false (val32 c) (val32 s') (tileWord s o.daddr (i - 1) k) (tileWord s o.daddr i k)
      tileWord t o.daddr (i - 1) k = r.1 ∧ tileWord t o.daddr i k = r.2.1 ∧ raises s t [r.2.2]
    seq[o.pos]? = some (j, i) → s.ctx.basin.poisoned 0 (o.daddr + 256 * (i - 1)) 512 = false →
    (∀ g d a b, o.instr = .tri g d a b →
      ∃ t, happens (.tokenDone idx 1) s t ∧ unitMade s t o seq.length ∧ aroundTiles s t ∧ t.ctx.casc = s.ctx.casc ∧
        t.ctx.basin.side = s.ctx.basin.side ∧ rowsOnly s t o.daddr i j (sweepN o.sa) ∧
        (let zeros := isZero32 (tileWord s o.daddr (i - 1) j) ∧ isZero32 (tileWord s o.daddr i j)
         let turn := triAngle (tileWord s o.daddr (i - 1) j) (tileWord s o.daddr i j)
         (zeros → t.ctx.basin.reg = s.ctx.basin.reg ∧ t.ctx.ctl = s.ctx.ctl) ∧
         (¬zeros → turn.2.2.1 = some (tileWord t o.daddr (i - 1) j) ∧ tileWord t o.daddr i j = 0 ∧ raises s t [turn.2.2.2] ∧
           ∀ k, j < k → k < sweepN o.sa → turned t turn.1 turn.2.1 k) ∧
         (sweepLog o.sa = false → t.ctx.basin.spad = s.ctx.basin.spad) ∧
         (sweepLog o.sa = true → ∃ bs, bs.length = 8 ∧ ofLe bs = turn.1 + 2 ^ 32 * turn.2.1 ∧
           laidOver t.ctx.basin.spad s.ctx.basin.spad log (bs.map some)))) ∧
    ∀ g d a b, o.instr = .grot g d a b → s.ctx.basin.poisoned 2 log 8 = false →
      ∃ t, happens (.tokenDone idx 1) s t ∧ unitMade s t o seq.length ∧ aroundTiles s t ∧ t.ctx.casc = s.ctx.casc ∧
        t.ctx.basin.side = s.ctx.basin.side ∧ t.ctx.basin.spad = s.ctx.basin.spad ∧ rowsOnly s t o.daddr i 0 (sweepW o.sa) ∧
        ∀ k, k < sweepW o.sa → turned t (ofLe (s.ctx.spadBytes log 4)) (ofLe (s.ctx.spadBytes (log + 4) 4)) k

/-- R198, R199, R203 to R206, R209, R221, R222: a vector of ROTP or ROTI, its elements as fp32, goes through its stages, the tail with the
drift and the output format, and is written as its run of elements of tD; nothing else is, but for the end of the last granule; the last
vector leaves the drift. A pass that rotates nothing with the tail off moves an fp32 vector as it stands, NaNs that are not canonical included
(log entry 93), and leaves a drift of 1.0. A vector of ROTG goes back through its stages with its gradients, to its place in tA and tD. -/
def Sys2Proof.Claims.PassesAct : Prop :=
  ∀ (s : State) (o : EngOp) (idx : Nat), underWay s idx o → o.eng = 0 → o.sbId = none → o.clob = [] →
    Mem.wf s.ctx.basin.reg = true → o.pos < passV o.sb →
    let n := passV o.sb
    let f := Fmt.ofCode o.atag
    let out := tailOut o.tailCmd
    let a := o.aaddr + o.pos * (16 * f.width)
    let d := o.daddr + o.pos * (16 * out.width)
    let still := passLast o.sb < passFirst o.sb
    let stages := passStages s.ctx.casc o.plane o.sb
    let drifts := fun v : BitVec 4096 => ∀ l, l < 128 → (v.extractLsb' (32 * l) 32).toNat = (driftOf stages).getD l 0
    (((∃ g x y z, o.instr = .rotp g x y z) ∨ ∃ g x y z, o.instr = .roti g x y z) →
      s.ctx.basin.poisoned 0 a (16 * f.width) = false →
      ∃ t, happens (.tokenDone idx 1) s t ∧ unitMade s t o n ∧ aroundTiles s t ∧ t.ctx.basin.spad = s.ctx.basin.spad ∧
        (out.isBlk = false → t.ctx.basin.side = s.ctx.basin.side) ∧
        (o.pos + 1 < n → restStands t.ctx.basin.reg s.ctx.basin.reg d (16 * out.width) ∧ t.ctx.casc = s.ctx.casc) ∧
        (o.pos + 1 = n →
          restStands t.ctx.basin.reg s.ctx.basin.reg d (o.daddr + 256 * ((128 * n + out.lanes - 1) / out.lanes) - d) ∧
          ∃ v, t.ctx.casc = { s.ctx.casc with drift := v } ∧ drifts v ∧ (still → noDrift v)) ∧
        (f ∈ [Fmt.fp32, .bf16, .fp16] →
          (o.daddr = o.aaddr ∧ out.width ≤ f.width) ∨ o.daddr + 16 * out.width * n ≤ o.aaddr ∨ o.aaddr + 16 * f.width * n ≤ o.daddr →
          let back := o.instr matches .roti _ _ _ _
          let given := (List.range 128).map fun l =>
            let x := codeAt f.width (s.ctx.regBytes a (16 * f.width)) l
            if f = .fp32 then x else (elemCvt f .fp32 .rne x).1
          let turned := stagesStep back (if back then stages.reverse else stages) given
          let tail := (List.range 128).map fun l => tailElem (tailOf s o) l ((driftOf stages).getD l 0) (turned.1.getD l 0)
          let q := tailQuant (tailOf s o)
            (fun i => .sr (generator o.seed o.tensor (o.coord + BitVec.ofNat 64 (128 * o.pos + i)))) (tail.map Prod.fst)
          t.ctx.regBytes d (16 * out.width) = q.1 ∧ raises s t (turned.2 :: q.2.2 :: tail.map Prod.snd)) ∧
        (still → o.tailCmd.extractLsb' 0 5 = 0 → f = .fp32 →
          o.daddr = o.aaddr ∨ o.daddr + 512 * n ≤ o.aaddr ∨ o.aaddr + 512 * n ≤ o.daddr →
          ∀ k, k < 512 → Mem.get t.ctx.basin.reg (d + k) = some ((s.ctx.regBytes a 512).getD k 0))) ∧
    ∀ g x y z, o.instr = .rotg g x y z → s.ctx.casc.live = some o.gaddr →
      s.ctx.basin.poisoned 0 (o.aaddr + 512 * o.pos) 512 = false → s.ctx.basin.poisoned 0 (o.daddr + 512 * o.pos) 512 = false →
      ∃ t v w, happens (.tokenDone idx 1) s t ∧ unitMade s t o n ∧ aroundTiles s t ∧ t.ctx.basin.spad = s.ctx.basin.spad ∧
        t.ctx.basin.side = s.ctx.basin.side ∧
        (∀ q, (q < o.aaddr + 512 * o.pos ∨ o.aaddr + 512 * o.pos + 512 ≤ q) →
          (q < o.daddr + 512 * o.pos ∨ o.daddr + 512 * o.pos + 512 ≤ q) →
          Mem.get t.ctx.basin.reg q = Mem.get s.ctx.basin.reg q) ∧
        t.ctx.casc = { s.ctx.casc with liveVal := w, drift := v } ∧
        (o.pos + 1 < n → v = s.ctx.casc.drift) ∧ (o.pos + 1 = n → drifts v ∧ (still → noDrift v)) ∧
        (still → w = s.ctx.casc.liveVal) ∧
        (o.daddr + 512 * n ≤ o.aaddr ∨ o.aaddr + 512 * n ≤ o.daddr →
          let words := fun (u : State) a => (List.range 128).map fun l => ofLe (u.ctx.regBytes (a + 512 * o.pos + 4 * l) 4)
          let row := fun (u : BitVec 131072) k => (List.range 64).map fun p => (u.extractLsb' (32 * (64 * k + p)) 32).toNat
          ∃ (ys gs : Nat → List Nat) (us : Nat → BitVec 131072), ys 0 = words s o.aaddr ∧ gs 0 = words s o.daddr ∧
            us 0 = s.ctx.casc.liveVal ∧ words t o.aaddr = ys stages.length ∧ words t o.daddr = gs stages.length ∧ w = us stages.length ∧
            ∀ i, i < stages.length →
              let k := passLast o.sb - i
              let r := gradStep (stageOf s.ctx.casc o.plane k) (ys i) (gs i) (row (us i) k)
              r.1 = ys (i + 1) ∧ r.2.1 = gs (i + 1) ∧ r.2.2.1 = row (us (i + 1)) k ∧ raises s t [r.2.2.2] ∧
                ∀ k', k' < 64 → k' ≠ k → row (us (i + 1)) k' = row (us i) k')

/-- R122, R207, R211, R212, R227, R230: MPROD and MPRODB of tiles add their groups into the elements (i, j) of the live accumulator with i < M
and j < N, and change no other; with a bitmap of zeros none. ACC.OUT writes what the tail makes of its accumulator, which stands; with the tail off,
its rows as they stand (log entry 93). -/
def Sys2Proof.Claims.ProductsAct : Prop :=
  ∀ (s : State) (o : EngOp) (idx count : Nat), underWay s idx o → o.eng = 0 → o.sbId = none → o.clob = [] →
    s.ctx.casc.live = some o.daddr →
    let m := mshapeM o.mshape
    let elem := fun (x : BitVec 131072) i j => x.extractLsb' (32 * (64 * i + j)) 32
    let tile := fun (tag : BitVec 4) a rows bits =>
      let f := Fmt.ofCode tag
      let len := (rows * o.dlen * f.width + 7) / 8
      (⟨f, s.ctx.regBytes a len, (List.range ((len + 255) / 256)).flatMap fun i => s.ctx.basin.sideAt (a + 256 * i), bits⟩ : ProdSrc)
    let products := fun (bits : Nat → Nat → Option (List Byte)) (z : Prop) =>
      ∃ t v, happens (.tokenDone idx count) s t ∧ ended s t o.id ∧ tokenDone s t o 0 ∧ aroundTiles s t ∧
        t.ctx.basin = s.ctx.basin ∧ t.ctx.casc = { s.ctx.casc with liveVal := v } ∧
        (∀ i j, i < 64 → j < 64 → m ≤ i ∨ mshapeN o.mshape ≤ j → elem v i j = elem s.ctx.casc.liveVal i j) ∧
        (z → v = s.ctx.casc.liveVal ∧ t.ctx.ctl = s.ctx.ctl) ∧
        ∀ i j, i < m → j < mshapeN o.mshape →
          let e := prodElem (tile o.atag o.aaddr m (bits (o.view.toNat % 2 ^ 64) m))
            (tile o.btag o.baddr (mshapeN o.mshape) (bits (o.view.toNat / 2 ^ 64) (mshapeN o.mshape))) o.dlen i j
            (elem s.ctx.casc.liveVal i j).toNat
          (elem v i j).toNat = e.1 ∧ raises s t [e.2]
    ((∀ r ∈ o.rd, s.ctx.basin.poisoned (if r.1 then 0 else 2) r.2.1 r.2.2 = false) → ∀ g q a b, portOf a = none → portOf b = none →
      (o.instr = .mprod g q a b → products (fun _ _ => none) False) ∧
      (o.instr = .mprodb g q a b → products (fun a rows => some (s.ctx.regBytes a ((rows * o.dlen + 7) / 8))) ((Fmt.ofCode o.atag).isBlk = false ∧
        ∀ x ∈ s.ctx.regBytes (o.view.toNat % 2 ^ 64) ((m * o.dlen + 7) / 8), x = 0))) ∧
    (∀ g q a b, o.instr = .accOut g q a b → descSpad o.sa = false → outMask o.sb = false → o.tailCmd.extractLsb' 0 5 = 0 →
      Mem.wf s.ctx.basin.reg = true →
      ∃ t bs, happens (.tokenDone idx count) s t ∧ ended s t o.id ∧ tokenDone s t o 0 ∧ aroundTiles s t ∧
        t.ctx.casc = s.ctx.casc ∧ t.ctx.ctl = s.ctx.ctl ∧ t.ctx.basin.spad = s.ctx.basin.spad ∧
        t.ctx.basin.side = s.ctx.basin.side ∧ bs.length = 256 * m ∧ holdsBytes s.ctx.casc.liveVal 0 bs ∧
        laidOver t.ctx.basin.reg s.ctx.basin.reg (descAddr o.sa) (bs.map some)) ∧
    ∀ g q a b, o.instr = .accOut g q a b → descSpad o.sa = false → outMask o.sb = false → Mem.wf s.ctx.basin.reg = true →
      let f := tailOut o.tailCmd
      let tail := (List.range (64 * m)).map fun e =>
        tailElem (tailOf s o) (e % 64) 0x3F800000 (elem s.ctx.casc.liveVal (e / 64) (e % 64)).toNat
      let r := tailQuant (tailOf s o) (fun i => .sr (generator o.seed o.tensor (o.coord + BitVec.ofNat 64 i))) (tail.map Prod.fst)
      let pad := List.replicate (256 * ((64 * m + f.lanes - 1) / f.lanes) - r.1.length) 0
      ∃ t, happens (.tokenDone idx count) s t ∧ ended s t o.id ∧ tokenDone s t o 0 ∧ aroundTiles s t ∧
        t.ctx.casc = s.ctx.casc ∧ t.ctx.basin.spad = s.ctx.basin.spad ∧ raises s t (r.2.2 :: tail.map Prod.snd) ∧
        (f.isBlk = false → t.ctx.basin.side = s.ctx.basin.side) ∧
        laidOver t.ctx.basin.reg s.ctx.basin.reg (descAddr o.sa) ((r.1 ++ pad).map some)

/-- R139, R143 to R147, R189 to R193, R198 to R200, R203 to R207, R209, R211, R221 to R223, R227, R230: what a rotation of TRI and GROT, a
vector of ROTP, ROTI and ROTG, and the run of MPROD, MPRODB and ACC.OUT write, and what they leave alone; the values of rotations, drift,
gradients, tail stages and product groups are the exact ones rounded as the rules say. fp32 moved as it stands is log entry 93; a group
with a NaN input beside a NaN that it creates, log entry 98; both are the model's choice. -/
def Obligations.PassesAndProductsAct : Prop :=
  SweepsAct ∧ PassesAct ∧ ProductsAct ∧ RotationsRound ∧ DriftRounds ∧ GradientsRound ∧ TailRounds ∧ GroupsRound

/-- R115, R353, R354: pre-emption by a ready task of a higher priority, and the end of a quantum with one ready of the same priority or a
higher one, save the context and free the core. -/
def Sys2Proof.Claims.TasksGiveWay : Prop :=
  ∀ (s : State), s.mode = .running ∨ s.mode = .draining → noneDue s → cascadeSettled s →
    (((candidates s).any fun c => decide (s.ctx.ctl.prio.toNat < c.2.prio)) = true →
      ∃ t, happens .preEmption s t ∧ parked s t .preempted ∧ t.fab = s.fab) ∧
    (((candidates s).any fun c => decide (s.ctx.ctl.prio.toNat ≤ c.2.prio)) = true →
      ∃ t, happens .quantumEnd s t ∧ parked s t .preempted ∧
        (s.sched.since + BitVec.ofNat 64 (quantumOf s)).toNat ≤ t.fab.time.toNat)

/-- R42, R118: a restore brings every register of the context back and sets OVR; the bytes and tags of blocks in use are those saved, unwritten
ones included, and granules of blocks never in use are raw. -/
def Sys2Proof.Claims.ContextsComeBack : Prop :=
  ∀ (s : State) l k n sv, chosen s l k → k.started = true → savedOf s k.lid k.wid = some (n, sv) → sv.killed = false →
    sv.ctx.settled = true → sv.ctx.replied = true → ∃ t, happens (.contextRestore k.lid k.wid) s t ∧
      t.mode = (if sv.ending then .draining else .running) ∧ t.ctx.regs = sv.ctx.regs ∧ t.ctx.ctl = sv.ctx.ctl ∧
      t.ctx.tr = { sv.ctx.tr with tstat := sv.ctx.tr.tstat ||| 8 } ∧ t.ctx.casc = sv.ctx.casc ∧
      t.ctx.basin.reg = sv.ctx.basin.reg ∧ t.ctx.basin.acc = sv.ctx.basin.acc ∧ t.ctx.basin.spad = sv.ctx.basin.spad ∧
      (∀ a, t.ctx.basin.tagAt a = if sv.ctx.basin.inUse.contains (a / 4096) then sv.ctx.basin.tagAt a else .raw) ∧
      (∀ a, sv.ctx.basin.inUse.contains (a / 4096) = true →
        t.ctx.regBytes a 1 = sv.ctx.regBytes a 1 ∧ t.ctx.basin.sideAt a = sv.ctx.basin.sideAt a) ∧
      (∀ a, sv.ctx.basin.inUse.contains (sv.ctx.spadBlock + a / 4096) = true → t.ctx.spadBytes a 1 = sv.ctx.spadBytes a 1) ∧
      t.ctx.eng.tokens = sv.ctx.eng.tokens ∧ t.ctx.eng.tiles = sv.ctx.eng.tiles ∧ (∀ q, q < 4 → t.ctx.port q = { sv.ctx.port q with loose := (sv.ctx.port q).st != .unbound && (sv.ctx.port q).tmpl.isSome }) ∧
      t.sched.saved = s.sched.saved.eraseIdx n ∧ t.mem = s.mem ∧ t.host = s.host

/-- R344, R353: a dispatch decision starts the task that it chooses with the registers of R344. -/
def Sys2Proof.Claims.TasksStart : Prop :=
  ∀ (s : State) l k, chosen s l k → k.started = false → k.args = [] → hdrSpadLen l.hdr = 0 → hdrRegLen l.hdr = 0 →
    ∃ t, happens .dispatchDecision s t ∧ t.mode = .running ∧ t.ctx.regs = { Regs.start with pc := k.entry } ∧
      t.ctx.ctl.wid = k.wid ∧ t.ctx.ctl.launchArg = l.arg ∧ t.ctx.ctl.lcore = BitVec.ofNat 64 k.lcore ∧
      t.ctx.ctl.prio = BitVec.ofNat 64 k.prio ∧ t.ctx.ctl.part = BitVec.ofNat 64 (hdrPartw l.hdr) ∧
      t.ctx.ctl.seed = hdrSeed l.hdr ∧ t.ctx.ctl.rmode = 0 ∧ t.ctx.ctl.fflags = 0 ∧ t.ctx.tr.tvec = 0xFFFFFFFF ∧
      t.ctx.eng = Engines.start ∧ t.ctx.casc = Cascade.start ∧ t.ctx.basin.reg = [] ∧ t.ctx.basin.spad = [] ∧
      t.ctx.basin.acc = [] ∧ t.ctx.basin.tags = [] ∧ t.mem = s.mem ∧ t.host = s.host

/-- R42, R115, R117, R118, R268, R344, R353, R354: contexts are saved, with what a save keeps of started instructions and open windows, and
brought back; a dispatch decision starts a task. -/
def Obligations.SavesRestoresAndDispatch : Prop := TasksGiveWay ∧ ContextsComeBack ∧ TasksStart

/-- R94, R119, R351, R357, R369: a task that issued TEND ends once its queues are empty and its accesses acknowledged, and the core is
free; a kill of a launch discards its tasks that have not started and stops the running one, whose unstarted instructions and their accesses
are dropped, with what its streams would still store, and so do those of its saved contexts; a kill completes with a fault record, which triggers the snapshot registers, and is counted. That a
kill of a launch drops its unstarted tasks uncounted is log entry 65; the tag and the values of the latch are free (log entry 91). -/
def Obligations.TasksEndAndKillsComplete : Prop :=
  ∀ (s : State),
    (∀ n k, s.mode = .draining → taskQuiet s = true → s.ctx.eng.started = [] → s.ctx.eng.streams = [] → noneDue s →
      (∀ q, q < 4 → (s.ctx.port q).st ≠ .sink) →
      taskPlace s.sched.tasks s.ctx.lid s.ctx.ctl.lcore.toNat s.ctx.ctl.wid = some n → s.sched.tasks[n]? = some k →
      endRecordOf s k.lid k.wid = none →
      happens (.taskEnd none) s { s with
        ctx := Ctx.start
        mode := .idle
        sched := { s.sched with
          tasks := s.sched.tasks.set n { k with st := .ended }
          launches := s.sched.launches.map fun l =>
            if l.lid = k.lid ∧ hdrDet l.hdr = true then
              (if k.origin = .launch then { l with logs := l.logs ++ [(s.ctx.ctl.serial, k.wid, s.ctx.log)] }
               else { l with restLogs := l.restLogs ++ [(s.ctx.ctl.serial, k.wid, s.ctx.log)] })
            else l } }) ∧
    (∀ lid, (s.launchOf lid).isSome = true → s.mode = .running → s.ctx.lid = lid → s.ctx.pipe.pend = [] →
      happens (.kill lid none) s { s with
        ctx := discarded s.ctx
        mode := .killing 2 0 0 0 0 0 0
        sched := { s.sched with
          launches := s.sched.launches.map fun l => if l.lid = lid then { l with killing := true } else l
          tasks := s.sched.tasks.filter fun k => !(k.lid == lid && !k.started && k.st != .ended)
          saved := s.sched.saved.map fun x => if x.ctx.lid = lid then { x with killed := true, ctx := discarded x.ctx } else x } }) ∧
    ∀ lid wid reason c2 p2 v2 c1 p1 v1 n k, s.mode = .killing reason c2 p2 v2 c1 p1 v1 → s.ctx.lid = lid → s.ctx.ctl.wid = wid →
      killQuiet s s.ctx = true → s.ctx.eng.streams = [] → noneDue s →
      taskPlace s.sched.tasks lid s.ctx.ctl.lcore.toNat wid = some n → s.sched.tasks[n]? = some k →
      ∃ t, happens (.killCompletion lid wid) s t ∧ t.ctx = Ctx.start ∧ t.mode = .idle ∧ t.mem = s.mem ∧ t.fab = s.fab ∧ faultLatched s t ∧
        t.host = s.host ++ [.faultRecord (faultRecord reason wid s.ctx.ctl.lcore.toNat Config.pcore.toNat (c1, p1, v1) (c2, p2, v2))] ∧
        t.sched = { s.sched with
          tasks := s.sched.tasks.set n { k with st := .ended }
          launches := s.sched.launches.map fun l => if l.lid = lid then { l with killed := l.killed + 1 } else l }

/-! ### Events of launches, graphs, translation and memory (R244 to R267, R294, R340 to R351, R357, R360, R370) -/

namespace Sys2Proof.Claims

open Sys2Proof Sys2Proof.Machine

/-- A byte map after `data` has been written from `a` on: those bytes are the data, every other one is as it was (R246). -/
def bytesWritten (m m' : Mem) (a : Nat) (data : List Byte) : Prop :=
  ∀ x, m'.get x = if a ≤ x ∧ x < a + data.length then data[x - a]? else m.get x

/-- No live deterministic launch but one of id `lid` has merge regions that a write could disturb (R357). -/
def undisturbed (s : State) (lid : Option (BitVec 32)) : Prop :=
  ∀ l ∈ s.sched.launches, l.done = false → hdrDet l.hdr = true → lid = some l.lid

/-- The schedule is as it was, but for values that the source ports of saved contexts may still read (R186). -/
def schedKept (s t : State) : Prop :=
  ∃ f : Saved → Vector Port 4, t.sched = { s.sched with
    saved := s.sched.saved.map fun x => { x with ctx := { x.ctx with eng := { x.ctx.eng with ports := f x } } } }

/-- What a memory event leaves alone: registers, control and trap registers, scoreboard, cascade, schedule, management. -/
def coreSame (s t : State) : Prop :=
  t.ctx.regs = s.ctx.regs ∧ t.ctx.ctl = s.ctx.ctl ∧ t.ctx.tr = s.ctx.tr ∧ t.ctx.casc = s.ctx.casc ∧ t.ctx.log = s.ctx.log ∧
    schedKept s t ∧ t.fab = s.fab ∧ t.mgmt = s.mgmt ∧ t.mode = s.mode ∧ t.host = s.host

/-- The launch that a header asks for, as the keystone accepts it (R340, R342, R344). -/
def launchOfHeader (lid : BitVec 32) (host : BitVec 20) (asid : BitVec 16) (h : BitVec 2048) : Launch :=
  ⟨lid, host, asid, h, BitVec.ofNat 64 (hdrArg h), 0, 0, false, false, none, [], [], [], none⟩

/-- The memory and the basin of the running task hold no entry of the tile table over a run, which lies in a space of the given size. -/
def openRun (s : State) (reg : Bool) (a n : Nat) : Prop :=
  a + n ≤ (if reg then s.ctx.regSize else s.ctx.spSize) ∧ s.ctx.tilesOver [(reg, a, n)] = []

/-- The task on the core is the one that a write of another core's engine names by its launch and logical core. -/
def holdsCore (s : State) (lid : BitVec 32) (lcore : BitVec 9) : Prop :=
  s.mode ≠ .idle ∧ s.ctx.lid = lid ∧ s.ctx.ctl.lcore.toNat = lcore.toNat

/-- A record in the store that no drain waits for, of a launch `l` that is not being killed, with no group (R345). -/
def plainRecord (s : State) (h : W64) (r : Record) (l : Launch) : Prop :=
  s.recordOf h = some r ∧ r.drains = [] ∧ r.group = none ∧ s.launchOf r.lid = some l ∧ l.killing = false ∧ l.done = false

/-- The schedule with a record replaced, by slot. -/
def withRecord (s : State) (r : Record) : State :=
  { s with sched := { s.sched with records := s.sched.records.map fun x => if x.slot = r.slot then r else x } }

/-- The schedule after a record has fired (R345, R348, R349): it is freed, and its continuation waits in the queue of the logical
core that R349 gives, with the four argument words and the two excesses in s1 to s6. -/
def fired (s : State) (r : Record) (l : Launch) : State :=
  { s with sched := { s.sched with
      records := (s.sched.records.map fun x => if x.slot = r.slot then r else x).filter fun x => x.slot != r.slot
      tasks := s.sched.tasks ++ [⟨l.lid, imageWord r.image 5,
        coreOfContinuation l.hdr (imageWord r.image 6).toNat (imageWord r.image 5).toNat, hdrPrio l.hdr, imageWord r.image 0,
        .continuation, [imageWord r.image 1, imageWord r.image 2,
          if r.granted then BitVec.ofNat 64 r.data else imageWord r.image 3,
          if r.granted then BitVec.ofNat 64 r.closing else imageWord r.image 4,
          BitVec.ofNat 64 r.exArr, BitVec.ofNat 64 r.exBytes], .queued, false, [], r.given⟩] } }

/-- The condition of a row of Table 22-2 on a header without an END image. -/
def rejectRow (s : State) (h : BitVec 2048) (code : Nat) : Prop :=
  let f := fun lo w => (h.extractLsb' lo w).toNat
  let fields := f 56 3
  let det := f 59 1 = 1
  let width := fun i => f (576 + 7 * i) 7
  let extent := fun i => f (640 + 64 * i) 64
  let base := fun i => f (1024 + 128 * i) 64
  let len := fun i => f (1088 + 128 * i) 64
  let reg := f 256 8
  let granules := reg + f 264 8 + f 272 8
  match code with
  | 1 => (∃ r ∈ [(618, 22), (350, 34), (280, 40), (249, 7), (185, 7), (107, 1), (62, 2), (60, 1), (41, 7)], f r.1 r.2 ≠ 0) ∨
      f 32 9 = 0 ∨ 352 < f 32 9 ∨ 23 < f 48 5 ∨ fields = 0 ∨ 6 < fields ∨ fields < f 53 3 ∨ f 64 32 = 0 ∨ f 64 32 ≤ f 0 32 ∨
      f 128 57 % 256 ≠ 0 ∨ f 340 5 < 12 ∨ 14 < f 340 5 ∨ fields < f 480 3 ∨ f 512 64 ≠ 0 ∨ f 480 3 ≠ 0 ∨
      (∃ i, i < 6 ∧ 64 < width i) ∨ (∃ i, i < 8 ∧ 2 ^ 57 ≤ base i) ∨
      (det ∧ s.mgmt.accepted 0 = false) ∨ (f 61 1 = 1 ∧ s.mgmt.accepted 1 = false)
  | 2 => reg = 0 ∨ 16 < reg ∨ 8 < f 264 8 ∨ 64 < granules ∨ (64 - granules) * 65536 < f 483 15 * 256 ∨ reg * 65536 < f 498 13 * 256
  | 3 => (∃ i, i < fields ∧ (width i = 0 ∨ 2 ^ width i ≤ extent i)) ∨ 64 < ∑ i ∈ Finset.range fields, width i ∨
      ∃ i, fields ≤ i ∧ i < 6 ∧ (width i ≠ 0 ∨ extent i ≠ 0)
  | 4 => (¬det ∧ ∃ i, i < 8 ∧ len i ≠ 0) ∨ (∃ i, i < 8 ∧ len i ≠ 0 ∧ (base i % 8 ≠ 0 ∨ len i % 8 ≠ 0)) ∨
      ∃ i j, i < j ∧ j < 8 ∧ len i ≠ 0 ∧ len j ≠ 0 ∧ base i < base j + len j ∧ base j < base i + len i
  | 5 => s.mgmt.parts ≤ f 104 3 ∨ 44 * (8 / s.mgmt.parts) < f 32 9
  | _ => 64 ≤ (s.sched.launches.filter fun l =>
      l.done = false ∧ (l.hdr.extractLsb' 104 3).toNat = f 104 3 ∧ (l.hdr.extractLsb' 96 8).toNat = f 96 8).length

/-- The fields of a work id of a launch, each within its extent (R342). -/
def inExtents (h : BitVec 2048) (v : Nat → Nat) : Prop :=
  ∀ f, f < (h.extractLsb' 56 3).toNat → v f ≤ (h.extractLsb' (640 + 64 * f) 64).toNat

/-- The work id that fields make: field NFIELD - 1 lowest, each above those after it (R342). -/
def widOfFields (h : BitVec 2048) (v : Nat → Nat) : Nat :=
  let n := (h.extractLsb' 56 3).toNat
  ∑ f ∈ Finset.range n, v f * 2 ^ ∑ g ∈ Finset.Ico (f + 1) n, (h.extractLsb' (576 + 7 * g) 7).toNat

/-- The logical core that the fields above the placement level select: digits in the radices of the extents, modulo GRID (R343). -/
def coreOfFields (h : BitVec 2048) (v : Nat → Nat) : Nat :=
  let n := (h.extractLsb' 56 3).toNat - (h.extractLsb' 53 3).toNat
  (∑ f ∈ Finset.range n, v f * ∏ g ∈ Finset.Ico (f + 1) n, ((h.extractLsb' (640 + 64 * g) 64).toNat + 1)) % (h.extractLsb' 32 9).toNat

end Sys2Proof.Claims

/-- R340 to R343, R345, R346, R348, R351: a launch message is rejected with the first code of Table 22-2 that applies, rows 1 to 6 (without an
END image row by row, an image that is not clean with code 1), or accepted with an id, its tasks queued: one for each combination of field values, in
ascending work id, each on the logical core that its upper fields select; a launch completes once no task of it is left, freeing its records; an arrival
and a credit lower the counts of a record, a grant raises its bytes, and a record whose counts both reach zero fires. -/
def Obligations.LaunchesAndRecords : Prop :=
  ∀ (s : State),
    (∀ host asid hdr, s.mgmt.boot = .up →
      (rejectCode s asid hdr ≠ 0 →
        happens (.launchMessage host asid hdr) s { s with host := s.host ++ [.rejected host (rejectCode s asid hdr)] }) ∧
      (hdrGrid hdr = 0 → rejectCode s asid hdr = 1) ∧
      (hdrEnd hdr = false → (∀ k, 1 ≤ k → k ≤ 6 →
        (rejectCode s asid hdr = k ↔ rejectRow s hdr k ∧ ∀ j, 1 ≤ j → j < k → ¬rejectRow s hdr j))) ∧
      (∀ img i, 56 ≤ i → img.getD i 0 ≠ 0 → rejectWith s (.bytes img) hdr = 1) ∧
      (rejectCode s asid hdr = 0 → (launchWids hdr).Pairwise (· < ·) ∧
        (∀ w, w ∈ launchWids hdr ↔ ∃ v, inExtents hdr v ∧ w = widOfFields hdr v) ∧
        ∀ v, inExtents hdr v → coreOfWid hdr (widOfFields hdr v) = coreOfFields hdr v) ∧
      (rejectCode s asid hdr = 0 → hdrEnd hdr = false → hdrDet hdr = false →
        happens (.launchMessage host asid hdr) s { s with
          sched := { s.sched with
            nextLid := s.sched.nextLid + 1
            launches := s.sched.launches ++ [launchOfHeader s.sched.nextLid host asid hdr]
            tasks := s.sched.tasks ++ (launchWids hdr).map fun w =>
              ⟨s.sched.nextLid, BitVec.ofNat 64 w, coreOfWid hdr w, hdrPrio hdr, BitVec.ofNat 64 (hdrEntry hdr), .launch, [],
                .queued, false, [], []⟩ }
          host := s.host ++ [.accepted host s.sched.nextLid] })) ∧
    (∀ l, s.launchOf l.lid = some l → l.done = false → l.freed = none → hdrDet l.hdr = false → l.graph = none → noneDue s →
      (∀ k ∈ s.sched.tasks, k.lid = l.lid → k.st = .ended) →
      happens (.launchCompletion l.lid) s { s with
        sched := { s.sched with
          records := s.sched.records.filter fun r => r.lid != l.lid
          launches := s.sched.launches.map fun x => if x.lid = l.lid then
            { x with freed := some (s.sched.records.filter fun r => r.lid == l.lid).length, done := true } else x }
        host := s.host ++ [.completion l.lid l.run (s.sched.records.filter fun r => r.lid == l.lid).length l.killed false] }) ∧
    ∀ h r l, plainRecord s h r l →
      (∀ m n : BitVec 32, let q : Record := { r with
          arrivals := r.arrivals - m.toNat
          bytes := r.bytes - n.toNat
          exArr := r.exArr + (m.toNat - r.arrivals)
          exBytes := r.exBytes + (n.toNat - r.bytes) }
        happens (.recordArrival h m n) s (if q.arrivals = 0 ∧ q.bytes = 0 then fired s q l else withRecord s q)) ∧
      (∀ n, let q : Record := { r with bytes := r.bytes - n, exBytes := r.exBytes + (n - r.bytes) }
        happens (.recordCredit h n .plain) s (if q.arrivals = 0 ∧ q.bytes = 0 then fired s q l else withRecord s q)) ∧
      ∀ n, let q : Record := { r with bytes := r.bytes + n, granted := true }
        happens (.recordCredit h n .grant) s (if q.arrivals = 0 ∧ q.bytes = 0 then fired s q l else withRecord s q)

/-- R360, R366: a graph whose feature is accepted is registered unless a header has ARGLEN 0 or there are more than 1,024; a patch
replaces one header for later replays; a replay message starts a replay of the headers as they stand, with copies of their
argument blocks, or waits for the one before. -/
def Obligations.GraphsAreRegisteredAndReplayed : Prop :=
  ∀ (s : State),
    (∀ host asid hdrs after, hdrs.length ≤ 1024 → (∀ h ∈ hdrs, hdrArgLen h ≠ 0) → after.length = hdrs.length →
      (∀ ps ∈ after, ∀ p ∈ ps, p < hdrs.length) →
      happens (.graphRegister host asid hdrs after) s
        (if s.mgmt.accepted 6 then
          { s with
            mgmt := { s.mgmt with graphs := s.mgmt.graphs ++ [⟨host, asid, hdrs, after, none, 0, 0⟩] }
            host := s.host ++ [.managed "graph" (BitVec.ofNat 64 s.mgmt.graphs.length) true] }
         else { s with host := s.host ++ [.managed "graph" (BitVec.ofNat 64 s.mgmt.graphs.length) false] })) ∧
    (∀ host asid hdrs after, (hdrs.length > 1024 ∨ ∃ h ∈ hdrs, hdrArgLen h = 0) →
      happens (.graphRegister host asid hdrs after) s
        { s with host := s.host ++ [.managed "graph" (BitVec.ofNat 64 s.mgmt.graphs.length) false] }) ∧
    ∀ n g, s.mgmt.graphs[n]? = some g →
      (∀ k hdr, k < g.hdrs.length → hdrArgLen hdr ≠ 0 →
        happens (.graphPatch n k hdr) s { s with
          mgmt := { s.mgmt with graphs := s.mgmt.graphs.set n { g with hdrs := g.hdrs.set k hdr } }
          host := s.host ++ [.managed "graph patch" (BitVec.ofNat 64 n) true] }) ∧
      (g.replay = none → g.waiting = 0 →
        let q := { g with waiting := 1 }
        let a := { s with mgmt := { s.mgmt with graphs := s.mgmt.graphs.set n q } }
        let r := snapshotHeaders a q
        replayStop a q = none →
        happens (.replayMessage n) s (advanceGraph n (r.1.setGraph n
          { g with replay := some ⟨g.begun, r.2, [], []⟩, begun := g.begun + 1 }))) ∧
      (∀ r, g.replay = some r →
        (∀ k, k < r.hdrs.length → k ∈ r.started) → (∃ k, k < r.hdrs.length ∧ k ∉ r.completed) →
        happens (.replayMessage n) s { s with mgmt := { s.mgmt with graphs := s.mgmt.graphs.set n { g with waiting := g.waiting + 1 } } })

/-- R249, R252 to R257, R370: a walk that finds a leaf installs it under the generation at its start; the answer of the host makes what
waits ready; a raise gives an address space its next generation, and completes once every older access has performed; a line of
the remote read cache expires; a die returns from reset; the reduction window is set where R257 allows; a double-bit error in a
copy drops the copy, a single-bit error is counted, and a scrub changes nothing. The model's choices: a walk reads
the four levels at one instant (log entry 11), a word fails by its bytes (38), a raise takes effect at its message (63), and a refusal of
the host is spent once (78). -/
def Obligations.TranslationEvents : Prop :=
  ∀ (s : State),
    (∀ asid va base bits leaf, va.toNat < 2 ^ 57 → s.walk asid va.toNat = .leaf base bits leaf →
      (∀ e ∈ s.mem.tlb1 ++ s.mem.tlb, e.asid = asid → e.gen = s.mem.gen asid → ¬(e.base ≤ va.toNat ∧ va.toNat < e.base + 2 ^ e.bits)) →
      let entry : TlbEntry := ⟨asid, s.mem.gen asid, base, bits, leaf⟩
      ∃ t, happens (.pageWalk asid (s.mem.gen asid) va) s t ∧ entry ∈ t.mem.tlb ∧
        (s.mem.tlb.length < 16384 → t.mem.tlb = entry :: s.mem.tlb) ∧
        (s.mem.tlb.length ≤ 16384 → t.mem.tlb.length ≤ 16384) ∧
        (s.mem.tlb1.length ≤ 128 → t.mem.tlb1.length ≤ 128) ∧
        (t.mem.tlb1 = s.mem.tlb1 ∨ entry ∈ t.mem.tlb1) ∧
        t = { s with mem := { s.mem with tlb := t.mem.tlb, tlb1 := t.mem.tlb1 } }) ∧
    (∀ asid (page : W64) mapped, (asid, page.toNat) ∈ s.mem.pageReqs → s.mgmt.graphs = [] →
      ∃ t, happens (.pageRequestAnswer asid page mapped) s t ∧
        t.mem = { s.mem with
          pageReqs := s.mem.pageReqs.filter fun r => r != (asid, page.toNat)
          refused := if mapped then s.mem.refused
            else s.mem.refused ++ List.replicate (pageWaiters s asid page.toNat) (asid, page.toNat) } ∧
        t.sched.saved = s.sched.saved.map (fun x =>
          if x.ctx.asid = asid ∧ x.why = .page page.toNat then { x with why := .preempted } else x) ∧
        (s.sched.saved = [] → t.sched.tasks = s.sched.tasks.map fun k =>
          if ((s.launchOf k.lid).map Launch.asid) = some asid ∧ k.started = false ∧ k.st = .waitingPage page.toNat then
            { k with st := .queued } else k) ∧ t.ctx = s.ctx ∧ t.host = s.host) ∧
    (∀ asid, ∃ t, happens (.generationRaise asid) s t ∧ t.mem.gen asid = s.mem.gen asid + 1 ∧
      (∀ a, a ≠ asid → t.mem.gen a = s.mem.gen a) ∧ t.mem.raises = s.mem.raises ++ [asid] ∧
      (s.mem.gen asid = BitVec.allOnes 20 → ∀ e ∈ t.mem.tlb1 ++ t.mem.tlb, e.asid ≠ asid) ∧
      (s.mem.gen asid ≠ BitVec.allOnes 20 → t.mem.tlb1 = s.mem.tlb1 ∧ t.mem.tlb = s.mem.tlb) ∧ t.ctx = s.ctx ∧ t.mem.gmem = s.mem.gmem ∧
      t.sched = s.sched ∧ t.host = s.host) ∧
    (∀ asid, asid ∈ s.mem.raises → s.ctx.eng.accs = [] → s.ctx.eng.started = [] →
      s.ctx.eng.ports = Vector.replicate 4 Port.start → s.sched.saved = [] →
      happens (.generationRaiseCompletion asid) s
        { s with mem := { s.mem with raises := s.mem.raises.erase asid }, host := s.host ++ [.generationRaised asid] }) ∧
    (∀ line, happens (.remoteLineExpiry line) s
      { s with mem := { s.mem with rrc := s.mem.rrc.filter fun b => b.key / 128 != line } }) ∧
    (∀ die : BitVec 3, s.mgmt.boot = .up → ∃ t, happens (.dieReturnFromReset die) s t ∧ (∀ d, d < 8 →
        t.mem.heldReset.getLsbD d = (s.mem.heldReset.getLsbD d && d != die.toNat)) ∧ t.ctx = s.ctx ∧
      t.mem.gmem = s.mem.gmem ∧ t.sched = s.sched ∧ t.mgmt = s.mgmt) ∧
    (∀ base len : W64, happens (.reductionWindowSet base len) s
      (if s.mgmt.accepted 3 = true ∧ base.toNat % 65536 = 0 ∧ len.toNat % 65536 = 0 ∧
          base.toNat + len.toNat ≤ 0xB2D05E0000 then
        { s with
          mem := { s.mem with rwinBase := base.toNat, rwinLen := len.toNat }
          host := s.host ++ [.managed "reduction window" base true] }
       else { s with host := s.host ++ [.managed "reduction window" base false] })) ∧
    (∀ place a, happens (.sramError (.dieCache, place) a true) s
      { s with mem := { s.mem with dieLines := s.mem.dieLines.filter fun l => l != ((Config.die.toNat + place) % 8, a / 128) } }) ∧
    (∀ b place a, ∃ t, happens (.sramError (b, place) a false) s t ∧
      lookupKey (b, place) t.mgmt.errors = some ((lookupKey (b, place) s.mgmt.errors).getD 0 + 1) ∧ t.ctx = s.ctx ∧ t.mem = s.mem ∧
      t.sched = s.sched) ∧
    ∀ b a, happens (.backgroundScrub b a) s s

/-- What an atomic or reduction writes over the old value of a word of `w` bits, if anything (Table 18-10): `op` as the table's rows, ADD,
MIN, MAX, XCH, AND, OR, CAS, a RED as its ATOM; `ty` 0 int, 1 uint, 2 fp32. -/
def Sys2Proof.Claims.atomTable (op ty w old x cmp : Nat) : Option Nat :=
  match op, ty with
  | 0, 2 => some (elemAdd .fp32 .rne old x).1
  | 0, _ => some ((old + x) % 2 ^ w)
  | 1, 2 => some (elemMin .fp32 old x).1
  | 1, _ => some (if intOf w (ty == 0) x < intOf w (ty == 0) old then x else old)
  | 2, 2 => some (elemMax .fp32 old x).1
  | 2, _ => some (if intOf w (ty == 0) old < intOf w (ty == 0) x then x else old)
  | 3, _ => some x
  | 4, _ => some (old &&& x)
  | 5, _ => some (old ||| x)
  | _, _ => if old = cmp then some x else none

/-- R246, R260, R262, R265 to R267, R285, R294: a store and a write of another agent perform at the home, byte for byte and nothing
else; writes of other cores land in the basin, the cistern, tile entries and die-stream credits; an atomic or reduction has the effect of its row
of Table 18-10 at its home, and an atomic supplies the old value; an acknowledgement removes a performed write, and makes the token of an atomic done. That a write of another agent
lands whole at its event, and what other agents answer, are the model's choices (log entries 72 and 17). -/
def Obligations.WritesPerformAtHome : Prop :=
  ∀ (s : State), Mem.wf s.mem.gmem = true → Mem.wf s.mem.cistern = true → Mem.wf s.ctx.basin.spad = true →
    Mem.wf s.ctx.basin.reg = true →
    (∀ idx a, s.ctx.eng.accs[idx]? = some a → a.kind = .store → a.performed = false → loadCanBind s a = true →
      inMerge s.ctx.hdr a.va.toNat = false → a.remote = false → undisturbed s (some s.ctx.lid) →
      ∃ t, happens (.writeAtHome (.own idx)) s t ∧ bytesWritten s.mem.gmem t.mem.gmem a.key a.data ∧
        t.ctx.eng.accs = s.ctx.eng.accs.set idx { a with performed := true, err := 0 } ∧ t.ctx.pipe = s.ctx.pipe ∧
        t.ctx.basin = s.ctx.basin ∧ t.mem.cistern = s.mem.cistern ∧ coreSame s t) ∧
    (∀ key data, key + data.length ≤ 0xB2D05E0000 → s.mem.heldReset = 0 → undisturbed s none →
      ∃ t, happens (.writeAtHome (.memory key data)) s t ∧
        (∀ x, t.mem.gmem.get x = if key ≤ x ∧ x < key + data.length then data[x - key]? else s.mem.gmem.get x) ∧
        t.ctx.pipe = s.ctx.pipe ∧ t.ctx.basin = s.ctx.basin ∧ t.mem.cistern = s.mem.cistern ∧ coreSame s t) ∧
    (∀ addr data, addr + data.length ≤ 2 ^ 28 → ∃ t, happens (.writeAtHome (.cistern addr data)) s t ∧
      bytesWritten s.mem.cistern t.mem.cistern addr data ∧ t.ctx.pipe = s.ctx.pipe ∧ t.ctx.basin = s.ctx.basin ∧
      t.mem.gmem = s.mem.gmem ∧ coreSame s t) ∧
    (∀ lid lcore addr data, holdsCore s lid lcore → openRun s false addr data.length →
      ∃ t, happens (.writeAtHome (.scratchpad lid lcore addr data)) s t ∧
      bytesWritten s.ctx.basin.spad t.ctx.basin.spad addr data ∧ t.ctx.basin.reg = s.ctx.basin.reg ∧
      t.ctx.basin.tags = s.ctx.basin.tags ∧ t.ctx.pipe = s.ctx.pipe ∧ t.mem = s.mem ∧ coreSame s t) ∧
    (∀ lid lcore addr data, holdsCore s lid lcore → openRun s true addr data.length →
      ∃ t, happens (.writeAtHome (.regspace lid lcore addr 0 data)) s t ∧
      bytesWritten s.ctx.basin.reg t.ctx.basin.reg addr data ∧ t.ctx.basin.spad = s.ctx.basin.spad ∧ t.ctx.pipe = s.ctx.pipe ∧
      t.mem = s.mem ∧ coreSame s t) ∧
    (∀ lid lcore e, holdsCore s lid lcore → e < 64 → (s.ctx.tile e).st = .empty →
      ∃ t, happens (.writeAtHome (.tilesFill lid lcore [e])) s t ∧
      (t.ctx.tile e).st = .filling ∧ (∀ k, k < 64 → k ≠ e → t.ctx.tile k = s.ctx.tile k) ∧ t.ctx.pipe = s.ctx.pipe ∧
      t.ctx.basin = s.ctx.basin ∧ t.mem = s.mem ∧ coreSame s t) ∧
    (∀ lid lcore tag slot, holdsCore s lid lcore → happens (.writeAtHome (.streamCredit lid lcore tag slot)) s { s with ctx := { s.ctx with eng := { s.ctx.eng with
      streams := s.ctx.eng.streams.map fun d =>
        if d.tag = tag ∧ slot < d.count ∧ slot ∉ d.credits then { d with credits := d.credits ++ [slot] } else d } } }) ∧
    (∀ idx a op ty x cmp gives, s.ctx.eng.accs[idx]? = some a → a.kind = .atom op ty x cmp gives → a.performed = false →
      s.ctx.eng.queued a.id = false → loadCanBind s a = true → a.remote = false → a.rwin = false →
      a.size = 4 ∨ (a.size = 8 ∧ ty ≠ 2) → ty < 3 → op < 7 → x.toNat < 2 ^ (8 * a.size) →
      s.mem.poisoned a.key a.size = false → undisturbed s (some s.ctx.lid) → ∃ t, happens (.atomAtHome idx false) s t ∧
        (let old := ofLe (s.mem.homeBytes a.key a.size)
         (match atomTable op ty (8 * a.size) old x.toNat cmp.toNat with
          | some v => bytesWritten s.mem.gmem t.mem.gmem a.key (leBytes a.size v)
          | none => t.mem.gmem = s.mem.gmem) ∧
         t.ctx.pipe.sb = s.ctx.pipe.sb.map (fun e =>
           if gives = true ∧ e.id = a.id then { e with src := .value (BitVec.ofNat 64 old) 0 } else e)) ∧
        t.ctx.eng.accs = s.ctx.eng.accs.set idx { a with performed := true, err := 0 } ∧ t.ctx.basin = s.ctx.basin ∧
        t.mem.cistern = s.mem.cistern ∧ coreSame s t) ∧
    (∀ idx a, s.ctx.eng.accs[idx]? = some a → a.kind = .store → a.performed = true →
      happens (.acknowledgement idx) s { s with ctx := { s.ctx with eng := { s.ctx.eng with accs := s.ctx.eng.accs.eraseIdx idx } } }) ∧
    ∀ idx a op ty x cmp ret o, s.ctx.eng.accs[idx]? = some a → a.kind = .atom op ty x cmp ret → a.performed = true →
      a.remote = false → (s.ctx.eng.started.find? fun y => y.id == a.id) = some o → o.held = [] → o.alsoProd = [] →
      ∃ t, happens (.acknowledgement idx) s t ∧ t.ctx.eng.accs = s.ctx.eng.accs.eraseIdx idx ∧ tokenDone s t o a.err ∧
        ended s t a.id ∧ t.ctx.basin = s.ctx.basin ∧ t.mem = s.mem ∧ coreSame s t

/-! ### Events of the fabric (R214, R215, R295 to R329, R371) -/

namespace Sys2Proof.Claims

open Sys2Proof Sys2Proof.Machine

/-- `n` bytes from `va` on of an address space are in the TLB, may be written, and lie at the homes from `key` on, and no die is held in
reset (R249, R251, R253). -/
def reaches (s : State) (asid : BitVec 16) (va n key : Nat) : Prop :=
  s.mem.heldReset = 0 ∧ va + n ≤ 2 ^ 57 ∧
    ∀ i, i < n → ∃ e, s.mem.hit asid (va + i) = some e ∧ leafForbids e.leaf .write = false ∧ leafKey e.base e.leaf (va + i) = key + i

/-- `n` bytes from `va` on of an address space are in the TLB and may not be written (R255). -/
def forbidden (s : State) (asid : BitVec 16) (va n : Nat) : Prop :=
  va + n ≤ 2 ^ 57 ∧ ∀ i, i < n → ∃ e, s.mem.hit asid (va + i) = some e ∧ leafForbids e.leaf .write = true

/-- A message sent to another core or package, with the source that the port inserts (R305). -/
def sent (s : State) (m : OutMsg) : List Sent := s.fab.out ++ [⟨s.mgmt.endpoint, m⟩]

/-- The header of a flit of virtual channel 2 (Table 20-1): DST, SRC, VC, KIND, SEQ, LEN, and 0 elsewhere. -/
def vc2Header (src dst : BitVec 20) (seq : BitVec 16) (len : Nat) : BitVec 128 :=
  dst ++ src ++ (2 : BitVec 3) ++ (0 : BitVec 5) ++ Config.chunkKind ++ (0 : BitVec 16) ++ seq ++ BitVec.ofNat 9 len ++ (0 : BitVec 31)

/-- The 32 bytes of a chunk's header flit (R316), first byte lowest: id, firing, index, count, BAD, CRC-32C, and 15 zero bytes. -/
def chunkHead (cid : BitVec 32) (firing idx count : Nat) (bad : Bool) (payload : List Byte) : BitVec 256 :=
  (0 : BitVec 120) ++ crc32c payload ++ (if bad then 1 else 0 : BitVec 8) ++ BitVec.ofNat 16 count ++ BitVec.ofNat 32 idx ++
    BitVec.ofNat 16 firing ++ cid

/-- The 17 flits of a chunk (R316), numbered from `seq` on: the header flit, then the payload in ascending order, 256 bytes each. -/
def chunkFlits (s : State) (dst : BitVec 20) (seq : BitVec 16) (head : BitVec 256) (payload : List Byte) : List Sent :=
  (List.range 17).map fun k =>
    let bs := if k = 0 then leBytes 32 head.toNat else (payload.drop (256 * (k - 1))).take 256
    ⟨s.mgmt.endpoint, .flit (vc2Header s.mgmt.endpoint dst (seq + BitVec.ofNat 16 k) bs.length) bs⟩

/-- The flow of a flit: its source and its virtual channel (R306). -/
def flowOf (hdr : BitVec 128) : BitVec 20 × Nat := (hdr.extractLsb' 88 20, (hdr.extractLsb' 85 3).toNat)

/-- The boards with one replaced, by handle. -/
def withBoard (s : State) (b : Board) : List Board := s.fab.boards.map fun x => if x.handle = b.handle then b else x

/-- The groups with a round of one replaced, by handle and number. -/
def withRound (s : State) (g : Group) (r : Round) : List Group :=
  s.fab.groups.map fun x => if x.handle = g.handle then g.setRound r else x

/-- The state with the fabric's groups replaced. -/
def withGroups (s : State) (gs : List Group) : State := { s with fab := { s.fab with groups := gs } }

/-- A calendared round of a group. -/
def calendaredRound (s : State) (h : W64) (k : BitVec 32) (g : Group) : Prop :=
  s.groupOf h = some g ∧ (g.roundOf k).cal.isSome = true

/-- A chunk has gone to an endpoint, as the next 17 flits of its flow (R306, R316). -/
def chunkSent (s t : State) (dst : BitVec 20) (head : BitVec 256) (payload : List Byte) : Prop :=
  ∃ q : BitVec 16, (∀ v, lookupKey (dst, 2) s.fab.outSeq = some v → q = v) ∧ lookupKey (dst, 2) t.fab.outSeq = some (q + 17) ∧
    t.fab.out = s.fab.out ++ chunkFlits s dst q head payload

/-- The element offset in the result of wire chunk `q` (R313). -/
def resultStart (c : Coll) (q : Nat) : Nat :=
  if chGather c.hdr then q / chunkCount c.hdr * chElems c.hdr + q % chunkCount c.hdr * chChunk c.hdr else q * chChunk c.hdr

/-- The result entry of a member. -/
def resultEntry (c : Coll) : Nat := ((c.members[c.pos]?.getD 0).extractLsb' 0 6).toNat

/-- The run of a result in its entry (R313, R318). -/
def resultOver (s : State) (c : Coll) : Bool × Nat × Nat :=
  let x := s.ctx.tile (resultEntry c)
  (x.rs, x.base, min x.len ((if chGather c.hdr then chNmem c.hdr * chElems c.hdr else chElems c.hdr) * chSize c.hdr))

/-- An entry that the result of a member fills: its own, and those over the same bytes (R243, R318). -/
def fills (s : State) (c : Coll) (k : Nat) : Prop := k = resultEntry c ∨ k ∈ s.ctx.tilesOver [resultOver s c]

/-- Elements of wire chunk `q` stand in the result entry, which the first of them has made FILLING and tagged (R243, R313, R318). -/
def resultWritten (s t : State) (c : Coll) (q : Nat) (xs : List Nat) : Prop :=
  let x := s.ctx.tile (resultEntry c)
  let off := resultStart c q * chSize c.hdr
  let bs := ((bytesOf (8 * chSize c.hdr) xs).take (x.len - off)).map some
  let run := resultOver s c
  let tag : Fmt := if chOpr c.hdr = 1 then .bf16 else if (chOpr c.hdr = 4 ∧ chComp c.hdr = 0) ∨ chOpr c.hdr = 5 then .raw else .fp32
  (x.rs = true → laidOver t.ctx.basin.reg s.ctx.basin.reg (x.base + off) bs ∧ t.ctx.basin.spad = s.ctx.basin.spad) ∧
  (x.rs = false → laidOver t.ctx.basin.spad s.ctx.basin.spad (x.base + off) bs ∧ t.ctx.basin.reg = s.ctx.basin.reg) ∧
  (c.filling = true → t.ctx.basin.tags = s.ctx.basin.tags ∧ t.ctx.eng.tiles = s.ctx.eng.tiles) ∧
  (c.filling = false → (∀ k, k < 64 → (fills s c k → (t.ctx.tile k).st = .filling) ∧ (¬fills s c k → t.ctx.tile k = s.ctx.tile k)) ∧
    ∀ a, (x.rs = true ∧ 0 < run.2.2 ∧ x.base < a / 256 * 256 + 256 ∧ a / 256 * 256 < x.base + run.2.2 → t.ctx.basin.tagAt a = tag) ∧
      (¬(x.rs = true ∧ 0 < run.2.2 ∧ x.base < a / 256 * 256 + 256 ∧ a / 256 * 256 < x.base + run.2.2) →
        t.ctx.basin.tagAt a = s.ctx.basin.tagAt a))

/-- `cal` is the calendar of a round whose rows `row i` have all come, the last of them at `last` (R299, R327): in each phase the senders pick
in ascending order the receiver not yet taken with the largest remaining entry, the lowest on a tie; the smallest picked entry is the phase's
length; at most 1,024 phases, and all bytes with fewer. -/
def calendars (size : Nat) (row : Nat → Option Row) (last : Nat) (cal : List Phase) : Prop :=
  ∃ left : Nat → Nat → Nat → Nat,
    (∀ i j w, row i = some w → left 0 i j =
      if i ≠ j ∧ i < size ∧ j < size then (w.block.extractLsb' (512 + 32 * j) 32).toNat else 0) ∧
    cal.length ≤ 1024 ∧ (cal.length < 1024 → ∀ i j, i < size → j < size → left cal.length i j = 0) ∧
    ∀ (p : Nat) (ph : Phase), cal[p]? = some ph →
      (p = 0 → ph.start % 1000 = 0 ∧ last + 2000 ≤ ph.start ∧ ph.start < last + 3000) ∧
      (∀ next, cal[p + 1]? = some next → next.start = ph.start + (ph.len + 223) / 224 + 200) ∧
      ph.pairs.Pairwise (fun a b => a.1 < b.1) ∧
      (∀ i j, (i, j) ∈ ph.pairs ↔
        let taken := fun k => ∃ i', i' < i ∧ (i', k) ∈ ph.pairs
        i < size ∧ j < size ∧ j ≠ i ∧ 0 < left p i j ∧ ¬taken j ∧
          ∀ k, k < size → k ≠ i → ¬taken k → left p i k < left p i j ∨ (left p i k = left p i j ∧ j ≤ k)) ∧
      (∃ q ∈ ph.pairs, ph.len = left p q.1 q.2) ∧ (∀ q ∈ ph.pairs, ph.len ≤ left p q.1 q.2) ∧
      ∀ i j, i < size → j < size → left (p + 1) i j = if (i, j) ∈ ph.pairs then left p i j - ph.len else left p i j

/-- The bytes granted to a receiver over the phases of a calendar (R299, R327). -/
def grantedTo (cal : List Phase) (j : Nat) : Nat :=
  (cal.map fun p => if j ∈ p.pairs.map Prod.snd then p.len else 0).sum

/-- The bytes of an accumulator of a context, those that the live accumulator holds for it included, as a continuation sees them (R265). -/
def daccGiven (c : Ctx) (lcore : BitVec 9) (dacc : BitVec 5) : Given :=
  ⟨lcore.toNat, 1, dacc.toNat * 16384,
    if c.casc.live = some (dacc.toNat * 16384) then leBytes 16384 c.casc.liveVal.toNat else c.accBytes (dacc.toNat * 16384) 16384⟩

end Sys2Proof.Claims

/-- R214, R215, R232: a drain is refused when its record is not there or no core has its number, discarded and counted when its
sequence number is not new, kept for the firing of its record in deterministic mode, held off while an instruction of the cascade
runs, and else added to the accumulator, whose bytes the record's continuation sees (R265); 16,384 bytes are credited to its record,
and each is answered. -/
def Obligations.PeerDrainsArrive : Prop :=
  ∀ (s : State) (pkg : BitVec 19) (lcore dst : BitVec 9) (wid : W64) (seq : Nat) (dacc : BitVec 5) (h : W64) (data : List (BitVec 32)),
    isOwnCore s pkg lcore = false → data.length = 4096 →
    let e := Instr.peerDrainArrival pkg (lcore, dst) wid seq dacc h data
    (351 < dst.toNat → happens e s { s with fab := { s.fab with out := sent s (.drainAnswer pkg lcore false) } }) ∧
    (s.recordOf h = none → happens e s { s with fab := { s.fab with out := sent s (.drainAnswer pkg lcore false) } }) ∧
    ∀ r l, s.recordOf h = some r → s.launchOf r.lid = some l → dst.toNat ≤ 351 →
      s.mode = .running → s.ctx.lid = r.lid → s.ctx.ctl.lcore.toNat = dst.toNat → dacc.toNat * 16384 + 16384 ≤ s.ctx.accSize →
      (seq ≤ (lookupKey (pkg, lcore, wid) r.peers).getD 0 → happens e s { s with
        ctx := { s.ctx with casc := { s.ctx.casc with peerDup := s.ctx.casc.peerDup + 1 } }
        fab := { s.fab with out := sent s (.drainAnswer pkg lcore true) } }) ∧
      ((lookupKey (pkg, lcore, wid) r.peers).getD 0 < seq → 16384 < r.bytes →
        (hdrDet l.hdr = true →
          happens e s { (withRecord s { r with
              drains := r.drains ++ [⟨lcore, dst, seq, dacc, data⟩]
              peers := setKey (pkg, lcore, wid) seq r.peers
              bytes := r.bytes - 16384 }) with
            fab := { s.fab with out := sent s (.drainAnswer pkg lcore true) } }) ∧
        (hdrDet l.hdr = false → s.atParked = false → canSave s = true → s.ctx.cascadeBusy = true → happens e s s) ∧
        (hdrDet l.hdr = false → s.ctx.cascadeBusy = false →
          happens e s { (withRecord s { r with
              peers := setKey (pkg, lcore, wid) seq r.peers
              bytes := r.bytes - 16384
              given := daccGiven (s.ctx.applyDrain dacc data) dst dacc :: r.given }) with
            ctx := s.ctx.applyDrain dacc data
            fab := { s.fab with out := sent s (.drainAnswer pkg lcore true) } }))

/-- R311, R314, R315: on the wire, elements stand from byte 0 where COMP is none, else as blocks of 32, each quantised with its scale, to nearest
for mxfp8-wire and by the generator at the chunk's coordinate for mxfp4-wire; read back, an element is its value in fp32. -/
def Sys2Proof.Claims.ChunksFollowTheWire : Prop :=
  ∀ h : BitVec 512, headerBad h = false →
    let w := 8 * chSize h
    let row : FltFmt × Layout × Int := if chComp h = 1 then (e4m3F, ⟨8, 3, 7, 0x7E, none, 0x7F⟩, 8) else (e2m1F, ⟨4, 1, 1, 7, none, 0⟩, 2)
    let first := if chComp h = 1 then 128 else 256
    (∀ (hop p k : Nat) (xs : List Nat), xs.length ≤ chChunk h → (∀ x ∈ xs, x < 2 ^ w) →
      let bs := encodeChunk h hop p k xs
      let mode := fun i : Nat => if chComp h = 1 then RMode.rne
        else .sr (generator (chSeed h) (chTensor h) (BitVec.ofNat 64 (hop * 2 ^ 48 + p * 2 ^ 40 + (k * chChunk h + i))))
      bs.length = 4096 ∧
      (chComp h = 0 → (∀ i, i < xs.length → codeAt w bs i = xs.getD i 0) ∧ ∀ i, xs.length * chSize h ≤ i → bs.getD i 0 = 0) ∧
      (chComp h ≠ 0 → ∀ b, 32 * b < xs.length →
        let q := mxQuant row.1 row.2.2 (fun i => mode (32 * b + i)) ((List.range 32).map fun i => val32 (xs.getD (32 * b + i) 0))
        (bs.getD b 0).toNat = q.scale ∧ ∀ i, i < 32 → codeAt row.2.1.w (bs.drop first) (32 * b + i) = q.elems.getD i 0)) ∧
    ∀ (n : Nat) (bs : List Byte), n ≤ chChunk h → bs.length = 4096 →
      (decodeChunk h n bs).length = n ∧ ∀ i, i < n →
        (chComp h = 0 → (decodeChunk h n bs).getD i 0 = codeAt w bs i) ∧
        (chComp h ≠ 0 → bs.getD (i / 32) 0 ≠ 0xFF → row.2.1.finite (codeAt row.2.1.w (bs.drop first) i) →
          ∃ fl, nearest (((row.2.1.val (codeAt row.2.1.w (bs.drop first) i) * 2 ^ (((bs.getD (i / 32) 0).toNat : ℤ) - 127) : ℚ) : ℝ))
            ((decodeChunk h n bs).getD i 0, fl))

/-- R313, R314, R316 to R318, R321: a chunk that arrives is malformed, and then all zeros and BAD, unless its header flit is the one of its
payload; a partial sum is combined with this member's contribution, both as the wire has them, and goes on; the owner's, and every chunk on its
last way round, is written to the result, as zeros where it is BAD, and goes on until all have it; with FUSE it stands in the shard of its
position in the cistern, which has landed with its last chunk. -/
def Sys2Proof.Claims.ChunksArrive : Prop :=
  ∀ (s : State) (idx : Nat) (c : Coll) (f : BitVec 256) (payload : List Byte) (crc : Bool),
    s.fab.colls[idx]? = some c → collHolder s c = .own → c.fires ≠ [] → c.lost = false → headerBad c.hdr = false →
    Mem.wf s.ctx.basin.reg = true → Mem.wf s.ctx.basin.spad = true → Mem.wf s.mem.cistern = true →
    let q := (f.extractLsb' 48 32).toNat
    let chunks := chunkCount c.hdr
    let k := q % chunks
    let n := min (chChunk c.hdr) (chElems c.hdr - k * chChunk c.hdr)
    q < (if chGather c.hdr then chNmem c.hdr * chunks else chunks) → f.extractLsb' 32 16 = BitVec.ofNat 16 (c.firing + 1) →
    let dst : BitVec 20 := (0 : BitVec 1) ++ ((c.members[(c.pos + 1) % chNmem c.hdr]?).map memPkg).getD 0
    let good := crc = true ∧ payload.length = 4096 ∧ f = chunkHead c.cid (c.firing + 1) q n false payload ∧
      ¬(chComp c.hdr ≠ 0 ∧ ∃ i, i < (if chComp c.hdr = 1 then 128 else 256) ∧ payload.getD i 0 = 0xFF)
    ∀ (bad : Bool), (bad = false ↔ good) →
    let sends := fun (t : State) (bad : Bool) (body : List Byte) =>
      let pay := if bad then List.replicate 4096 0 else body
      chunkSent s t dst (chunkHead c.cid (c.firing + 1) q n bad pay) pay
    let arrives := fun (then' : State → Coll → Prop) =>
      ∃ t d, happens (.collectiveChunk idx (some (f, payload, crc))) s t ∧
        t.fab.colls = s.fab.colls.map (fun y => if y.slot = c.slot then d else y) ∧
        d.contrib = c.contrib ∧ d.firing = c.firing ∧ d.fires = c.fires ∧ t.ctx.regs = s.ctx.regs ∧ t.mem.gmem = s.mem.gmem ∧ then' t d
    let values := fun (bad : Bool) (body : List Byte) => if bad then List.replicate n 0 else decodeChunk c.hdr n body
    let open' := chFuse c.hdr = false ∧ (c.filling = true ∨ ∀ e, e < 64 → fills s c e → (s.ctx.tile e).st = .empty)
    (chGather c.hdr = false → c.stepAt q ≠ 1 → (c.chunk q).passed = false → ∀ own, c.contrib[q]? = some own →
      let a := decodeChunk c.hdr n (if bad then List.replicate 4096 0 else payload)
      let b := decodeChunk c.hdr n (encodeChunk c.hdr 0 c.pos q own.1)
      let sum := (List.range n).map fun e =>
        let x := a.getD e 0
        let y := b.getD e 0
        if chOpr c.hdr = 0 then (elemAdd .fp32 .rne x y).1 else if chOpr c.hdr = 1 then (elemAdd .bf16 .rne x y).1
        else if chOpr c.hdr = 2 then (elemMax .fp32 x y).1 else (elemMin .fp32 x y).1
      let out := encodeChunk c.hdr (c.stepAt q - 1) c.pos q sum
      (c.stepAt q < chNmem c.hdr → arrives fun t d => (d.chunk q).passed = true ∧ t.ctx = s.ctx ∧ sends t (bad || own.2) out) ∧
      (c.stepAt q = chNmem c.hdr → open' → arrives fun t d => d.chunk q = ⟨q, true, true, bad || own.2⟩ ∧
        resultWritten s t c q (values (bad || own.2) out) ∧ sends t (bad || own.2) out)) ∧
    (if chGather c.hdr then q / chunks ≠ c.pos else (c.stepAt q = 1 ∧ q < c.contrib.length) ∨ (c.stepAt q ≠ 1 ∧ (c.chunk q).passed = true)) →
      (c.chunk q).written = false →
      let stop := if chGather c.hdr then q / chunks else q % chNmem c.hdr
      let goesOn := fun t => if (c.pos + 1) % chNmem c.hdr = stop then t.fab.out = s.fab.out else sends t bad payload
      (open' → arrives fun t d => d.chunk q = ⟨q, true, true, bad⟩ ∧ resultWritten s t c q (values bad payload) ∧ goesOn t) ∧
      (chFuse c.hdr = true → c.landed = [] ∨ c.chunks ≠ [] → arrives fun t d => d.chunk q = ⟨q, true, true, bad⟩ ∧
        laidOver t.mem.cistern s.mem.cistern (chCbase c.hdr + resultStart c q * chSize c.hdr)
          ((bytesOf (8 * chSize c.hdr) (values bad payload)).map some) ∧ t.ctx.basin = s.ctx.basin ∧ goesOn t ∧
        ∀ p, p ∈ d.landed ↔ p ∈ c.landed ∨ (p = q / chunks ∧ ∀ j, j < chunks → (d.chunk (p * chunks + j)).written = true))

/-- R307, R312, R313, R316, R318, R319, R324: a member reads the next chunk of its contribution and injects it where the ring starts at it, as a
header flit and 16 flits of payload in order; a firing that has written every chunk ends with its bad-chunk list in memory; a lost
package's pages leave the TLBs, the streams that read global memory then have it among their lost ones, its boards are reported, and
its collectives are LOST. That firings are numbered from 1 is log entry 51; what
members of other packages hold is free (log entry 17). -/
def Sys2Proof.Claims.CollectivesAct : Prop :=
  ∀ (s : State),
    (∀ idx c lid lcore e es, s.fab.colls[idx]? = some c → collHolder s c = .own → c.fires = (lid, lcore, e) :: es → c.lost = false →
      chGather c.hdr = false → chFuse c.hdr = false → chNmem c.hdr ≠ 1 → c.contrib.length < chunkCount c.hdr → e < 64 →
      let k := c.contrib.length
      let x := contribution s c .own k
      let first := c.stepAt k == 1
      ∃ t d, happens (.collectiveChunk idx none) s t ∧
        t.fab.colls = s.fab.colls.map (fun y => if y.slot = c.slot then d else y) ∧ d.contrib = c.contrib ++ [x] ∧
        d.fires = c.fires ∧ d.firing = c.firing ∧
        (let payload := if x.2 then List.replicate 4096 0 else encodeChunk c.hdr 0 c.pos k x.1
         let head := chunkHead c.cid (c.firing + 1) k (chunkElems c.hdr k) x.2 payload
         let dst : BitVec 20 := (0 : BitVec 1) ++ ((c.members[(c.pos + 1) % chNmem c.hdr]?).map memPkg).getD 0
         ∃ q : BitVec 16, (∀ v, lookupKey (dst, 2) s.fab.outSeq = some v → q = v) ∧
           (first = true → lookupKey (dst, 2) t.fab.outSeq = some (q + 17)) ∧
           t.fab.out = (if first then s.fab.out ++ chunkFlits s dst q head payload else s.fab.out)) ∧
        (k + 1 < chunkCount c.hdr → t.ctx = s.ctx) ∧
        (k + 1 = chunkCount c.hdr → (s.ctx.tile e).st = .draining → (t.ctx.tile e).st = .ready) ∧
        t.ctx.regs = s.ctx.regs ∧ t.ctx.basin = s.ctx.basin ∧ t.mem = s.mem ∧ t.sched = s.sched) ∧
    (∀ idx c e es key, s.fab.colls[idx]? = some c → (s.fab.colls.find? fun x => x.slot == c.slot) = some c →
      collHolder s c = .own → c.fires = e :: es → c.lost = false → chFuse c.hdr = true →
      (∀ q, q < c.wireChunks → (c.chunk q).written = true) → chRec c.hdr = 0 → Mem.wf s.mem.gmem = true →
      reaches s c.asid (chBadlist c.hdr) (badList c).length key → undisturbed s (some s.ctx.lid) →
      ∃ t, happens (.collectiveFiringEnd idx) s t ∧ bytesWritten s.mem.gmem t.mem.gmem key (badList c) ∧
        t.fab.colls = s.fab.colls.map (fun x => if x.slot = c.slot then
          { c with firing := c.firing + 1, fires := es, contrib := [], chunks := [], filling := false } else x) ∧
        t.ctx.regs = s.ctx.regs ∧ t.ctx.basin = s.ctx.basin ∧ schedKept s t) ∧
    (∀ idx c e es key, s.fab.colls[idx]? = some c → (s.fab.colls.find? fun x => x.slot == c.slot) = some c →
      collHolder s c = .own → c.fires = e :: es → c.lost = false → chFuse c.hdr = false →
      (∀ q, q < c.wireChunks → (c.chunk q).written = true) → chRec c.hdr = 0 → Mem.wf s.mem.gmem = true →
      reaches s c.asid (chBadlist c.hdr) (badList c).length key → undisturbed s (some s.ctx.lid) →
      (∀ k, k < 64 → (s.ctx.tile k).col = 0 ∧ (s.ctx.tile k).slot = none) → s.fab.colls = [c] →
      ∃ t, happens (.collectiveFiringEnd idx) s t ∧ bytesWritten s.mem.gmem t.mem.gmem key (badList c) ∧
        t.fab.colls = [{ c with firing := c.firing + 1, fires := es, contrib := [], chunks := [], filling := false }] ∧
        (∀ k, k < 64 → ((t.ctx.tile k).st = .ready ↔
          (s.ctx.tile k).st = .ready ∨ ((s.ctx.tile k).st = .filling ∧ fills s c k))) ∧
        t.ctx.regs = s.ctx.regs ∧ t.ctx.basin = s.ctx.basin) ∧
    (∀ c : Coll, c.chunks.Pairwise (fun a b => a.idx ≠ b.idx) →
      ∃ bads : List Nat, bads.Pairwise (· < ·) ∧ (∀ q, q ∈ bads ↔ ∃ x ∈ c.chunks, x.idx = q ∧ x.bad = true) ∧
        (badList c).take 8 = leBytes 8 (c.firing + 1) ∧
        ((badList c).drop 8).take 8 = leBytes 8 (bads.length + if c.lost then 2 ^ 63 else 0) ∧
        (badList c).drop 16 = (bads.take (chBadcap c.hdr)).flatMap fun q => leBytes 4 q) ∧
    ∀ pkg : BitVec 19, pkg ≠ Config.packageId → ((0 : BitVec 1) ++ pkg) ∉ s.fab.lost → s.ctx.eng.started = [] → s.sched.saved = [] →
      let reads := fun (p : Port) => p.st == .source && chSpace p.chain == 1 && p.tmpl.isSome && !(s.ctx.loadWaits s.pushing p) &&
        !(s.ctx.eng.heldAt p.owner)
      happens (.endpointLost ((0 : BitVec 1) ++ pkg)) s { s with
        ctx := { s.ctx with eng := { s.ctx.eng with
          ports := s.ctx.eng.ports.map fun p => if reads p then { p with lost := pkg :: p.lost } else p } }
        fab := { s.fab with
          lost := ((0 : BitVec 1) ++ pkg) :: s.fab.lost
          colls := s.fab.colls.map fun c => if (c.members.any fun m => memPkg m == pkg) = true then { c with lost := true } else c }
        mem := { s.mem with
          tlb1 := s.mem.tlb1.filter fun e => !(e.mapsPackage pkg)
          tlb := s.mem.tlb.filter fun e => !(e.mapsPackage pkg) }
        host := s.host ++ ((s.fab.boards.filter fun b => b.home == pkg).map fun b => .boardLost b.handle) }

/-- R307, R311 to R319, R321, R324: the chunks of a collective, read, injected, received, combined, written and passed on; the end of a firing
with its bad-chunk list; a lost package. That firings are numbered from 1 is log entry 51, the numbers of a gather's chunks are log entry 48;
what members of other packages hold is free (log entry 17). -/
def Obligations.CollectivesAndLostEndpoints : Prop := CollectivesAct ∧ ChunksArrive ∧ ChunksFollowTheWire

/-- R295 to R297, R322: a board is created at level 0 with its slots; a slot and a core each register once; a post at the current level
is entered, answered, and completes the level when every registered slot has posted; one that is repeated, early or late by one level is answered
as R296 says and enters nothing, and one that is older, or of a core without a slot, is a BOARD fault; a read answers the value of its slot. -/
def Obligations.BoardsServe : Prop :=
  ∀ (s : State),
    (∀ h home n, handleTaken s h = false → (s.fab.boards.filter fun b => b.home == home).length < 4096 →
      happens (.boardCreate h home n) s (if 0 < n ∧ n ≤ 1024 then
        { s with
          fab := { s.fab with boards := s.fab.boards ++ [⟨h, home, n, [], 0, [], []⟩] }
          host := s.host ++ [.managed "board" h true] }
      else { s with host := s.host ++ [.managed "board" h false] })) ∧
    (∀ h pkg lcore n b, (s.fab.boards.find? fun x => x.handle == h) = some b → n < b.slots →
      happens (.registerParticipant h pkg lcore n) s
        (if ∀ p ∈ b.parts, p.1 ≠ n ∧ p.2 ≠ (pkg, lcore) then
          { s with
            fab := { s.fab with boards := withBoard s { b with parts := b.parts ++ [(n, pkg, lcore)] } }
            host := s.host ++ [.managed "participant" h true] }
        else { s with host := s.host ++ [.managed "participant" h false] })) ∧
    (∀ h pkg lcore b n, isOwnCore s pkg lcore = false → s.boardOf h = some b → b.home = Config.packageId →
      b.slotOf pkg lcore = some n →
      (∀ v, (∀ q ∈ b.posts, q.1 ≠ n) →
        let posts := b.posts ++ [(n, v)]
        let word : W64 := BitVec.ofNat 64 (b.level.toNat * 2 ^ 32 + posts.length * 2 ^ 21 + (posts.head?.map Prod.fst).getD 0 * 2 ^ 11)
        happens (.boardPostAtHome (.other pkg lcore) h b.level v) s { s with fab := { s.fab with
          boards := withBoard s (if ∀ p ∈ b.parts, ∃ q ∈ posts, q.1 = p.1 then
            { b with level := b.level + 1, prev := posts, posts := [] } else { b with posts := posts })
          out := sent s (.boardAnswer pkg lcore word (viewOf posts) 0) } }) ∧
      (∀ (l : BitVec 32) v,
        let gap := (l - b.level).toInt
        let word := fun (level : BitVec 32) (posts : List (Nat × W64)) (code : Nat) => BitVec.ofNat 64
          (level.toNat * 2 ^ 32 + posts.length * 2 ^ 21 + (posts.head?.map Prod.fst).getD 0 * 2 ^ 11 + code)
        let answers := fun word view fault => happens (.boardPostAtHome (.other pkg lcore) h l v) s { s with fab := { s.fab with
          boards := withBoard s b
          out := sent s (.boardAnswer pkg lcore word view fault) } }
        (0 < gap → answers (word b.level [] 3) 0 0) ∧ (gap = -1 → answers (word l b.prev 2) (viewOf b.prev) 0) ∧
        (gap < -1 → answers 0 0 1) ∧
        (gap = 0 → (∃ q ∈ b.posts, q.1 = n) → (∃ p ∈ b.parts, ∀ q ∈ b.posts, q.1 ≠ p.1) →
          answers (word b.level b.posts 1) (viewOf b.posts) 0)) ∧
      ∀ m : W64, happens (.boardReadAtHome (.other pkg lcore) h (some m)) s { s with fab := { s.fab with
        out := sent s (.boardAnswer pkg lcore
          (if b.slots ≤ m.toNat then 0 else (lookupKey m.toNat b.posts).getD ((lookupKey m.toNat b.prev).getD 0)) 0 0) } }) ∧
    (∀ h pkg lcore b, isOwnCore s pkg lcore = false → s.boardOf h = some b → b.home = Config.packageId → b.slotOf pkg lcore = none →
      ∀ l v, happens (.boardPostAtHome (.other pkg lcore) h l v) s { s with fab := { s.fab with
        boards := withBoard s b
        out := sent s (.boardAnswer pkg lcore 0 0 2) } }) ∧
    ∀ (posts : List (Nat × W64)) (i : Nat), i < 1024 → ((viewOf posts).getLsbD i = true ↔ ∃ q ∈ posts, q.1 = i)

/-- R298 to R302, R325 to R329: a group has at most 256 members and two arbiters; a row is entered once, and the last one of a round
calendars it, 500 ns after the latest stamp; the calendar reaches the members from the primary, which then tells the standby, or from
the standby after 5 µs without its notice; a round that is not calendared can be cancelled. The wait of the standby and the
replacing of a lost arbiter are log entry 70, the time that an event moves on is log entry 8, and the handles are log entry 24. -/
def Obligations.ExchangeRoundsProceed : Prop :=
  ∀ (s : State) (h : W64),
    (∀ p b n, handleTaken s h = false → happens (.groupCreate h p b n) s (if 0 < n ∧ n ≤ 256 ∧ p ≠ b then
        { s with
          fab := { s.fab with groups := s.fab.groups ++ [⟨h, p, b, n, [], [], [], 0⟩] }
          host := s.host ++ [.managed "group" h true] }
      else { s with host := s.host ++ [.managed "group" h false] })) ∧
    (∀ g m pkg lcore block (stamp : W64), s.groupOf h = some g → isOwnCore s pkg lcore = false → g.memberOf pkg lcore = some m →
      s.arbitersLost g = false → blkBad block = false → (∀ c ∈ g.calendared, c.toNat < (blkRound block).toNat) →
      let r := g.roundOf (blkRound block)
      let q := { r with rows := r.rows ++ [⟨m, block, stamp.toNat,
        if pkg = Config.packageId then some (memberAsid s lcore.toNat) else none⟩] }
      let e := Instr.demandRowAtArbiter (.other pkg lcore) h block stamp
      ((r.rowOf m).isSome = true → happens e s { s with fab := { s.fab with out := sent s (.rowAnswer pkg lcore 1) } }) ∧
      ((r.rowOf m) = none → (∃ j, j < g.size ∧ q.rowOf j = none) → happens e s { s with fab := { s.fab with
        groups := withRound s g q
        out := sent s (.rowAnswer pkg lcore 0) } }) ∧
      ((r.rowOf m) = none → (∀ j, j < g.size → (q.rowOf j).isSome = true) → r.cancelled = false → ∃ t w cal, happens e s t ∧
        w ∈ q.rows ∧ (∀ x ∈ q.rows, x.stamp ≤ w.stamp) ∧
        calendars g.size (fun i => q.rows.find? fun x => x.member == i) (w.stamp + 500) cal ∧
        (∀ j x, j < g.size → (q.rows.find? fun y => y.member == j) = some x →
          let rec' : W64 := x.block.extractLsb' 128 64
          rec' ≠ 0 → handleLocal rec' = false → (⟨s.mgmt.endpoint, .grant rec' (grantedTo cal j)⟩ : Sent) ∈ t.fab.out) ∧
        t.fab.groups = s.fab.groups.map (fun x => if x.handle = g.handle then
          { (g.setRound { q with
              cal := some cal
              calAt := BitVec.ofNat 64 (w.stamp + 500)
              standby := s.pkgLost g.primary }) with
            calendared := blkRound block :: g.calendared } else x) ∧
        t.fab.out.getLast? = some ⟨s.mgmt.endpoint, .rowAnswer pkg lcore 0⟩ ∧ t.mem.gmem = s.mem.gmem)) ∧
    (∀ k g, calendaredRound s h k g →
      let r := g.roundOf k
      let here := ∃ m ∈ g.members, m.2.1 = Config.packageId
      (s.pkgLost g.primary = false → r.delivered = true ∨ ¬here → happens (.deliveredNotice h k) s (withGroups s (withRound s g { r with notified := true }))) ∧
      (r.delivered = false → here → happens (.deliveredNotice h k) s s) ∧
      (s.pkgLost g.standby = false → r.notified = false → ∃ t, happens (.standbyTimeout h k) s t ∧ t.fab.groups = withRound s g { r with standby := true } ∧
        ¬(t.fab.time < r.calAt + 5000) ∧ t.ctx = s.ctx ∧ t.mem = s.mem ∧ t.sched = s.sched) ∧
      let mine := (g.members.filter fun m => m.2.1 == Config.packageId).map Prod.fst
      let all := r.holders ++ mine.filter fun m => !(r.holders.contains m)
      (s.pkgLost g.primary = false →
        ∃ t, happens (.calendarAtMember h k false) s t ∧ t.fab.groups = withRound s g { r with delivered := true, holders := all } ∧
        ¬(t.fab.time < r.calAt) ∧ t.ctx = s.ctx ∧ t.mem = s.mem ∧ t.sched = s.sched) ∧
      (s.pkgLost g.standby = false → r.standby = true → ∃ t, happens (.calendarAtMember h k true) s t ∧ t.fab.groups = withRound s g { r with holders := all } ∧
        ¬(t.fab.time < r.calAt) ∧ t.ctx = s.ctx ∧ t.mem = s.mem ∧ t.sched = s.sched) ∧
      (r.standby = false → happens (.calendarAtMember h k true) s s)) ∧
    ∀ k g, s.groupOf h = some g → (g.roundOf k).cal = none →
      happens (.roundCancel h k) s (withGroups s (withRound s g { (g.roundOf k) with cancelled := true }))

/-- R301 to R303, R337, R345: a started CAL.GO sends the bytes of its next entry in flits of at most 256, and after the last byte to a
peer that is granted more the closing flit; a data flit writes its bytes at RBASE + src·STRIDE + offset, or drops them where they may
not be written, and credits the record; a closing flit credits it without data. When a phase is late, in which
address space RBASE lies and how a dropped byte is reported are log entries 58, 59 and 60. -/
def Obligations.ExchangeDataMoves : Prop :=
  ∀ (s : State),
    (∀ idx o g r m es e, s.mode = .running → s.ctx.eng.wants = none → s.ctx.eng.started[idx]? = some o →
      (∃ gd d a b, o.instr = .calGo gd d a b) → goEntries s o = some (g, r, m, es) → es[o.pos]? = some e →
      endedAt o e.peer = none → BitVec.ofNat 64 e.start ≤ s.fab.time →
      let a := actualOf o e.peer
      let lo := min a (grantedBy es o.pos e.peer)
      let hi := min a (grantedBy es (o.pos + 1) e.peer)
      let x := lo + o.part
      let y := min hi (x + 256)
      let total := grantedBy es es.length e.peer
      firstStuck s o e.peer x y = none →
      ∃ t bs, happens (.phaseStart idx) s t ∧ bs.length = y - x ∧
        (let flit : Sent := ⟨s.mgmt.endpoint, .data o.sa (o.sd.setWidth 32) o.seed.toNat e.peer x bs e.phase⟩
         let data := if y ≤ x then [] else [flit]
         let last := hi = a ∧ a < total ∧ (lo < a ∨ (grantedBy es o.pos e.peer = 0 ∧ a = 0))
         let close : Sent := ⟨s.mgmt.endpoint, .closing o.sa (o.sd.setWidth 32) o.seed.toNat e.peer (total - a) e.phase⟩
         t.fab.out = s.fab.out ++ data ++ if hi ≤ y ∧ last then [close] else []) ∧
        (t.ctx.eng.started[idx]?.map fun q => (q.pos, q.part)) = some (if y < hi then (o.pos, o.part + (y - x)) else (o.pos + 1, 0)) ∧
        t.ctx.regs = s.ctx.regs ∧ t.ctx.basin = s.ctx.basin ∧ t.mem.gmem = s.mem.gmem ∧ t.sched = s.sched) ∧
    ∀ h k g w cal r l src dst, s.groupOf h = some g → g.memberHere dst = true → isSelf s g src = false →
      (g.roundOf k).rowOf dst = some w → (g.roundOf k).cal = some cal → plainRecord s (blkRec w.block) r l → hdrDet l.hdr = false →
      (∀ asid off data (phase : BitVec 10), w.asid = some asid → data ≠ [] → data.length ≤ 256 → data.length < r.bytes →
        let va := (blkRbase w.block + src * blkStride w.block + off) % 2 ^ 64
        let credited := (withRecord s { r with bytes := r.bytes - data.length, data := r.data + data.length }).sched
        (∀ key, Mem.wf s.mem.gmem = true → undisturbed s (some r.lid) → reaches s asid va data.length key →
          ∃ t, happens (.exchangeDataFlit h k src dst off data phase) s t ∧ bytesWritten s.mem.gmem t.mem.gmem key data ∧
            schedKept { s with sched := credited } t ∧ t.ctx.regs = s.ctx.regs ∧ t.ctx.basin = s.ctx.basin) ∧
        (forbidden s asid va data.length → s.sched.saved = [] →
          ∃ t, happens (.exchangeDataFlit h k src dst off data phase) s t ∧ t.mem.gmem = s.mem.gmem ∧
            t.sched = credited ∧ t.ctx.regs = s.ctx.regs ∧ t.ctx.basin = s.ctx.basin)) ∧
      ∀ n (phase : BitVec 10), n < r.bytes → ∃ t, happens (.closingFlit h k src dst n phase) s t ∧
        t.sched = (withRecord s { r with bytes := r.bytes - n, closing := r.closing + n }).sched ∧ t.ctx = s.ctx ∧ t.mem = s.mem

/-! ### Engine instructions of boards, groups, collectives, streams and drains (R213, R232, R282, R283, R285, R330 to R339) -/

namespace Sys2Proof.Claims

open Sys2Proof Sys2Proof.Machine

/-- The event `e` brings the answer of a started instruction: the value and view that it owes, its token done; it leaves all but its own
effect alone. -/
def answersWith (e : Instr) (s t : State) (o : EngOp) (id : Nat) (v : W64) (view : BitVec 1024) : Prop :=
  happens e s t ∧ ended s t o.id ∧ tokenDone s t o 0 ∧
    t.ctx.pipe.sb = s.ctx.pipe.sb.map (fun x => if x.id = id then { x with src := .value v view } else x) ∧
    t.ctx.casc = s.ctx.casc ∧ t.mem = s.mem ∧ sameBut s t

/-- No earlier message of this core to the same home is on its way (R330). -/
def firstToHome (s : State) (o : EngOp) : Prop := (∀ x ∈ s.ctx.eng.undone, o.id ≤ x.id) ∧ s.sched.saved = []

/-- The head of the queue is refused at its start: status REFUSED, with a free SIDE. -/
def refusedWith (s : State) (n : Nat) (o : EngOp) (rest : List EngOp) (t : State) : Prop :=
  ∃ side, side < 4 ∧ actsAtStart s n o rest (BitVec.ofNat 64 (6 + 256 * side)) t

end Sys2Proof.Claims

/-- R296, R297, R324, R330, R332 to R334: a started PAV at the current level enters its post, and completes the level when every registered slot
has posted; one that is repeated, early or late by one level is answered and enters nothing; one that is older, or of a core without a slot,
takes a deferred BOARD trap; one to a board whose home is lost, or that no handle names, is answered LOST; BRD.RD is answered with the value of its slot and BRD.LV with the level; the view form of BRD.RD reads its view. -/
def Sys2Proof.Claims.BoardInstructionsAct : Prop :=
  ∀ (s : State) (o : EngOp) (id : Nat), o.sbId = some id →
    (∀ idx g d x y h l w, underWay s idx o → firstToHome s o → o.instr = .pav g d x y →
      let e := Instr.boardPostAtHome (.own idx) h l w
      (s.boardOf o.sa = none → ∃ t, answersWith e s t o id 4 0 ∧ t.fab.boards = s.fab.boards) ∧
      ∀ b, s.boardOf o.sa = some b →
        let faults := fun (reason : Nat) => ∃ t, happens e s t ∧ ended s t o.id ∧ tokenDone s t o 0 ∧
          t.ctx.pipe.sb = s.ctx.pipe.sb.map (fun x => if x.id = id then { x with src := .keep } else x) ∧
          t.ctx.pipe.deferred = s.ctx.pipe.deferred ++ [⟨0x10, BitVec.ofNat 64 (o.bpc.toNat % 2 ^ 32 + reason * 2 ^ 32)⟩] ∧
          t.fab.boards = withBoard s b ∧ t.ctx.casc = s.ctx.casc ∧ t.mem = s.mem ∧ sameBut s t
        (b.slotOf Config.packageId (s.ctx.ctl.lcore.setWidth 9) = none → faults 2) ∧
        ∀ n, b.slotOf Config.packageId (s.ctx.ctl.lcore.setWidth 9) = some n →
          let level : BitVec 32 := o.sd.setWidth 32
          let gap := (level - b.level).toInt
          let word := fun (level : BitVec 32) (posts : List (Nat × W64)) (code : Nat) => BitVec.ofNat 64
            (level.toNat * 2 ^ 32 + posts.length * 2 ^ 21 + (posts.head?.map Prod.fst).getD 0 * 2 ^ 11 + code)
          let answers := fun word view => ∃ t, answersWith e s t o id word view ∧ t.fab.boards = withBoard s b
          (0 < gap → answers (word b.level [] 3) 0) ∧ (gap = -1 → answers (word level b.prev 2) (viewOf b.prev)) ∧
          (gap < -1 → faults 1) ∧
          (gap = 0 → (∃ q ∈ b.posts, q.1 = n) → (∃ p ∈ b.parts, ∀ q ∈ b.posts, q.1 ≠ p.1) →
            answers (word b.level b.posts 1) (viewOf b.posts))) ∧
    (∀ idx b n, underWay s idx o → firstToHome s o → s.boardOf o.sa = some b →
      b.slotOf Config.packageId (s.ctx.ctl.lcore.setWidth 9) = some n →
      (∀ g d x y h l w, o.instr = .pav g d x y → o.sd.setWidth 32 = b.level → (∀ q ∈ b.posts, q.1 ≠ n) →
        let posts := b.posts ++ [(n, o.sb)]
        let word : W64 := BitVec.ofNat 64 (b.level.toNat * 2 ^ 32 + posts.length * 2 ^ 21 + (posts.head?.map Prod.fst).getD 0 * 2 ^ 11)
        ∃ t, answersWith (.boardPostAtHome (.own idx) h l w) s t o id word (viewOf posts) ∧
          t.fab.boards = withBoard s (if ∀ p ∈ b.parts, ∃ q ∈ posts, q.1 = p.1 then
            { b with level := b.level + 1, prev := posts, posts := [] } else { b with posts := posts })) ∧
      (∀ g d x y h m, o.instr = .brdRd g d x y → immOf g < 4 →
        ∃ t, answersWith (.boardReadAtHome (.own idx) h m) s t o id
          (if b.slots ≤ o.sb.toNat then 0 else (lookupKey o.sb.toNat b.posts).getD ((lookupKey o.sb.toNat b.prev).getD 0)) 0 ∧
          t.fab.boards = s.fab.boards) ∧
      ∀ g d x h m, o.instr = .brdLv g d x →
        ∃ t, answersWith (.boardReadAtHome (.own idx) h m) s t o id (b.level.setWidth 64) 0 ∧ t.fab.boards = s.fab.boards) ∧
    ∀ n rest g d x y, enginesIdle s → heads s n o rest → o.instr = .brdRd g d x y → 4 ≤ immOf g →
      ∃ t, actsAtStart s n o rest 0 t ∧ owes s t id (o.view.extractLsb' (64 * (o.sb.toNat % 16)) 64) ∧ t.mem = s.mem ∧ sameBut s t

/-- R298, R300, R325, R330, R335, R336: DPOST reads its block and stamps it when it starts; its row is entered once at the arbiters, in the
address space of its task; CAL.RD of a round whose calendar has come writes its entries and owes their number, and of one passed over all
ones. -/
def Sys2Proof.Claims.ExchangeInstructionsAct : Prop :=
  ∀ (s : State) (o : EngOp) (id : Nat), o.sbId = some id → o.clob = [] →
    (∀ n rest g d x y, enginesIdle s → heads s n o rest → o.instr = .dpost g d x y → s.ctx.basin.poisoned 2 o.sa.toNat 1088 = false →
      s.ctx.eng.tiles = Vector.replicate 64 Tile.start →
      ∃ t, happens (.engineInstructionStart n) s t ∧ t.ctx.eng.queue n = rest ∧ t.ctx.eng.tokens = s.ctx.eng.tokens ∧ sameBut s t ∧
        t.ctx.eng.started = [{ o with idx := s.ctx.spadBytes o.sa.toNat 1088, sd := s.fab.time, begun := true }]) ∧
    (∀ idx g d x y h w stamp, underWay s idx o → firstToHome s o → o.instr = .dpost g d x y →
      let answers := fun (code : W64) (gs : List Group) =>
        ∃ t, answersWith (.demandRowAtArbiter (.own idx) h w stamp) s t o id code 0 ∧ t.fab.groups = gs
      (s.groupOf o.sb = none → answers 3 s.fab.groups) ∧
      ∀ grp m block, s.groupOf o.sb = some grp → grp.memberOf Config.packageId (s.ctx.ctl.lcore.setWidth 9) = some m →
        o.idx.length = 1088 → holdsBytes block 0 o.idx → s.arbitersLost grp = false → blkBad block = false →
        (∀ c ∈ grp.calendared, c.toNat < (blkRound block).toNat) →
        let r := grp.roundOf (blkRound block)
        let q := { r with rows := r.rows ++ [⟨m, block, o.sd.toNat, some s.ctx.asid⟩] }
        ((r.rowOf m).isSome = true → answers 1 s.fab.groups) ∧
        (r.rowOf m = none → (∃ j, j < grp.size ∧ q.rowOf j = none) → answers 0 (withRound s grp q))) ∧
    ∀ n rest g d x y grp m, enginesIdle s → heads s n o rest → o.instr = .calRd g d x y → Mem.wf s.ctx.basin.spad = true →
      s.groupOf o.sb = some grp → grp.memberOf Config.packageId (s.ctx.ctl.lcore.setWidth 9) = some m →
      let k := o.sd.setWidth 32
      let r := grp.roundOf k
      r.cancelled = false →
      (grp.passedOver k = true → ∃ t, actsAtStart s n o rest 0 t ∧ owes s t id (BitVec.allOnes 64) ∧ t.mem = s.mem ∧ sameBut s t) ∧
      ∀ cal, grp.passedOver k = false → r.cal = some cal → m ∈ r.holders →
        let es := entriesOf cal m
        ∃ t, actsAtStart s n o rest 0 t ∧ owes s t id (BitVec.ofNat 64 es.length) ∧ t.mem = s.mem ∧ t.sched = s.sched ∧
          laidOver t.ctx.basin.spad s.ctx.basin.spad o.sa.toNat (((es.take (immOf g)).flatMap CalEntry.encode).map some) ∧
          t.ctx.basin.reg = s.ctx.basin.reg ∧ t.ctx.basin.acc = s.ctx.basin.acc ∧ t.ctx.basin.tags = s.ctx.basin.tags

/-- R285, R310, R311, R331: COL.SET installs the entry that its image gives, with no firing made, or is refused where no slot is free; it
frees an entry that has no firing in progress, and is refused for a handle that names none; XS.OPEN with SLOTS 0 closes a stream that no
copy uses. The slot is log entry 24, what other cores of the package hold is log entry 17, and SIDE of a refusal is free. -/
def Sys2Proof.Claims.CollectiveInstructionsAct : Prop :=
  ∀ (s : State) (o : EngOp) (n : Nat) (rest : List EngOp) (id : Nat), enginesIdle s → heads s n o rest → o.sbId = some id →
    (∀ g d x y, o.instr = .colSet g d x y → o.sb ≠ 0 →
      (∀ c, s.collOf o.sb = some c → c.fires = [] →
        ∃ t, actsAtStart s n o rest 0 t ∧ owes s t id 0 ∧ t.fab.colls = s.fab.colls.filter (fun z => z.slot != c.slot) ∧
          t.mem = s.mem ∧ sameBut s t) ∧
      (s.collOf o.sb = none → s.foreignColl o.sb = false →
        ∃ t, refusedWith s n o rest t ∧ owes s t id 0 ∧ t.fab.colls = s.fab.colls ∧ t.mem = s.mem ∧ sameBut s t)) ∧
    (∀ g d x y hdr ms, o.instr = .colSet g d x y → o.sb = 0 → o.clob = [] → s.ctx.eng.tiles = Vector.replicate 64 Tile.start →
      let bytes := s.ctx.spadBytes o.sa.toNat (64 + 16 * chNmem hdr)
      holdsBytes hdr 0 (bytes.take 64) → ms.length = chNmem hdr →
      (∀ i, i < chNmem hdr → holdsBytes (ms.getD i 0) 0 ((bytes.drop (64 + 16 * i)).take 16)) →
      s.ctx.basin.poisoned 2 o.sa.toNat 64 = false → s.ctx.basin.poisoned 2 o.sa.toNat (64 + 16 * chNmem hdr) = false →
      o.sa.toNat + 64 + 16 * chNmem hdr ≤ s.ctx.spSize → headerBad hdr = false → (∀ m ∈ ms, memBad m = false) →
      membersClash ms = false → (chComp hdr ≠ 0 → s.mgmt.accepted 5 = true) → (chFuse hdr = true → s.mgmt.accepted 4 = true) →
      (∃ m ∈ ms, memPkg m = Config.packageId ∧ memLcore m = s.ctx.ctl.lcore.setWidth 9) →
      ∃ t, t.mem = s.mem ∧ sameBut s t ∧
        ((refusedWith s n o rest t ∧ owes s t id 0 ∧ t.fab.colls = s.fab.colls ∧ freeColl s = none) ∨
          ∃ c, actsAtStart s n o rest 0 t ∧ t.fab.colls = s.fab.colls ++ [c] ∧ owes s t id (collHandle c.slot c.gen) ∧
            freeColl s = some c.slot ∧ c.hdr = hdr ∧ c.members = ms ∧ c.lid = s.ctx.lid ∧ c.asid = s.ctx.asid ∧ c.firing = 0 ∧
            c.fires = [] ∧ c.cid = collectiveId hdr ms ∧ (ms.getD c.pos 0).extractLsb' 45 19 = Config.packageId ∧
            (ms.getD c.pos 0).extractLsb' 32 9 = s.ctx.ctl.lcore.setWidth 9)) ∧
    ∀ g d x y z, o.instr = .xsOpen g d x y → o.sb.toNat / 2 ^ 16 % 256 = 0 →
      (s.ctx.eng.streams.find? fun w => w.tag == o.sa.toNat % 256) = some z → streamInUse s o (o.sa.toNat % 256) = false →
      ∃ t, actsAtStart s n o rest 0 t ∧ owes s t id 0 ∧ t.ctx.eng.streams = s.ctx.eng.streams.filter (fun w => w.tag != z.tag) ∧
        t.fab.out = sent s (.dieClose z.lcore z.tag) ∧ t.mem = s.mem ∧ sameBut s t

/-- R339, R369: TRIG, where the feature is accepted, its partition's triggers are on and no latch is held, latches the snapshot registers
and with SCOPE 1 sends a message to each package of its partition's list; else it is refused. The values latched are free (log entry 91),
the list and the disable are log entry 71. -/
def Sys2Proof.Claims.TriggersAct : Prop :=
  ∀ (s : State) (o : EngOp) (n : Nat) (rest : List EngOp) g x, enginesIdle s → heads s n o rest → o.sbId = none → o.instr = .trig g x →
    let part := hdrPartn s.ctx.hdr
    let tag : BitVec 16 := o.sa.setWidth 16
    let far := o.sa.toNat / 65536 % 4 = 1
    ∃ t, happens (.engineInstructionStart n) s t ∧ t.ctx.eng.queue n = rest ∧
      (if s.mgmt.accepted 7 = true ∧ part ∉ s.refreshTriggers.mgmt.triggersOff ∧ s.mgmt.snapshot = none then
        (∃ vals, t.mgmt.snapshot = some ⟨tag, s.fab.time, vals⟩) ∧
          (¬far → tokenDone s t o 0 ∧ t.fab.out = s.fab.out) ∧
          (far → t.ctx.eng.tokens = s.ctx.eng.tokens ∧
            t.fab.out = s.fab.out ++ ((lookupKey part s.refreshTriggers.mgmt.triggerPkgs).getD []).map fun p =>
              ⟨s.mgmt.endpoint, .trigger p tag⟩)
      else t.mgmt.snapshot = s.mgmt.snapshot ∧ t.fab.out = s.fab.out ∧
        ∃ side, side < 4 ∧ tokenDone s t o (BitVec.ofNat 64 (6 + 256 * side))) ∧
      t.mgmt.missed = s.mgmt.missed ∧ t.ctx.regs = s.ctx.regs ∧ t.ctx.ctl = s.ctx.ctl ∧ t.ctx.tr = s.ctx.tr ∧
      t.ctx.basin = s.ctx.basin ∧ t.ctx.casc = s.ctx.casc ∧ t.mem = s.mem ∧ t.sched = s.sched ∧ t.mode = s.mode ∧ t.host = s.host

/-- R213, R214, R231, R232: ACC.PEER takes the next sequence number and its accumulator when it starts, sends its drain with its identity,
and ends once the acknowledgement has returned; a refusal sets PEERERR. The outcome at another package (log entry 17) and SIDE are free; that the
token of a refused one is done with the status REFUSED is the model's choice (log entry 57). -/
def Sys2Proof.Claims.DrainsAct : Prop :=
  ∀ (s : State) (o : EngOp) (q : BitVec 3) (g : EGuard) (x y : BitVec 6), o.eng = 0 → o.sbId = none → o.instr = .accPeer g q x y →
    (∀ rest, enginesIdle s → s.ctx.eng.queue 0 = o :: rest → o.waits = [] → scatterDone s o → (∀ z ∈ s.ctx.eng.undone, o.id ≤ z.id) →
      s.ctx.casc.live = some o.daddr →
      ∃ t bs, happens (.engineInstructionStart 0) s t ∧ t.ctx.eng.queue 0 = rest ∧ t.ctx.eng.tokens = s.ctx.eng.tokens ∧
        t.ctx.casc = { s.ctx.casc with peerSeq := s.ctx.casc.peerSeq + 1 } ∧ bs.length = 16384 ∧
        holdsBytes s.ctx.casc.liveVal 0 bs ∧
        t.ctx.eng.started = [{ o with sd := s.ctx.casc.peerSeq + 1, idx := bs, begun := true }] ∧ t.mem = s.mem ∧ sameBut s t) ∧
    ∀ idx count, underWay s idx o →
      (o.answered = false → (∀ z ∈ s.ctx.eng.started, o.id ≤ z.id) →
        (∀ sv ∈ s.sched.saved, ∀ z ∈ sv.ctx.eng.started, ∀ gz qz xz yz, z.instr ≠ .accPeer gz qz xz yz) →
        (o.sa.extractLsb' 32 9).toNat ≤ 351 →
        let pkg : BitVec 19 := o.sa.extractLsb' 45 19
        pkg ≠ Config.packageId → ∀ data, o.idx.length = 16384 → holdsBytes data 0 o.idx →
          ∃ t, ∃ ok : Bool, happens (.tokenDone idx count) s t ∧ t.ctx.eng.tokens = s.ctx.eng.tokens ∧
            (s.pkgLost pkg = true → ok = false ∧ t.fab.out = s.fab.out) ∧
            (s.pkgLost pkg = false → t.fab.out = sent s (.drain pkg (o.sa.extractLsb' 32 9) (s.ctx.ctl.lcore.setWidth 9) s.ctx.ctl.wid o.sd
              (o.sa.extractLsb' 0 5) o.sb data)) ∧
            t.ctx.eng.started = s.ctx.eng.started.map (fun z => if z.id = o.id then
              { o with answered := true, pos := if ok then 0 else 1 } else z) ∧
            t.ctx.casc = s.ctx.casc ∧ t.mem = s.mem ∧ sameBut s t) ∧
      (o.answered = true → o.pos = 0 →
        ∃ t, happens (.tokenDone idx count) s t ∧ ended s t o.id ∧ tokenDone s t o 0 ∧ t.ctx.casc = s.ctx.casc ∧ sameBut s t) ∧
      (o.answered = true → o.pos ≠ 0 →
        ∃ t side, happens (.tokenDone idx count) s t ∧ ended s t o.id ∧ side < 4 ∧ tokenDone s t o (BitVec.ofNat 64 (6 + 256 * side)) ∧
          t.ctx.casc = { s.ctx.casc with status := s.ctx.casc.status ||| 8 } ∧ sameBut s t)

/-- R280, R282, R283: COPY.RED ADD of one integer element of the scratchpad into the cistern leaves the sum there; GATH of one byte takes it
from the place that lane 0 of its index vector selects. -/
def Sys2Proof.Claims.ReductionsAndGathersAct : Prop :=
  ∀ (s : State) (o : EngOp) (idx : Nat), underWay s idx o → o.eng ≠ 0 → o.sbId = none → o.clob = [] →
    tmBad o.tmpl = false → tmNdim o.tmpl = 1 → tmCount o.tmpl 0 = 1 → tmSoff o.tmpl = 0 → tmDoff o.tmpl = 0 → tmRec o.tmpl = 0 →
    caSpace o.sa = 1 →
    (∀ g x a b (old : List Byte), o.instr = .copyRed g x a b → immOf g % 4 = 0 → immOf g / 4 % 8 < 4 → caSpace o.sb = 3 →
      let n := if immOf g / 4 % 8 < 2 then 4 else 8
      let dst := (caAddr o.sb).toNat
      tmEsize o.tmpl = n → s.mem.appliedReds = [] → s.ctx.basin.poisoned 2 (caAddr o.sa).toNat n = false → s.mem.poison = [] →
      Mem.wf s.mem.cistern = true → old.length = n → (∀ i, i < n → Mem.get s.mem.cistern (dst + i) = some (old.getD i 0)) →
      ∃ t, happens (.tokenDone idx 2) s t ∧ tokenDone s t o 0 ∧ ended s t o.id ∧
        (let sum : Nat := (ofLe old + ofLe (s.ctx.spadBytes (caAddr o.sa).toNat n)) % 2 ^ (8 * n)
         laidOver t.mem.cistern s.mem.cistern dst ((List.range n).map fun i => some (BitVec.ofNat 8 (sum / 2 ^ (8 * i))))) ∧
        t.mem.appliedReds = [] ∧ t.mem.gmem = s.mem.gmem ∧ t.ctx.basin = s.ctx.basin ∧ t.ctx.regs = s.ctx.regs ∧
        t.ctx.ctl = s.ctx.ctl ∧ schedKept s t ∧ t.mgmt = s.mgmt ∧ t.host = s.host) ∧
    ∀ g x a b, o.instr = .gath g x a b → caSpace o.sb = 1 → tmEsize o.tmpl = 1 → o.seen = [] → o.writes = [] →
      let lane : BitVec 32 := BitVec.ofNat 32 (ofLe (o.idx.take 4))
      let from' := (caAddr o.sa + lane.signExtend 64 * tmSstride o.tmpl 0).toNat
      from' ≠ (caAddr o.sb).toNat → s.ctx.basin.poisoned 2 from' 1 = false → Mem.wf s.ctx.basin.spad = true →
      ∃ t, happens (.tokenDone idx 2) s t ∧ tokenDone s t o 0 ∧ ended s t o.id ∧ sameCore s t ∧ t.sched = s.sched ∧
        laidOver t.ctx.basin.spad s.ctx.basin.spad (caAddr o.sb).toNat ((s.ctx.spadBytes from' 1).map some) ∧
        t.ctx.basin.reg = s.ctx.basin.reg ∧ t.ctx.basin.acc = s.ctx.basin.acc

/-- R213, R214, R231, R232, R280, R282, R283, R285, R296 to R298, R300, R310, R311, R325, R330 to R336, R339: what PAV, BRD.RD, BRD.LV,
DPOST, CAL.RD, COL.SET, XS.OPEN that closes, TRIG, ACC.PEER to another package, COPY.RED ADD and GATH do when they run. The status REFUSED of
a refused ACC.PEER is the model's choice (log entry 57). -/
def Obligations.FabricInstructionsAct : Prop :=
  BoardInstructionsAct ∧ ExchangeInstructionsAct ∧ CollectiveInstructionsAct ∧ TriggersAct ∧ DrainsAct ∧ ReductionsAndGathersAct

/-- R303, R305 to R309, R371: a flit that fails its CRC, whose payload is not of the 1 to 256 bytes that its header gives, or that is not
the next of its flow, changes nothing; a malformed one is dropped and counted, any other is received; a failing lane is removed; a
link retrains its requests one at a time in arrival order, a width before a frequency of the same time; time never goes back. -/
def Obligations.LinksAndTime : Prop :=
  ∀ (s : State),
    (∀ (port : BitVec 5) hdr payload,
      let len := (hdr.extractLsb' 31 9).toNat
      let seq : BitVec 16 := hdr.extractLsb' 40 16
      happens (.flitReceive port false hdr payload) s s ∧
      (payload = [] ∨ 256 < payload.length ∨ len ≠ payload.length ∨ (s.linkAt port.toNat).active ≠ none ∨
        (∃ n, lookupKey (flowOf hdr) s.fab.inSeq = some n ∧ n ≠ seq) → happens (.flitReceive port true hdr payload) s s) ∧
      ((s.linkAt port.toNat).active = none → payload ≠ [] → payload.length ≤ 256 → len = payload.length →
        (∀ n, lookupKey (flowOf hdr) s.fab.inSeq = some n → n = seq) →
        let errors := setKey port.toNat ((lookupKey port.toNat s.fab.portErrors).getD 0 + 1) s.fab.portErrors
        let next := setKey (flowOf hdr) (seq + 1) s.fab.inSeq
        happens (.flitReceive port true hdr payload) s
          (if flitDropped hdr then { s with fab := { s.fab with inSeq := next, portErrors := errors } }
           else { s with fab := { s.fab with inSeq := next, received := s.fab.received ++ [(hdr, payload)] } })) ∧
      (5 ≤ (hdr.extractLsb' 85 3).toNat ∨ hdr.extractLsb' 80 5 ≠ 0 → flitDropped hdr = true)) ∧
    (∀ n kind, 48 ≤ n → happens (.linkRetrain n kind) s s) ∧
    (∀ n kind, n < 48 → ∃ t, happens (.linkRetrain n kind) s t ∧ (t.linkAt n).lanes = (s.linkAt n).lanes ∧
      (let l := s.linkAt n
       let now := s.fab.time
       (l.active = none → (t.linkAt n).active = some (kind, now) ∧ (t.linkAt n).queue = l.queue) ∧
       (l.active = some (.frequency, now) → kind = .width →
         (t.linkAt n).active = some (.width, now) ∧ (t.linkAt n).queue = (.frequency, now) :: l.queue) ∧
       (∀ x pre post, l.active = some x → (kind = .width → x ≠ (.frequency, now)) → l.queue = pre ++ post →
         (kind = .width → (.frequency, now) ∉ pre) → (post ≠ [] → kind = .width ∧ post.head? = some (.frequency, now)) →
         (t.linkAt n).active = some x ∧ (t.linkAt n).queue = pre ++ (kind, now) :: post)) ∧
      (∀ m, m ≠ n → t.linkAt m = s.linkAt m) ∧ t.ctx = s.ctx ∧ t.mem = s.mem) ∧
    (∀ n, (s.linkAt n).active ≠ none → ∃ t, happens (.linkRetrainDone n) s t ∧
      t.linkAt n = ⟨(s.linkAt n).lanes, (s.linkAt n).queue.head?, (s.linkAt n).queue.drop 1⟩ ∧
      (∀ m, m ≠ n → t.linkAt m = s.linkAt m) ∧ t.ctx = s.ctx ∧ t.mem = s.mem) ∧
    (∀ port : BitVec 5, ∃ t, happens (.laneFailure port) s t ∧
      (t.linkAt port.toNat).lanes = (s.linkAt port.toNat).lanes - 1 ∧
      (RetrainKind.width, s.fab.time) ∈ (t.linkAt port.toNat).active.toList ++ (t.linkAt port.toNat).queue ∧
      (∀ m, m ≠ port.toNat → t.linkAt m = s.linkAt m) ∧ t.ctx = s.ctx ∧ t.mem = s.mem) ∧
    ∀ now : W64, happens (.timeMessage now) s
      { s with fab := { s.fab with time := BitVec.ofNat 64 (max now.toNat s.fab.time.toNat) } }

/-! ### Events of management (R2, R20, R120, R352, R361 to R369, R373) -/

namespace Sys2Proof.Claims

open Sys2Proof Sys2Proof.Machine

/-- An image that the boot ROM accepts: its signature is valid, its key is the fused one, and its version is not below the fused
counter (Table 23-1). -/
def imageGood (s : State) (img : BootImage) : Prop :=
  img.signatureValid = true ∧ img.keyDigest = Config.fusedKeyDigest ∧ s.mgmt.version ≤ img.version

/-- The bounds of the ranges of Table 16-3. -/
def mapBounds : List Nat := [0, 0xB2D05E0000, 0x10000000000, 0xD0000000000, 0xF0000000000, 0x100000000000]

/-- A module that has come up with an image (R361): the trust values locked, the dies that failed held in reset, the bind record
written, and the ready message sent. -/
def cameUp (t : State) (img : BootImage) (dies : BitVec 8) (parts : Nat) : Prop :=
  t.mgmt.boot = .up ∧ t.mgmt.locked = true ∧ t.mgmt.keyDigest = Config.fusedKeyDigest ∧
    t.mgmt.endpoint = Config.packageId.setWidth 20 ∧ t.mgmt.image = img.digest ∧ t.mgmt.bootVersion = img.version ∧
    t.mem.heldReset = dies ∧ t.sched.bind = bindFor dies parts ∧ t.mgmt.parts = parts ∧
    t.host.getLast? = some (.ready (Config.offered.setWidth 128) (coresEnabled dies) (decide (coresEnabled dies < 336)))

/-- A reading that is above a limit of the clamp: 4,300 W, or the temperature limit of a die (R365). -/
def aboveClamp (power : Nat) (temps : List Nat) : Prop := 4300 < power ∨ ∃ (d t : Nat), temps[d]? = some t ∧ Config.dieLimit d < t

/-- A reading that lies below every limit of the clamp. -/
def belowClamp (power : Nat) (temps : List Nat) : Prop := power < 4300 ∧ ∀ d t, temps[d]? = some t → t < Config.dieLimit d

/-- The clock of the ashlar dies at `mhz`, and nothing else changed but the links, the next readings and, at most, the time; a change of the clock asks every
link of the package for a frequency retrain (R365, R371). -/
def clockAt (s t : State) (mhz : Nat) : Prop :=
  t = { s with
    mgmt := { s.mgmt with clamp := mhz, hotAt := t.mgmt.hotAt, power := t.mgmt.power, temps := t.mgmt.temps }
    fab := { s.fab with links := t.fab.links, time := t.fab.time } } ∧
  (mhz = s.mgmt.clamp → t.fab.links = s.fab.links) ∧
  (mhz ≠ s.mgmt.clamp → ∀ n, n < 48 →
    (RetrainKind.frequency, t.fab.time) ∈ (t.linkAt n).active.toList ++ (t.linkAt n).queue)

/-- A state with one more message to the host. -/
def told (s : State) (m : HostMsg) : State := { s with host := s.host ++ [m] }

end Sys2Proof.Claims

/-- R249, R361, R362, R365: a module reset leaves everything but the fused version counter and the HBM stacks at its reset value and,
with an image that the boot ROM accepts, comes up, else enters recovery, where a good image brings it up; the version counter follows
the running image and never falls; the clamp moves by 100 MHz between 2.0 and 3.0 GHz, down while a reading is above a limit, and up
once 1 ms has passed since the last one. What survives a reset beside the counter and
the stacks is log entry 79, the clamp's readings and timer are log entry 8, and the constants of the part are log entry 87. -/
def Obligations.BootVersionAndClamp : Prop :=
  ∀ (s : State) (img : BootImage) (dies : BitVec 8), Mem.wf s.mem.gmem = true →
    (imageGood s img → ∃ t, happens (.moduleReset img dies) s t ∧ cameUp t img dies 1 ∧ t.mgmt.version = s.mgmt.version ∧
      t.ctx = State.reset.ctx ∧ t.mode = .idle ∧ t.mem = { State.reset.mem with heldReset := dies, gmem := t.mem.gmem } ∧
      (∀ x, t.mem.gmem.get x = if x < 0xB2D05E0000 ∨ isRemote x = true then s.mem.gmem.get x else none) ∧ t.fab = State.reset.fab ∧
      t.sched = { State.reset.sched with bind := bindFor dies 1 } ∧ t.mgmt.clamp = 3000 ∧ t.mgmt.written = none) ∧
    (¬imageGood s img → ∃ t, happens (.moduleReset img dies) s t ∧ t.mgmt.boot = .recovery ∧ t.mgmt.version = s.mgmt.version ∧
      t.ctx = State.reset.ctx ∧ t.mem = { State.reset.mem with gmem := t.mem.gmem } ∧
      (∀ x, x < 0xB2D05E0000 → t.mem.gmem.get x = s.mem.gmem.get x) ∧ t.sched = State.reset.sched ∧ t.fab = State.reset.fab ∧
      t.host = s.host) ∧
    (s.mgmt.boot = .recovery →
      (imageGood s img → ∃ t, happens (.recoveryImage img dies) s t ∧ cameUp t img dies s.mgmt.parts ∧ t.ctx = s.ctx ∧
        t.mem.gmem = s.mem.gmem ∧ t.mgmt.version = s.mgmt.version) ∧
      (¬imageGood s img → happens (.recoveryImage img dies) s s)) ∧
    (s.mgmt.boot = .up → happens .versionCounterAdvance s
      { s with mgmt := { s.mgmt with version := max s.mgmt.version s.mgmt.bootVersion } }) ∧
    let above := aboveClamp s.mgmt.power s.mgmt.temps
    let below := belowClamp s.mgmt.power s.mgmt.temps
    (above → ∃ t, happens .clampStepDown s t ∧ clockAt s t (max 2000 (s.mgmt.clamp - 100)) ∧
        t.mgmt.hotAt = s.fab.time ∧ t.fab.time = s.fab.time) ∧
    (¬above → ∃ t, happens .clampStepDown s t ∧ clockAt s t s.mgmt.clamp ∧ t.mgmt.hotAt = s.mgmt.hotAt ∧ t.fab.time = s.fab.time) ∧
    (below → ∃ t, happens .clampStepUp s t ∧ clockAt s t (min 3000 (s.mgmt.clamp + 100)) ∧
        t.mgmt.hotAt = s.mgmt.hotAt ∧ t.fab.time = (if s.fab.time < s.mgmt.hotAt + 1000000 then s.mgmt.hotAt + 1000000 else s.fab.time)) ∧
    (¬below → ∃ t, happens .clampStepUp s t ∧ clockAt s t s.mgmt.clamp ∧ t.mgmt.hotAt = s.fab.time ∧ t.fab.time = s.fab.time)

/-- R363, R364, R366: an attestation report signs the digests, the locked values and the nonce; the feature vector is written once; the
host sets an injection ceiling and firmware may only lower it; a seal is set for a partition that exists, as the partition mode in
force makes it, and the host lifts it, with the partition's HBM zeroed and its lines dropped from the die caches, once no context of it
is left, and not before. The signature is an opaque function (log entry
19), and zeroing writes the whole range at one step (log entry 64). -/
def Obligations.TrustIsKept : Prop :=
  ∀ (s : State),
    (∀ nonce, s.mgmt.boot = .up → ∃ report : List (BitVec 256),
      (∀ x, x ∈ report ↔ x ∈ [Config.bootRomDigest, s.mgmt.image, Config.packageId.setWidth 256, s.mgmt.endpoint.setWidth 256,
        s.mgmt.keyDigest, BitVec.ofNat 256 s.mgmt.version, nonce] ++ mapBounds.map (BitVec.ofNat 256)) ∧
      happens (.attestationRequest nonce) s (told s (.attestation report (Config.sign report)))) ∧
    (∀ vec, s.mgmt.boot = .up → happens (.featureVectorWrite vec) s
      (match s.mgmt.written with
       | none => told { s with mgmt := { s.mgmt with written := some vec } } (.managed "feature vector" (vec.setWidth 64) true)
       | some _ => told s (.managed "feature vector" (vec.setWidth 64) false))) ∧
    (∀ (p : Option (BitVec 3)) port vc rate,
      let put := { s with mgmt := { s.mgmt with ceilings := setKey (p, port, vc) rate s.mgmt.ceilings } }
      ((∀ n, p = some n → n.toNat < s.mgmt.parts) →
        happens (.injectionCeilingSet (p, port) vc rate true) s put ∧
        ∀ c, lookupKey (p, port, vc) s.mgmt.ceilings = some c →
          happens (.injectionCeilingSet (p, port) vc rate false) s (if rate ≤ c then put else s)) ∧
      ∀ n byHost, p = some n → s.mgmt.parts ≤ n.toNat → happens (.injectionCeilingSet (p, port) vc rate byHost) s s) ∧
    (∀ p : BitVec 3, happens (.tenantSeal p) s (if p.toNat < s.mgmt.parts then
        told { s with mgmt := { s.mgmt with sealed := if (s.mgmt.parts, p) ∈ s.mgmt.sealed then s.mgmt.sealed
            else (s.mgmt.parts, p) :: s.mgmt.sealed } }
          (.managed "seal" (p.setWidth 64) true)
      else told s (.managed "seal" (p.setWidth 64) false))) ∧
    ∀ p : BitVec 3, (s.mgmt.parts, p) ∈ s.mgmt.sealed → Mem.wf s.mem.gmem = true →
      (partitionBusy s p.toNat = true → p.toNat < s.mgmt.parts → s.mgmt.parts ∈ [1, 2, 4, 8] → happens (.tenantUnseal p) s s) ∧
      (partitionBusy s p.toNat = false → s.mem.heldReset = 0 → undisturbed s none → ∃ t, happens (.tenantUnseal p) s t ∧
      (∀ e, e ∈ t.mgmt.sealed ↔ e ∈ s.mgmt.sealed ∧ e ≠ (s.mgmt.parts, p)) ∧
      (∀ x, t.mem.gmem.get x = if p.toNat * (0xB2D05E0000 / s.mgmt.parts) ≤ x ∧
          x < p.toNat * (0xB2D05E0000 / s.mgmt.parts) + 0xB2D05E0000 / s.mgmt.parts then some 0 else s.mem.gmem.get x) ∧
      (∀ die line, line * 128 < p.toNat * (0xB2D05E0000 / s.mgmt.parts) + 0xB2D05E0000 / s.mgmt.parts →
        p.toNat * (0xB2D05E0000 / s.mgmt.parts) < line * 128 + 128 → (die, line) ∉ t.mem.dieLines) ∧
      t.ctx.regs = s.ctx.regs ∧ t.ctx.basin = s.ctx.basin ∧ schedKept s t ∧ t.host = s.host ++ [.managed "unseal" (p.setWidth 64) true])

/-- R364, R369: a trigger latches its tag, the time and a value of each block unless a latch is held, and is then counted; a fault record
triggers as it is sent; reading out gives the latch, zeros for the blocks of a sealed partition, with the count of the missed
triggers, and frees the registers. The blocks, their values and the tag of a fault trigger are free (log entry 91). -/
def Obligations.SnapshotsLatch : Prop :=
  ∀ (s : State) (tagv : BitVec 16),
    (∀ fault, s.mgmt.snapshot = none → ∃ vs : List W64, vs.length = Config.snapshotBlocks.length ∧
      happens (.triggerMessage tagv fault) s { s with mgmt := { s.mgmt with snapshot := some ⟨tagv, s.fab.time, vs⟩ } }) ∧
    (∀ x, s.mgmt.snapshot = some x →
      (∀ fault, happens (.triggerMessage tagv fault) s { s with mgmt := { s.mgmt with missed := s.mgmt.missed + 1 } }) ∧
      ∃ vs : List W64, happens .snapshotReadout s { s with
          mgmt := { s.mgmt with snapshot := none, missed := 0 }
          host := s.host ++ [.snapshot x.tagv x.time s.mgmt.missed vs] } ∧
        ∀ (k : Nat) (b : Option (BitVec 3)) (v : W64), Config.snapshotBlocks[k]? = some b → x.values[k]? = some v →
          ((∃ (d p : BitVec 3) (n : Nat), b = some d ∧ (n, p) ∈ s.mgmt.sealed ∧ p.toNat = d.toNat / (8 / n)) → vs[k]? = some (0 : W64)) ∧
          ((∀ (d p : BitVec 3) (n : Nat), b = some d → (n, p) ∈ s.mgmt.sealed → p.toNat ≠ d.toNat / (8 / n)) → vs[k]? = some v)) ∧
    ∀ rec : BitVec 512,
      (s.mgmt.snapshot = none → ∃ tag vs, s.sendFault rec = { s with
        host := s.host ++ [.faultRecord rec]
        mgmt := { s.mgmt with snapshot := some ⟨tag, s.fab.time, vs⟩ } }) ∧
      (∀ x, s.mgmt.snapshot = some x → s.sendFault rec = { s with
        host := s.host ++ [.faultRecord rec]
        mgmt := { s.mgmt with missed := s.mgmt.missed + 1 } })

/-- R120, R352, R367, R368, R373: firmware's bind record takes effect, pre-empting a task that it no longer serves; a partition mode that
does not exist is refused, and one that does is taken with the bind record of R373 and every saved context that no longer fits
EVICTED; an evicted context that fits again becomes ready at the host's request. The dealing of logical cores among the survivors is log entry 68. -/
def Obligations.PartitionsAndBinding : Prop :=
  ∀ (s : State), s.mgmt.boot = .up →
    (∀ rec, s.mode = .idle ∨ keepsTask s rec = true →
      happens (.bindRecordWrite Config.pcore rec) s { s with sched := { s.sched with bind := rec } }) ∧
    (∀ rec, s.mode = .running → noneDue s → cascadeSettled s → keepsTask s rec = false →
      ∃ t, happens (.bindRecordWrite Config.pcore rec) s t ∧ parked s t .preempted ∧ t.sched.bind = rec) ∧
    (∀ n, n ∉ [1, 2, 4, 8] → happens (.partitionModeChange n) s
      { s with host := s.host ++ [.managed "partition mode" (BitVec.ofNat 64 n) false] }) ∧
    (∀ n, n ∈ [1, 2, 4, 8] → s.mode = .idle → noneDue s → ∃ t, happens (.partitionModeChange n) s t ∧ t.mgmt.parts = n ∧
      t.sched.bind = bindFor s.mem.heldReset n ∧
      t.sched.saved = s.sched.saved.map (fun x =>
        if fitsMode n x.ctx.hdr = true then x else { x with why := .evicted }) ∧
      t.host.getLast? = some (.managed "partition mode" (BitVec.ofNat 64 n) true) ∧ t.ctx = s.ctx ∧ t.mem = s.mem) ∧
    ∀ sv, s.sched.saved = [sv] → sv.why = .evicted → sv.killed = false → fitsMode s.mgmt.parts sv.ctx.hdr = true →
      ∃ t, happens (.evictedContextRelaunch sv.ctx.lid sv.ctx.ctl.wid) s t ∧
        t.sched.saved = [{ sv with why := .preempted }] ∧ t.ctx = s.ctx ∧ t.mem = s.mem ∧
        ∀ n k, taskPlace s.sched.tasks sv.ctx.lid sv.ctx.ctl.lcore.toNat sv.ctx.ctl.wid = some n → s.sched.tasks[n]? = some k →
          t.sched.tasks = s.sched.tasks.set n { k with st := .parked }

/-! ### Decoding, the step, invariants, reset (R47 to R62, R54 to R56, R255, R361 to R368, R372) -/

namespace Sys2Proof.Claims

open Sys2Proof Sys2Proof.Machine

/-- A 7-bit operation lies in one of the ranges, bounds included. -/
def inRanges (op : Nat) (rs : List (Nat × Nat)) : Bool := rs.any fun r => decide (r.1 ≤ op) && decide (op ≤ r.2)

/-- The assigned operations of a class (Tables 3-8 to 3-11); the forms with a literal word have 0x40 added, L (R47, R51). -/
def assignedOps (k : BitVec 2) : List (Nat × Nat) :=
  match k with
  | 0 => [(0x01, 0x1A), (0x1C, 0x1E), (0x20, 0x31), (0x38, 0x3A), (0x54, 0x56), (0x5A, 0x5B), (0x5D, 0x5D), (0x60, 0x61),
      (0x63, 0x63), (0x68, 0x71)]
  | 1 => [(0x01, 0x0E), (0x10, 0x16), (0x18, 0x1D), (0x20, 0x22), (0x24, 0x29), (0x30, 0x34), (0x38, 0x3B), (0x5C, 0x5C),
      (0x70, 0x71), (0x74, 0x74)]
  | 2 => [(0x01, 0x0C), (0x10, 0x15), (0x18, 0x19)]
  | _ => [(0x01, 0x04), (0x08, 0x0A), (0x10, 0x14), (0x18, 0x1D), (0x20, 0x26), (0x28, 0x2A), (0x30, 0x38)]

/-- Words that the spec encodes, each with the word after it and the instruction that it stands for. -/
def specWords : List (IWord × IWord × Instr) :=
  [(0x81405187, 0, .div ⟨false, 0⟩ 5 6 7), (0x870220C4, 0, .cmp ⟨false, 0⟩ 4 2 3 4),
    (0x88C011C7, 0, .loop ⟨false, 0⟩ 1 7 (.short 7)), (0x89800000, 0, .rte ⟨false, 0⟩),
    (0x9C004262, 0x40, .gld ⟨false, 0⟩ 4 9 2 2 (some 0x40)), (0x8E418240, 0, .mtc ⟨false, 0⟩ 0x18 9),
    (0x15005140, 1000, .addi ⟨false, 0⟩ 5 5 (.lit 1000)), (0x20443105, 0, .vadd ⟨false, 1⟩ 3 4 5),
    (0xA2C12300, 0, .vrsq ⟨false, 0⟩ 18 12), (0xAC001143, 0, .vld ⟨false, 0⟩ 1 5 3 none),
    (0xA941E127, 0, .vqmx 0 30 4 true 7), (0xAE013042, 0, .klog 2 3 1 2), (0xAE8011C0, 0, .kset 1 7),
    (0x44202001, 0x00098011, .mprod ⟨0, some ⟨0, true, 3, false, 0, false, 0, true, 1⟩⟩ 2 0 1),
    (0xE0402187, 0, .copy ⟨0, none⟩ 2 6 7), (0xE74000F0, 0, .tokCl ⟨0, none⟩ 0xF0)]

/-- The words at the address of the next bundle stand in memory behind a translation that permits fetching them, and no other word
is kept for their addresses (R255, R372). -/
def codeStands (s : State) (ws : List IWord) : Prop :=
  ∀ j w, ws[j]? = some w →
    (∃ key leaf, codeBase s.ctx.hdr + 4 * (s.ctx.regs.pc.toNat + j) < 2 ^ 57 ∧
      translate s (codeBase s.ctx.hdr + 4 * (s.ctx.regs.pc.toNat + j)) .fetch = .ok key leaf ∧ s.homeWaits key = false ∧
      s.mem.homeBytes key 4 = leBytes 4 w.toNat) ∧
    ∀ k ∈ s.mem.kept, k.1 = keptKey s.ctx.lid (s.ctx.regs.pc.toNat + j) → k.2 = w

/-- Local and cistern memory are in canonical form. -/
def memoryCanonical (s : State) : Prop := s.mem.gmem.wf = true ∧ s.mem.cistern.wf = true

/-- The management registers are legal: a partition mode of Table 23-4, the clock within 2.0 and 3.0 GHz, and locks that stand only
in a module that is up (R361, R362, R365, R368). -/
def managementLegal (s : State) : Prop := s.mgmt.legal = true ∧ (s.mgmt.locked = true → s.mgmt.boot = .up)

/-- The agenda brings a module reset next. -/
def resetNext (s : State) : Prop := ∃ img dies rest, s.agenda = .moduleReset img dies :: rest

end Sys2Proof.Claims

/-- R47 to R62: the words of every well-formed instruction decode to it, alone or as a bundle of its own whatever follows, and the
first of them ends the bundle as asked. -/
def Obligations.DecodeOfEncode : Prop :=
  ∀ (i : Instr), i.wf = true →
    (∀ last, ∃ w, (encode last i).head? = some w ∧ (rawOf w).e = last ∧
      decodeSlot w ((encode last i).getD 1 0) = some i) ∧
    (i.fitsBundle i.len = true → ∀ rest, decodeBundle (encode true i ++ rest) = .ok i.len [(0, i)])

/-- R47 to R57: what decodes is well formed and encodes to the word that it was read from, with the word after it where it owns
one, so that no bit of a word is dropped and no two words stand for one instruction; its operation is assigned to its class. -/
def Obligations.EncodeOfDecode : Prop :=
  ∀ (w x : IWord) (i : Instr), decodeSlot w x = some i →
    i.wf = true ∧ encode (rawOf w).e i = (if (rawOf w).owns then [w, x] else [w]) ∧
      inRanges (rawOf w).op.toNat (assignedOps (rawOf w).k) = true

/-- R47, Tables 3-6 and 3-12: words that the spec encodes decode to the instructions that they stand for, the bundle of Table 3-12
frames as four slots, and the three failures of Table 3-6 have the traps it gives. -/
def Obligations.DecodingIsRight : Prop :=
  (∀ row ∈ specWords, decodeSlot row.1 row.2.1 = some row.2.2) ∧
    decodeBundle [0x15005140, 1000, 0x20443105, 0x44202001, 0x00098011, 0xE0402187] =
      .ok 6 [(0, .addi ⟨false, 0⟩ 5 5 (.lit 1000)), (2, .vadd ⟨false, 1⟩ 3 4 5),
        (3, .mprod ⟨0, some ⟨0, true, 3, false, 0, false, 0, true, 1⟩⟩ 2 0 1), (5, .copy ⟨0, none⟩ 2 6 7)] ∧
    decodeBundle [0, 0] = .trap 0x02 0x12 ∧ decodeBundle [0x20443105, 0x84C0A28B] = .trap 0x02 0x11 ∧
    decodeBundle [0x95C06082, 2] = .trap 0x01 0x95C06082

/-- Step and exec: with no event to come and no trap due, the running core executes the instruction whose words stand at the pc, its
words kept (R372), or stalls; a bundle of several slots issues its slots; an event of the agenda is executed alone. The agenda is the
model's (log entry 1), a word may be the one kept or the one in memory (31), and cycles and time advance freely (8). -/
def Obligations.StepRunsDecodedInstruction : Prop :=
  ∀ (s : State),
    (s.agenda = [] → s.mode = .running → s.trapDue = false →
      (∀ i : Instr, i.wf = true → i.fitsBundle i.len = true → s.ctx.regs.pc.toNat + i.len ≤ s.ctx.codeLen →
        codeStands s (encode true i) →
        step s = if stallsAlone (s.keepWords (encode true i)) i then .next (goOn (s.keepWords (encode true i)).spend)
          else exec i (s.keepWords (encode true i))) ∧
      ∀ ws slots, fetchBundle s = .bundle ws slots → onlySlot slots = none →
        step s = .next (runSlots (s.keepWords ws) ws slots)) ∧
    ∀ e rest, s.agenda = e :: rest → isEvent e = true → step s = exec e { s with agenda := rest }

/-- R30 to R32: the value written to a scalar register, a predicate or a lane mask is read back, and no other one changes; s0 reads
as zero, p0 as true and k0 as all ones whatever is written to them. -/
def Obligations.RegistersReadBack : Prop :=
  ∀ (r : Regs),
    (∀ (d n : BitVec 6) v, (r.setS d v).getS n = if n = 0 then 0 else if n = d then v else r.getS n) ∧
    (∀ (q n : BitVec 3) v, (r.setP q v).getP n = if n = 0 then true else if n = q then v else r.getP n) ∧
    (∀ (q n : BitVec 3) v, (r.setK q v).getK n = if n = 0 then BitVec.allOnes 512 else if n = q then v else r.getK n) ∧
    ∀ (d : BitVec 6) (q q' : BitVec 3) v w x (n : BitVec 6) (m : BitVec 3),
      ((r.setP q w).setK q' x).getS n = r.getS n ∧ ((r.setS d v).setK q' x).getP m = r.getP m ∧
        ((r.setS d v).setP q w).getK m = r.getK m ∧ (((r.setS d v).setP q w).setK q' x).pc = r.pc

/-- Every step keeps local and cistern memory in canonical form: addresses strictly rising, no byte listed twice
(the form is the model's, log entry 2). -/
def Obligations.StepsKeepMemoryCanonical : Prop :=
  ∀ (s t : State), memoryCanonical s → step s = .next t → memoryCanonical t

/-- R361, R362, R365, R368: every step keeps the management registers legal, and while the locks stand only a module reset changes
what they hold: the endpoint id, the key digest and the locks themselves; the version counter never falls. -/
def Obligations.StepsKeepManagementLegal : Prop :=
  ∀ (s t : State), managementLegal s → step s = .next t →
    managementLegal t ∧ s.mgmt.version ≤ t.mgmt.version ∧
      (s.mgmt.locked = true → resetNext s ∨
        (t.mgmt.locked = true ∧ t.mgmt.endpoint = s.mgmt.endpoint ∧ t.mgmt.keyDigest = s.mgmt.keyDigest))

/-- R361, R344, R42 and log entry 3: what reset leaves. Both invariants hold, no die has left reset, nothing is locked, no task runs and
nothing is written; the registers hold the model's choice of log entry 3, the values that R344 gives a task. -/
def Obligations.ResetHolds : Prop :=
  let s := State.reset
  memoryCanonical s ∧ managementLegal s ∧ s.memWf = true ∧ s.mode = .idle ∧ s.mgmt.boot = .inReset ∧ s.mgmt.locked = false ∧
    s.mem.heldReset = 0xFF ∧ s.mgmt.written = none ∧ s.host = [] ∧ s.sched.launches = [] ∧ s.mem.tlb1 = [] ∧ s.mem.tlb = [] ∧
    (∀ n, s.ctx.regs.getS n = 0) ∧ (∀ n, s.ctx.regs.getP n = (n == 0)) ∧ s.ctx.ctl.rmode = 0 ∧ s.ctx.ctl.fflags = 0 ∧
    s.ctx.tr.tvec = 0xFFFFFFFF ∧ s.ctx.tr.tstat = 0 ∧ s.ctx.tr.lcnt0 = 0 ∧ s.ctx.tr.lcnt1 = 0 ∧
    (∀ n, n < 16 → s.ctx.token n = ⟨0, true, 0⟩) ∧ s.ctx.basin.inUse = [] ∧ s.ctx.basin.dirty = [] ∧ s.ctx.eng.accs = []
end

