-- ==== Sys2Proof/Laws/Memory.lean ====
section
/-! SUPPORT. Byte maps: a write keeps the canonical form, and each address then reads as written or as before. -/

namespace Sys2Proof.Machine

open Sys2Proof

theorem Mem.wf_cons (k : Nat) (v : Byte) (m : Mem) :
    Mem.wf ((k, v) :: m) = true ↔ (∀ c ∈ m, k < c.1) ∧ Mem.wf m = true := by
  induction m generalizing k v with
  | nil => simp [Mem.wf]
  | cons c m ih =>
    obtain ⟨k', v'⟩ := c
    rw [Mem.wf]
    simp only [Bool.and_eq_true, decide_eq_true_eq, List.mem_cons, forall_eq_or_imp]
    constructor
    · rintro ⟨h, hw⟩
      refine ⟨⟨h, fun c hc => ?_⟩, hw⟩
      have := ((ih k' v').1 hw).1 c hc
      omega
    · rintro ⟨⟨h, _⟩, hw⟩
      exact ⟨h, hw⟩

theorem Mem.get_none_of_lt (m : Mem) (x : Nat) (h : ∀ c ∈ m, x < c.1) : m.get x = none := by
  induction m with
  | nil => rfl
  | cons c m ih =>
    obtain ⟨k, v⟩ := c
    have := h (k, v) (by simp)
    simp only [Mem.get]
    rw [if_neg (by simp; omega), ih fun c hc => h c (by simp [hc])]

/-- The byte of a list of optional bytes laid at `a` for an address, if it has one. -/
def laidAt (a : Nat) (bs : List (Option Byte)) (x : Nat) : Option Byte := if a ≤ x then bs.getD (x - a) none else none

theorem laidAt_cons (a : Nat) (b : Option Byte) (bs : List (Option Byte)) (x : Nat) :
    laidAt a (b :: bs) x = if x = a then b else laidAt (a + 1) bs x := by
  unfold laidAt
  by_cases h : x = a
  · subst h; simp
  · by_cases h2 : a ≤ x
    · have h3 : a + 1 ≤ x := by omega
      have : x - a = (x - (a + 1)) + 1 := by omega
      simp [h, h2, h3, this]
    · have h3 : ¬ a + 1 ≤ x := by omega
      simp [h, h2, h3]

theorem Mem.overlay_spec (a : Nat) (bs : List (Option Byte)) (m : Mem) (hw : m.wf = true) (hm : ∀ c ∈ m, a ≤ c.1) :
    (Mem.overlay a bs m).wf = true ∧ (∀ c ∈ Mem.overlay a bs m, a ≤ c.1) ∧
      ∀ x, (Mem.overlay a bs m).get x = (laidAt a bs x).or (m.get x) := by
  induction bs generalizing a m with
  | nil =>
    have e : Mem.overlay a [] m = m := by cases m <;> rfl
    exact ⟨e ▸ hw, e ▸ hm, fun x => by simp [e, laidAt]⟩
  | cons b bs ih =>
    cases m with
    | nil =>
      obtain ⟨h1, h2, h3⟩ := ih (a + 1) [] rfl (by simp)
      cases b with
      | none =>
        refine ⟨h1, fun c hc => by have := h2 c hc; omega, fun x => ?_⟩
        simp only [Mem.overlay, laidAt_cons, h3]
        split
        · subst_vars; simp [laidAt]
        · rfl
      | some v =>
        simp only [Mem.overlay]
        refine ⟨(Mem.wf_cons _ _ _).2 ⟨fun c hc => by have := h2 c hc; omega, h1⟩, ?_, fun x => ?_⟩
        · rintro c (_ | ⟨_, hc⟩)
          · simp
          · have := h2 _ hc; omega
        · simp only [Mem.get, laidAt_cons, h3]
          by_cases hx : x = a
          · simp [hx]
          · simp [hx, Ne.symm hx]
    | cons c m =>
      obtain ⟨k, v⟩ := c
      have hk : a ≤ k := hm (k, v) (by simp)
      obtain ⟨hlt, hwm⟩ := (Mem.wf_cons k v m).1 hw
      simp only [Mem.overlay]
      by_cases he : k = a
      · subst he
        obtain ⟨h1, h2, h3⟩ := ih (k + 1) m hwm (fun c hc => hlt c hc)
        simp only [beq_self_eq_true, if_true]
        refine ⟨(Mem.wf_cons _ _ _).2 ⟨fun c hc => h2 c hc, h1⟩, ?_, fun x => ?_⟩
        · rintro c (_ | ⟨_, hc⟩)
          · simp
          · have := h2 _ hc; omega
        · simp only [Mem.get, laidAt_cons, h3]
          by_cases hx : x = k
          · subst hx; cases b <;> simp
          · simp [hx, Ne.symm hx]
      · have hne : (k == a) = false := by simp [he]
        have hlt' : ∀ c ∈ (k, v) :: m, a + 1 ≤ c.1 := by
          rintro c (_ | ⟨_, hc⟩)
          · show a + 1 ≤ k; omega
          · have := hlt _ hc; omega
        obtain ⟨h1, h2, h3⟩ := ih (a + 1) ((k, v) :: m) hw hlt'
        have hxa : Mem.get ((k, v) :: m) a = none := Mem.get_none_of_lt _ _ fun c hc => by have := hlt' c hc; omega
        simp only [hne, Bool.false_eq_true, if_false]
        cases b with
        | none =>
          refine ⟨h1, fun c hc => by have := h2 c hc; omega, fun x => ?_⟩
          simp only [laidAt_cons, h3]
          split
          · subst_vars; simp [laidAt]
          · rfl
        | some w =>
          refine ⟨(Mem.wf_cons _ _ _).2 ⟨fun c hc => by have := h2 c hc; omega, h1⟩, ?_, fun x => ?_⟩
          · rintro c (_ | ⟨_, hc⟩)
            · simp
            · have := h2 _ hc; omega
          · rw [laidAt_cons]
            by_cases hx : x = a
            · simp [hx, Mem.get]
            · rw [Mem.get, if_neg (by simpa using Ne.symm hx), h3, if_neg hx]

/-- A write keeps the canonical form, and each address then reads as written, or as before. -/
theorem Mem.write_spec (m : Mem) (a : Nat) (bs : List (Option Byte)) (hw : Mem.wf m = true) :
    Mem.wf (Mem.write m a bs) = true ∧ (∀ n, (∀ c ∈ m, n ≤ c.1) → n ≤ a → ∀ c ∈ Mem.write m a bs, n ≤ c.1) ∧
      ∀ x, Mem.get (Mem.write m a bs) x = (laidAt a bs x).or (m.get x) := by
  induction m with
  | nil =>
    have := Mem.overlay_spec a bs [] rfl (by simp)
    exact ⟨this.1, fun n _ hn c hc => by have := this.2.1 c hc; omega, this.2.2⟩
  | cons c m ih =>
    obtain ⟨k, v⟩ := c
    obtain ⟨hlt, hwm⟩ := (Mem.wf_cons k v m).1 hw
    by_cases hk : k < a
    · obtain ⟨h1, h2, h3⟩ := ih hwm
      simp only [Mem.write, hk, if_true]
      have hgt : ∀ c ∈ Mem.write m a bs, k + 1 ≤ c.1 := h2 (k + 1) hlt (by omega)
      refine ⟨(Mem.wf_cons _ _ _).2 ⟨hgt, h1⟩, ?_, fun x => ?_⟩
      · rintro n hn _ c (_ | ⟨_, hc⟩)
        · exact hn (k, v) (by simp)
        · have := hgt _ hc; have := hn (k, v) (by simp); simp at this; omega
      · simp only [Mem.get]
        by_cases hx : k = x
        · subst hx
          have : laidAt a bs k = none := by simp [laidAt]; omega
          simp [this]
        · simp [hx, h3]
    · simp only [Mem.write, hk, if_false]
      have hge : ∀ c ∈ (k, v) :: m, a ≤ c.1 := by
        rintro c (_ | ⟨_, hc⟩)
        · show a ≤ k; omega
        · have := hlt _ hc; omega
      have := Mem.overlay_spec a bs ((k, v) :: m) hw hge
      exact ⟨this.1, fun n _ hn c hc => by have := this.2.1 c hc; omega, this.2.2⟩

theorem Mem.writeAll_spec (m : Mem) (a : Nat) (bs : List Byte) (hw : Mem.wf m = true) :
    Mem.wf (Mem.writeAll m a bs) = true ∧
      ∀ x, Mem.get (Mem.writeAll m a bs) x = (laidAt a (bs.map some) x).or (Mem.get m x) :=
  have h := Mem.write_spec m a (bs.map some) hw
  ⟨h.1, h.2.2⟩

theorem Mem.write_wf (m : Mem) (a : Nat) (bs : List (Option Byte)) (hw : Mem.wf m = true) : Mem.wf (Mem.write m a bs) = true :=
  (Mem.write_spec m a bs hw).1

theorem Mem.writeAll_wf (m : Mem) (a : Nat) (bs : List Byte) (hw : Mem.wf m = true) : Mem.wf (Mem.writeAll m a bs) = true :=
  Mem.write_wf m a _ hw

theorem Mem.filter_wf (f : Host.Cell → Bool) (m : Mem) (hw : Mem.wf m = true) : Mem.wf (m.filter f) = true := by
  induction m with
  | nil => rfl
  | cons c m ih =>
    obtain ⟨k, v⟩ := c
    obtain ⟨h1, h2⟩ := (Mem.wf_cons k v m).1 hw
    simp only [List.filter_cons]
    split
    · exact (Mem.wf_cons _ _ _).2 ⟨fun c hc => h1 c (List.mem_filter.1 hc).1, ih h2⟩
    · exact ih h2

end Sys2Proof.Machine
end

