-- ==== Sys2Proof/Laws/State.lean ====
section
/-! SUPPORT. What each named update of the state changes and leaves: one lemma for each field, so that no proof unfolds a record
update. -/

set_option Elab.async false

namespace Sys2Proof.Machine

open Sys2Proof

/-! ### Updates of the whole state -/

@[simp] theorem State.tick_ctx (s : State) : (s.tick).ctx = s.ctx := rfl
@[simp] theorem State.tick_mode (s : State) : (s.tick).mode = s.mode := rfl
@[simp] theorem State.tick_freeCtr (s : State) : (s.tick).freeCtr = s.freeCtr + 1 := rfl
@[simp] theorem State.tick_agenda (s : State) : (s.tick).agenda = s.agenda := rfl
@[simp] theorem State.tick_mem (s : State) : (s.tick).mem = s.mem := rfl
@[simp] theorem State.tick_sched (s : State) : (s.tick).sched = s.sched := rfl
@[simp] theorem State.tick_mgmt (s : State) : (s.tick).mgmt = s.mgmt := rfl
@[simp] theorem State.tick_host (s : State) : (s.tick).host = s.host := rfl

@[simp] theorem State.tick_fab_boards (s : State) : s.tick.fab.boards = s.fab.boards := rfl
@[simp] theorem State.tick_fab_groups (s : State) : s.tick.fab.groups = s.fab.groups := rfl
@[simp] theorem State.tick_fab_colls (s : State) : s.tick.fab.colls = s.fab.colls := rfl
@[simp] theorem State.tick_fab_collGen (s : State) : s.tick.fab.collGen = s.fab.collGen := rfl
@[simp] theorem State.tick_fab_lost (s : State) : s.tick.fab.lost = s.fab.lost := rfl
@[simp] theorem State.tick_fab_portErrors (s : State) : s.tick.fab.portErrors = s.fab.portErrors := rfl
@[simp] theorem State.tick_fab_received (s : State) : s.tick.fab.received = s.fab.received := rfl
@[simp] theorem State.tick_fab_links (s : State) : s.tick.fab.links = s.fab.links := rfl
@[simp] theorem State.tick_fab_out (s : State) : s.tick.fab.out = s.fab.out := rfl

@[simp] theorem State.spend_mode (s : State) : (s.spend).mode = s.mode := rfl
@[simp] theorem State.spend_freeCtr (s : State) : (s.spend).freeCtr = s.freeCtr := rfl
@[simp] theorem State.spend_agenda (s : State) : (s.spend).agenda = s.agenda := rfl
@[simp] theorem State.spend_mem (s : State) : (s.spend).mem = s.mem := rfl
@[simp] theorem State.spend_sched (s : State) : (s.spend).sched = s.sched := rfl
@[simp] theorem State.spend_fab (s : State) : (s.spend).fab = s.fab := rfl
@[simp] theorem State.spend_mgmt (s : State) : (s.spend).mgmt = s.mgmt := rfl
@[simp] theorem State.spend_host (s : State) : (s.spend).host = s.host := rfl

@[simp] theorem State.spend_ctx_lid (s : State) : s.spend.ctx.lid = s.ctx.lid := rfl
@[simp] theorem State.spend_ctx_asid (s : State) : s.spend.ctx.asid = s.ctx.asid := rfl
@[simp] theorem State.spend_ctx_hdr (s : State) : s.spend.ctx.hdr = s.ctx.hdr := rfl
@[simp] theorem State.spend_ctx_regs (s : State) : s.spend.ctx.regs = s.ctx.regs := rfl
@[simp] theorem State.spend_ctx_tr (s : State) : s.spend.ctx.tr = s.ctx.tr := rfl
@[simp] theorem State.spend_ctx_basin (s : State) : s.spend.ctx.basin = s.ctx.basin := rfl
@[simp] theorem State.spend_ctx_pipe (s : State) : s.spend.ctx.pipe = s.ctx.pipe := rfl
@[simp] theorem State.spend_ctx_eng (s : State) : s.spend.ctx.eng = s.ctx.eng := rfl
@[simp] theorem State.spend_ctx_casc (s : State) : s.spend.ctx.casc = s.ctx.casc := rfl
@[simp] theorem State.spend_ctx_log (s : State) : s.spend.ctx.log = s.ctx.log := rfl
@[simp] theorem State.spend_ctx_snap (s : State) : s.spend.ctx.snap = s.ctx.snap := rfl

@[simp] theorem State.tell_ctx (s : State) (m : HostMsg) : (s.tell m).ctx = s.ctx := rfl
@[simp] theorem State.tell_mode (s : State) (m : HostMsg) : (s.tell m).mode = s.mode := rfl
@[simp] theorem State.tell_freeCtr (s : State) (m : HostMsg) : (s.tell m).freeCtr = s.freeCtr := rfl
@[simp] theorem State.tell_agenda (s : State) (m : HostMsg) : (s.tell m).agenda = s.agenda := rfl
@[simp] theorem State.tell_mem (s : State) (m : HostMsg) : (s.tell m).mem = s.mem := rfl
@[simp] theorem State.tell_sched (s : State) (m : HostMsg) : (s.tell m).sched = s.sched := rfl
@[simp] theorem State.tell_fab (s : State) (m : HostMsg) : (s.tell m).fab = s.fab := rfl
@[simp] theorem State.tell_mgmt (s : State) (m : HostMsg) : (s.tell m).mgmt = s.mgmt := rfl
@[simp] theorem State.tell_host (s : State) (m : HostMsg) : (s.tell m).host = s.host ++ [m] := rfl

@[simp] theorem State.latch_ctx (s : State) (g : BitVec 16) : (s.latch g).ctx = s.ctx := rfl
@[simp] theorem State.latch_mode (s : State) (g : BitVec 16) : (s.latch g).mode = s.mode := rfl
@[simp] theorem State.latch_freeCtr (s : State) (g : BitVec 16) : (s.latch g).freeCtr = s.freeCtr := rfl
@[simp] theorem State.latch_agenda (s : State) (g : BitVec 16) : (s.latch g).agenda = s.agenda := rfl
@[simp] theorem State.latch_mem (s : State) (g : BitVec 16) : (s.latch g).mem = s.mem := rfl
@[simp] theorem State.latch_sched (s : State) (g : BitVec 16) : (s.latch g).sched = s.sched := rfl
@[simp] theorem State.latch_fab (s : State) (g : BitVec 16) : (s.latch g).fab = s.fab := rfl
@[simp] theorem State.latch_host (s : State) (g : BitVec 16) : (s.latch g).host = s.host := rfl
@[simp] theorem State.trigger_ctx (s : State) (g : BitVec 16) : (s.trigger g).ctx = s.ctx := by
  unfold State.trigger; split <;> rfl
@[simp] theorem State.trigger_mode (s : State) (g : BitVec 16) : (s.trigger g).mode = s.mode := by
  unfold State.trigger; split <;> rfl
@[simp] theorem State.trigger_freeCtr (s : State) (g : BitVec 16) : (s.trigger g).freeCtr = s.freeCtr := by
  unfold State.trigger; split <;> rfl
@[simp] theorem State.trigger_agenda (s : State) (g : BitVec 16) : (s.trigger g).agenda = s.agenda := by
  unfold State.trigger; split <;> rfl
@[simp] theorem State.trigger_mem (s : State) (g : BitVec 16) : (s.trigger g).mem = s.mem := by
  unfold State.trigger; split <;> rfl
@[simp] theorem State.trigger_sched (s : State) (g : BitVec 16) : (s.trigger g).sched = s.sched := by
  unfold State.trigger; split <;> rfl
@[simp] theorem State.trigger_fab (s : State) (g : BitVec 16) : (s.trigger g).fab = s.fab := by
  unfold State.trigger; split <;> rfl
@[simp] theorem State.trigger_host (s : State) (g : BitVec 16) : (s.trigger g).host = s.host := by
  unfold State.trigger; split <;> rfl
@[simp] theorem State.sendFault_ctx (s : State) (r : BitVec 512) : (s.sendFault r).ctx = s.ctx := by
  simp [State.sendFault]
@[simp] theorem State.sendFault_mode (s : State) (r : BitVec 512) : (s.sendFault r).mode = s.mode := by
  simp [State.sendFault]
@[simp] theorem State.sendFault_freeCtr (s : State) (r : BitVec 512) : (s.sendFault r).freeCtr = s.freeCtr := by
  simp [State.sendFault]
@[simp] theorem State.sendFault_agenda (s : State) (r : BitVec 512) : (s.sendFault r).agenda = s.agenda := by
  simp [State.sendFault]
@[simp] theorem State.sendFault_mem (s : State) (r : BitVec 512) : (s.sendFault r).mem = s.mem := by
  simp [State.sendFault]
@[simp] theorem State.sendFault_sched (s : State) (r : BitVec 512) : (s.sendFault r).sched = s.sched := by
  simp [State.sendFault]
@[simp] theorem State.sendFault_fab (s : State) (r : BitVec 512) : (s.sendFault r).fab = s.fab := by
  simp [State.sendFault]
@[simp] theorem State.sendFault_host (s : State) (r : BitVec 512) : (s.sendFault r).host = s.host ++ [.faultRecord r] := by
  simp [State.sendFault]
@[simp] theorem State.record_ctx (s : State) (r : Nat) (x y : W64 × W64 × W64) : (s.record r x y).ctx = s.ctx := by
  simp [State.record]
@[simp] theorem State.record_mode (s : State) (r : Nat) (x y : W64 × W64 × W64) : (s.record r x y).mode = s.mode := by
  simp [State.record]
@[simp] theorem State.record_freeCtr (s : State) (r : Nat) (x y : W64 × W64 × W64) : (s.record r x y).freeCtr = s.freeCtr := by
  simp [State.record]
@[simp] theorem State.record_agenda (s : State) (r : Nat) (x y : W64 × W64 × W64) : (s.record r x y).agenda = s.agenda := by
  simp [State.record]
@[simp] theorem State.record_mem (s : State) (r : Nat) (x y : W64 × W64 × W64) : (s.record r x y).mem = s.mem := by
  simp [State.record]
@[simp] theorem State.record_sched (s : State) (r : Nat) (x y : W64 × W64 × W64) : (s.record r x y).sched = s.sched := by
  simp [State.record]
@[simp] theorem State.record_fab (s : State) (r : Nat) (x y : W64 × W64 × W64) : (s.record r x y).fab = s.fab := by
  simp [State.record]

@[simp] theorem State.send_ctx (s : State) (m : OutMsg) : (s.send m).ctx = s.ctx := rfl
@[simp] theorem State.send_mode (s : State) (m : OutMsg) : (s.send m).mode = s.mode := rfl
@[simp] theorem State.send_freeCtr (s : State) (m : OutMsg) : (s.send m).freeCtr = s.freeCtr := rfl
@[simp] theorem State.send_agenda (s : State) (m : OutMsg) : (s.send m).agenda = s.agenda := rfl
@[simp] theorem State.send_mem (s : State) (m : OutMsg) : (s.send m).mem = s.mem := rfl
@[simp] theorem State.send_sched (s : State) (m : OutMsg) : (s.send m).sched = s.sched := rfl
@[simp] theorem State.send_mgmt (s : State) (m : OutMsg) : (s.send m).mgmt = s.mgmt := rfl
@[simp] theorem State.send_host (s : State) (m : OutMsg) : (s.send m).host = s.host := rfl

@[simp] theorem State.setLaunch_ctx (s : State) (lid : BitVec 32) (f : Launch → Launch) : (s.setLaunch lid f).ctx = s.ctx := rfl
@[simp] theorem State.setLaunch_mode (s : State) (lid : BitVec 32) (f : Launch → Launch) : (s.setLaunch lid f).mode = s.mode := rfl
@[simp] theorem State.setLaunch_freeCtr (s : State) (lid : BitVec 32) (f : Launch → Launch) : (s.setLaunch lid f).freeCtr = s.freeCtr := rfl
@[simp] theorem State.setLaunch_agenda (s : State) (lid : BitVec 32) (f : Launch → Launch) : (s.setLaunch lid f).agenda = s.agenda := rfl
@[simp] theorem State.setLaunch_mem (s : State) (lid : BitVec 32) (f : Launch → Launch) : (s.setLaunch lid f).mem = s.mem := rfl
@[simp] theorem State.setLaunch_fab (s : State) (lid : BitVec 32) (f : Launch → Launch) : (s.setLaunch lid f).fab = s.fab := rfl
@[simp] theorem State.setLaunch_mgmt (s : State) (lid : BitVec 32) (f : Launch → Launch) : (s.setLaunch lid f).mgmt = s.mgmt := rfl
@[simp] theorem State.setLaunch_host (s : State) (lid : BitVec 32) (f : Launch → Launch) : (s.setLaunch lid f).host = s.host := rfl

@[simp] theorem State.setTask_ctx (s : State) (lid : BitVec 32) (n : Nat) (wid : W64) (f : Task → Task) : (s.setTask lid n wid f).ctx = s.ctx := by
  unfold State.setTask; split <;> rfl
@[simp] theorem State.setTask_mode (s : State) (lid : BitVec 32) (n : Nat) (wid : W64) (f : Task → Task) : (s.setTask lid n wid f).mode = s.mode := by
  unfold State.setTask; split <;> rfl
@[simp] theorem State.setTask_freeCtr (s : State) (lid : BitVec 32) (n : Nat) (wid : W64) (f : Task → Task) : (s.setTask lid n wid f).freeCtr = s.freeCtr := by
  unfold State.setTask; split <;> rfl
@[simp] theorem State.setTask_agenda (s : State) (lid : BitVec 32) (n : Nat) (wid : W64) (f : Task → Task) : (s.setTask lid n wid f).agenda = s.agenda := by
  unfold State.setTask; split <;> rfl
@[simp] theorem State.setTask_mem (s : State) (lid : BitVec 32) (n : Nat) (wid : W64) (f : Task → Task) : (s.setTask lid n wid f).mem = s.mem := by
  unfold State.setTask; split <;> rfl
@[simp] theorem State.setTask_fab (s : State) (lid : BitVec 32) (n : Nat) (wid : W64) (f : Task → Task) : (s.setTask lid n wid f).fab = s.fab := by
  unfold State.setTask; split <;> rfl
@[simp] theorem State.setTask_mgmt (s : State) (lid : BitVec 32) (n : Nat) (wid : W64) (f : Task → Task) : (s.setTask lid n wid f).mgmt = s.mgmt := by
  unfold State.setTask; split <;> rfl
@[simp] theorem State.setTask_host (s : State) (lid : BitVec 32) (n : Nat) (wid : W64) (f : Task → Task) : (s.setTask lid n wid f).host = s.host := by
  unfold State.setTask; split <;> rfl

@[simp] theorem State.setCasc_ctx (s : State) (f : Cascade → Cascade) : (s.setCasc f).ctx = { s.ctx with casc := f s.ctx.casc } := rfl
@[simp] theorem State.setCasc_mode (s : State) (f : Cascade → Cascade) : (s.setCasc f).mode = s.mode := rfl
@[simp] theorem State.setCasc_freeCtr (s : State) (f : Cascade → Cascade) : (s.setCasc f).freeCtr = s.freeCtr := rfl
@[simp] theorem State.setCasc_agenda (s : State) (f : Cascade → Cascade) : (s.setCasc f).agenda = s.agenda := rfl
@[simp] theorem State.setCasc_mem (s : State) (f : Cascade → Cascade) : (s.setCasc f).mem = s.mem := rfl
@[simp] theorem State.setCasc_sched (s : State) (f : Cascade → Cascade) : (s.setCasc f).sched = s.sched := rfl
@[simp] theorem State.setCasc_fab (s : State) (f : Cascade → Cascade) : (s.setCasc f).fab = s.fab := rfl
@[simp] theorem State.setCasc_mgmt (s : State) (f : Cascade → Cascade) : (s.setCasc f).mgmt = s.mgmt := rfl
@[simp] theorem State.setCasc_host (s : State) (f : Cascade → Cascade) : (s.setCasc f).host = s.host := rfl

@[simp] theorem State.dequeue_mode (s : State) (n : Nat) : (s.dequeue n).mode = s.mode := rfl
@[simp] theorem State.dequeue_freeCtr (s : State) (n : Nat) : (s.dequeue n).freeCtr = s.freeCtr := rfl
@[simp] theorem State.dequeue_agenda (s : State) (n : Nat) : (s.dequeue n).agenda = s.agenda := rfl
@[simp] theorem State.dequeue_mem (s : State) (n : Nat) : (s.dequeue n).mem = s.mem := rfl
@[simp] theorem State.dequeue_sched (s : State) (n : Nat) : (s.dequeue n).sched = s.sched := rfl
@[simp] theorem State.dequeue_fab (s : State) (n : Nat) : (s.dequeue n).fab = s.fab := rfl
@[simp] theorem State.dequeue_mgmt (s : State) (n : Nat) : (s.dequeue n).mgmt = s.mgmt := rfl
@[simp] theorem State.dequeue_host (s : State) (n : Nat) : (s.dequeue n).host = s.host := rfl

@[simp] theorem State.raise_mode (s : State) (f : Flags) : (s.raise f).mode = s.mode := rfl
@[simp] theorem State.raise_freeCtr (s : State) (f : Flags) : (s.raise f).freeCtr = s.freeCtr := rfl
@[simp] theorem State.raise_agenda (s : State) (f : Flags) : (s.raise f).agenda = s.agenda := rfl
@[simp] theorem State.raise_mem (s : State) (f : Flags) : (s.raise f).mem = s.mem := rfl
@[simp] theorem State.raise_sched (s : State) (f : Flags) : (s.raise f).sched = s.sched := rfl
@[simp] theorem State.raise_fab (s : State) (f : Flags) : (s.raise f).fab = s.fab := rfl
@[simp] theorem State.raise_mgmt (s : State) (f : Flags) : (s.raise f).mgmt = s.mgmt := rfl
@[simp] theorem State.raise_host (s : State) (f : Flags) : (s.raise f).host = s.host := rfl

@[simp] theorem State.setBoard_ctx (s : State) (b : Board) : (s.setBoard b).ctx = s.ctx := rfl
@[simp] theorem State.setBoard_mode (s : State) (b : Board) : (s.setBoard b).mode = s.mode := rfl
@[simp] theorem State.setBoard_freeCtr (s : State) (b : Board) : (s.setBoard b).freeCtr = s.freeCtr := rfl
@[simp] theorem State.setBoard_agenda (s : State) (b : Board) : (s.setBoard b).agenda = s.agenda := rfl
@[simp] theorem State.setBoard_mem (s : State) (b : Board) : (s.setBoard b).mem = s.mem := rfl
@[simp] theorem State.setBoard_sched (s : State) (b : Board) : (s.setBoard b).sched = s.sched := rfl
@[simp] theorem State.setBoard_mgmt (s : State) (b : Board) : (s.setBoard b).mgmt = s.mgmt := rfl
@[simp] theorem State.setBoard_host (s : State) (b : Board) : (s.setBoard b).host = s.host := rfl

@[simp] theorem State.setGroup_ctx (s : State) (g : Group) : (s.setGroup g).ctx = s.ctx := rfl
@[simp] theorem State.setGroup_mode (s : State) (g : Group) : (s.setGroup g).mode = s.mode := rfl
@[simp] theorem State.setGroup_freeCtr (s : State) (g : Group) : (s.setGroup g).freeCtr = s.freeCtr := rfl
@[simp] theorem State.setGroup_agenda (s : State) (g : Group) : (s.setGroup g).agenda = s.agenda := rfl
@[simp] theorem State.setGroup_mem (s : State) (g : Group) : (s.setGroup g).mem = s.mem := rfl
@[simp] theorem State.setGroup_sched (s : State) (g : Group) : (s.setGroup g).sched = s.sched := rfl
@[simp] theorem State.setGroup_mgmt (s : State) (g : Group) : (s.setGroup g).mgmt = s.mgmt := rfl
@[simp] theorem State.setGroup_host (s : State) (g : Group) : (s.setGroup g).host = s.host := rfl

@[simp] theorem State.setColl_ctx (s : State) (c : Coll) : (s.setColl c).ctx = s.ctx := rfl
@[simp] theorem State.setColl_mode (s : State) (c : Coll) : (s.setColl c).mode = s.mode := rfl
@[simp] theorem State.setColl_freeCtr (s : State) (c : Coll) : (s.setColl c).freeCtr = s.freeCtr := rfl
@[simp] theorem State.setColl_agenda (s : State) (c : Coll) : (s.setColl c).agenda = s.agenda := rfl
@[simp] theorem State.setColl_mem (s : State) (c : Coll) : (s.setColl c).mem = s.mem := rfl
@[simp] theorem State.setColl_sched (s : State) (c : Coll) : (s.setColl c).sched = s.sched := rfl
@[simp] theorem State.setColl_mgmt (s : State) (c : Coll) : (s.setColl c).mgmt = s.mgmt := rfl
@[simp] theorem State.setColl_host (s : State) (c : Coll) : (s.setColl c).host = s.host := rfl

@[simp] theorem State.setLink_ctx (s : State) (n : Nat) (l : Link) : (s.setLink n l).ctx = s.ctx := rfl
@[simp] theorem State.setLink_mode (s : State) (n : Nat) (l : Link) : (s.setLink n l).mode = s.mode := rfl
@[simp] theorem State.setLink_freeCtr (s : State) (n : Nat) (l : Link) : (s.setLink n l).freeCtr = s.freeCtr := rfl
@[simp] theorem State.setLink_agenda (s : State) (n : Nat) (l : Link) : (s.setLink n l).agenda = s.agenda := rfl
@[simp] theorem State.setLink_mem (s : State) (n : Nat) (l : Link) : (s.setLink n l).mem = s.mem := rfl
@[simp] theorem State.setLink_sched (s : State) (n : Nat) (l : Link) : (s.setLink n l).sched = s.sched := rfl
@[simp] theorem State.setLink_mgmt (s : State) (n : Nat) (l : Link) : (s.setLink n l).mgmt = s.mgmt := rfl
@[simp] theorem State.setLink_host (s : State) (n : Nat) (l : Link) : (s.setLink n l).host = s.host := rfl

@[simp] theorem State.setGraph_ctx (s : State) (n : Nat) (g : Graph) : (s.setGraph n g).ctx = s.ctx := rfl
@[simp] theorem State.setGraph_mode (s : State) (n : Nat) (g : Graph) : (s.setGraph n g).mode = s.mode := rfl
@[simp] theorem State.setGraph_freeCtr (s : State) (n : Nat) (g : Graph) : (s.setGraph n g).freeCtr = s.freeCtr := rfl
@[simp] theorem State.setGraph_agenda (s : State) (n : Nat) (g : Graph) : (s.setGraph n g).agenda = s.agenda := rfl
@[simp] theorem State.setGraph_mem (s : State) (n : Nat) (g : Graph) : (s.setGraph n g).mem = s.mem := rfl
@[simp] theorem State.setGraph_sched (s : State) (n : Nat) (g : Graph) : (s.setGraph n g).sched = s.sched := rfl
@[simp] theorem State.setGraph_fab (s : State) (n : Nat) (g : Graph) : (s.setGraph n g).fab = s.fab := rfl
@[simp] theorem State.setGraph_host (s : State) (n : Nat) (g : Graph) : (s.setGraph n g).host = s.host := rfl

@[simp] theorem State.vacate_ctx (s : State) : (s.vacate).ctx = Ctx.start := rfl
@[simp] theorem State.vacate_mode (s : State) : (s.vacate).mode = .idle := rfl
@[simp] theorem State.vacate_freeCtr (s : State) : (s.vacate).freeCtr = s.freeCtr := rfl
@[simp] theorem State.vacate_agenda (s : State) : (s.vacate).agenda = s.agenda := rfl
@[simp] theorem State.vacate_mem (s : State) : (s.vacate).mem = s.mem := rfl
@[simp] theorem State.vacate_sched (s : State) : (s.vacate).sched = s.sched := rfl
@[simp] theorem State.vacate_fab (s : State) : (s.vacate).fab = s.fab := rfl
@[simp] theorem State.vacate_mgmt (s : State) : (s.vacate).mgmt = s.mgmt := rfl
@[simp] theorem State.vacate_host (s : State) : (s.vacate).host = s.host := rfl

@[simp] theorem State.keepWords_ctx (s : State) (ws : List IWord) : (s.keepWords ws).ctx = s.ctx := rfl
@[simp] theorem State.keepWords_mode (s : State) (ws : List IWord) : (s.keepWords ws).mode = s.mode := rfl
@[simp] theorem State.keepWords_freeCtr (s : State) (ws : List IWord) : (s.keepWords ws).freeCtr = s.freeCtr := rfl
@[simp] theorem State.keepWords_agenda (s : State) (ws : List IWord) : (s.keepWords ws).agenda = s.agenda := rfl
@[simp] theorem State.keepWords_sched (s : State) (ws : List IWord) : (s.keepWords ws).sched = s.sched := rfl
@[simp] theorem State.keepWords_fab (s : State) (ws : List IWord) : (s.keepWords ws).fab = s.fab := rfl
@[simp] theorem State.keepWords_mgmt (s : State) (ws : List IWord) : (s.keepWords ws).mgmt = s.mgmt := rfl
@[simp] theorem State.keepWords_host (s : State) (ws : List IWord) : (s.keepWords ws).host = s.host := rfl

@[simp] theorem State.keepWords_mem_gmem (s : State) (ws : List IWord) : (s.keepWords ws).mem.gmem = s.mem.gmem := rfl
@[simp] theorem State.keepWords_mem_cistern (s : State) (ws : List IWord) : (s.keepWords ws).mem.cistern = s.mem.cistern := rfl
@[simp] theorem State.keepWords_mem_tlb (s : State) (ws : List IWord) : (s.keepWords ws).mem.tlb = s.mem.tlb := rfl
@[simp] theorem State.keepWords_mem_heldReset (s : State) (ws : List IWord) : (s.keepWords ws).mem.heldReset = s.mem.heldReset := rfl

@[simp] theorem State.putLog_mode (s : State) (p : Port → Bool) (va : Nat) (data : List Byte) : (s.putLog p va data).mode = s.mode := rfl
@[simp] theorem State.putLog_freeCtr (s : State) (p : Port → Bool) (va : Nat) (data : List Byte) : (s.putLog p va data).freeCtr = s.freeCtr := rfl
@[simp] theorem State.putLog_agenda (s : State) (p : Port → Bool) (va : Nat) (data : List Byte) : (s.putLog p va data).agenda = s.agenda := rfl
@[simp] theorem State.putLog_mem (s : State) (p : Port → Bool) (va : Nat) (data : List Byte) : (s.putLog p va data).mem = s.mem := rfl
@[simp] theorem State.putLog_sched (s : State) (p : Port → Bool) (va : Nat) (data : List Byte) : (s.putLog p va data).sched = s.sched := rfl
@[simp] theorem State.putLog_fab (s : State) (p : Port → Bool) (va : Nat) (data : List Byte) : (s.putLog p va data).fab = s.fab := rfl
@[simp] theorem State.putLog_mgmt (s : State) (p : Port → Bool) (va : Nat) (data : List Byte) : (s.putLog p va data).mgmt = s.mgmt := rfl
@[simp] theorem State.putLog_host (s : State) (p : Port → Bool) (va : Nat) (data : List Byte) : (s.putLog p va data).host = s.host := rfl

@[simp] theorem State.noteGlobal_mode (s : State) (m : Port → Bool) (old : List (Nat × Byte)) : (s.noteGlobal m old).mode = s.mode := rfl
@[simp] theorem State.noteGlobal_freeCtr (s : State) (m : Port → Bool) (old : List (Nat × Byte)) : (s.noteGlobal m old).freeCtr = s.freeCtr := rfl
@[simp] theorem State.noteGlobal_agenda (s : State) (m : Port → Bool) (old : List (Nat × Byte)) : (s.noteGlobal m old).agenda = s.agenda := rfl
@[simp] theorem State.noteGlobal_mem (s : State) (m : Port → Bool) (old : List (Nat × Byte)) : (s.noteGlobal m old).mem = s.mem := rfl
@[simp] theorem State.noteGlobal_fab (s : State) (m : Port → Bool) (old : List (Nat × Byte)) : (s.noteGlobal m old).fab = s.fab := rfl
@[simp] theorem State.noteGlobal_mgmt (s : State) (m : Port → Bool) (old : List (Nat × Byte)) : (s.noteGlobal m old).mgmt = s.mgmt := rfl
@[simp] theorem State.noteGlobal_host (s : State) (m : Port → Bool) (old : List (Nat × Byte)) : (s.noteGlobal m old).host = s.host := rfl

@[simp] theorem State.accessPerforms_mode (s : State) (a : Access) : (s.accessPerforms a).mode = s.mode := rfl
@[simp] theorem State.accessPerforms_freeCtr (s : State) (a : Access) : (s.accessPerforms a).freeCtr = s.freeCtr := rfl
@[simp] theorem State.accessPerforms_agenda (s : State) (a : Access) : (s.accessPerforms a).agenda = s.agenda := rfl
@[simp] theorem State.accessPerforms_mem (s : State) (a : Access) : (s.accessPerforms a).mem = s.mem := rfl
@[simp] theorem State.accessPerforms_sched (s : State) (a : Access) : (s.accessPerforms a).sched = s.sched := rfl
@[simp] theorem State.accessPerforms_fab (s : State) (a : Access) : (s.accessPerforms a).fab = s.fab := rfl
@[simp] theorem State.accessPerforms_mgmt (s : State) (a : Access) : (s.accessPerforms a).mgmt = s.mgmt := rfl
@[simp] theorem State.accessPerforms_host (s : State) (a : Access) : (s.accessPerforms a).host = s.host := rfl

@[simp] theorem State.fixTile_mode (s : State) (e n : Nat) : (s.fixTile e n).mode = s.mode := rfl
@[simp] theorem State.fixTile_freeCtr (s : State) (e n : Nat) : (s.fixTile e n).freeCtr = s.freeCtr := rfl
@[simp] theorem State.fixTile_agenda (s : State) (e n : Nat) : (s.fixTile e n).agenda = s.agenda := rfl
@[simp] theorem State.fixTile_mem (s : State) (e n : Nat) : (s.fixTile e n).mem = s.mem := rfl
@[simp] theorem State.fixTile_fab (s : State) (e n : Nat) : (s.fixTile e n).fab = s.fab := rfl
@[simp] theorem State.fixTile_mgmt (s : State) (e n : Nat) : (s.fixTile e n).mgmt = s.mgmt := rfl
@[simp] theorem State.fixTile_host (s : State) (e n : Nat) : (s.fixTile e n).host = s.host := rfl
@[simp] theorem State.fixTile_sched (s : State) (e n : Nat) : (s.fixTile e n).sched = s.sched := rfl
@[simp] theorem State.fixTile_basin (s : State) (e n : Nat) : (s.fixTile e n).ctx.basin = s.ctx.basin := rfl
@[simp] theorem State.fixTile_tiles (s : State) (e n : Nat) : (s.fixTile e n).ctx.eng.tiles = s.ctx.eng.tiles := rfl

@[simp] theorem State.putCistern_mode (s : State) (a : Nat) (data : List Byte) : (s.putCistern a data).mode = s.mode := rfl
@[simp] theorem State.putCistern_freeCtr (s : State) (a : Nat) (data : List Byte) : (s.putCistern a data).freeCtr = s.freeCtr := rfl
@[simp] theorem State.putCistern_agenda (s : State) (a : Nat) (data : List Byte) : (s.putCistern a data).agenda = s.agenda := rfl
@[simp] theorem State.putCistern_fab (s : State) (a : Nat) (data : List Byte) : (s.putCistern a data).fab = s.fab := rfl
@[simp] theorem State.putCistern_mgmt (s : State) (a : Nat) (data : List Byte) : (s.putCistern a data).mgmt = s.mgmt := rfl
@[simp] theorem State.putCistern_host (s : State) (a : Nat) (data : List Byte) : (s.putCistern a data).host = s.host := rfl

@[simp] theorem State.putCistern_gmem (s : State) (a : Nat) (data : List Byte) : (s.putCistern a data).mem.gmem = s.mem.gmem := rfl

@[simp] theorem State.freeRecord_ctx (s : State) (n : Nat) : (s.freeRecord n).ctx = s.ctx := rfl
@[simp] theorem State.freeRecord_mode (s : State) (n : Nat) : (s.freeRecord n).mode = s.mode := rfl
@[simp] theorem State.freeRecord_freeCtr (s : State) (n : Nat) : (s.freeRecord n).freeCtr = s.freeCtr := rfl
@[simp] theorem State.freeRecord_agenda (s : State) (n : Nat) : (s.freeRecord n).agenda = s.agenda := rfl
@[simp] theorem State.freeRecord_mem (s : State) (n : Nat) : (s.freeRecord n).mem = s.mem := rfl
@[simp] theorem State.freeRecord_fab (s : State) (n : Nat) : (s.freeRecord n).fab = s.fab := rfl
@[simp] theorem State.freeRecord_mgmt (s : State) (n : Nat) : (s.freeRecord n).mgmt = s.mgmt := rfl
@[simp] theorem State.freeRecord_host (s : State) (n : Nat) : (s.freeRecord n).host = s.host := rfl

@[simp] theorem State.setRecord_ctx (s : State) (r : Record) : (s.setRecord r).ctx = s.ctx := rfl
@[simp] theorem State.setRecord_mode (s : State) (r : Record) : (s.setRecord r).mode = s.mode := rfl
@[simp] theorem State.setRecord_freeCtr (s : State) (r : Record) : (s.setRecord r).freeCtr = s.freeCtr := rfl
@[simp] theorem State.setRecord_agenda (s : State) (r : Record) : (s.setRecord r).agenda = s.agenda := rfl
@[simp] theorem State.setRecord_mem (s : State) (r : Record) : (s.setRecord r).mem = s.mem := rfl
@[simp] theorem State.setRecord_fab (s : State) (r : Record) : (s.setRecord r).fab = s.fab := rfl
@[simp] theorem State.setRecord_mgmt (s : State) (r : Record) : (s.setRecord r).mgmt = s.mgmt := rfl
@[simp] theorem State.setRecord_host (s : State) (r : Record) : (s.setRecord r).host = s.host := rfl

@[simp] theorem State.addTask_ctx (s : State) (t : Task) : (s.addTask t).ctx = s.ctx := rfl
@[simp] theorem State.addTask_mode (s : State) (t : Task) : (s.addTask t).mode = s.mode := rfl
@[simp] theorem State.addTask_freeCtr (s : State) (t : Task) : (s.addTask t).freeCtr = s.freeCtr := rfl
@[simp] theorem State.addTask_agenda (s : State) (t : Task) : (s.addTask t).agenda = s.agenda := rfl
@[simp] theorem State.addTask_mem (s : State) (t : Task) : (s.addTask t).mem = s.mem := rfl
@[simp] theorem State.addTask_fab (s : State) (t : Task) : (s.addTask t).fab = s.fab := rfl
@[simp] theorem State.addTask_mgmt (s : State) (t : Task) : (s.addTask t).mgmt = s.mgmt := rfl
@[simp] theorem State.addTask_host (s : State) (t : Task) : (s.addTask t).host = s.host := rfl

@[simp] theorem State.markKilled_ctx (s : State) (f : Saved → Bool) : (s.markKilled f).ctx = s.ctx := rfl
@[simp] theorem State.markKilled_mode (s : State) (f : Saved → Bool) : (s.markKilled f).mode = s.mode := rfl
@[simp] theorem State.markKilled_freeCtr (s : State) (f : Saved → Bool) : (s.markKilled f).freeCtr = s.freeCtr := rfl
@[simp] theorem State.markKilled_agenda (s : State) (f : Saved → Bool) : (s.markKilled f).agenda = s.agenda := rfl
@[simp] theorem State.markKilled_mem (s : State) (f : Saved → Bool) : (s.markKilled f).mem = s.mem := rfl
@[simp] theorem State.markKilled_fab (s : State) (f : Saved → Bool) : (s.markKilled f).fab = s.fab := rfl
@[simp] theorem State.markKilled_mgmt (s : State) (f : Saved → Bool) : (s.markKilled f).mgmt = s.mgmt := rfl
@[simp] theorem State.markKilled_host (s : State) (f : Saved → Bool) : (s.markKilled f).host = s.host := rfl

@[simp] theorem State.poisonWord_ctx (s : State) (k : Nat) : (s.poisonWord k).ctx = s.ctx := rfl
@[simp] theorem State.poisonWord_mode (s : State) (k : Nat) : (s.poisonWord k).mode = s.mode := rfl
@[simp] theorem State.poisonWord_freeCtr (s : State) (k : Nat) : (s.poisonWord k).freeCtr = s.freeCtr := rfl
@[simp] theorem State.poisonWord_agenda (s : State) (k : Nat) : (s.poisonWord k).agenda = s.agenda := rfl
@[simp] theorem State.poisonWord_sched (s : State) (k : Nat) : (s.poisonWord k).sched = s.sched := rfl
@[simp] theorem State.poisonWord_fab (s : State) (k : Nat) : (s.poisonWord k).fab = s.fab := rfl
@[simp] theorem State.poisonWord_mgmt (s : State) (k : Nat) : (s.poisonWord k).mgmt = s.mgmt := rfl
@[simp] theorem State.poisonWord_host (s : State) (k : Nat) : (s.poisonWord k).host = s.host := rfl

@[simp] theorem State.spoil_ctx (s : State) (k n : Nat) : (s.spoil k n).ctx = s.ctx := rfl
@[simp] theorem State.spoil_mode (s : State) (k n : Nat) : (s.spoil k n).mode = s.mode := rfl
@[simp] theorem State.spoil_freeCtr (s : State) (k n : Nat) : (s.spoil k n).freeCtr = s.freeCtr := rfl
@[simp] theorem State.spoil_agenda (s : State) (k n : Nat) : (s.spoil k n).agenda = s.agenda := rfl
@[simp] theorem State.spoil_sched (s : State) (k n : Nat) : (s.spoil k n).sched = s.sched := rfl
@[simp] theorem State.spoil_fab (s : State) (k n : Nat) : (s.spoil k n).fab = s.fab := rfl
@[simp] theorem State.spoil_mgmt (s : State) (k n : Nat) : (s.spoil k n).mgmt = s.mgmt := rfl
@[simp] theorem State.spoil_host (s : State) (k n : Nat) : (s.spoil k n).host = s.host := rfl

@[simp] theorem State.fillDie_ctx (s : State) (l : Nat) : (s.fillDie l).ctx = s.ctx := rfl
@[simp] theorem State.fillDie_mode (s : State) (l : Nat) : (s.fillDie l).mode = s.mode := rfl
@[simp] theorem State.fillDie_freeCtr (s : State) (l : Nat) : (s.fillDie l).freeCtr = s.freeCtr := rfl
@[simp] theorem State.fillDie_agenda (s : State) (l : Nat) : (s.fillDie l).agenda = s.agenda := rfl
@[simp] theorem State.fillDie_sched (s : State) (l : Nat) : (s.fillDie l).sched = s.sched := rfl
@[simp] theorem State.fillDie_fab (s : State) (l : Nat) : (s.fillDie l).fab = s.fab := rfl
@[simp] theorem State.fillDie_mgmt (s : State) (l : Nat) : (s.fillDie l).mgmt = s.mgmt := rfl
@[simp] theorem State.fillDie_host (s : State) (l : Nat) : (s.fillDie l).host = s.host := rfl

@[simp] theorem State.reachTime_ctx (s : State) (t : W64) : (s.reachTime t).ctx = s.ctx := by
  unfold State.reachTime; split <;> rfl
@[simp] theorem State.reachTime_mode (s : State) (t : W64) : (s.reachTime t).mode = s.mode := by
  unfold State.reachTime; split <;> rfl
@[simp] theorem State.reachTime_freeCtr (s : State) (t : W64) : (s.reachTime t).freeCtr = s.freeCtr := by
  unfold State.reachTime; split <;> rfl
@[simp] theorem State.reachTime_agenda (s : State) (t : W64) : (s.reachTime t).agenda = s.agenda := by
  unfold State.reachTime; split <;> rfl
@[simp] theorem State.reachTime_mem (s : State) (t : W64) : (s.reachTime t).mem = s.mem := by
  unfold State.reachTime; split <;> rfl
@[simp] theorem State.reachTime_sched (s : State) (t : W64) : (s.reachTime t).sched = s.sched := by
  unfold State.reachTime; split <;> rfl
@[simp] theorem State.reachTime_mgmt (s : State) (t : W64) : (s.reachTime t).mgmt = s.mgmt := by
  unfold State.reachTime; split <;> rfl
@[simp] theorem State.reachTime_host (s : State) (t : W64) : (s.reachTime t).host = s.host := by
  unfold State.reachTime; split <;> rfl

@[simp] theorem State.installTlb_ctx (s : State) (e : TlbEntry) : (s.installTlb e).ctx = s.ctx := rfl
@[simp] theorem State.installTlb_mode (s : State) (e : TlbEntry) : (s.installTlb e).mode = s.mode := rfl
@[simp] theorem State.installTlb_freeCtr (s : State) (e : TlbEntry) : (s.installTlb e).freeCtr = s.freeCtr := rfl
@[simp] theorem State.installTlb_agenda (s : State) (e : TlbEntry) : (s.installTlb e).agenda = s.agenda := rfl
@[simp] theorem State.installTlb_sched (s : State) (e : TlbEntry) : (s.installTlb e).sched = s.sched := rfl
@[simp] theorem State.installTlb_fab (s : State) (e : TlbEntry) : (s.installTlb e).fab = s.fab := rfl
@[simp] theorem State.installTlb_mgmt (s : State) (e : TlbEntry) : (s.installTlb e).mgmt = s.mgmt := rfl
@[simp] theorem State.installTlb_host (s : State) (e : TlbEntry) : (s.installTlb e).host = s.host := rfl

@[simp] theorem State.refreshTriggers_ctx (s : State) : (s.refreshTriggers).ctx = s.ctx := rfl
@[simp] theorem State.refreshTriggers_mode (s : State) : (s.refreshTriggers).mode = s.mode := rfl
@[simp] theorem State.refreshTriggers_freeCtr (s : State) : (s.refreshTriggers).freeCtr = s.freeCtr := rfl
@[simp] theorem State.refreshTriggers_agenda (s : State) : (s.refreshTriggers).agenda = s.agenda := rfl
@[simp] theorem State.refreshTriggers_mem (s : State) : (s.refreshTriggers).mem = s.mem := rfl
@[simp] theorem State.refreshTriggers_sched (s : State) : (s.refreshTriggers).sched = s.sched := rfl
@[simp] theorem State.refreshTriggers_fab (s : State) : (s.refreshTriggers).fab = s.fab := rfl
@[simp] theorem State.refreshTriggers_host (s : State) : (s.refreshTriggers).host = s.host := rfl

@[simp] theorem State.askRetrain_ctx (s : State) (n : Nat) (k : RetrainKind) : (s.askRetrain n k).ctx = s.ctx := by
  unfold State.askRetrain; split <;> rfl
@[simp] theorem State.askRetrain_mode (s : State) (n : Nat) (k : RetrainKind) : (s.askRetrain n k).mode = s.mode := by
  unfold State.askRetrain; split <;> rfl
@[simp] theorem State.askRetrain_freeCtr (s : State) (n : Nat) (k : RetrainKind) : (s.askRetrain n k).freeCtr = s.freeCtr := by
  unfold State.askRetrain; split <;> rfl
@[simp] theorem State.askRetrain_agenda (s : State) (n : Nat) (k : RetrainKind) : (s.askRetrain n k).agenda = s.agenda := by
  unfold State.askRetrain; split <;> rfl
@[simp] theorem State.askRetrain_mem (s : State) (n : Nat) (k : RetrainKind) : (s.askRetrain n k).mem = s.mem := by
  unfold State.askRetrain; split <;> rfl
@[simp] theorem State.askRetrain_sched (s : State) (n : Nat) (k : RetrainKind) : (s.askRetrain n k).sched = s.sched := by
  unfold State.askRetrain; split <;> rfl
@[simp] theorem State.askRetrain_mgmt (s : State) (n : Nat) (k : RetrainKind) : (s.askRetrain n k).mgmt = s.mgmt := by
  unfold State.askRetrain; split <;> rfl
@[simp] theorem State.askRetrain_host (s : State) (n : Nat) (k : RetrainKind) : (s.askRetrain n k).host = s.host := by
  unfold State.askRetrain; split <;> rfl

@[simp] theorem State.countError_ctx (s : State) (b : SramBlock) (p : Nat) : (s.countError b p).ctx = s.ctx := by
  unfold State.countError; dsimp only; split <;> rfl
@[simp] theorem State.countError_mode (s : State) (b : SramBlock) (p : Nat) : (s.countError b p).mode = s.mode := by
  unfold State.countError; dsimp only; split <;> rfl
@[simp] theorem State.countError_freeCtr (s : State) (b : SramBlock) (p : Nat) : (s.countError b p).freeCtr = s.freeCtr := by
  unfold State.countError; dsimp only; split <;> rfl
@[simp] theorem State.countError_agenda (s : State) (b : SramBlock) (p : Nat) : (s.countError b p).agenda = s.agenda := by
  unfold State.countError; dsimp only; split <;> rfl
@[simp] theorem State.countError_mem (s : State) (b : SramBlock) (p : Nat) : (s.countError b p).mem = s.mem := by
  unfold State.countError; dsimp only; split <;> rfl
@[simp] theorem State.countError_sched (s : State) (b : SramBlock) (p : Nat) : (s.countError b p).sched = s.sched := by
  unfold State.countError; dsimp only; split <;> rfl
@[simp] theorem State.countError_fab (s : State) (b : SramBlock) (p : Nat) : (s.countError b p).fab = s.fab := by
  unfold State.countError; dsimp only; split <;> rfl

/-! ### Updates of a context -/

@[simp] theorem Ctx.setToken_lid (c : Ctx) (n : Nat) (t : Token) : (c.setToken n t).lid = c.lid := rfl
@[simp] theorem Ctx.setToken_asid (c : Ctx) (n : Nat) (t : Token) : (c.setToken n t).asid = c.asid := rfl
@[simp] theorem Ctx.setToken_hdr (c : Ctx) (n : Nat) (t : Token) : (c.setToken n t).hdr = c.hdr := rfl
@[simp] theorem Ctx.setToken_regs (c : Ctx) (n : Nat) (t : Token) : (c.setToken n t).regs = c.regs := rfl
@[simp] theorem Ctx.setToken_ctl (c : Ctx) (n : Nat) (t : Token) : (c.setToken n t).ctl = c.ctl := rfl
@[simp] theorem Ctx.setToken_tr (c : Ctx) (n : Nat) (t : Token) : (c.setToken n t).tr = c.tr := rfl
@[simp] theorem Ctx.setToken_basin (c : Ctx) (n : Nat) (t : Token) : (c.setToken n t).basin = c.basin := rfl
@[simp] theorem Ctx.setToken_pipe (c : Ctx) (n : Nat) (t : Token) : (c.setToken n t).pipe = c.pipe := rfl
@[simp] theorem Ctx.setToken_casc (c : Ctx) (n : Nat) (t : Token) : (c.setToken n t).casc = c.casc := rfl
@[simp] theorem Ctx.setToken_log (c : Ctx) (n : Nat) (t : Token) : (c.setToken n t).log = c.log := rfl
@[simp] theorem Ctx.setToken_snap (c : Ctx) (n : Nat) (t : Token) : (c.setToken n t).snap = c.snap := rfl

@[simp] theorem Ctx.setTile_lid (c : Ctx) (n : Nat) (t : Tile) : (c.setTile n t).lid = c.lid := rfl
@[simp] theorem Ctx.setTile_asid (c : Ctx) (n : Nat) (t : Tile) : (c.setTile n t).asid = c.asid := rfl
@[simp] theorem Ctx.setTile_hdr (c : Ctx) (n : Nat) (t : Tile) : (c.setTile n t).hdr = c.hdr := rfl
@[simp] theorem Ctx.setTile_regs (c : Ctx) (n : Nat) (t : Tile) : (c.setTile n t).regs = c.regs := rfl
@[simp] theorem Ctx.setTile_ctl (c : Ctx) (n : Nat) (t : Tile) : (c.setTile n t).ctl = c.ctl := rfl
@[simp] theorem Ctx.setTile_tr (c : Ctx) (n : Nat) (t : Tile) : (c.setTile n t).tr = c.tr := rfl
@[simp] theorem Ctx.setTile_basin (c : Ctx) (n : Nat) (t : Tile) : (c.setTile n t).basin = c.basin := rfl
@[simp] theorem Ctx.setTile_pipe (c : Ctx) (n : Nat) (t : Tile) : (c.setTile n t).pipe = c.pipe := rfl
@[simp] theorem Ctx.setTile_casc (c : Ctx) (n : Nat) (t : Tile) : (c.setTile n t).casc = c.casc := rfl
@[simp] theorem Ctx.setTile_log (c : Ctx) (n : Nat) (t : Tile) : (c.setTile n t).log = c.log := rfl
@[simp] theorem Ctx.setTile_snap (c : Ctx) (n : Nat) (t : Tile) : (c.setTile n t).snap = c.snap := rfl

@[simp] theorem Ctx.setTileState_lid (c : Ctx) (n : Nat) (st : TileState) : (c.setTileState n st).lid = c.lid := rfl
@[simp] theorem Ctx.setTileState_asid (c : Ctx) (n : Nat) (st : TileState) : (c.setTileState n st).asid = c.asid := rfl
@[simp] theorem Ctx.setTileState_hdr (c : Ctx) (n : Nat) (st : TileState) : (c.setTileState n st).hdr = c.hdr := rfl
@[simp] theorem Ctx.setTileState_regs (c : Ctx) (n : Nat) (st : TileState) : (c.setTileState n st).regs = c.regs := rfl
@[simp] theorem Ctx.setTileState_ctl (c : Ctx) (n : Nat) (st : TileState) : (c.setTileState n st).ctl = c.ctl := rfl
@[simp] theorem Ctx.setTileState_tr (c : Ctx) (n : Nat) (st : TileState) : (c.setTileState n st).tr = c.tr := rfl
@[simp] theorem Ctx.setTileState_basin (c : Ctx) (n : Nat) (st : TileState) : (c.setTileState n st).basin = c.basin := rfl
@[simp] theorem Ctx.setTileState_pipe (c : Ctx) (n : Nat) (st : TileState) : (c.setTileState n st).pipe = c.pipe := rfl
@[simp] theorem Ctx.setTileState_casc (c : Ctx) (n : Nat) (st : TileState) : (c.setTileState n st).casc = c.casc := rfl
@[simp] theorem Ctx.setTileState_log (c : Ctx) (n : Nat) (st : TileState) : (c.setTileState n st).log = c.log := rfl
@[simp] theorem Ctx.setTileState_snap (c : Ctx) (n : Nat) (st : TileState) : (c.setTileState n st).snap = c.snap := rfl

@[simp] theorem Ctx.setSb_lid (c : Ctx) (id : Nat) (src : SbSrc) : (c.setSb id src).lid = c.lid := rfl
@[simp] theorem Ctx.setSb_asid (c : Ctx) (id : Nat) (src : SbSrc) : (c.setSb id src).asid = c.asid := rfl
@[simp] theorem Ctx.setSb_hdr (c : Ctx) (id : Nat) (src : SbSrc) : (c.setSb id src).hdr = c.hdr := rfl
@[simp] theorem Ctx.setSb_regs (c : Ctx) (id : Nat) (src : SbSrc) : (c.setSb id src).regs = c.regs := rfl
@[simp] theorem Ctx.setSb_ctl (c : Ctx) (id : Nat) (src : SbSrc) : (c.setSb id src).ctl = c.ctl := rfl
@[simp] theorem Ctx.setSb_tr (c : Ctx) (id : Nat) (src : SbSrc) : (c.setSb id src).tr = c.tr := rfl
@[simp] theorem Ctx.setSb_basin (c : Ctx) (id : Nat) (src : SbSrc) : (c.setSb id src).basin = c.basin := rfl
@[simp] theorem Ctx.setSb_eng (c : Ctx) (id : Nat) (src : SbSrc) : (c.setSb id src).eng = c.eng := rfl
@[simp] theorem Ctx.setSb_casc (c : Ctx) (id : Nat) (src : SbSrc) : (c.setSb id src).casc = c.casc := rfl
@[simp] theorem Ctx.setSb_log (c : Ctx) (id : Nat) (src : SbSrc) : (c.setSb id src).log = c.log := rfl
@[simp] theorem Ctx.setSb_snap (c : Ctx) (id : Nat) (src : SbSrc) : (c.setSb id src).snap = c.snap := rfl

@[simp] theorem Ctx.dropSb_lid (c : Ctx) (id : Nat) : (c.dropSb id).lid = c.lid := rfl
@[simp] theorem Ctx.dropSb_asid (c : Ctx) (id : Nat) : (c.dropSb id).asid = c.asid := rfl
@[simp] theorem Ctx.dropSb_hdr (c : Ctx) (id : Nat) : (c.dropSb id).hdr = c.hdr := rfl
@[simp] theorem Ctx.dropSb_regs (c : Ctx) (id : Nat) : (c.dropSb id).regs = c.regs := rfl
@[simp] theorem Ctx.dropSb_ctl (c : Ctx) (id : Nat) : (c.dropSb id).ctl = c.ctl := rfl
@[simp] theorem Ctx.dropSb_tr (c : Ctx) (id : Nat) : (c.dropSb id).tr = c.tr := rfl
@[simp] theorem Ctx.dropSb_basin (c : Ctx) (id : Nat) : (c.dropSb id).basin = c.basin := rfl
@[simp] theorem Ctx.dropSb_eng (c : Ctx) (id : Nat) : (c.dropSb id).eng = c.eng := rfl
@[simp] theorem Ctx.dropSb_casc (c : Ctx) (id : Nat) : (c.dropSb id).casc = c.casc := rfl
@[simp] theorem Ctx.dropSb_log (c : Ctx) (id : Nat) : (c.dropSb id).log = c.log := rfl
@[simp] theorem Ctx.dropSb_snap (c : Ctx) (id : Nat) : (c.dropSb id).snap = c.snap := rfl

@[simp] theorem Ctx.defer_lid (c : Ctx) (a b : W64) : (c.defer a b).lid = c.lid := rfl
@[simp] theorem Ctx.defer_asid (c : Ctx) (a b : W64) : (c.defer a b).asid = c.asid := rfl
@[simp] theorem Ctx.defer_hdr (c : Ctx) (a b : W64) : (c.defer a b).hdr = c.hdr := rfl
@[simp] theorem Ctx.defer_regs (c : Ctx) (a b : W64) : (c.defer a b).regs = c.regs := rfl
@[simp] theorem Ctx.defer_ctl (c : Ctx) (a b : W64) : (c.defer a b).ctl = c.ctl := rfl
@[simp] theorem Ctx.defer_tr (c : Ctx) (a b : W64) : (c.defer a b).tr = c.tr := rfl
@[simp] theorem Ctx.defer_basin (c : Ctx) (a b : W64) : (c.defer a b).basin = c.basin := rfl
@[simp] theorem Ctx.defer_eng (c : Ctx) (a b : W64) : (c.defer a b).eng = c.eng := rfl
@[simp] theorem Ctx.defer_casc (c : Ctx) (a b : W64) : (c.defer a b).casc = c.casc := rfl
@[simp] theorem Ctx.defer_log (c : Ctx) (a b : W64) : (c.defer a b).log = c.log := rfl
@[simp] theorem Ctx.defer_snap (c : Ctx) (a b : W64) : (c.defer a b).snap = c.snap := rfl

@[simp] theorem Ctx.markPerformed_lid (c : Ctx) (n : Nat) (e : W64) : (c.markPerformed n e).lid = c.lid := rfl
@[simp] theorem Ctx.markPerformed_asid (c : Ctx) (n : Nat) (e : W64) : (c.markPerformed n e).asid = c.asid := rfl
@[simp] theorem Ctx.markPerformed_hdr (c : Ctx) (n : Nat) (e : W64) : (c.markPerformed n e).hdr = c.hdr := rfl
@[simp] theorem Ctx.markPerformed_regs (c : Ctx) (n : Nat) (e : W64) : (c.markPerformed n e).regs = c.regs := rfl
@[simp] theorem Ctx.markPerformed_ctl (c : Ctx) (n : Nat) (e : W64) : (c.markPerformed n e).ctl = c.ctl := rfl
@[simp] theorem Ctx.markPerformed_tr (c : Ctx) (n : Nat) (e : W64) : (c.markPerformed n e).tr = c.tr := rfl
@[simp] theorem Ctx.markPerformed_basin (c : Ctx) (n : Nat) (e : W64) : (c.markPerformed n e).basin = c.basin := rfl
@[simp] theorem Ctx.markPerformed_pipe (c : Ctx) (n : Nat) (e : W64) : (c.markPerformed n e).pipe = c.pipe := rfl
@[simp] theorem Ctx.markPerformed_casc (c : Ctx) (n : Nat) (e : W64) : (c.markPerformed n e).casc = c.casc := rfl
@[simp] theorem Ctx.markPerformed_log (c : Ctx) (n : Nat) (e : W64) : (c.markPerformed n e).log = c.log := rfl
@[simp] theorem Ctx.markPerformed_snap (c : Ctx) (n : Nat) (e : W64) : (c.markPerformed n e).snap = c.snap := rfl

@[simp] theorem Ctx.putReg_lid (c : Ctx) (a : Nat) (bs : List (Option Byte)) : (c.putReg a bs).lid = c.lid := rfl
@[simp] theorem Ctx.putReg_asid (c : Ctx) (a : Nat) (bs : List (Option Byte)) : (c.putReg a bs).asid = c.asid := rfl
@[simp] theorem Ctx.putReg_hdr (c : Ctx) (a : Nat) (bs : List (Option Byte)) : (c.putReg a bs).hdr = c.hdr := rfl
@[simp] theorem Ctx.putReg_regs (c : Ctx) (a : Nat) (bs : List (Option Byte)) : (c.putReg a bs).regs = c.regs := rfl
@[simp] theorem Ctx.putReg_ctl (c : Ctx) (a : Nat) (bs : List (Option Byte)) : (c.putReg a bs).ctl = c.ctl := rfl
@[simp] theorem Ctx.putReg_tr (c : Ctx) (a : Nat) (bs : List (Option Byte)) : (c.putReg a bs).tr = c.tr := rfl
@[simp] theorem Ctx.putReg_pipe (c : Ctx) (a : Nat) (bs : List (Option Byte)) : (c.putReg a bs).pipe = c.pipe := rfl
@[simp] theorem Ctx.putReg_eng (c : Ctx) (a : Nat) (bs : List (Option Byte)) : (c.putReg a bs).eng = c.eng := rfl
@[simp] theorem Ctx.putReg_casc (c : Ctx) (a : Nat) (bs : List (Option Byte)) : (c.putReg a bs).casc = c.casc := rfl
@[simp] theorem Ctx.putReg_log (c : Ctx) (a : Nat) (bs : List (Option Byte)) : (c.putReg a bs).log = c.log := rfl
@[simp] theorem Ctx.putReg_snap (c : Ctx) (a : Nat) (bs : List (Option Byte)) : (c.putReg a bs).snap = c.snap := rfl

@[simp] theorem Ctx.putSpad_lid (c : Ctx) (a : Nat) (bs : List (Option Byte)) : (c.putSpad a bs).lid = c.lid := rfl
@[simp] theorem Ctx.putSpad_asid (c : Ctx) (a : Nat) (bs : List (Option Byte)) : (c.putSpad a bs).asid = c.asid := rfl
@[simp] theorem Ctx.putSpad_hdr (c : Ctx) (a : Nat) (bs : List (Option Byte)) : (c.putSpad a bs).hdr = c.hdr := rfl
@[simp] theorem Ctx.putSpad_regs (c : Ctx) (a : Nat) (bs : List (Option Byte)) : (c.putSpad a bs).regs = c.regs := rfl
@[simp] theorem Ctx.putSpad_ctl (c : Ctx) (a : Nat) (bs : List (Option Byte)) : (c.putSpad a bs).ctl = c.ctl := rfl
@[simp] theorem Ctx.putSpad_tr (c : Ctx) (a : Nat) (bs : List (Option Byte)) : (c.putSpad a bs).tr = c.tr := rfl
@[simp] theorem Ctx.putSpad_pipe (c : Ctx) (a : Nat) (bs : List (Option Byte)) : (c.putSpad a bs).pipe = c.pipe := rfl
@[simp] theorem Ctx.putSpad_casc (c : Ctx) (a : Nat) (bs : List (Option Byte)) : (c.putSpad a bs).casc = c.casc := rfl
@[simp] theorem Ctx.putSpad_log (c : Ctx) (a : Nat) (bs : List (Option Byte)) : (c.putSpad a bs).log = c.log := rfl
@[simp] theorem Ctx.putSpad_snap (c : Ctx) (a : Nat) (bs : List (Option Byte)) : (c.putSpad a bs).snap = c.snap := rfl

@[simp] theorem Ctx.putAcc_lid (c : Ctx) (a : Nat) (bs : List Byte) : (c.putAcc a bs).lid = c.lid := rfl
@[simp] theorem Ctx.putAcc_asid (c : Ctx) (a : Nat) (bs : List Byte) : (c.putAcc a bs).asid = c.asid := rfl
@[simp] theorem Ctx.putAcc_hdr (c : Ctx) (a : Nat) (bs : List Byte) : (c.putAcc a bs).hdr = c.hdr := rfl
@[simp] theorem Ctx.putAcc_regs (c : Ctx) (a : Nat) (bs : List Byte) : (c.putAcc a bs).regs = c.regs := rfl
@[simp] theorem Ctx.putAcc_ctl (c : Ctx) (a : Nat) (bs : List Byte) : (c.putAcc a bs).ctl = c.ctl := rfl
@[simp] theorem Ctx.putAcc_tr (c : Ctx) (a : Nat) (bs : List Byte) : (c.putAcc a bs).tr = c.tr := rfl
@[simp] theorem Ctx.putAcc_pipe (c : Ctx) (a : Nat) (bs : List Byte) : (c.putAcc a bs).pipe = c.pipe := rfl
@[simp] theorem Ctx.putAcc_eng (c : Ctx) (a : Nat) (bs : List Byte) : (c.putAcc a bs).eng = c.eng := rfl
@[simp] theorem Ctx.putAcc_casc (c : Ctx) (a : Nat) (bs : List Byte) : (c.putAcc a bs).casc = c.casc := rfl
@[simp] theorem Ctx.putAcc_log (c : Ctx) (a : Nat) (bs : List Byte) : (c.putAcc a bs).log = c.log := rfl
@[simp] theorem Ctx.putAcc_snap (c : Ctx) (a : Nat) (bs : List Byte) : (c.putAcc a bs).snap = c.snap := rfl

@[simp] theorem Ctx.setPort_lid (c : Ctx) (q : Nat) (p : Port) : (c.setPort q p).lid = c.lid := rfl
@[simp] theorem Ctx.setPort_asid (c : Ctx) (q : Nat) (p : Port) : (c.setPort q p).asid = c.asid := rfl
@[simp] theorem Ctx.setPort_hdr (c : Ctx) (q : Nat) (p : Port) : (c.setPort q p).hdr = c.hdr := rfl
@[simp] theorem Ctx.setPort_regs (c : Ctx) (q : Nat) (p : Port) : (c.setPort q p).regs = c.regs := rfl
@[simp] theorem Ctx.setPort_ctl (c : Ctx) (q : Nat) (p : Port) : (c.setPort q p).ctl = c.ctl := rfl
@[simp] theorem Ctx.setPort_tr (c : Ctx) (q : Nat) (p : Port) : (c.setPort q p).tr = c.tr := rfl
@[simp] theorem Ctx.setPort_basin (c : Ctx) (q : Nat) (p : Port) : (c.setPort q p).basin = c.basin := rfl
@[simp] theorem Ctx.setPort_pipe (c : Ctx) (q : Nat) (p : Port) : (c.setPort q p).pipe = c.pipe := rfl
@[simp] theorem Ctx.setPort_casc (c : Ctx) (q : Nat) (p : Port) : (c.setPort q p).casc = c.casc := rfl
@[simp] theorem Ctx.setPort_log (c : Ctx) (q : Nat) (p : Port) : (c.setPort q p).log = c.log := rfl
@[simp] theorem Ctx.setPort_snap (c : Ctx) (q : Nat) (p : Port) : (c.setPort q p).snap = c.snap := rfl

@[simp] theorem Ctx.setQend_lid (c : Ctx) (q : Nat) : (c.setQend q).lid = c.lid := rfl
@[simp] theorem Ctx.setQend_asid (c : Ctx) (q : Nat) : (c.setQend q).asid = c.asid := rfl
@[simp] theorem Ctx.setQend_hdr (c : Ctx) (q : Nat) : (c.setQend q).hdr = c.hdr := rfl
@[simp] theorem Ctx.setQend_regs (c : Ctx) (q : Nat) : (c.setQend q).regs = c.regs := rfl
@[simp] theorem Ctx.setQend_ctl (c : Ctx) (q : Nat) : (c.setQend q).ctl = c.ctl := rfl
@[simp] theorem Ctx.setQend_basin (c : Ctx) (q : Nat) : (c.setQend q).basin = c.basin := rfl
@[simp] theorem Ctx.setQend_pipe (c : Ctx) (q : Nat) : (c.setQend q).pipe = c.pipe := rfl
@[simp] theorem Ctx.setQend_eng (c : Ctx) (q : Nat) : (c.setQend q).eng = c.eng := rfl
@[simp] theorem Ctx.setQend_casc (c : Ctx) (q : Nat) : (c.setQend q).casc = c.casc := rfl
@[simp] theorem Ctx.setQend_log (c : Ctx) (q : Nat) : (c.setQend q).log = c.log := rfl
@[simp] theorem Ctx.setQend_snap (c : Ctx) (q : Nat) : (c.setQend q).snap = c.snap := rfl

@[simp] theorem Ctx.addAccess_lid (c : Ctx) (a : Access) : (c.addAccess a).lid = c.lid := rfl
@[simp] theorem Ctx.addAccess_asid (c : Ctx) (a : Access) : (c.addAccess a).asid = c.asid := rfl
@[simp] theorem Ctx.addAccess_hdr (c : Ctx) (a : Access) : (c.addAccess a).hdr = c.hdr := rfl
@[simp] theorem Ctx.addAccess_regs (c : Ctx) (a : Access) : (c.addAccess a).regs = c.regs := rfl
@[simp] theorem Ctx.addAccess_ctl (c : Ctx) (a : Access) : (c.addAccess a).ctl = c.ctl := rfl
@[simp] theorem Ctx.addAccess_tr (c : Ctx) (a : Access) : (c.addAccess a).tr = c.tr := rfl
@[simp] theorem Ctx.addAccess_basin (c : Ctx) (a : Access) : (c.addAccess a).basin = c.basin := rfl
@[simp] theorem Ctx.addAccess_casc (c : Ctx) (a : Access) : (c.addAccess a).casc = c.casc := rfl
@[simp] theorem Ctx.addAccess_log (c : Ctx) (a : Access) : (c.addAccess a).log = c.log := rfl
@[simp] theorem Ctx.addAccess_snap (c : Ctx) (a : Access) : (c.addAccess a).snap = c.snap := rfl

@[simp] theorem Ctx.returnStatus_lid (c : Ctx) : (c.returnStatus).lid = c.lid := rfl
@[simp] theorem Ctx.returnStatus_asid (c : Ctx) : (c.returnStatus).asid = c.asid := rfl
@[simp] theorem Ctx.returnStatus_hdr (c : Ctx) : (c.returnStatus).hdr = c.hdr := rfl
@[simp] theorem Ctx.returnStatus_regs (c : Ctx) : (c.returnStatus).regs = c.regs := rfl
@[simp] theorem Ctx.returnStatus_ctl (c : Ctx) : (c.returnStatus).ctl = c.ctl := rfl
@[simp] theorem Ctx.returnStatus_basin (c : Ctx) : (c.returnStatus).basin = c.basin := rfl
@[simp] theorem Ctx.returnStatus_pipe (c : Ctx) : (c.returnStatus).pipe = c.pipe := rfl
@[simp] theorem Ctx.returnStatus_eng (c : Ctx) : (c.returnStatus).eng = c.eng := rfl
@[simp] theorem Ctx.returnStatus_casc (c : Ctx) : (c.returnStatus).casc = c.casc := rfl
@[simp] theorem Ctx.returnStatus_log (c : Ctx) : (c.returnStatus).log = c.log := rfl
@[simp] theorem Ctx.returnStatus_snap (c : Ctx) : (c.returnStatus).snap = c.snap := rfl

@[simp] theorem Ctx.discardUnstarted_lid (c : Ctx) : c.discardUnstarted.lid = c.lid := rfl
@[simp] theorem Ctx.discardUnstarted_asid (c : Ctx) : c.discardUnstarted.asid = c.asid := rfl
@[simp] theorem Ctx.discardUnstarted_hdr (c : Ctx) : c.discardUnstarted.hdr = c.hdr := rfl
@[simp] theorem Ctx.discardUnstarted_regs (c : Ctx) : c.discardUnstarted.regs = c.regs := rfl
@[simp] theorem Ctx.discardUnstarted_ctl (c : Ctx) : c.discardUnstarted.ctl = c.ctl := rfl
@[simp] theorem Ctx.discardUnstarted_tr (c : Ctx) : c.discardUnstarted.tr = c.tr := rfl
@[simp] theorem Ctx.discardUnstarted_basin (c : Ctx) : c.discardUnstarted.basin = c.basin := rfl
@[simp] theorem Ctx.discardUnstarted_pipe (c : Ctx) : c.discardUnstarted.pipe = c.pipe := rfl
@[simp] theorem Ctx.discardUnstarted_casc (c : Ctx) : c.discardUnstarted.casc = c.casc := rfl
@[simp] theorem Ctx.discardUnstarted_log (c : Ctx) : c.discardUnstarted.log = c.log := rfl
@[simp] theorem Ctx.discardUnstarted_snap (c : Ctx) : c.discardUnstarted.snap = c.snap := rfl

@[simp] theorem Ctx.mapLoads_lid (c : Ctx) (k : Nat) (f : Port → Port) : (c.mapLoads k f).lid = c.lid := rfl
@[simp] theorem Ctx.mapLoads_asid (c : Ctx) (k : Nat) (f : Port → Port) : (c.mapLoads k f).asid = c.asid := rfl
@[simp] theorem Ctx.mapLoads_hdr (c : Ctx) (k : Nat) (f : Port → Port) : (c.mapLoads k f).hdr = c.hdr := rfl
@[simp] theorem Ctx.mapLoads_regs (c : Ctx) (k : Nat) (f : Port → Port) : (c.mapLoads k f).regs = c.regs := rfl
@[simp] theorem Ctx.mapLoads_ctl (c : Ctx) (k : Nat) (f : Port → Port) : (c.mapLoads k f).ctl = c.ctl := rfl
@[simp] theorem Ctx.mapLoads_tr (c : Ctx) (k : Nat) (f : Port → Port) : (c.mapLoads k f).tr = c.tr := rfl
@[simp] theorem Ctx.mapLoads_basin (c : Ctx) (k : Nat) (f : Port → Port) : (c.mapLoads k f).basin = c.basin := rfl
@[simp] theorem Ctx.mapLoads_pipe (c : Ctx) (k : Nat) (f : Port → Port) : (c.mapLoads k f).pipe = c.pipe := rfl
@[simp] theorem Ctx.mapLoads_casc (c : Ctx) (k : Nat) (f : Port → Port) : (c.mapLoads k f).casc = c.casc := rfl
@[simp] theorem Ctx.mapLoads_log (c : Ctx) (k : Nat) (f : Port → Port) : (c.mapLoads k f).log = c.log := rfl
@[simp] theorem Ctx.mapLoads_snap (c : Ctx) (k : Nat) (f : Port → Port) : (c.mapLoads k f).snap = c.snap := rfl

@[simp] theorem MemSys.readRrc_gmem (m : MemSys) (l t : Nat) : (m.readRrc l t).gmem = m.gmem := rfl
@[simp] theorem MemSys.readRrc_cistern (m : MemSys) (l t : Nat) : (m.readRrc l t).cistern = m.cistern := rfl
@[simp] theorem MemSys.dropRrc_gmem (m : MemSys) (l : Nat) : (m.dropRrc l).gmem = m.gmem := rfl
@[simp] theorem MemSys.dropRrc_cistern (m : MemSys) (l : Nat) : (m.dropRrc l).cistern = m.cistern := rfl
@[simp] theorem MemSys.overRrc_gmem (m : MemSys) (b : Bool) (n : Nat) (t : W64) (old : List (Nat × Byte)) :
    (m.overRrc b n t old).gmem = m.gmem := by unfold MemSys.overRrc; dsimp only; split <;> rfl
@[simp] theorem MemSys.overRrc_cistern (m : MemSys) (b : Bool) (n : Nat) (t : W64) (old : List (Nat × Byte)) :
    (m.overRrc b n t old).cistern = m.cistern := by unfold MemSys.overRrc; dsimp only; split <;> rfl

@[simp] theorem Engines.unsettle_tokens (e : Engines) (rs : List (Bool × Nat × Nat)) : (e.unsettle rs).tokens = e.tokens := rfl
@[simp] theorem Engines.unsettle_templates (e : Engines) (rs : List (Bool × Nat × Nat)) : (e.unsettle rs).templates = e.templates := rfl
@[simp] theorem Engines.unsettle_ports (e : Engines) (rs : List (Bool × Nat × Nat)) : (e.unsettle rs).ports = e.ports := rfl
@[simp] theorem Engines.unsettle_tiles (e : Engines) (rs : List (Bool × Nat × Nat)) : (e.unsettle rs).tiles = e.tiles := rfl
@[simp] theorem Engines.unsettle_accs (e : Engines) (rs : List (Bool × Nat × Nat)) : (e.unsettle rs).accs = e.accs := rfl
@[simp] theorem Engines.unsettle_streams (e : Engines) (rs : List (Bool × Nat × Nat)) : (e.unsettle rs).streams = e.streams := rfl
@[simp] theorem Engines.unsettle_wrote (e : Engines) (rs : List (Bool × Nat × Nat)) : (e.unsettle rs).wrote = e.wrote := rfl

/-- What every step of a fold leaves, the fold leaves. -/
theorem foldl_keeps {α β γ : Type} (g : α → γ) (f : α → β → α) (h : ∀ a b, g (f a b) = g a) (xs : List β) (a : α) :
    g (xs.foldl f a) = g a := by
  induction xs generalizing a with
  | nil => rfl
  | cons x xs ih => rw [List.foldl_cons, ih, h]

/-- What a pop's reads leave: they change the die caches, what the remote read cache may hold, and what source ports see (R183, R252). -/
theorem State.popReads_frame (s : State) (q : Nat) (v : Popped) :
    (s.popReads q v).mode = s.mode ∧ (s.popReads q v).sched = s.sched ∧ (s.popReads q v).fab = s.fab ∧ (s.popReads q v).mgmt = s.mgmt ∧
      (s.popReads q v).host = s.host ∧ (s.popReads q v).agenda = s.agenda ∧ (s.popReads q v).freeCtr = s.freeCtr ∧
      (s.popReads q v).mem.gmem = s.mem.gmem ∧ (s.popReads q v).mem.cistern = s.mem.cistern ∧ (s.popReads q v).ctx.regs = s.ctx.regs ∧
      (s.popReads q v).ctx.ctl = s.ctx.ctl ∧ (s.popReads q v).ctx.tr = s.ctx.tr ∧ (s.popReads q v).ctx.basin = s.ctx.basin ∧
      (s.popReads q v).ctx.pipe = s.ctx.pipe ∧ (s.popReads q v).ctx.casc = s.ctx.casc := by
  have line : ∀ {γ : Type} (g : Ctx → γ) (_ : ∀ c k f, g (c.mapLoads k f) = g c), g (s.popReads q v).ctx = g s.ctx := by
    intro γ g h
    unfold State.popReads
    refine (foldl_keeps g _ (fun c l => h c _ _) _ _).trans ((foldl_keeps g _ (fun c t => h c _ _) _ _).trans ?_)
    exact foldl_keeps (fun s : State => g s.ctx) State.fillDie (fun _ _ => rfl) _ _
  have mem : ∀ {γ : Type} (g : MemSys → γ) (_ : ∀ m l t, g (MemSys.readRrc m l t) = g m) (_ : ∀ (s : State) l, g (s.fillDie l).mem = g s.mem),
      g (s.popReads q v).mem = g s.mem := by
    intro γ g h k
    unfold State.popReads
    exact (foldl_keeps g _ (fun m l => h m _ _) _ _).trans (foldl_keeps (fun s : State => g s.mem) _ (fun s l => k s l) _ _)
  have rest : ∀ {γ : Type} (g : State → γ) (_ : ∀ (s : State) c m, g { s with ctx := c, mem := m } = g s), g (s.popReads q v) = g s := by
    intro γ g h
    unfold State.popReads
    exact (h _ _ _).trans (foldl_keeps g _ (fun s l => h s s.ctx _) _ _)
  exact ⟨rest State.mode fun _ _ _ => rfl, rest State.sched fun _ _ _ => rfl, rest State.fab fun _ _ _ => rfl, rest State.mgmt fun _ _ _ => rfl,
    rest State.host fun _ _ _ => rfl, rest State.agenda fun _ _ _ => rfl, rest State.freeCtr fun _ _ _ => rfl,
    mem MemSys.gmem (fun _ _ _ => rfl) (fun _ _ => rfl), mem MemSys.cistern (fun _ _ _ => rfl) (fun _ _ => rfl),
    line Ctx.regs fun _ _ _ => rfl, line Ctx.ctl fun _ _ _ => rfl, line Ctx.tr fun _ _ _ => rfl, line Ctx.basin fun _ _ _ => rfl,
    line Ctx.pipe fun _ _ _ => rfl, line Ctx.casc fun _ _ _ => rfl⟩

/-! ### Registers -/

@[simp] theorem Regs.setS_p (r : Regs) (n : BitVec 6) (v : W64) : (r.setS n v).p = r.p := by
  unfold Regs.setS; split <;> rfl
@[simp] theorem Regs.setS_k (r : Regs) (n : BitVec 6) (v : W64) : (r.setS n v).k = r.k := by
  unfold Regs.setS; split <;> rfl
@[simp] theorem Regs.setS_w (r : Regs) (n : BitVec 6) (v : W64) : (r.setS n v).w = r.w := by
  unfold Regs.setS; split <;> rfl
@[simp] theorem Regs.setS_pc (r : Regs) (n : BitVec 6) (v : W64) : (r.setS n v).pc = r.pc := by
  unfold Regs.setS; split <;> rfl
@[simp] theorem Regs.setP_s (r : Regs) (n : BitVec 3) (v : Bool) : (r.setP n v).s = r.s := by
  unfold Regs.setP; split <;> rfl
@[simp] theorem Regs.setP_k (r : Regs) (n : BitVec 3) (v : Bool) : (r.setP n v).k = r.k := by
  unfold Regs.setP; split <;> rfl
@[simp] theorem Regs.setP_w (r : Regs) (n : BitVec 3) (v : Bool) : (r.setP n v).w = r.w := by
  unfold Regs.setP; split <;> rfl
@[simp] theorem Regs.setP_pc (r : Regs) (n : BitVec 3) (v : Bool) : (r.setP n v).pc = r.pc := by
  unfold Regs.setP; split <;> rfl
@[simp] theorem Regs.setK_s (r : Regs) (n : BitVec 3) (v : BitVec 512) : (r.setK n v).s = r.s := by
  unfold Regs.setK; split <;> rfl
@[simp] theorem Regs.setK_p (r : Regs) (n : BitVec 3) (v : BitVec 512) : (r.setK n v).p = r.p := by
  unfold Regs.setK; split <;> rfl
@[simp] theorem Regs.setK_w (r : Regs) (n : BitVec 3) (v : BitVec 512) : (r.setK n v).w = r.w := by
  unfold Regs.setK; split <;> rfl
@[simp] theorem Regs.setK_pc (r : Regs) (n : BitVec 3) (v : BitVec 512) : (r.setK n v).pc = r.pc := by
  unfold Regs.setK; split <;> rfl
@[simp] theorem Regs.setW_s (r : Regs) (n : BitVec 2) (v : BitVec 1024) : (r.setW n v).s = r.s := rfl
@[simp] theorem Regs.setW_p (r : Regs) (n : BitVec 2) (v : BitVec 1024) : (r.setW n v).p = r.p := rfl
@[simp] theorem Regs.setW_k (r : Regs) (n : BitVec 2) (v : BitVec 1024) : (r.setW n v).k = r.k := rfl
@[simp] theorem Regs.setW_pc (r : Regs) (n : BitVec 2) (v : BitVec 1024) : (r.setW n v).pc = r.pc := rfl

end Sys2Proof.Machine
end

