-- ==== Sys2Proof/Laws/Homes.lean ====
section
/-! SUPPORT. The operations that write local or cistern memory keep the canonical form, and no other field of the state decides it. -/

namespace Sys2Proof.Machine

open Sys2Proof

/-- Local and cistern memory of a state are in canonical form. -/
def State.homesWf (s : State) : Prop := s.mem.gmem.wf = true ∧ s.mem.cistern.wf = true

theorem State.homesWf_reset : State.reset.homesWf := ⟨by decide, by decide⟩

/-- A state with the same two byte maps. -/
theorem State.homesWf_of_eq {s t : State} (hg : t.mem.gmem = s.mem.gmem) (hc : t.mem.cistern = s.mem.cistern) (h : s.homesWf) :
    t.homesWf := ⟨hg ▸ h.1, hc ▸ h.2⟩

theorem Mem.without_wf (m : Mem) (a n : Nat) (h : Mem.wf m = true) : Mem.wf (m.without a n) = true := Mem.filter_wf _ m h

theorem State.blurRegion_homesWf (s : State) (l : Launch) (r : Nat × Nat) (h : s.homesWf) : (s.blurRegion l r).homesWf := by
  refine ⟨?_, h.2⟩
  show Mem.wf (List.foldl _ s.mem.gmem _) = true
  generalize regionParts s l.asid r = ps
  have : ∀ m : Mem, Mem.wf m = true → Mem.wf (ps.foldl (fun m p => m.without p.key (p.hi - p.lo)) m) = true := by
    induction ps with
    | nil => exact fun m hm => hm
    | cons p ps ih => exact fun m hm => ih _ (Mem.without_wf m _ _ hm)
  exact this _ h.1

theorem foldl_homesWf {α : Type} (f : State → α → State) (xs : List α) (hf : ∀ s x, s.homesWf → (f s x).homesWf) (s : State)
    (h : s.homesWf) : (xs.foldl f s).homesWf := by
  induction xs generalizing s with
  | nil => exact h
  | cons x xs ih => exact ih _ (hf s x h)

theorem State.disturb_homesWf (s : State) (w : Option (BitVec 32)) (key n : Nat) (h : s.homesWf) : (s.disturb w key n).homesWf :=
  foldl_homesWf _ _ (fun s l hs => foldl_homesWf _ _ (fun s r hs => s.blurRegion_homesWf l r hs) s hs) s h

theorem MemSys.overRrc_maps (m : MemSys) (sent : Bool) (step : Nat) (time : W64) (old : List (Nat × Byte)) :
    (m.overRrc sent step time old).gmem = m.gmem ∧ (m.overRrc sent step time old).cistern = m.cistern := by
  cases sent <;> exact ⟨rfl, rfl⟩

theorem MemSys.writeHome_maps (m : MemSys) (key : Nat) (data : List Byte) :
    (m.writeHome key data).gmem = m.gmem.writeAll key data ∧ (m.writeHome key data).cistern = m.cistern := ⟨rfl, rfl⟩

theorem State.writeHome_homesWf (s : State) (m : MemSys) (key : Nat) (data : List Byte) (hg : m.gmem = s.mem.gmem)
    (hc : m.cistern = s.mem.cistern) (h : s.homesWf) : State.homesWf { s with mem := m.writeHome key data } :=
  ⟨(congrArg Mem.wf (MemSys.writeHome_maps m key data).1).trans (Mem.writeAll_wf m.gmem key data (hg ▸ h.1)),
    (congrArg Mem.wf (MemSys.writeHome_maps m key data).2).trans (hc ▸ h.2)⟩

theorem State.homeWrite_homesWf (s : State) (w : Option (BitVec 32)) (sent : Bool) (must : Port → Bool) (key : Nat)
    (data : List Byte) (h : s.homesWf) : (s.homeWrite w sent must key data).homesWf :=
  State.disturb_homesWf _ _ _ _ (State.writeHome_homesWf (s.noteGlobal must _) _ key data (MemSys.overRrc_maps ..).1
    (MemSys.overRrc_maps ..).2 ⟨h.1, h.2⟩)

theorem State.putHome_homesWf (s : State) (must : Port → Bool) (key : Nat) (data : List Byte) (h : s.homesWf) :
    (s.putHome must key data).homesWf := State.homeWrite_homesWf _ _ _ _ _ _ h

theorem State.putLog_homesWf (s : State) (must : Port → Bool) (va : Nat) (data : List Byte) (h : s.homesWf) :
    (s.putLog must va data).homesWf := ⟨h.1, h.2⟩

theorem State.putCistern_homesWf (s : State) (a : Nat) (data : List Byte) (h : s.homesWf) : (s.putCistern a data).homesWf :=
  ⟨h.1, Mem.writeAll_wf s.mem.cistern a data h.2⟩

theorem evTenantUnseal_homesWf (p : BitVec 3) (s : State) (h : s.homesWf) : (evTenantUnseal p s).homesWf := by
  unfold evTenantUnseal
  split
  · exact h
  · split
    · exact h
    · exact State.homesWf_of_eq rfl rfl (State.homeWrite_homesWf s none false noPort _ _ h)

end Sys2Proof.Machine
end

