-- ==== Sys2Proof/Laws/Issue.lean ====
section
/-! SUPPORT. What the issue of a bundle of one slot can do: operands of a quiet pipeline, a slot that neither stalls nor stops,
and results that land at once or later. -/

namespace Sys2Proof.Machine

open Sys2Proof

theorem issueBundle_one (s : State) (x : SlotSem) (ba nb : W64) (hst : x.stall = false) (hsp : x.stop = none)
    (hq : x.enq = none) (ho : x.offcore = false) :
    issueBundle s [(0, x)] ba nb = commit s [(0, x)] ba nb := by
  simp [issueBundle, stalls, hst, queueFull, enqCount, hq, accessFull, ho, bundleStop, firstSlotStop, hsp, firstCollision,
    collisionFrom]


/-- A copy at issue differs from the operands that it captures only in the basin bytes that it races on, in the template that stands, and
in an own basin address that its remote form names. -/
theorem withRuns_eq (s : State) (x : BitVec 4) (o : EngOp) :
    ∃ rd wr t, withRuns s x o = { o with rd := rd, wr := wr, tmpl := t, sa := localise s o.sa, sb := localise s o.sb } := by
  unfold withRuns
  dsimp only
  split
  · exact ⟨_, _, _, rfl⟩
  · exact ⟨_, _, _, rfl⟩

theorem loopEnd_plain (c : Ctx) (was wrote : Bool → Bool) (ba nb : W64)
    (h0 : was false = true → c.tr.lend0 ≠ ba) (h1 : was true = true → c.tr.lend1 ≠ ba) :
    c.loopEnd was wrote ba nb = { c with regs := { c.regs with pc := nb } } := by
  have e0 : (was false && c.tr.lend0 == ba && !(wrote false)) = false := by
    cases hw : was false <;> simp_all
  have e1 : (was true && c.tr.lend1 == ba && !(wrote true)) = false := by
    cases hw : was true <;> simp_all
  simp [Ctx.loopEnd, e0, e1]

/-- A bundle of one slot whose results all land later, and that transfers no control. -/
theorem commit_later (s : State) (x : SlotSem) (c : Ctx) (nb : W64) (h : s.noLoopEnd)
    (hap : x.apply s = { s with ctx := c }) (htr : x.transfer = none) (he : x.ends = false)
    (htl : c.tr.lend0 = s.ctx.tr.lend0 ∧ c.tr.lend1 = s.ctx.tr.lend1)
    (hcy : c.ctl.cycle = s.ctx.ctl.cycle) (hb : c.pipe.bundleNo = s.ctx.pipe.bundleNo)
    (hp : ∀ p ∈ c.pipe.pend, s.ctx.pipe.bundleNo + 1 < p.due) :
    commit s [(0, x)] s.ctx.regs.pc nb = s.finished c nb := by
  have hl : ∀ was wrote, was = (fun n => s.ctx.loopActive n) →
      c.loopEnd was wrote s.ctx.regs.pc nb = { c with regs := { c.regs with pc := nb } } := by
    intro was wrote hw
    apply loopEnd_plain
    · rw [htl.1, hw]; exact h.1
    · rw [htl.2, hw]; exact h.2
  have hf : (c.pipe.pend.filter fun p => decide (s.ctx.pipe.bundleNo + 1 < p.due)) = c.pipe.pend := by
    simpa [List.filter_eq_self] using hp
  have hg : (c.pipe.pend.filter fun p => decide (p.due ≤ s.ctx.pipe.bundleNo + 1)) = [] := by
    simp only [List.filter_eq_nil_iff, decide_eq_true_eq]; intro p hm; have := hp p hm; omega
  simp [commit, applySlots, hap, nextPc, htr, closeBundle, he, hl _ _ rfl, Ctx.landDue, hb, hf, hg, State.spend,
    State.tick, State.finished, hcy]

/-- A bundle of one slot with one result of latency 1. -/
theorem commit_now (s : State) (x : SlotSem) (d : PDest) (nb : W64) (h : s.noLoopEnd)
    (hap : x.apply s = { s with ctx := { s.ctx with pipe := { s.ctx.pipe with
      pend := [⟨d, s.ctx.pipe.bundleNo + 1, false⟩] } } })
    (htr : x.transfer = none) (he : x.ends = false)
    (hd : (∃ n v, d = .sreg n v) ∨ (∃ n v, d = .pred n v) ∨ ∃ n v w, d = .kmask n v w) :
    commit s [(0, x)] s.ctx.regs.pc nb =
      s.finished ({ s.ctx with pipe := { s.ctx.pipe with pend := [] } }.writeDst s.freeCtr d) nb := by
  have hl : ∀ (c : Ctx) was wrote, c.tr = s.ctx.tr → was = (fun n => s.ctx.loopActive n) →
      c.loopEnd was wrote s.ctx.regs.pc nb = { c with regs := { c.regs with pc := nb } } := by
    intro c was wrote hc hw
    apply loopEnd_plain
    · rw [hc, hw]; exact h.1
    · rw [hc, hw]; exact h.2
  have ht : commit s [(0, x)] s.ctx.regs.pc nb = closeBundle { s with ctx :=
      { s.ctx with
        pipe := { s.ctx.pipe with pend := [⟨d, s.ctx.pipe.bundleNo + 1, false⟩] }
        regs := { s.ctx.regs with pc := nb } } } [(0, x)] := by
    simp only [commit, applySlots, List.foldl_cons, List.foldl_nil, hap, nextPc, List.findSome?_cons, htr,
      List.findSome?_nil]
    rw [hl _ _ _ (by rfl) rfl]
  rw [ht]
  obtain ⟨n, v, rfl⟩ | ⟨n, v, rfl⟩ | ⟨n, v, w, rfl⟩ := hd <;>
  simp [closeBundle, he, Ctx.landDue, State.spend, State.tick, State.finished, Ctx.landOne, Ctx.hideStore, Ctx.writeDst]
  · simp only [Regs.setS]; split <;> simp
  · simp only [Regs.setP]; split <;> simp
  · simp only [Regs.setK, Regs.getK]; split <;> simp



theorem readS_quiet (s : State) (site : Nat) (n : BitVec 6) (h : s.ctx.pipe.pend = []) :
    readS s site n = s.ctx.regs.getS n := by
  by_cases hn : n = 0#6
  · subst hn; rfl
  · simp only [readS, h, List.any_nil]; simp [hn]

theorem sBusy_quiet (s : State) (n : BitVec 6) (h : s.ctx.pipe.sb = []) : sBusy s n = false := by
  simp [sBusy, h]

/-- A new result that meets none in flight takes its place after them all. -/
theorem standPlace_apart (ctr site : Nat) (hit : Pending → Bool) (ps : List Pending) (h : ∀ p ∈ ps, hit p = false) :
    standPlace ctr site hit ps = ps.length := by
  unfold standPlace
  rw [List.find?_eq_none.2 fun p hp => by simp [h _ (List.fst_mem_of_mem_zipIdx hp)]]
  rfl

/-- Nothing lands under a result that meets none in flight. -/
theorem settleUnder_apart (ctr : Nat) (c : Ctx) (hit : Pending → Bool) (h : ∀ p ∈ c.pipe.pend, hit p = false) :
    c.settleUnder ctr hit c.pipe.pend.length = c := by
  have hf : ∀ (xs : List Pending) (acc : Ctx), (∀ p ∈ xs, hit p = false) →
      xs.foldl (fun acc p => if hit p then acc.landOne ctr p else acc) acc = acc := by
    intro xs; induction xs with
    | nil => intros; rfl
    | cons x xs ih =>
      intro acc hx; simp only [List.foldl_cons, hx x (by simp)]; exact ih acc fun p hp => hx p (by simp [hp])
  have hm : (c.pipe.pend.map fun p => { p with landed := p.landed || hit p }) = c.pipe.pend := by
    conv => rhs; rw [← List.map_id c.pipe.pend]
    exact List.map_congr_left fun p hp => by simp [h p hp]
  simp [Ctx.settleUnder, hf _ _ h, hm]

theorem land_quiet (ctr site : Nat) (c : Ctx) (d : PDest) (lat : Nat) (h : c.pipe.pend = []) (hd : d.discarded = false) :
    c.land ctr site d lat = { c with pipe := { c.pipe with pend := [⟨d, c.pipe.bundleNo + lat, false⟩] } } := by
  have e := settleUnder_apart ctr c (fun p => p.dst.overlaps d) (by simp [h])
  simp only [h, List.length_nil] at e
  cases d <;> simp [Ctx.land, hd, h, standPlace_apart, e, PDest.isSpad, PDest.yield]

/-- A slot with one scalar result of latency 1. -/
theorem issueOne_scalar (s : State) (i : Instr) (sem : State → At → SlotSem) (d : BitVec 6) (v : W64) (h : s.ready)
    (hs : sem s (alone s i) = scalarResult (alone s i) d v 1) :
    issueOne s i sem = .next (s.finished { s.ctx with regs := s.ctx.regs.setS d v } (s.nb i)) := by
  obtain ⟨hp, hb, hl⟩ := h
  simp only [issueOne, hs]
  rw [issueBundle_one _ _ _ _ rfl rfl rfl rfl]
  congr 1
  by_cases hd : d = 0#6
  · subst hd
    rw [show (alone s i).ba = s.ctx.regs.pc from rfl]
    rw [commit_later s _ s.ctx _ hl (by simp [scalarResult, SlotSem.effect, landS, Ctx.land, PDest.discarded]) rfl rfl
      ⟨rfl, rfl⟩ rfl rfl (by simp [hp])]
    simp [Regs.setS]; rfl
  · have hd' : (PDest.sreg d v).discarded = false := by simp [PDest.discarded, hd]
    rw [show (alone s i).ba = s.ctx.regs.pc from rfl]
    rw [commit_now s _ (.sreg d v) _ hl
      (by simp only [scalarResult, SlotSem.effect, landS, land_quiet _ _ _ _ _ hp hd']) rfl rfl
      (.inl ⟨d, v, rfl⟩)]
    simp only [Ctx.writeDst, ← hp]; rfl

theorem sSlot_ready (s : State) (g : SGuard) (regs : List (BitVec 6)) (body : SlotSem) (hg : sGuard s g = true)
    (hb : s.ctx.pipe.sb = []) : sSlot s g regs body = body := by
  have : (regs.any fun n => sBusy s n) = false := by simp [sBusy_quiet s _ hb]
  simp [sSlot, hg, this]

theorem alu2_sem (s : State) (i : Instr) (f : W64 → W64 → W64) (lat : Nat) (g : SGuard) (d a b : BitVec 6) (h : s.ready)
    (hg : sGuard s g = true) :
    alu2 f lat g d a b s (alone s i) = scalarResult (alone s i) d (f (s.ctx.regs.getS a) (s.ctx.regs.getS b)) lat := by
  simp only [alu2, sSlot_ready _ _ _ _ hg h.2.1, readS_quiet _ _ _ h.1]

theorem alu1_sem (s : State) (i : Instr) (f : W64 → W64) (g : SGuard) (d a : BitVec 6) (h : s.ready)
    (hg : sGuard s g = true) :
    alu1 f g d a s (alone s i) = scalarResult (alone s i) d (f (s.ctx.regs.getS a)) 1 := by
  simp only [alu1, sSlot_ready _ _ _ _ hg h.2.1, readS_quiet _ _ _ h.1]

/-- A slot with one result that lands later. -/
theorem issueOne_later (s : State) (i : Instr) (sem : State → At → SlotSem) (x : SlotSem) (c : Ctx) (h : s.ready)
    (hs : sem s (alone s i) = x) (hst : x.stall = false) (hsp : x.stop = none) (hq : x.enq = none) (ho : x.offcore = false)
    (hap : x.apply s = { s with ctx := c }) (htr : x.transfer = none) (he : x.ends = false)
    (htl : c.tr.lend0 = s.ctx.tr.lend0 ∧ c.tr.lend1 = s.ctx.tr.lend1)
    (hcy : c.ctl.cycle = s.ctx.ctl.cycle) (hb : c.pipe.bundleNo = s.ctx.pipe.bundleNo)
    (hp : ∀ p ∈ c.pipe.pend, s.ctx.pipe.bundleNo + 1 < p.due) :
    issueOne s i sem = .next (s.finished c (s.nb i)) := by
  simp only [issueOne, hs]
  rw [issueBundle_one _ _ _ _ hst hsp hq ho]
  rw [show (alone s i).ba = s.ctx.regs.pc from rfl, commit_later s x c _ h.2.2 hap htr he htl hcy hb hp]
  rfl

theorem flying_quiet (c : Ctx) (d : PDest) (lat : Nat) (h : c.pipe.pend = []) (ctr site : Nat) :
    c.land ctr site d lat = c.flying d lat := by
  by_cases hd : d.discarded = true
  · simp [Ctx.land, Ctx.flying, hd]
  · simp only [Bool.not_eq_true] at hd
    rw [land_quiet _ _ _ _ _ h hd]; simp [Ctx.flying, hd, h]

theorem flying_tr (c : Ctx) (d : PDest) (lat : Nat) : (c.flying d lat).tr = c.tr := by unfold Ctx.flying; split <;> rfl

theorem flying_ctl (c : Ctx) (d : PDest) (lat : Nat) : (c.flying d lat).ctl = c.ctl := by unfold Ctx.flying; split <;> rfl

theorem flying_no (c : Ctx) (d : PDest) (lat : Nat) : (c.flying d lat).pipe.bundleNo = c.pipe.bundleNo := by
  unfold Ctx.flying; split <;> rfl

theorem flying_due (c : Ctx) (d : PDest) (lat n : Nat) (h : ∀ p ∈ c.pipe.pend, n < p.due) (hl : n < c.pipe.bundleNo + lat) :
    ∀ p ∈ (c.flying d lat).pipe.pend, n < p.due := by
  unfold Ctx.flying; split
  · exact h
  · intro p hp
    simp only [List.mem_append, List.mem_singleton] at hp
    rcases hp with hp | rfl
    · exact h p hp
    · exact hl

theorem issueOne_flying (s : State) (i : Instr) (sem : State → At → SlotSem) (d : BitVec 6) (v : W64) (lat : Nat) (h : s.ready)
    (hl : 1 < lat) (hs : sem s (alone s i) = scalarResult (alone s i) d v lat) :
    issueOne s i sem = .next (s.finished (s.ctx.flying (.sreg d v) lat) (s.nb i)) := by
  refine issueOne_later s i sem _ _ h hs rfl rfl rfl rfl ?_ rfl rfl ⟨by rw [flying_tr], by rw [flying_tr]⟩
    (by rw [flying_ctl]) (by rw [flying_no]) (flying_due _ _ _ _ (by simp [h.1]) (by omega))
  simp only [scalarResult, SlotSem.effect, landS, flying_quiet _ _ _ h.1]

theorem issueOne_stop (s : State) (i : Instr) (sem : State → At → SlotSem) (x : SlotSem) (st : Stop)
    (hs : sem s (alone s i) = x) (hst : x.stall = false) (hq : x.enq = none) (ho : x.offcore = false) (hsp : x.stop = some st) :
    issueOne s i sem = .next ((takeStop s st s.ctx.regs.pc (s.nb i)).spend.tick) := by
  simp only [issueOne, hs]
  simp [issueBundle, stalls, hst, queueFull, enqCount, hq, accessFull, ho, bundleStop, firstSlotStop, hsp]
  rfl

theorem addSb_quiet (ctr site : Nat) (c : Ctx) (e : SbEntry) (ds : List PDest) (h : c.pipe.pend = []) :
    c.addSb ctr site e ds = { c with pipe := { c.pipe with sb := c.pipe.sb ++ [{ e with lost := false, under := [] }] } } := by
  have e := settleUnder_apart ctr c (fun p => ds.any fun d => p.dst.overlaps d) (by simp [h])
  simp only [h, List.length_nil] at e
  simp [Ctx.addSb, h, standPlace_apart, e]

theorem owing_eq (s : State) (p : At) (d : BitVec 6) (v : W64) (h : s.ctx.pipe.pend = []) :
    scoreS p d v s = { s with ctx := s.ctx.owing d v p.ba } := by
  by_cases hd : d = 0#6
  · subst hd; simp [scoreS, Ctx.owing]
  · simp [scoreS, Ctx.owing, hd, addSb_quiet, h]

/-- A bundle of one slot that transfers control, with results that land later. -/
theorem commit_jump (s : State) (x : SlotSem) (c : Ctx) (nb next : W64)
    (hap : x.apply s = { s with ctx := c }) (htr : x.transfer = some next) (he : x.ends = false)
    (hcy : c.ctl.cycle = s.ctx.ctl.cycle) (hb : c.pipe.bundleNo = s.ctx.pipe.bundleNo)
    (hp : ∀ p ∈ c.pipe.pend, s.ctx.pipe.bundleNo + 1 < p.due) :
    commit s [(0, x)] s.ctx.regs.pc nb =
      s.finished (if x.leaves then c.leaveLoops (fun n => s.ctx.loopActive n) next else c) next := by
  have hll : ∀ was, (c.leaveLoops was next).pipe = c.pipe ∧ (c.leaveLoops was next).ctl = c.ctl := by
    intro was
    unfold Ctx.leaveLoops Ctx.deactivate
    dsimp only
    (repeat' split) <;> exact ⟨rfl, rfl⟩
  have hf : (c.pipe.pend.filter fun p => decide (s.ctx.pipe.bundleNo + 1 < p.due)) = c.pipe.pend := by
    simpa [List.filter_eq_self] using hp
  have hg : (c.pipe.pend.filter fun p => decide (p.due ≤ s.ctx.pipe.bundleNo + 1)) = [] := by
    simp only [List.filter_eq_nil_iff, decide_eq_true_eq]; intro p hm; have := hp p hm; omega
  cases hl : x.leaves <;>
  simp [commit, applySlots, hap, nextPc, htr, hl, closeBundle, he, Ctx.landDue, hb, hf, hg, State.spend,
    State.tick, State.finished, hcy, hll]

theorem land_scalar (ctr site : Nat) (c : Ctx) (d : BitVec 6) (v : W64) (h : c.pipe.pend = []) :
    c.land ctr site (.sreg d v) 1 = { c with pipe := { c.pipe with
      pend := if d = 0 then [] else [⟨.sreg d v, c.pipe.bundleNo + 1, false⟩] } } := by
  by_cases hd : d = 0#6
  · subst hd; simp [Ctx.land, PDest.discarded, ← h]
  · have hd' : (PDest.sreg d v).discarded = false := by simp [PDest.discarded, hd]
    rw [land_quiet _ _ _ _ _ h hd']; simp [hd]

/-- The end of a bundle with one scalar result of latency 1, whatever it did to the loop registers and the pc. -/
theorem close_scalar (s : State) (x : SlotSem) (d : BitVec 6) (v : W64) (tr : TrapRegs) (pc : W64) (h : s.ctx.pipe.pend = [])
    (he : x.ends = false) :
    closeBundle { s with ctx := { s.ctx with
        tr := tr
        regs := { s.ctx.regs with pc := pc }
        pipe := { s.ctx.pipe with pend := if d = 0 then [] else [⟨.sreg d v, s.ctx.pipe.bundleNo + 1, false⟩] } } } [(0, x)] =
      s.finished { s.ctx with regs := s.ctx.regs.setS d v, tr := tr } pc := by
  by_cases hd : d = 0#6
  · subst hd
    simp [closeBundle, he, Ctx.landDue, State.spend, State.tick, State.finished, Regs.setS, h]
  · simp [closeBundle, he, hd, Ctx.landDue, State.spend, State.tick, State.finished, Ctx.landOne, Ctx.hideStore, Ctx.writeDst, Regs.setS, h]

end Sys2Proof.Machine
end

