-- ==== Sys2Proof/Laws/Landing.lean ====
section
/-! SUPPORT. What landing results can do, and what it leaves as it is (R24, R29). -/

namespace Sys2Proof.Machine

open Sys2Proof

/-- What landing results leaves as it is: launch, header, trap and loop registers, cascade, logs, scoreboard, the instructions of
the engines, and every control register but FFLAGS. -/
structure LandFrame (c d : Ctx) : Prop where
  lid : d.lid = c.lid
  asid : d.asid = c.asid
  hdr : d.hdr = c.hdr
  tr : d.tr = c.tr
  casc : d.casc = c.casc
  log : d.log = c.log
  snap : d.snap = c.snap
  sb : d.pipe.sb = c.pipe.sb
  pend : d.pipe.pend = c.pipe.pend
  no : d.pipe.bundleNo = c.pipe.bundleNo
  next : d.pipe.nextId = c.pipe.nextId
  ctl : d.ctl = { c.ctl with fflags := d.ctl.fflags }
  pc : d.regs.pc = c.regs.pc
  w : d.regs.w = c.regs.w
  toks : d.eng.tokens = c.eng.tokens
  tiles : d.eng.tiles = c.eng.tiles
  accs : d.eng.accs = c.eng.accs
  temps : d.eng.templates = c.eng.templates
  wd : d.eng.withdrawn = c.eng.withdrawn
  qm : d.eng.qm.map EngOp.instr = c.eng.qm.map EngOp.instr
  q0 : d.eng.q0.map EngOp.instr = c.eng.q0.map EngOp.instr
  q1 : d.eng.q1.map EngOp.instr = c.eng.q1.map EngOp.instr
  st : d.eng.started.map EngOp.instr = c.eng.started.map EngOp.instr

theorem LandFrame.refl (c : Ctx) : LandFrame c c := by constructor <;> rfl

theorem LandFrame.trans {a b c : Ctx} (h : LandFrame a b) (k : LandFrame b c) : LandFrame a c := by
  constructor
  case ctl => rw [k.ctl, h.ctl]
  all_goals first
    | exact k.lid.trans h.lid | exact k.asid.trans h.asid | exact k.hdr.trans h.hdr | exact k.tr.trans h.tr
    | exact k.casc.trans h.casc | exact k.log.trans h.log | exact k.snap.trans h.snap | exact k.sb.trans h.sb
    | exact k.pend.trans h.pend | exact k.no.trans h.no | exact k.next.trans h.next | exact k.pc.trans h.pc
    | exact k.w.trans h.w | exact k.toks.trans h.toks | exact k.tiles.trans h.tiles | exact k.accs.trans h.accs
    | exact k.temps.trans h.temps | exact k.wd.trans h.wd | exact k.qm.trans h.qm | exact k.q0.trans h.q0
    | exact k.q1.trans h.q1 | exact k.st.trans h.st

theorem clobber_instr (o : EngOp) (reg : Bool) (xs : List SlotByte) : (o.clobber reg xs).instr = o.instr := by
  unfold EngOp.clobber; dsimp only; split <;> rfl

theorem putReg_frame (c : Ctx) (a : Nat) (bs : List (Option Byte)) : LandFrame c (c.putReg a bs) := by constructor <;> rfl

theorem slotSpad_frame (c : Ctx) (a : Nat) (bs : List (Option Byte)) : LandFrame c (c.slotSpad a bs) := by constructor <;> rfl

theorem clobberAll_frame (c : Ctx) (reg : Bool) (xs : List SlotByte) : LandFrame c { c with eng := c.eng.clobber reg xs } := by
  constructor <;>
    simp [Engines.clobber, Engines.unsettle, Engines.mapOps, clobber_instr, Function.comp_def, apply_ite EngOp.instr]

theorem landBytes_frame (ctr : Nat) (c : Ctx) (reg : Bool) (a : Nat) (bs : List (Option Byte)) :
    LandFrame c (c.landBytes ctr reg a bs) := by
  unfold Ctx.landBytes
  split
  · split
    · exact putReg_frame ..
    · exact slotSpad_frame ..
  · dsimp only
    split
    · exact (putReg_frame c a _).trans (clobberAll_frame _ _ _)
    · exact (slotSpad_frame c a _).trans (clobberAll_frame _ _ _)

theorem setSides_eq (b : Basin) (a : Nat) (s : List Byte) : ∀ c : Ctx, LandFrame c { c with basin := b.setSides a s } := by
  intro c; constructor <;> rfl

theorem writeDst_frame (ctr : Nat) (c : Ctx) (d : PDest) : LandFrame c (c.writeDst ctr d) := by
  cases d with
  | sreg n v => constructor <;> simp [Ctx.writeDst, Regs.setS] <;> split <;> rfl
  | pred n v => constructor <;> simp [Ctx.writeDst, Regs.setP] <;> split <;> rfl
  | kmask n v w => constructor <;> simp [Ctx.writeDst, Regs.setK] <;> split <;> rfl
  | vec addr bytes side =>
    have h := landBytes_frame ctr c true addr bytes
    exact h.trans (by constructor <;> rfl)
  | spad addr bytes => exact landBytes_frame ctr c false addr bytes
  | flags f => constructor <;> rfl
  | fault cause tval => constructor <;> rfl

theorem hide_instr (o : EngOp) (xs : List Nat) : (o.hide xs).instr = o.instr := rfl

theorem hideStore_frame (c : Ctx) (p : Pending) : LandFrame c (c.hideStore p) := by
  unfold Ctx.hideStore
  split
  · constructor <;> simp [Engines.mapOps, Function.comp_def, apply_ite EngOp.instr, hide_instr]
  · exact LandFrame.refl c

theorem landFold_frame (ctr : Nat) (ps : List Pending) (c : Ctx) : LandFrame c (ps.foldl (Ctx.landOne ctr) c) := by
  induction ps generalizing c with
  | nil => exact LandFrame.refl c
  | cons p ps ih =>
    refine LandFrame.trans ?_ (ih _)
    unfold Ctx.landOne
    split
    · exact LandFrame.refl c
    · exact (writeDst_frame ctr c p.dst).trans (hideStore_frame _ p)

/-- Landing everything in flight: the pipeline empties, and what landing leaves stands. -/
theorem landAll_frame (ctr : Nat) (c : Ctx) :
    LandFrame { c with pipe := { c.pipe with pend := [] } } (c.landAll ctr) := landFold_frame ctr _ _

theorem landDue_frame (ctr : Nat) (c : Ctx) (n : Nat) :
    LandFrame { c with pipe := { c.pipe with pend := c.pipe.pend.filter fun p => n < p.due } } (c.landDue ctr n) :=
  landFold_frame ctr _ _

theorem inTrap_landAll (ctr : Nat) (c : Ctx) : (c.landAll ctr).inTrap = c.inTrap := by
  unfold Ctx.inTrap; rw [(landAll_frame ctr c).tr]

theorem codeLen_landAll (ctr : Nat) (c : Ctx) : (c.landAll ctr).codeLen = c.codeLen := by
  unfold Ctx.codeLen; rw [(landAll_frame ctr c).hdr]

theorem loopActive_landAll (ctr : Nat) (c : Ctx) (n : Bool) : (c.landAll ctr).loopActive n = c.loopActive n := by
  unfold Ctx.loopActive; rw [(landAll_frame ctr c).tr]

theorem undone_instr {c d : Ctx} (h : LandFrame c d) : d.eng.undone.map EngOp.instr = c.eng.undone.map EngOp.instr := by
  simp [Engines.undone, h.qm, h.q0, h.q1, h.st]

end Sys2Proof.Machine
end

