-- ==== Sys2Proof/Laws/PerInstr.lean ====
section
/-! SUPPORT. Per instruction: its fields, as the encoder writes them, are read back by the parser (R47 to R62). -/

namespace Sys2Proof.Laws

open Sys2Proof

/-! ### Fields -/

theorem append_high {m n : Nat} (x : BitVec m) (y : BitVec n) : (x ++ y).extractLsb' n m = x := by
  refine BitVec.eq_of_getLsbD_eq fun i hi => ?_
  simp [BitVec.getLsbD_append, hi]

theorem append_low {m n : Nat} (x : BitVec m) (y : BitVec n) : (x ++ y).extractLsb' 0 n = y := by
  refine BitVec.eq_of_getLsbD_eq fun i hi => ?_
  simp [BitVec.getLsbD_append, hi]

/-- Adjacent fields of a word, put together again. -/
theorem join (w : BitVec k) (s t m n : Nat) (h : t = s + n) :
    (w.extractLsb' t m ++ w.extractLsb' s n : BitVec (m + n)) = w.extractLsb' s (m + n) := by
  subst h
  refine BitVec.eq_of_getLsbD_eq fun i hi => ?_
  simp only [BitVec.getLsbD_append, BitVec.getLsbD_extractLsb']
  by_cases h : i < n
  · simp [h, hi]
  · have : i - n < m := by omega
    simp [h, hi, this, show s + n + (i - n) = s + i by omega]

theorem whole {n : Nat} (w : BitVec n) : w.extractLsb' 0 n = w := by
  refine BitVec.eq_of_getLsbD_eq fun i hi => ?_
  simp [hi]

@[simp] theorem split12 (v : BitVec 12) : (v.extractLsb' 6 6 ++ v.extractLsb' 0 6 : BitVec 12) = v :=
  (join v 0 6 6 6 rfl).trans (whole v)

@[simp] theorem split18 (v : BitVec 18) :
    (v.extractLsb' 12 6 ++ v.extractLsb' 6 6 ++ v.extractLsb' 0 6 : BitVec 18) = v := by
  have h : (v.extractLsb' 12 6 ++ v.extractLsb' 6 6 : BitVec 12) = v.extractLsb' 6 12 := join v 6 12 6 6 rfl
  rw [h]
  exact (join v 0 6 12 6 rfl).trans (whole v)

@[simp] theorem split16 (v : BitVec 16) :
    (v.extractLsb' 12 4 ++ v.extractLsb' 6 6 ++ v.extractLsb' 0 6 : BitVec 16) = v := by
  have h : (v.extractLsb' 12 4 ++ v.extractLsb' 6 6 : BitVec 10) = v.extractLsb' 6 10 := join v 6 12 4 6 rfl
  rw [h]
  exact (join v 0 6 10 6 rfl).trans (whole v)

theorem skip_fields {m w : Nat} (x : BitVec m) (y : BitVec w) (s n : Nat) (h : w ≤ s) :
    (x ++ y).extractLsb' s n = x.extractLsb' (s - w) n := by
  refine BitVec.eq_of_getLsbD_eq fun i hi => ?_
  simp [BitVec.getLsbD_append, show ¬ s + i < w by omega, show s + i - w = s - w + i by omega]

theorem skip_bits {m w : Nat} (x : BitVec m) (y : BitVec w) (s : Nat) (h : w ≤ s) :
    (x ++ y).getLsbD s = x.getLsbD (s - w) := by
  simp [BitVec.getLsbD_append, show ¬ s < w by omega]

theorem low_flag {m : Nat} (x : BitVec m) (f : Bool) : (x ++ BitVec.ofBool f).getLsbD 0 = f := by
  simp only [BitVec.getLsbD_append, BitVec.getLsbD_ofBool]
  simp

@[simp] theorem field15 (x : BitVec 5) (y : BitVec 1) : (x ++ y : BitVec 6).extractLsb' 0 1 = y := append_low (m := 5) x y
@[simp] theorem field24 (x : BitVec 4) (y : BitVec 2) : (x ++ y : BitVec 6).extractLsb' 0 2 = y := append_low (m := 4) x y
@[simp] theorem field42 (x : BitVec 2) (y : BitVec 4) : (x ++ y : BitVec 6).extractLsb' 0 4 = y := append_low (m := 2) x y
@[simp] theorem field51 (x : BitVec 1) (y : BitVec 5) : (x ++ y : BitVec 6).extractLsb' 0 5 = y := append_low (m := 1) x y
@[simp] theorem field33 (x y : BitVec 3) : (x ++ y : BitVec 6).extractLsb' 0 3 = y := append_low (m := 3) x y
@[simp] theorem upper33 (x y : BitVec 3) : (x ++ y : BitVec 6).extractLsb' 3 3 = x := append_high (n := 3) x y
@[simp] theorem upper24 (x : BitVec 2) (y : BitVec 4) : (x ++ y : BitVec 6).extractLsb' 4 2 = x := append_high (n := 4) x y

@[simp] theorem field114 (f : BitVec 2) (y : BitVec 4) : (f ++ y : BitVec 6)[4] = f[0] :=
  skip_bits (w := 4) f y 4 (by decide)

@[simp] theorem upper114 (f : BitVec 2) (y : BitVec 4) : (f ++ y : BitVec 6).msb = f.msb := by
  rw [BitVec.msb_eq_getLsbD_last, BitVec.msb_eq_getLsbD_last]
  exact skip_bits (w := 4) f y 5 (by decide)

@[simp] theorem flags2 : ∀ f g : Bool, @BitVec.msb (1 + 1) (BitVec.ofBool f ++ BitVec.ofBool g) = f ∧
    (BitVec.ofBool f ++ BitVec.ofBool g : BitVec (1 + 1))[0] = g := by
  decide

@[simp] theorem flag1 : ∀ f : Bool, @BitVec.msb 2 (BitVec.ofBool f ++ 0#1) = f := by decide

/-- A token word holds each of its fields (Table 3-5). -/
theorem tokOf_word (t : TokWord) : tokOf t.word = t := by
  have h : ∀ v : BitVec (12 + 1 + 4 + 1 + 4 + 1 + 4 + 1 + 4), v = t.imm12 ++ BitVec.ofBool t.pe ++ t.po ++
      BitVec.ofBool t.ce ++ t.cc ++ BitVec.ofBool t.be ++ t.cb ++ BitVec.ofBool t.ae ++ t.ca →
      TokWord.mk (v.extractLsb' 20 12) (v.getLsbD 19) (v.extractLsb' 15 4) (v.getLsbD 14) (v.extractLsb' 10 4)
        (v.getLsbD 9) (v.extractLsb' 5 4) (v.getLsbD 4) (v.extractLsb' 0 4) = t := by
    rintro v rfl
    simp only [skip_fields, skip_bits, append_low, low_flag, whole, Nat.reduceSub, Nat.reduceLeDiff]
  exact h _ rfl

theorem flagged6 (f : Bool) (op : BitVec 6) : (BitVec.ofBool f ++ op : BitVec 7).getLsbD 6 = f :=
  (skip_bits (w := 6) (BitVec.ofBool f) op 6 (by decide)).trans (by simp)

theorem flagged3 (f : Bool) (p : BitVec 3) : (BitVec.ofBool f ++ p : BitVec 4).getLsbD 3 = f :=
  (skip_bits (w := 3) (BitVec.ofBool f) p 3 (by decide)).trans (by simp)

/-! ### The fields of encoded words -/

section
variable (e : Bool) (k : BitVec 2) (g : SGuard) (m : VMask) (t : EGuard) (op : BitVec 6) (op7 : BitVec 7)
  (d a b : BitVec 6) (lit : Option IWord) (x : IWord)

@[simp] theorem encS_l : (encS e g op d a b lit).1.l = lit.isSome := by
  exact flagged6 _ _

@[simp] theorem encS_op : (encS e g op d a b lit).1.op.extractLsb' 0 6 = op :=
  append_low (m := 1) (BitVec.ofBool lit.isSome) op

@[simp] theorem encS_sg : (encS e g op d a b lit).1.sg = g := by
  exact congr (congrArg SGuard.mk (flagged3 g.neg g.p)) (append_low (m := 1) (BitVec.ofBool g.neg) g.p)

@[simp] theorem encS_d : (encS e g op d a b lit).1.d = d := rfl
@[simp] theorem encS_a : (encS e g op d a b lit).1.a = a := rfl
@[simp] theorem encS_b : (encS e g op d a b lit).1.b = b := rfl
@[simp] theorem encS_e : (encS e g op d a b lit).1.e = e := rfl
@[simp] theorem encS_lit : (encS e g op d a b lit).2 = lit := rfl
@[simp] theorem encS_owns : (encS e g op d a b lit).1.owns = lit.isSome := by
  exact (if_neg (show ¬ (0#2).getLsbD 1 = true by decide)).trans (encS_l e g op d a b lit)
@[simp] theorem parse_encS : parse (encS e g op d a b lit).1 x = parseS (encS e g op d a b lit).1 x := rfl

@[simp] theorem encV_l : (encV e m op d a b lit).1.l = lit.isSome := by
  exact flagged6 _ _

@[simp] theorem encV_op : (encV e m op d a b lit).1.op.extractLsb' 0 6 = op :=
  append_low (m := 1) (BitVec.ofBool lit.isSome) op

@[simp] theorem encV_vm : (encV e m op d a b lit).1.vm = m := by
  exact congr (congrArg VMask.mk (flagged3 m.z m.k)) (append_low (m := 1) (BitVec.ofBool m.z) m.k)

@[simp] theorem encV_d : (encV e m op d a b lit).1.d = d := rfl
@[simp] theorem encV_a : (encV e m op d a b lit).1.a = a := rfl
@[simp] theorem encV_b : (encV e m op d a b lit).1.b = b := rfl
@[simp] theorem encV_e : (encV e m op d a b lit).1.e = e := rfl
@[simp] theorem encV_lit : (encV e m op d a b lit).2 = lit := rfl
@[simp] theorem encV_owns : (encV e m op d a b lit).1.owns = lit.isSome := by
  exact (if_neg (show ¬ (1#2).getLsbD 1 = true by decide)).trans (encV_l e m op d a b lit)
@[simp] theorem parse_encV : parse (encV e m op d a b lit).1 x = parseV (encV e m op d a b lit).1 x := rfl

@[simp] theorem encE_op : (encE e k t op7 d a b).1.op = op7 := rfl
@[simp] theorem encE_d : (encE e k t op7 d a b).1.d = d := rfl
@[simp] theorem encE_a : (encE e k t op7 d a b).1.a = a := rfl
@[simp] theorem encE_b : (encE e k t op7 d a b).1.b = b := rfl
@[simp] theorem encE_e : (encE e k t op7 d a b).1.e = e := rfl
@[simp] theorem encE_tok : (encE e k t op7 d a b).2.isSome = t.tok.isSome := by simp [encE]

theorem encE_flag : (encE e k t op7 d a b).1.g.getLsbD 3 = t.tok.isSome := by
  exact flagged3 _ _

@[simp] theorem encE_owns2 : (encE e 2#2 t op7 d a b).1.owns = t.tok.isSome := by
  exact (if_pos (show (2#2).getLsbD 1 = true by decide)).trans (encE_flag e 2#2 t op7 d a b)
@[simp] theorem encE_owns3 : (encE e 3#2 t op7 d a b).1.owns = t.tok.isSome := by
  exact (if_pos (show (3#2).getLsbD 1 = true by decide)).trans (encE_flag e 3#2 t op7 d a b)

@[simp] theorem encE_eg : (encE e k t op7 d a b).1.eg ((encE e k t op7 d a b).2.getD 0#32) = t := by
  have hp : (encE e k t op7 d a b).1.g.extractLsb' 0 3 = t.p :=
    append_low (m := 1) (BitVec.ofBool t.tok.isSome) t.p
  rw [Raw.eg, encE_flag, hp]
  obtain ⟨p, tok⟩ := t
  cases tok with
  | none => rfl
  | some w => exact congrArg (fun v => EGuard.mk p (some v)) (tokOf_word w)

@[simp] theorem parse_encE2 : parse (encE e 2#2 t op7 d a b).1 x = parseM (encE e 2#2 t op7 d a b).1 x := rfl
@[simp] theorem parse_encE3 : parse (encE e 3#2 t op7 d a b).1 x = parseC (encE e 3#2 t op7 d a b).1 x := rfl

end

/-! ### One lemma for each instruction -/

/-- What the encoder writes is what the parser reads: the instruction, E as asked, and a word after it exactly where it owns one. -/
def Encoding.Statement (i : Instr) : Prop :=
  ∀ last p, i.enc last = some p → parse p.1 (p.2.getD 0) = some i ∧ p.1.e = last ∧ p.1.owns = p.2.isSome

theorem Encoding.ofSlot {i : Instr} (p : Bool → Raw × Option IWord) (h : ∀ last, i.enc last = some (p last))
    (hp : ∀ last, parse (p last).1 ((p last).2.getD 0) = some i ∧ (p last).1.e = last ∧
      (p last).1.owns = (p last).2.isSome) : Encoding.Statement i := by
  intro last q hq
  rw [h last] at hq
  cases hq
  exact hp last

theorem Encoding.ofEvent {i : Instr} (h : ∀ last, i.enc last = none) : Encoding.Statement i := fun last p hp => by
  rw [h last] at hp
  cases hp

set_option Elab.async false

namespace Encoding

theorem add (g : SGuard) (d a b : BitVec 6) : Statement (.add g d a b) :=
  ofSlot _ (fun _ => rfl) fun _ => by simp [parseS]

theorem sub (g : SGuard) (d a b : BitVec 6) : Statement (.sub g d a b) :=
  ofSlot _ (fun _ => rfl) fun _ => by simp [parseS]

theorem mul (g : SGuard) (d a b : BitVec 6) : Statement (.mul g d a b) :=
  ofSlot _ (fun _ => rfl) fun _ => by simp [parseS]

theorem mulh (g : SGuard) (d a b : BitVec 6) : Statement (.mulh g d a b) :=
  ofSlot _ (fun _ => rfl) fun _ => by simp [parseS]

theorem div (g : SGuard) (d a b : BitVec 6) : Statement (.div g d a b) :=
  ofSlot _ (fun _ => rfl) fun _ => by simp [parseS]

theorem divu (g : SGuard) (d a b : BitVec 6) : Statement (.divu g d a b) :=
  ofSlot _ (fun _ => rfl) fun _ => by simp [parseS]

theorem rem (g : SGuard) (d a b : BitVec 6) : Statement (.rem g d a b) :=
  ofSlot _ (fun _ => rfl) fun _ => by simp [parseS]

theorem and (g : SGuard) (d a b : BitVec 6) : Statement (.and g d a b) :=
  ofSlot _ (fun _ => rfl) fun _ => by simp [parseS]

theorem or (g : SGuard) (d a b : BitVec 6) : Statement (.or g d a b) :=
  ofSlot _ (fun _ => rfl) fun _ => by simp [parseS]

theorem xor (g : SGuard) (d a b : BitVec 6) : Statement (.xor g d a b) :=
  ofSlot _ (fun _ => rfl) fun _ => by simp [parseS]

theorem shl (g : SGuard) (d a b : BitVec 6) : Statement (.shl g d a b) :=
  ofSlot _ (fun _ => rfl) fun _ => by simp [parseS]

theorem shr (g : SGuard) (d a b : BitVec 6) : Statement (.shr g d a b) :=
  ofSlot _ (fun _ => rfl) fun _ => by simp [parseS]

theorem sar (g : SGuard) (d a b : BitVec 6) : Statement (.sar g d a b) :=
  ofSlot _ (fun _ => rfl) fun _ => by simp [parseS]

theorem min (g : SGuard) (d a b : BitVec 6) : Statement (.min g d a b) :=
  ofSlot _ (fun _ => rfl) fun _ => by simp [parseS]

theorem max (g : SGuard) (d a b : BitVec 6) : Statement (.max g d a b) :=
  ofSlot _ (fun _ => rfl) fun _ => by simp [parseS]

theorem clz (g : SGuard) (d a : BitVec 6) : Statement (.clz g d a) :=
  ofSlot _ (fun _ => rfl) fun _ => by simp [parseS]

theorem popc (g : SGuard) (d a : BitVec 6) : Statement (.popc g d a) :=
  ofSlot _ (fun _ => rfl) fun _ => by simp [parseS]

theorem sext (g : SGuard) (d a : BitVec 6) (sz : BitVec 2) : Statement (.sext g d a sz) :=
  ofSlot _ (fun _ => rfl) fun _ => by simp [parseS]

theorem addv (g : SGuard) (d a b : BitVec 6) : Statement (.addv g d a b) :=
  ofSlot _ (fun _ => rfl) fun _ => by simp [parseS]

theorem addi (g : SGuard) (d a : BitVec 6) (imm : Imm 6) : Statement (.addi g d a imm) :=
  ofSlot _ (fun _ => rfl) fun _ => by cases imm <;> simp [parseS, Imm.field, Imm.litWord, Raw.imm6]

theorem andi (g : SGuard) (d a : BitVec 6) (imm : Imm 6) : Statement (.andi g d a imm) :=
  ofSlot _ (fun _ => rfl) fun _ => by cases imm <;> simp [parseS, Imm.field, Imm.litWord, Raw.imm6]

theorem ori (g : SGuard) (d a : BitVec 6) (imm : Imm 6) : Statement (.ori g d a imm) :=
  ofSlot _ (fun _ => rfl) fun _ => by cases imm <;> simp [parseS, Imm.field, Imm.litWord, Raw.imm6]

theorem shli (g : SGuard) (d a : BitVec 6) (sh : BitVec 6) : Statement (.shli g d a sh) :=
  ofSlot _ (fun _ => rfl) fun _ => by simp [parseS]

theorem shri (g : SGuard) (d a : BitVec 6) (sh : BitVec 6) : Statement (.shri g d a sh) :=
  ofSlot _ (fun _ => rfl) fun _ => by simp [parseS]

theorem sari (g : SGuard) (d a : BitVec 6) (sh : BitVec 6) : Statement (.sari g d a sh) :=
  ofSlot _ (fun _ => rfl) fun _ => by simp [parseS]

theorem li (g : SGuard) (d : BitVec 6) (imm : Imm 12) : Statement (.li g d imm) :=
  ofSlot _ (fun _ => rfl) fun _ => by cases imm <;> simp [parseS, Imm.field, Imm.litWord, Raw.imm12]

theorem lih (g : SGuard) (d : BitVec 6) (lit : BitVec 32) : Statement (.lih g d lit) :=
  ofSlot _ (fun _ => rfl) fun _ => by simp [parseS]

theorem cmp (g : SGuard) (c q : BitVec 3) (a b : BitVec 6) : Statement (.cmp g c q a b) :=
  ofSlot _ (fun _ => rfl) fun _ => by simp [parseS]

theorem cmpi (g : SGuard) (c q : BitVec 3) (a : BitVec 6) (imm : Imm 6) : Statement (.cmpi g c q a imm) :=
  ofSlot _ (fun _ => rfl) fun _ => by cases imm <;> simp [parseS, Imm.field, Imm.litWord, Raw.imm6]

theorem plog (g : SGuard) (f q x y : BitVec 3) : Statement (.plog g f q x y) :=
  ofSlot _ (fun _ => rfl) fun _ => by simp [parseS]

theorem br (g : SGuard) (imm : Imm 18) : Statement (.br g imm) :=
  ofSlot _ (fun _ => rfl) fun _ => by cases imm <;> simp [parseS, Imm.field, Imm.litWord, Raw.imm18]

theorem call (g : SGuard) (imm : Imm 18) : Statement (.call g imm) :=
  ofSlot _ (fun _ => rfl) fun _ => by cases imm <;> simp [parseS, Imm.field, Imm.litWord, Raw.imm18]

theorem jr (g : SGuard) (d a : BitVec 6) : Statement (.jr g d a) :=
  ofSlot _ (fun _ => rfl) fun _ => by simp [parseS]

theorem loop (g : SGuard) (n : BitVec 1) (a : BitVec 6) (off : Imm 6) : Statement (.loop g n a off) :=
  ofSlot _ (fun _ => rfl) fun _ => by cases off <;> simp [parseS, Imm.field, Imm.litWord, Raw.imm6]

theorem tend (g : SGuard) : Statement (.tend g) :=
  ofSlot _ (fun _ => rfl) fun _ => by simp [parseS]

theorem trap (g : SGuard) (code : BitVec 12) : Statement (.trap g code) :=
  ofSlot _ (fun _ => rfl) fun _ => by simp [parseS]

theorem rte (g : SGuard) : Statement (.rte g) :=
  ofSlot _ (fun _ => rfl) fun _ => by simp [parseS]

theorem brk (g : SGuard) (code : BitVec 12) : Statement (.brk g code) :=
  ofSlot _ (fun _ => rfl) fun _ => by simp [parseS]

theorem ldsB (g : SGuard) (d a : BitVec 6) (off : Imm 6) : Statement (.ldsB g d a off) :=
  ofSlot _ (fun _ => rfl) fun _ => by cases off <;> simp [parseS, Imm.field, Imm.litWord, Raw.imm6]

theorem ldsH (g : SGuard) (d a : BitVec 6) (off : Imm 6) : Statement (.ldsH g d a off) :=
  ofSlot _ (fun _ => rfl) fun _ => by cases off <;> simp [parseS, Imm.field, Imm.litWord, Raw.imm6]

theorem ldsW (g : SGuard) (d a : BitVec 6) (off : Imm 6) : Statement (.ldsW g d a off) :=
  ofSlot _ (fun _ => rfl) fun _ => by cases off <;> simp [parseS, Imm.field, Imm.litWord, Raw.imm6]

theorem ldsD (g : SGuard) (d a : BitVec 6) (off : Imm 6) : Statement (.ldsD g d a off) :=
  ofSlot _ (fun _ => rfl) fun _ => by cases off <;> simp [parseS, Imm.field, Imm.litWord, Raw.imm6]

theorem stsB (g : SGuard) (d a : BitVec 6) (off : Imm 6) : Statement (.stsB g d a off) :=
  ofSlot _ (fun _ => rfl) fun _ => by cases off <;> simp [parseS, Imm.field, Imm.litWord, Raw.imm6]

theorem stsH (g : SGuard) (d a : BitVec 6) (off : Imm 6) : Statement (.stsH g d a off) :=
  ofSlot _ (fun _ => rfl) fun _ => by cases off <;> simp [parseS, Imm.field, Imm.litWord, Raw.imm6]

theorem stsW (g : SGuard) (d a : BitVec 6) (off : Imm 6) : Statement (.stsW g d a off) :=
  ofSlot _ (fun _ => rfl) fun _ => by cases off <;> simp [parseS, Imm.field, Imm.litWord, Raw.imm6]

theorem stsD (g : SGuard) (d a : BitVec 6) (off : Imm 6) : Statement (.stsD g d a off) :=
  ofSlot _ (fun _ => rfl) fun _ => by cases off <;> simp [parseS, Imm.field, Imm.litWord, Raw.imm6]

theorem gld (g : SGuard) (d a : BitVec 6) (sz : BitVec 2) (cls : BitVec 4) (off : Option (BitVec 32)) : Statement (.gld g d a sz cls off) :=
  ofSlot _ (fun _ => rfl) fun _ => by cases off <;> simp [parseS, Raw.optLit]

theorem gst (g : SGuard) (d a : BitVec 6) (sz : BitVec 2) (cls : BitVec 4) (off : Option (BitVec 32)) : Statement (.gst g d a sz cls off) :=
  ofSlot _ (fun _ => rfl) fun _ => by cases off <;> simp [parseS, Raw.optLit]

theorem mfc (g : SGuard) (d c : BitVec 6) : Statement (.mfc g d c) :=
  ofSlot _ (fun _ => rfl) fun _ => by simp [parseS]

theorem mtc (g : SGuard) (c a : BitVec 6) : Statement (.mtc g c a) :=
  ofSlot _ (fun _ => rfl) fun _ => by simp [parseS]

theorem twait (g : SGuard) (o : BitVec 4) : Statement (.twait g o) :=
  ofSlot _ (fun _ => rfl) fun _ => by simp [parseS]

theorem vadd (m : VMask) (d a b : BitVec 6) : Statement (.vadd m d a b) :=
  ofSlot _ (fun _ => rfl) fun _ => by simp [parseV]

theorem vsub (m : VMask) (d a b : BitVec 6) : Statement (.vsub m d a b) :=
  ofSlot _ (fun _ => rfl) fun _ => by simp [parseV]

theorem vmul (m : VMask) (d a b : BitVec 6) : Statement (.vmul m d a b) :=
  ofSlot _ (fun _ => rfl) fun _ => by simp [parseV]

theorem vfma (m : VMask) (d a b : BitVec 6) : Statement (.vfma m d a b) :=
  ofSlot _ (fun _ => rfl) fun _ => by simp [parseV]

theorem vfms (m : VMask) (d a b : BitVec 6) : Statement (.vfms m d a b) :=
  ofSlot _ (fun _ => rfl) fun _ => by simp [parseV]

theorem vmin (m : VMask) (d a b : BitVec 6) : Statement (.vmin m d a b) :=
  ofSlot _ (fun _ => rfl) fun _ => by simp [parseV]

theorem vmax (m : VMask) (d a b : BitVec 6) : Statement (.vmax m d a b) :=
  ofSlot _ (fun _ => rfl) fun _ => by simp [parseV]

theorem vabs (m : VMask) (d a : BitVec 6) : Statement (.vabs m d a) :=
  ofSlot _ (fun _ => rfl) fun _ => by simp [parseV]

theorem vneg (m : VMask) (d a : BitVec 6) : Statement (.vneg m d a) :=
  ofSlot _ (fun _ => rfl) fun _ => by simp [parseV]

theorem vrcp (m : VMask) (d a : BitVec 6) : Statement (.vrcp m d a) :=
  ofSlot _ (fun _ => rfl) fun _ => by simp [parseV]

theorem vrsq (m : VMask) (d a : BitVec 6) : Statement (.vrsq m d a) :=
  ofSlot _ (fun _ => rfl) fun _ => by simp [parseV]

theorem vsqrt (m : VMask) (d a : BitVec 6) : Statement (.vsqrt m d a) :=
  ofSlot _ (fun _ => rfl) fun _ => by simp [parseV]

theorem vexp2 (m : VMask) (d a : BitVec 6) : Statement (.vexp2 m d a) :=
  ofSlot _ (fun _ => rfl) fun _ => by simp [parseV]

theorem vlog2 (m : VMask) (d a : BitVec 6) : Statement (.vlog2 m d a) :=
  ofSlot _ (fun _ => rfl) fun _ => by simp [parseV]

theorem vand (m : VMask) (d a b : BitVec 6) : Statement (.vand m d a b) :=
  ofSlot _ (fun _ => rfl) fun _ => by simp [parseV]

theorem vor (m : VMask) (d a b : BitVec 6) : Statement (.vor m d a b) :=
  ofSlot _ (fun _ => rfl) fun _ => by simp [parseV]

theorem vxor (m : VMask) (d a b : BitVec 6) : Statement (.vxor m d a b) :=
  ofSlot _ (fun _ => rfl) fun _ => by simp [parseV]

theorem vshl (m : VMask) (d a b : BitVec 6) : Statement (.vshl m d a b) :=
  ofSlot _ (fun _ => rfl) fun _ => by simp [parseV]

theorem vshr (m : VMask) (d a b : BitVec 6) : Statement (.vshr m d a b) :=
  ofSlot _ (fun _ => rfl) fun _ => by simp [parseV]

theorem vsar (m : VMask) (d a b : BitVec 6) : Statement (.vsar m d a b) :=
  ofSlot _ (fun _ => rfl) fun _ => by simp [parseV]

theorem vadds (m : VMask) (d a b : BitVec 6) : Statement (.vadds m d a b) :=
  ofSlot _ (fun _ => rfl) fun _ => by simp [parseV]

theorem vcmp (m : VMask) (c q : BitVec 3) (a b : BitVec 6) : Statement (.vcmp m c q a b) :=
  ofSlot _ (fun _ => rfl) fun _ => by simp [parseV]

theorem vsel (k : BitVec 3) (d a b : BitVec 6) : Statement (.vsel k d a b) :=
  ofSlot _ (fun _ => rfl) fun _ => by simp [parseV]

theorem vrsum (m : VMask) (d a : BitVec 6) : Statement (.vrsum m d a) :=
  ofSlot _ (fun _ => rfl) fun _ => by simp [parseV]

theorem vrmax (m : VMask) (d a : BitVec 6) : Statement (.vrmax m d a) :=
  ofSlot _ (fun _ => rfl) fun _ => by simp [parseV]

theorem vbcast (m : VMask) (d : BitVec 6) (src : BcSrc) (f : BitVec 4) : Statement (.vbcast m d src f) :=
  ofSlot _ (fun _ => rfl) fun _ => by cases src <;> simp [parseV, BcSrc.field, BcSrc.litWord, Raw.bcSrc]

theorem vext (d a b : BitVec 6) : Statement (.vext d a b) :=
  ofSlot _ (fun _ => rfl) fun _ => by simp [parseV]

theorem vperm (m : VMask) (d a b : BitVec 6) : Statement (.vperm m d a b) :=
  ofSlot _ (fun _ => rfl) fun _ => by simp [parseV]

theorem vrot (m : VMask) (d a b : BitVec 6) : Statement (.vrot m d a b) :=
  ofSlot _ (fun _ => rfl) fun _ => by simp [parseV]

theorem vintl (m : VMask) (d a b : BitVec 6) : Statement (.vintl m d a b) :=
  ofSlot _ (fun _ => rfl) fun _ => by simp [parseV]

theorem vcvt (m : VMask) (d a : BitVec 6) (sr half : Bool) (f : BitVec 4) : Statement (.vcvt m d a sr half f) :=
  ofSlot _ (fun _ => rfl) fun _ => by simp [parseV]

theorem vqmx (k : BitVec 3) (d a : BitVec 6) (sr : Bool) (f : BitVec 4) : Statement (.vqmx k d a sr f) :=
  ofSlot _ (fun _ => rfl) fun _ => by simp [parseV]

theorem vqc4 (k : BitVec 3) (d a : BitVec 6) (f : BitVec 4) : Statement (.vqc4 k d a f) :=
  ofSlot _ (fun _ => rfl) fun _ => by simp [parseV]

theorem vdq (m : VMask) (d a : BitVec 6) (f : BitVec 4) : Statement (.vdq m d a f) :=
  ofSlot _ (fun _ => rfl) fun _ => by simp [parseV]

theorem vtag (d : BitVec 6) (f : BitVec 4) : Statement (.vtag d f) :=
  ofSlot _ (fun _ => rfl) fun _ => by simp [parseV]

theorem vrand (m : VMask) (d : BitVec 6) : Statement (.vrand m d) :=
  ofSlot _ (fun _ => rfl) fun _ => by simp [parseV]

theorem vld (m : VMask) (d a : BitVec 6) (f : BitVec 4) (off : Option (BitVec 32)) : Statement (.vld m d a f off) :=
  ofSlot _ (fun _ => rfl) fun _ => by cases off <;> simp [parseV, Raw.optLit]

theorem vst (k : BitVec 3) (d a : BitVec 6) (f : BitVec 4) (off : Option (BitVec 32)) : Statement (.vst k d a f off) :=
  ofSlot _ (fun _ => rfl) fun _ => by cases off <;> simp [parseV, Raw.optLit]

theorem vldx (m : VMask) (d a b : BitVec 6) : Statement (.vldx m d a b) :=
  ofSlot _ (fun _ => rfl) fun _ => by simp [parseV]

theorem vstx (k : BitVec 3) (d a b : BitVec 6) : Statement (.vstx k d a b) :=
  ofSlot _ (fun _ => rfl) fun _ => by simp [parseV]

theorem vldm (q : BitVec 3) (a : BitVec 6) (off : Option (BitVec 32)) : Statement (.vldm q a off) :=
  ofSlot _ (fun _ => rfl) fun _ => by cases off <;> simp [parseV, Raw.optLit]

theorem klog (f q x y : BitVec 3) : Statement (.klog f q x y) :=
  ofSlot _ (fun _ => rfl) fun _ => by simp [parseV]

theorem kpop (d : BitVec 6) (x : BitVec 3) : Statement (.kpop d x) :=
  ofSlot _ (fun _ => rfl) fun _ => by simp [parseV]

theorem kset (q : BitVec 3) (a : BitVec 6) : Statement (.kset q a) :=
  ofSlot _ (fun _ => rfl) fun _ => by simp [parseV]

theorem kmov (q x : BitVec 3) : Statement (.kmov q x) :=
  ofSlot _ (fun _ => rfl) fun _ => by simp [parseV]

theorem angLd (t : EGuard) (a : BitVec 6) : Statement (.angLd t a) :=
  ofSlot _ (fun _ => rfl) fun _ => by simp [parseM]

theorem angSwap (t : EGuard) : Statement (.angSwap t) :=
  ofSlot _ (fun _ => rfl) fun _ => by simp [parseM]

theorem patLd (t : EGuard) (n : BitVec 5) (a : BitVec 6) : Statement (.patLd t n a) :=
  ofSlot _ (fun _ => rfl) fun _ => by simp [parseM]

theorem rotp (t : EGuard) (d a b : BitVec 6) : Statement (.rotp t d a b) :=
  ofSlot _ (fun _ => rfl) fun _ => by simp [parseM]

theorem roti (t : EGuard) (d a b : BitVec 6) : Statement (.roti t d a b) :=
  ofSlot _ (fun _ => rfl) fun _ => by simp [parseM]

theorem rotg (t : EGuard) (d a b : BitVec 6) : Statement (.rotg t d a b) :=
  ofSlot _ (fun _ => rfl) fun _ => by simp [parseM]

theorem tailSet (t : EGuard) (a b : BitVec 6) : Statement (.tailSet t a b) :=
  ofSlot _ (fun _ => rfl) fun _ => by simp [parseM]

theorem actLd (t : EGuard) (a : BitVec 6) : Statement (.actLd t a) :=
  ofSlot _ (fun _ => rfl) fun _ => by simp [parseM]

theorem tri (t : EGuard) (d a b : BitVec 6) : Statement (.tri t d a b) :=
  ofSlot _ (fun _ => rfl) fun _ => by simp [parseM]

theorem grot (t : EGuard) (d a b : BitVec 6) : Statement (.grot t d a b) :=
  ofSlot _ (fun _ => rfl) fun _ => by simp [parseM]

theorem swpSv (t : EGuard) (a : BitVec 6) : Statement (.swpSv t a) :=
  ofSlot _ (fun _ => rfl) fun _ => by simp [parseM]

theorem swpLd (t : EGuard) (a : BitVec 6) : Statement (.swpLd t a) :=
  ofSlot _ (fun _ => rfl) fun _ => by simp [parseM]

theorem mprod (t : EGuard) (q : BitVec 3) (a b : BitVec 6) : Statement (.mprod t q a b) :=
  ofSlot _ (fun _ => rfl) fun _ => by simp [parseM]

theorem mprodb (t : EGuard) (q : BitVec 3) (a b : BitVec 6) : Statement (.mprodb t q a b) :=
  ofSlot _ (fun _ => rfl) fun _ => by simp [parseM]

theorem accZ (t : EGuard) (q : BitVec 3) : Statement (.accZ t q) :=
  ofSlot _ (fun _ => rfl) fun _ => by simp [parseM]

theorem accLd (t : EGuard) (q : BitVec 3) (a : BitVec 6) : Statement (.accLd t q a) :=
  ofSlot _ (fun _ => rfl) fun _ => by simp [parseM]

theorem accOut (t : EGuard) (q : BitVec 3) (a b : BitVec 6) : Statement (.accOut t q a b) :=
  ofSlot _ (fun _ => rfl) fun _ => by simp [parseM]

theorem accPeer (t : EGuard) (q : BitVec 3) (a b : BitVec 6) : Statement (.accPeer t q a b) :=
  ofSlot _ (fun _ => rfl) fun _ => by simp [parseM]

theorem driftRd (t : EGuard) (d : BitVec 6) : Statement (.driftRd t d) :=
  ofSlot _ (fun _ => rfl) fun _ => by simp [parseM]

theorem arrQ (t : EGuard) (d sel : BitVec 6) : Statement (.arrQ t d sel) :=
  ofSlot _ (fun _ => rfl) fun _ => by simp [parseM]

theorem copy (t : EGuard) (x : BitVec 4) (a b : BitVec 6) : Statement (.copy t x a b) :=
  ofSlot _ (fun _ => rfl) fun _ => by simp [parseC]

theorem copyRed (t : EGuard) (x : BitVec 4) (a b : BitVec 6) : Statement (.copyRed t x a b) :=
  ofSlot _ (fun _ => rfl) fun _ => by simp [parseC]

theorem gath (t : EGuard) (x : BitVec 4) (a b : BitVec 6) : Statement (.gath t x a b) :=
  ofSlot _ (fun _ => rfl) fun _ => by simp [parseC]

theorem tplLd (t : EGuard) (x : BitVec 4) (a : BitVec 6) : Statement (.tplLd t x a) :=
  ofSlot _ (fun _ => rfl) fun _ => by simp [parseC]

theorem strm (t : EGuard) (r : BitVec 2) (a : BitVec 6) (x : BitVec 4) : Statement (.strm t r a x) :=
  ofSlot _ (fun _ => rfl) fun _ => by simp [parseC]

theorem strmCl (t : EGuard) (r : BitVec 2) : Statement (.strmCl t r) :=
  ofSlot _ (fun _ => rfl) fun _ => by simp [parseC]

theorem xsOpen (t : EGuard) (d a b : BitVec 6) : Statement (.xsOpen t d a b) :=
  ofSlot _ (fun _ => rfl) fun _ => by simp [parseC]

theorem ttSet (t : EGuard) (e a b : BitVec 6) : Statement (.ttSet t e a b) :=
  ofSlot _ (fun _ => rfl) fun _ => by simp [parseC]

theorem ttReady (t : EGuard) (e : BitVec 6) : Statement (.ttReady t e) :=
  ofSlot _ (fun _ => rfl) fun _ => by simp [parseC]

theorem ttRel (t : EGuard) (e : BitVec 6) : Statement (.ttRel t e) :=
  ofSlot _ (fun _ => rfl) fun _ => by simp [parseC]

theorem ttBind (t : EGuard) (e a : BitVec 6) : Statement (.ttBind t e a) :=
  ofSlot _ (fun _ => rfl) fun _ => by simp [parseC]

theorem ttQ (t : EGuard) (d e : BitVec 6) : Statement (.ttQ t d e) :=
  ofSlot _ (fun _ => rfl) fun _ => by simp [parseC]

theorem fence (t : EGuard) (sc : BitVec 2) (mask : BitVec 16) : Statement (.fence t sc mask) :=
  ofSlot _ (fun _ => rfl) fun _ => by simp [parseC]

theorem drain (t : EGuard) (a : BitVec 6) : Statement (.drain t a) :=
  ofSlot _ (fun _ => rfl) fun _ => by simp [parseC]

theorem arrive (t : EGuard) (a b : BitVec 6) : Statement (.arrive t a b) :=
  ofSlot _ (fun _ => rfl) fun _ => by simp [parseC]

theorem trec (t : EGuard) (d a b : BitVec 6) : Statement (.trec t d a b) :=
  ofSlot _ (fun _ => rfl) fun _ => by simp [parseC]

theorem post (t : EGuard) (a : BitVec 6) : Statement (.post t a) :=
  ofSlot _ (fun _ => rfl) fun _ => by simp [parseC]

theorem tokCl (t : EGuard) (mask : BitVec 16) : Statement (.tokCl t mask) :=
  ofSlot _ (fun _ => rfl) fun _ => by simp [parseC]

theorem atomAdd (t : EGuard) (d a b : BitVec 6) : Statement (.atomAdd t d a b) :=
  ofSlot _ (fun _ => rfl) fun _ => by simp [parseC]

theorem atomMin (t : EGuard) (d a b : BitVec 6) : Statement (.atomMin t d a b) :=
  ofSlot _ (fun _ => rfl) fun _ => by simp [parseC]

theorem atomMax (t : EGuard) (d a b : BitVec 6) : Statement (.atomMax t d a b) :=
  ofSlot _ (fun _ => rfl) fun _ => by simp [parseC]

theorem atomXch (t : EGuard) (d a b : BitVec 6) : Statement (.atomXch t d a b) :=
  ofSlot _ (fun _ => rfl) fun _ => by simp [parseC]

theorem atomAnd (t : EGuard) (d a b : BitVec 6) : Statement (.atomAnd t d a b) :=
  ofSlot _ (fun _ => rfl) fun _ => by simp [parseC]

theorem atomOr (t : EGuard) (d a b : BitVec 6) : Statement (.atomOr t d a b) :=
  ofSlot _ (fun _ => rfl) fun _ => by simp [parseC]

theorem atomCas (t : EGuard) (d a b : BitVec 6) : Statement (.atomCas t d a b) :=
  ofSlot _ (fun _ => rfl) fun _ => by simp [parseC]

theorem redAdd (t : EGuard) (a b : BitVec 6) : Statement (.redAdd t a b) :=
  ofSlot _ (fun _ => rfl) fun _ => by simp [parseC]

theorem redMin (t : EGuard) (a b : BitVec 6) : Statement (.redMin t a b) :=
  ofSlot _ (fun _ => rfl) fun _ => by simp [parseC]

theorem redMax (t : EGuard) (a b : BitVec 6) : Statement (.redMax t a b) :=
  ofSlot _ (fun _ => rfl) fun _ => by simp [parseC]

theorem colSet (t : EGuard) (d a b : BitVec 6) : Statement (.colSet t d a b) :=
  ofSlot _ (fun _ => rfl) fun _ => by simp [parseC]

theorem pav (t : EGuard) (d a b : BitVec 6) : Statement (.pav t d a b) :=
  ofSlot _ (fun _ => rfl) fun _ => by simp [parseC]

theorem brdRd (t : EGuard) (d a b : BitVec 6) : Statement (.brdRd t d a b) :=
  ofSlot _ (fun _ => rfl) fun _ => by simp [parseC]

theorem brdLv (t : EGuard) (d a : BitVec 6) : Statement (.brdLv t d a) :=
  ofSlot _ (fun _ => rfl) fun _ => by simp [parseC]

theorem dpost (t : EGuard) (d a b : BitVec 6) : Statement (.dpost t d a b) :=
  ofSlot _ (fun _ => rfl) fun _ => by simp [parseC]

theorem calRd (t : EGuard) (d a b : BitVec 6) : Statement (.calRd t d a b) :=
  ofSlot _ (fun _ => rfl) fun _ => by simp [parseC]

theorem calGo (t : EGuard) (d a b : BitVec 6) : Statement (.calGo t d a b) :=
  ofSlot _ (fun _ => rfl) fun _ => by simp [parseC]

theorem gtime (t : EGuard) (d : BitVec 6) : Statement (.gtime t d) :=
  ofSlot _ (fun _ => rfl) fun _ => by simp [parseC]

theorem trig (t : EGuard) (a : BitVec 6) : Statement (.trig t a) :=
  ofSlot _ (fun _ => rfl) fun _ => by simp [parseC]

theorem deferredTrapTaken : Statement (.deferredTrapTaken) := ofEvent fun _ => rfl

theorem exposedResultLanding (idx : Nat) : Statement (.exposedResultLanding idx) := ofEvent fun _ => rfl

theorem scoreboardedResultLanding (idx : Nat) (uncorrectable : Bool) : Statement (.scoreboardedResultLanding idx uncorrectable) := ofEvent fun _ => rfl

theorem engineInstructionStart (eng : Nat) : Statement (.engineInstructionStart eng) := ofEvent fun _ => rfl

theorem tokenDone (idx count : Nat) : Statement (.tokenDone idx count) := ofEvent fun _ => rfl

theorem preEmption : Statement (.preEmption) := ofEvent fun _ => rfl

theorem contextRestore (lid : BitVec 32) (wid : W64) : Statement (.contextRestore lid wid) := ofEvent fun _ => rfl

theorem dispatchDecision : Statement (.dispatchDecision) := ofEvent fun _ => rfl

theorem quantumEnd : Statement (.quantumEnd) := ofEvent fun _ => rfl

theorem taskEnd (other : Option (BitVec 32 × W64 × List (Nat × BitVec 8))) : Statement (.taskEnd other) := ofEvent fun _ => rfl

theorem kill (lid : BitVec 32) (wid : Option W64) : Statement (.kill lid wid) := ofEvent fun _ => rfl

theorem killCompletion (lid : BitVec 32) (wid : W64) : Statement (.killCompletion lid wid) := ofEvent fun _ => rfl

theorem launchMessage (host : BitVec 20) (asid : BitVec 16) (hdr : BitVec 2048) : Statement (.launchMessage host asid hdr) := ofEvent fun _ => rfl

theorem launchCompletion (lid : BitVec 32) : Statement (.launchCompletion lid) := ofEvent fun _ => rfl

theorem recordArrival (h : W64) (arrivals bytes : BitVec 32) : Statement (.recordArrival h arrivals bytes) := ofEvent fun _ => rfl

theorem recordCredit (h : W64) (bytes : Nat) (kind : CreditKind) : Statement (.recordCredit h bytes kind) := ofEvent fun _ => rfl

theorem pageWalk (asid : BitVec 16) (gen : BitVec 20) (va : W64) : Statement (.pageWalk asid gen va) := ofEvent fun _ => rfl

theorem pageRequestAnswer (asid : BitVec 16) (page : W64) (mapped : Bool) : Statement (.pageRequestAnswer asid page mapped) := ofEvent fun _ => rfl

theorem generationRaise (asid : BitVec 16) : Statement (.generationRaise asid) := ofEvent fun _ => rfl

theorem generationRaiseCompletion (asid : BitVec 16) : Statement (.generationRaiseCompletion asid) := ofEvent fun _ => rfl

theorem remoteLineExpiry (line : Nat) : Statement (.remoteLineExpiry line) := ofEvent fun _ => rfl

theorem writeAtHome (wr : HomeWrite) : Statement (.writeAtHome wr) := ofEvent fun _ => rfl

theorem atomAtHome (idx : Nat) (uncorrectable : Bool) : Statement (.atomAtHome idx uncorrectable) := ofEvent fun _ => rfl

theorem acknowledgement (idx : Nat) : Statement (.acknowledgement idx) := ofEvent fun _ => rfl

theorem peerDrainArrival (pkg : BitVec 19) (lcore : BitVec 9 × BitVec 9) (wid : W64) (seq : Nat) (dacc : BitVec 5) (h : W64) (data : List (BitVec 32)) : Statement (.peerDrainArrival pkg lcore wid seq dacc h data) := ofEvent fun _ => rfl

theorem collectiveChunk (idx : Nat) (arrival : Option (BitVec 256 × List (BitVec 8) × Bool)) : Statement (.collectiveChunk idx arrival) := ofEvent fun _ => rfl

theorem collectiveFiringEnd (idx : Nat) : Statement (.collectiveFiringEnd idx) := ofEvent fun _ => rfl

theorem endpointLost (ep : BitVec 20) : Statement (.endpointLost ep) := ofEvent fun _ => rfl

theorem flitReceive (port : BitVec 5) (crcValid : Bool) (hdr : BitVec 128) (payload : List (BitVec 8)) : Statement (.flitReceive port crcValid hdr payload) := ofEvent fun _ => rfl

theorem boardPostAtHome (who : Caller) (board : W64) (level : BitVec 32) (value : W64) : Statement (.boardPostAtHome who board level value) := ofEvent fun _ => rfl

theorem boardReadAtHome (who : Caller) (board : W64) (slot : Option W64) : Statement (.boardReadAtHome who board slot) := ofEvent fun _ => rfl

theorem demandRowAtArbiter (who : Caller) (group : W64) (block : BitVec 8704) (stamp : W64) : Statement (.demandRowAtArbiter who group block stamp) := ofEvent fun _ => rfl

theorem deliveredNotice (group : W64) (round : BitVec 32) : Statement (.deliveredNotice group round) := ofEvent fun _ => rfl

theorem standbyTimeout (group : W64) (round : BitVec 32) : Statement (.standbyTimeout group round) := ofEvent fun _ => rfl

theorem phaseStart (idx : Nat) : Statement (.phaseStart idx) := ofEvent fun _ => rfl

theorem exchangeDataFlit (group : W64) (round : BitVec 32) (src dst : Nat) (off : Nat) (data : List (BitVec 8)) (phase : BitVec 10) : Statement (.exchangeDataFlit group round src dst off data phase) := ofEvent fun _ => rfl

theorem closingFlit (group : W64) (round : BitVec 32) (src dst : Nat) (bytes : Nat) (phase : BitVec 10) : Statement (.closingFlit group round src dst bytes phase) := ofEvent fun _ => rfl

theorem roundCancel (group : W64) (round : BitVec 32) : Statement (.roundCancel group round) := ofEvent fun _ => rfl

theorem boardCreate (handle : W64) (home : BitVec 19) (slots : Nat) : Statement (.boardCreate handle home slots) := ofEvent fun _ => rfl

theorem registerParticipant (handle : W64) (pkg : BitVec 19) (lcore : BitVec 9) (index : Nat) : Statement (.registerParticipant handle pkg lcore index) := ofEvent fun _ => rfl

theorem groupCreate (handle : W64) (primary standby : BitVec 19) (size : Nat) : Statement (.groupCreate handle primary standby size) := ofEvent fun _ => rfl

theorem partitionModeChange (parts : Nat) : Statement (.partitionModeChange parts) := ofEvent fun _ => rfl

theorem bindRecordWrite (core : BitVec 9) (rec : BitVec 1024) : Statement (.bindRecordWrite core rec) := ofEvent fun _ => rfl

theorem reductionWindowSet (base len : W64) : Statement (.reductionWindowSet base len) := ofEvent fun _ => rfl

theorem graphRegister (host : BitVec 20) (asid : BitVec 16) (hdrs : List (BitVec 2048)) (after : List (List Nat)) : Statement (.graphRegister host asid hdrs after) := ofEvent fun _ => rfl

theorem replayMessage (graph : Nat) : Statement (.replayMessage graph) := ofEvent fun _ => rfl

theorem attestationRequest (nonce : BitVec 256) : Statement (.attestationRequest nonce) := ofEvent fun _ => rfl

theorem featureVectorWrite (vec : BitVec 128) : Statement (.featureVectorWrite vec) := ofEvent fun _ => rfl

theorem triggerMessage (tagv : BitVec 16) (fromFault : Bool) : Statement (.triggerMessage tagv fromFault) := ofEvent fun _ => rfl

theorem snapshotReadout : Statement (.snapshotReadout) := ofEvent fun _ => rfl

theorem tenantSeal (partn : BitVec 3) : Statement (.tenantSeal partn) := ofEvent fun _ => rfl

theorem tenantUnseal (partn : BitVec 3) : Statement (.tenantUnseal partn) := ofEvent fun _ => rfl

theorem injectionCeilingSet (port : Option (BitVec 3) × BitVec 5) (vc : BitVec 3) (rate : Nat) (byHost : Bool) : Statement (.injectionCeilingSet port vc rate byHost) := ofEvent fun _ => rfl

theorem timeMessage (now : W64) : Statement (.timeMessage now) := ofEvent fun _ => rfl

theorem moduleReset (img : BootImage) (dies : BitVec 8) : Statement (.moduleReset img dies) := ofEvent fun _ => rfl

theorem recoveryImage (img : BootImage) (dies : BitVec 8) : Statement (.recoveryImage img dies) := ofEvent fun _ => rfl

theorem versionCounterAdvance : Statement (.versionCounterAdvance) := ofEvent fun _ => rfl

theorem clampStepDown : Statement .clampStepDown := ofEvent fun _ => rfl

theorem clampStepUp : Statement .clampStepUp := ofEvent fun _ => rfl

theorem laneFailure (port : BitVec 5) : Statement (.laneFailure port) := ofEvent fun _ => rfl

theorem linkRetrain (link : Nat) (kind : RetrainKind) : Statement (.linkRetrain link kind) := ofEvent fun _ => rfl

theorem sramError (block : SramBlock × Nat) (addr : Nat) (double : Bool) : Statement (.sramError block addr double) := ofEvent fun _ => rfl

theorem backgroundScrub (block : SramBlock) (addr : Nat) : Statement (.backgroundScrub block addr) := ofEvent fun _ => rfl

theorem dieReturnFromReset (die : BitVec 3) : Statement (.dieReturnFromReset die) := ofEvent fun _ => rfl

theorem calendarAtMember (group : W64) (round : BitVec 32) (fromStandby : Bool) : Statement (.calendarAtMember group round fromStandby) := ofEvent fun _ => rfl

theorem graphPatch (graph : Nat) (node : Nat) (hdr : BitVec 2048) : Statement (.graphPatch graph node hdr) := ofEvent fun _ => rfl

theorem evictedContextRelaunch (lid : BitVec 32) (wid : W64) : Statement (.evictedContextRelaunch lid wid) := ofEvent fun _ => rfl

theorem linkRetrainDone (link : Nat) : Statement (.linkRetrainDone link) := ofEvent fun _ => rfl

end Encoding

end Sys2Proof.Laws
end

