-- ==== Sys2Proof/Laws/Vector.lean ====
section
/-! SUPPORT. What a V slot reads and delivers when nothing is in flight: masks, register bytes, checks that pass, and the
results it leaves in flight. -/

namespace Sys2Proof.Machine

open Sys2Proof

theorem readK_quiet (s : State) (site : Nat) (n : BitVec 3) (h : s.ctx.pipe.pend = []) : readK s site n = s.ctx.regs.getK n := by
  by_cases hn : n = 0#3
  · subst hn; rfl
  · simp only [readK, h, List.any_nil]; simp [hn]

theorem Mem.pick_length (n a : Nat) (m : Mem) : (Mem.pick n a m).length = n := by
  induction n generalizing a m with
  | zero => cases m <;> rfl
  | succ n ih =>
    match m with
    | [] => simp [Mem.pick, ih]
    | (k, v) :: rest => simp only [Mem.pick]; split <;> simp [ih]

theorem Mem.read_length (m : Mem) (a n : Nat) : (Mem.read m a n).length = n := by
  induction m with
  | nil => simp [Mem.read, Mem.pick_length]
  | cons c m ih => obtain ⟨k, v⟩ := c; simp only [Mem.read]; split <;> simp [ih, Mem.pick_length]

theorem Mem.bytes_length (m : Mem) (sp a n : Nat) : (Mem.bytes m sp a n).length = n := by simp [Mem.bytes, Mem.read_length]

theorem Basin.bytes_length (b : Basin) (m : Mem) (sp k a n : Nat) : (b.bytes m sp k a n).length = n := by
  simp [Basin.bytes, Mem.read_length]

/-- A vector operand that nothing in flight and no engine instruction covers reads as the register space stands. -/
theorem readVec_quiet (s : State) (busy : Nat → Bool) (site a n : Nat) (h : s.ctx.pipe.pend = [])
    (hb : ∀ i, i < n → busy (a + i) = false) : readVec s busy site a n = s.ctx.regBytes a n := by
  have hl : (s.ctx.regBytes a n).length = n := Basin.bytes_length _ _ _ _ _ _
  simp only [readVec, h, List.filter_nil]
  apply List.ext_getElem
  · simp
  · intro i h1 h2
    simp only [List.getElem_map, List.getElem_zipIdx, Nat.zero_add]
    rw [hb i (by simpa [hl] using h2)]; simp [vecOpenAt]

/-- A scratchpad load that no store in flight and no engine instruction covers reads as the scratchpad stands. -/
theorem readSpad_quiet (s : State) (busy : Nat → Bool) (site a n : Nat) (h : s.ctx.pipe.pend = [])
    (hb : ∀ i, i < n → busy (a + i) = false) : readSpad s busy site a n = s.ctx.spadBytes a n := by
  have hl : (s.ctx.spadBytes a n).length = n := Basin.bytes_length _ _ _ _ _ _
  simp only [readSpad, readSpadWith, h, List.zipIdx_nil, List.foldl_nil]
  apply List.ext_getElem
  · simp
  · intro i h1 h2
    simp only [List.getElem_map, List.getElem_zipIdx, Nat.zero_add]
    rw [hb i (by simpa [hl] using h2)]; simp

/-- A granule's sideband that nothing in flight and no engine instruction covers reads as it stands. -/
theorem readSide_quiet (s : State) (busy : Nat → Bool) (site a : Nat) (h : s.ctx.pipe.pend = [])
    (hb : ∀ i, i < 256 → busy (a + i) = false) : readSide s busy site a = s.ctx.basin.sideAt a := by
  simp [readSide, h]; intro i hi hc; simp [hb i hi] at hc

theorem vBusy_quiet (s : State) (a n : Nat) (h : s.ctx.pipe.sb = []) : vBusy s a n = false := by simp [vBusy, h]

theorem spadBusy_quiet (s : State) (h : s.ctx.pipe.sb = []) : spadBusy s = false := by simp [spadBusy, h]

theorem portOf_reg (v : BitVec 6) (h : v.toNat < 60) : portOf v = none := by simp [portOf]; omega

theorem dstStream_reg (s : State) (p : At) (v : BitVec 6) (h : v.toNat < 60) : dstStream s p v = none := by
  simp [dstStream, portOf_reg _ h]

theorem srcStream_reg (s : State) (p : At) (f : Nat) (v : BitVec 6) (h : v.toNat < 60) : srcStream s p f v = none := by
  simp [srcStream, portOf_reg _ h]

theorem vecRange_reg (s : State) (p : At) (field : Nat) (v : BitVec 6) (n : Nat)
    (h : s.ctx.vecAddr v.toNat + 256 * n ≤ s.ctx.regSize) : vecRange s p field v n = none := by
  simp only [vecRange]; split
  · rfl
  · rw [if_neg (by omega)]

/-- A source register with no scoreboarded result and no engine instruction writing it. -/
theorem vecSrc_reg (s : State) (p : At) (field : Nat) (v : BitVec 6) (k : Nat) (prior : List Nat) (hr : s.ready)
    (hv : v.toNat < 60) (hb : ∀ i, i < 256 → s.ctx.eng.busyAt true (s.ctx.vecAddr (v.toNat + k) + i) = false) :
    vecSrc s p field v k prior = ⟨field, some (s.ctx.basin.tagAt (s.ctx.vecAddr (v.toNat + k))),
      s.ctx.regBytes (s.ctx.vecAddr (v.toNat + k)) 256, s.ctx.basin.sideAt (s.ctx.vecAddr (v.toNat + k)),
      s.ctx.vecAddr (v.toNat + k), none, true⟩ := by
  simp only [vecSrc, portOf_reg _ hv, vBusy_quiet _ _ _ hr.2.1, Bool.not_false]
  rw [readVec_quiet _ _ _ _ _ hr.1 hb, readSide_quiet _ _ _ _ hr.1 hb]

/-- The destination check passes for a whole write, a zeroing write, or a tag that stands in every register. -/
theorem checkDst_reg (s : State) (p : At) (m : VMask) (v : BitVec 6) (n : Nat) (ok : Fmt → Bool) (t : Fmt) (hv : v.toNat < 60)
    (h : m.k = 0 ∨ m.z = true ∨ ∀ i, i < n → s.ctx.basin.tagAt (s.ctx.vecAddr (v.toNat + i)) = t) :
    checkDst s p m v n ok (some t) = none := by
  simp only [checkDst, portOf_reg _ hv]
  split
  · rfl
  · rcases h with hk | hz | ht
    · rw [if_pos (by simp [hk])]
    · rw [if_pos (by simp [hz])]
    · split
      · rfl
      · simp only [List.findSome?_eq_none_iff, List.mem_range]
        intro i hi; simp [ht i hi]

/-- A result that overlaps nothing in flight is added to what is in flight. -/
theorem land_apart (ctr site : Nat) (c : Ctx) (d : PDest) (lat : Nat) (h : ∀ p ∈ c.pipe.pend, p.dst.overlaps d = false) :
    c.land ctr site d lat = c.flying d lat := by
  by_cases hd : d.discarded = true
  · simp [Ctx.land, Ctx.flying, hd]
  · have e := settleUnder_apart ctr c (fun p => p.dst.overlaps d) h
    simp only [Ctx.land, hd, standPlace_apart _ _ _ _ h, e, Ctx.flying]
    cases d <;> simp [PDest.isSpad, PDest.yield]

theorem firstStop_none (xs : List (Option Stop)) (h : ∀ o ∈ xs, o = none) : firstStop xs = none := by
  unfold firstStop
  rw [List.findSome?_eq_none_iff]; intro o ho; exact h o ho

theorem popAll_none (p : At) (ys : List VSrc) (t : State) (hy : ∀ x ∈ ys, x.pop = none) : popAll p ys t = t := by
  induction ys generalizing t with
  | nil => rfl
  | cons y ys ih =>
    simp only [popAll, List.foldl_cons]
    rw [hy y (by simp)]
    exact ih t (fun x hxx => hy x (by simp [hxx]))

/-- A V slot of the common shape on registers, whose checks pass: the tags are set, and bytes, sidebands and flags are in
flight. -/
theorem issueOne_vec (s : State) (i : Instr) (sem : State → At → SlotSem) (d : BitVec 6) (nd : Nat) (xs : List VSrc)
    (range format stream own : List (Option Stop)) (r : VRes) (h : s.ready) (hd : d.toNat < 60)
    (hs : sem s (alone s i) = vecSlot s (alone s i) d nd xs range format stream own r)
    (hx : ∀ x ∈ xs, x.pop = none ∧ x.ready = true) (hstop : ∀ o ∈ range ++ format ++ stream ++ own, o = none)
    (hl : 1 < r.lat) :
    issueOne s i sem = .next (s.finished
      (({ s.ctx with basin := s.ctx.basin.setTags (s.ctx.vecAddr d.toNat) (256 * r.bytes.length) r.tag }.flying
        (.vec (s.ctx.vecAddr d.toNat) r.bytes.flatten r.sides.flatten) r.lat).flying (.flags r.flags) r.lat) (s.nb i)) := by
  have hpops : ∀ o ∈ xs.map popStop, o = none := by
    intro o ho; obtain ⟨x, hxm, rfl⟩ := List.mem_map.1 ho; simp [popStop, (hx x hxm).1]
  have hfs : firstStop (range ++ format ++ stream ++ own ++ xs.map popStop) = none := by
    apply firstStop_none
    intro o ho
    rcases List.mem_append.1 ho with ho | ho
    · exact hstop o ho
    · exact hpops o ho
  have hready : (xs.any fun x => !x.ready) = false := by
    simp only [List.any_eq_false]; intro x hxm; simp [(hx x hxm).2]
  refine issueOne_later s i sem _ _ h hs ?_ ?_ rfl rfl ?_ rfl rfl
    ⟨by simp only [flying_tr], by simp only [flying_tr]⟩ (by simp only [flying_ctl]) (by simp only [flying_no]) ?_
  · simp only [vecSlot, hready, dstBusy, portOf_reg _ hd, vBusy_quiet _ _ _ h.2.1, Bool.or_false]
  · simp only [vecSlot, hfs, pushStop, portOf_reg _ hd, Option.or_none]
  · simp only [vecSlot, deliver, portOf_reg _ hd, popAll_none _ _ _ fun x hxm => (hx x hxm).1]
    rw [land_apart]
    · rw [land_apart]
      · intro q hq; simp [h.1] at hq
    · intro q hq
      rw [flying_quiet _ _ _ (by exact h.1)] at hq
      simp only [Ctx.flying, PDest.discarded, h.1] at hq
      simp at hq
      subst hq; rfl
  · refine flying_due _ _ _ _ (flying_due _ _ _ _ (by simp [h.1]) ?_) ?_
    · show _ < s.ctx.pipe.bundleNo + _; omega
    · rw [flying_no]; show _ < s.ctx.pipe.bundleNo + _; omega

end Sys2Proof.Machine
end

