-- ==== Sys2Proof/Laws/Slots.lean ====
section
/-! SUPPORT. Slots that write a predicate, reach off the core, or enter an engine queue: what a bundle of one such slot does. -/

namespace Sys2Proof.Machine

open Sys2Proof

/-- A slot with one predicate result. -/
theorem issueOne_pred (s : State) (i : Instr) (sem : State → At → SlotSem) (q : BitVec 3) (v : Bool) (h : s.ready)
    (hs : sem s (alone s i) = predResult (alone s i) q v) :
    issueOne s i sem = .next (s.finished { s.ctx with regs := s.ctx.regs.setP q v } (s.nb i)) := by
  obtain ⟨hp, hb, hl⟩ := h
  by_cases hq : q = 0#3
  · subst hq
    exact issueOne_later s i sem _ s.ctx ⟨hp, hb, hl⟩ hs rfl rfl rfl rfl
      (by simp [predResult, SlotSem.effect, Ctx.land, PDest.discarded]) rfl rfl ⟨rfl, rfl⟩ rfl rfl (by simp [hp])
  · have hd : (PDest.pred q v).discarded = false := by simp [PDest.discarded, hq]
    simp only [issueOne, hs]
    rw [issueBundle_one _ _ _ _ rfl rfl rfl rfl]
    congr 1
    rw [show (alone s i).ba = s.ctx.regs.pc from rfl]
    rw [commit_now s _ (.pred q v) _ hl
      (by simp only [predResult, SlotSem.effect, land_quiet _ _ _ _ _ hp hd]) rfl rfl (.inr (.inl ⟨q, v, rfl⟩))]
    simp only [Ctx.writeDst, ← hp]; rfl

/-- A slot that is the same as none. -/
theorem issueOne_nop (s : State) (i : Instr) (sem : State → At → SlotSem) (hp : s.ctx.pipe.pend = []) (hl : s.noLoopEnd)
    (hs : sem s (alone s i) = SlotSem.nop) : issueOne s i sem = .next (s.finished s.ctx (s.nb i)) := by
  simp only [issueOne, hs]
  rw [issueBundle_one _ _ _ _ rfl rfl rfl rfl, show (alone s i).ba = s.ctx.regs.pc from rfl,
    commit_later s _ s.ctx _ hl rfl rfl rfl ⟨rfl, rfl⟩ rfl rfl (by simp [hp])]
  rfl

/-! ### Off-core accesses -/

theorem accessFull_room (s : State) (x : SlotSem) (h : s.ctx.eng.fences = [] ∨ heldCount s < 64) :
    accessFull s [(0, x)] = false := by
  unfold accessFull
  cases ho : x.offcore
  · simp [ho]
  · rcases h with h | h
    · simp [h]
    · simp only [List.any_cons, List.any_nil, List.filter_cons, List.filter_nil, ho, if_true, List.length_cons, List.length_nil]
      simp; intro _; omega

theorem issueOne_access (s : State) (i : Instr) (sem : State → At → SlotSem) (x : SlotSem) (c : Ctx) (h : s.ready)
    (hs : sem s (alone s i) = x) (hst : x.stall = false) (hsp : x.stop = none) (hq : x.enq = none)
    (ho : s.ctx.eng.fences = [] ∨ heldCount s < 64)
    (hap : x.apply s = { s with ctx := c }) (htr : x.transfer = none) (he : x.ends = false)
    (htl : c.tr.lend0 = s.ctx.tr.lend0 ∧ c.tr.lend1 = s.ctx.tr.lend1)
    (hcy : c.ctl.cycle = s.ctx.ctl.cycle) (hb : c.pipe.bundleNo = s.ctx.pipe.bundleNo)
    (hp : ∀ p ∈ c.pipe.pend, s.ctx.pipe.bundleNo + 1 < p.due) :
    issueOne s i sem = .next (s.finished c (s.nb i)) := by
  have hi : issueBundle s [(0, x)] (alone s i).ba (alone s i).nb = commit s [(0, x)] (alone s i).ba (alone s i).nb := by
    simp [issueBundle, stalls, hst, queueFull, enqCount, hq, accessFull_room _ _ ho, bundleStop, firstSlotStop, hsp,
      firstCollision, collisionFrom]
  simp only [issueOne, hs]
  rw [hi, show (alone s i).ba = s.ctx.regs.pc from rfl, commit_later s x c _ h.2.2 hap htr he htl hcy hb hp]
  rfl

/-- A slot that stops, whether or not it would have reached off the core. -/
theorem issueOne_stop_access (s : State) (i : Instr) (sem : State → At → SlotSem) (st : Stop)
    (hr : s.ctx.eng.fences = [] ∨ heldCount s < 64)
    (hst : (sem s (alone s i)).stall = false) (hq : (sem s (alone s i)).enq = none) (hsp : (sem s (alone s i)).stop = some st) :
    issueOne s i sem = .next ((takeStop s st s.ctx.regs.pc (s.nb i)).spend.tick) := by
  simp only [issueOne]
  simp [issueBundle, stalls, hst, queueFull, enqCount, hq, accessFull_room _ _ hr, bundleStop, firstSlotStop, hsp]
  rfl

/-! ### Engine queues -/

theorem queueFull_room (s : State) (x : SlotSem) (eng : Nat) (he : x.enq = some eng) (hr : (s.ctx.eng.queue eng).length < 16) :
    queueFull s [(0, x)] = false := by
  simp only [queueFull, enqCount, List.any_eq_false]
  intro q hq
  simp only [List.filter_cons, he, List.filter_nil]
  by_cases h : eng = q
  · subst h; simp; omega
  · simp [h]

theorem engBusy_quiet (s : State) (reads : List (BitVec 6)) (res : Option SbDest) (h : s.ctx.pipe.sb = []) :
    engBusy s reads res = false := by
  have e : (reads.any fun n => sBusy s n) = false := by simp [sBusy_quiet s _ h]
  cases res with
  | none => simp [engBusy, e]
  | some d => cases d <;> simp [engBusy, sBusy_quiet s _ h, vBusy_quiet s _ _ h, wBusy, h]

theorem issueOne_engine (s : State) (i : Instr) (sem : State → At → SlotSem) (x : SlotSem) (eng : Nat) (c : Ctx) (h : s.ready)
    (hs : sem s (alone s i) = x) (hst : x.stall = false) (hsp : x.stop = none) (hq : x.enq = some eng)
    (hr : (s.ctx.eng.queue eng).length < 16) (ho : x.offcore = false ∨ s.ctx.eng.fences = [] ∨ heldCount s < 64)
    (hap : x.apply s = { s with ctx := c }) (htr : x.transfer = none) (he : x.ends = false) (htl : c.tr = s.ctx.tr)
    (hcy : c.ctl = s.ctx.ctl) (hb : c.pipe.bundleNo = s.ctx.pipe.bundleNo) (hp : c.pipe.pend = []) :
    issueOne s i sem = .next (s.finished c (s.nb i)) := by
  have hf : accessFull s [(0, x)] = false := by
    rcases ho with ho | ho
    · simp [accessFull, ho]
    · exact accessFull_room s x ho
  have hi : issueBundle s [(0, x)] (alone s i).ba (alone s i).nb = commit s [(0, x)] (alone s i).ba (alone s i).nb := by
    simp [issueBundle, stalls, hst, queueFull_room s x eng hq hr, hf, bundleStop, firstSlotStop, hsp, firstCollision,
      collisionFrom]
  simp only [issueOne, hs]
  rw [hi, show (alone s i).ba = s.ctx.regs.pc from rfl,
    commit_later s x c _ h.2.2 hap htr he ⟨by rw [htl], by rw [htl]⟩ (by rw [hcy]) hb (by simp [hp])]
  rfl

/-! ### Tags of a run of granules -/

theorem granTags_ok (s : State) (p : At) (f : Nat) (ok : Fmt → Bool) (t : Fmt) (hok : ok t = true) (n a : Nat) (ref : Option Fmt)
    (hr : ref = none ∨ ref = some t) (h : ∀ i, i < n → s.ctx.basin.tagAt (a + 256 * i) = t) :
    granTags s p f ok n a ref = none := by
  induction n generalizing a ref with
  | zero => rfl
  | succ n ih =>
    have h0 : s.ctx.basin.tagAt a = t := by simpa using h 0 (by omega)
    have hn : ∀ i, i < n → s.ctx.basin.tagAt (a + 256 + 256 * i) = t := by
      intro i hi; have := h (i + 1) (by omega); rw [← this]; congr 1; omega
    simp only [granTags]
    rcases hr with rfl | rfl
    · simp only [h0, hok, if_true]; exact ih _ _ (.inr rfl) hn
    · simp only [h0, beq_self_eq_true, if_true]; exact ih _ _ (.inr rfl) hn

end Sys2Proof.Machine
end

