-- ==== Sys2Proof/Tests/Slice0.lean ====
section
/-! SUPPORT. Tests: what the well-formedness checks refuse, words of the spec decoded, small steps, and for each statement a state and
operands that meet its hypotheses. -/

namespace Sys2Proof.Tests

open Sys2Proof Sys2Proof.Machine Sys2Proof.Claims

set_option maxRecDepth 100000
set_option Elab.async false
set_option exponentiation.threshold 3000

/-! ### States -/

/-- Code of one-word bundles, each an ADD of s0. -/
def adds : List IWord := List.replicate 16 0x80400000

/-- A running task with one granule of registers, one of accumulators and code that can be fetched. -/
def base : State :=
  let s := placeWords State.reset adds
  { s with ctx := { s.ctx with ctl := { s.ctx.ctl with part := 0x0101 } } }

/-- A guard that holds. -/
def always : SGuard := ⟨false, 0⟩

/-- An engine guard that holds, without a token word. -/
def free : EGuard := ⟨0, none⟩

/-- An engine guard that holds and produces o3. -/
def makes3 : EGuard := ⟨0, some ⟨0, true, 3, false, 0, false, 0, false, 0⟩⟩

/-- `base` with a value in a scalar register. -/
def withS (n : BitVec 6) (v : W64) : State := { base with ctx := { base.ctx with regs := base.ctx.regs.setS n v } }

/-- The next state of an outcome. -/
def after (o : Host.Outcome State Fault Refusal) (s : State) : State :=
  match o with
  | .next t => t
  | .fault _ => s
  | .refused _ => s

/-- `base` with v0 to v31 under one tag and the granules after them under another. -/
def twoTags (t u : Fmt) : State :=
  { base with ctx := { base.ctx with basin := { base.ctx.basin with
      tags := (List.range 256).map fun g => (g, BitVec.ofNat 4 (if g < 32 then t.code else u.code))
      inUse := List.range 16 } } }

/-- `base` with its registers' granules under a tag. -/
def tagAll (t : Fmt) : State := twoTags t t

/-- `base` with a translation for the page at 2 GiB that permits what its leaf says. -/
def withPage (leaf : W64) : State :=
  { base with mem := { base.mem with tlb := ⟨0, 0, 2 ^ 31, 30, leaf⟩ :: base.mem.tlb } }

theorem base_ready : base.ready ∧ sGuard base always = true :=
  ⟨⟨rfl, rfl, by unfold State.noLoopEnd; decide⟩, by decide⟩

theorem withS_ready (n : BitVec 6) (v : W64) : (withS n v).ready ∧ sGuard (withS n v) always = true :=
  ⟨⟨rfl, rfl, fun h => (by cases h), fun h => (by cases h)⟩, rfl⟩

theorem twoTags_ready (t u : Fmt) : (twoTags t u).ready := ⟨rfl, rfl, fun h => (by cases h), fun h => (by cases h)⟩

/-! ### Hypotheses of the scalar statements -/

theorem witness_ArithmeticCompletes : base.ready ∧ sGuard base always = true ∧
    (rawOf 0x84000001).k = 0 ∧ (rawOf 0x84000001).op = 0x10 ∧ (rawOf 0x84000001).b ≠ 0 ∧
    (rawOf 0x84800003).op = 0x12 ∧ 3 ≤ (rawOf 0x84800003).b.toNat :=
  ⟨base_ready.1, base_ready.2, by decide⟩

theorem witness_DivisionAndAddvComplete : (withS 3 7).ready ∧ sGuard (withS 3 7) always = true ∧
    (withS 3 7).ctx.regs.getS 3 ≠ 0 ∧ (withS 3 7).ctx.regs.getS 4 = 0 :=
  ⟨(withS_ready 3 7).1, (withS_ready 3 7).2, by decide, by decide⟩

theorem witness_DivisionAndAddvComplete_overflow : let x := (withS 3 (2 ^ 63)).ctx.regs.getS 3
    x.toInt + x.toInt < -(2 : Int) ^ 63 ∧ -(2 : Int) ^ 63 ≤ x.toInt + (base.ctx.regs.getS 0).toInt := by decide

theorem witness_ImmediatesComplete : base.ready ∧ sGuard base always = true ∧ (rawOf 0x95C06082).k = 0 ∧
    (rawOf 0x95C06082).op = 0x57 ∧ (rawOf 0x86C00000).op = 0x1B := ⟨base_ready.1, base_ready.2, by decide⟩

theorem witness_PredicatesComplete : base.ready ∧ sGuard base always = true ∧ (rawOf 0x87831000).k = 0 ∧
    (rawOf 0x87831000).op = 0x1E ∧ 6 ≤ ((rawOf 0x87831000).d.extractLsb' 3 3).toNat :=
  ⟨base_ready.1, base_ready.2, by decide⟩

/-! ### Hypotheses of the control statements -/

theorem witness_BranchesComplete : base.ctx.pipe.pend = [] ∧ base.ctx.pipe.sb = [] ∧ sGuard base always = true := by decide

theorem witness_LoopsCompleteAndEnd_runs : (withS 7 5).ready ∧ sGuard (withS 7 5) always = true ∧
    (Instr.loop always 1 7 (.short 1)).len ≤ loopOff (.short 1) ∧ (withS 7 5).ctx.regs.getS 7 ≠ 0 :=
  ⟨(withS_ready 7 5).1, (withS_ready 7 5).2, by decide, by decide⟩

theorem witness_LoopsCompleteAndEnd : base.ready ∧ sGuard base always = true ∧ base.ctx.regs.getS 7 = 0 ∧
    (Instr.loop always 1 7 (.short 1)).len ≤ loopOff (.short 1) ∧
    fetchAt base (base.ctx.regs.pc + BitVec.ofNat 64 1).toNat = .words [0x80400000] (.ok 1 [⟨0, 0x80400000, 0⟩]) :=
  ⟨base_ready.1, base_ready.2, by decide, by decide, by decide⟩

/-- `base` with loop 0 active over the bundle at the pc. -/
def looping (count : W64) : State :=
  { base with ctx := { base.ctx with tr := { base.ctx.tr with lcnt0 := count, lbeg0 := 0, lend0 := 0 } } }

theorem witness_LoopsCompleteAndEnd_end : (looping 2).ctx.pipe.pend = [] ∧ (looping 2).ctx.pipe.sb = [] ∧ sGuard (looping 2) always = true ∧
    (looping 2).ctx.loopActive false = true := by decide

/-- `base` with a handler. -/
def handled : State := { base with ctx := { base.ctx with tr := { base.ctx.tr with tvec := 8 } } }

theorem witness_TrapsAreTaken : sGuard base always = true ∧ handled.ctx.inTrap = false ∧
    handled.ctx.tr.tvec.toNat < handled.ctx.codeLen := by decide

/-- `handled` inside its handler. -/
def inHandler : State := { handled with ctx := { handled.ctx with tr := { handled.ctx.tr with tstat := 1 } } }

theorem witness_TrapInHandlerAborts : inHandler.ctx.inTrap = true ∧ base.ctx.inTrap = false ∧
    base.ctx.codeLen ≤ base.ctx.tr.tvec.toNat := by decide

theorem witness_TendAndRteComplete : base.ready ∧ sGuard base always = true ∧ base.ctx.pipe.pend = [] :=
  ⟨base_ready.1, base_ready.2, rfl⟩

/-! ### Hypotheses of the memory and control-register statements -/

theorem witness_ScratchpadAccessesComplete : base.ready ∧ sGuard base always = true ∧
    (∀ row ∈ ldsRows ++ stsRows, inSpad base (smemVa base row.2 0 (.short 8)) row.2 ∧
      base.ctx.basin.poisoned 2 (smemVa base row.2 0 (.short 8)).toNat row.2 = false ∧
      ∀ i, i < row.2 → base.ctx.eng.busyAt false ((smemVa base row.2 0 (.short 8)).toNat + i) = false) ∧
    Mem.wf base.ctx.basin.spad = true ∧ base.ctx.eng.undone = [] := by
  refine ⟨base_ready.1, base_ready.2, ?_, by decide, by decide⟩
  unfold inSpad; decide

/-- The last bytes of the scratchpad are in range, the ones after them are not. -/
theorem witness_ScratchpadAccessesComplete_edges : inSpad (withS 1 0x3DFFF8) (smemVa (withS 1 0x3DFFF8) 8 1 (.short 0)) 8 ∧
    (withS 1 0x3E0000).ctx.spSize < (smemVa (withS 1 0x3E0000) 8 1 (.short 0)).toNat + 8 ∧
    (smemVa (withS 1 0x3E0000) 8 1 (.short 0)).toNat % 8 = 0 ∧ (smemVa (withS 1 1) 8 1 (.short 0)).toNat % 8 ≠ 0 := by
  unfold inSpad; decide

theorem witness_GlobalAccessesComplete : base.ready ∧ sGuard base always = true ∧ accessRoom base ∧
    (globalVa base 0 (some 0x40)).toNat < 2 ^ 57 ∧ (globalVa base 0 (some 0x40)).toNat % 8 = 0 ∧
    translate base (globalVa base 0 (some 0x40)).toNat .read = .ok 0x40 15 ∧
    translate base (globalVa base 0 (some 0x40)).toNat .write = .ok 0x40 15 := by
  refine ⟨base_ready.1, base_ready.2, .inl rfl, ?_⟩; decide

/-- `base` with 2^33 in s1, the level-0 entry of that address written as zeros in its page table, and refusals of the host. -/
def unmapped (refused : List (BitVec 16 × Nat)) : State :=
  let s := withS 1 (2 ^ 33)
  { s with mem := { s.mem with
      gmem := (List.range 8).map fun j => (Config.pageRoot 0 * 0x20000 + j, 0)
      refused := refused } }

theorem unmapped_walk (refused : List (BitVec 16 × Nat)) : (unmapped refused).walk 0 (2 ^ 33) = .miss := by
  have hd : ∀ k, (unmapped refused).homeWaits k = false := by
    intro k
    have h0 : (unmapped refused).mem.heldReset = 0 := (by decide : (withS 1 (2 ^ 33)).mem.heldReset = 0)
    simp [State.homeWaits, h0]
  unfold State.walk walkGo
  simp only [hd, Bool.false_eq_true, if_false]
  unfold unmapped
  simp [walkIndex, MemSys.homeBytes, Mem.bytes, Mem.read, Mem.pick, List.range, List.range.loop, pteV]
  intro h
  exact absurd h (by decide)

theorem hit_same (m m' : MemSys) (asid : BitVec 16) (va : Nat) (h1 : m.tlb1 = m'.tlb1) (h2 : m.tlb = m'.tlb) (h3 : m.asGen = m'.asGen) :
    m.hit asid va = m'.hit asid va := by simp only [MemSys.hit, MemSys.gen, h1, h2, h3]

theorem unmapped_translates (refused : List (BitVec 16 × Nat)) (mode : AccMode) : Machine.translate (unmapped refused) (2 ^ 33) mode =
    if refused.contains ((0 : BitVec 16), 2 ^ 33 / 65536) then .unresolvable else .miss (2 ^ 33 / 65536) := by
  have hh : (unmapped refused).mem.hit 0 (2 ^ 33) = none := by
    rw [hit_same (unmapped refused).mem base.mem 0 _ rfl rfl rfl]
    decide
  have hr : (unmapped refused).mem.refused = refused := rfl
  unfold Machine.translate translateIn
  rw [show (unmapped refused).ctx.asid = 0 from rfl]
  simp only [hh, unmapped_walk, hr]

theorem unmapped_ready (refused : List (BitVec 16 × Nat)) : (unmapped refused).ready ∧ accessRoom (unmapped refused) ∧
    (globalVa (unmapped refused) 1 none).toNat = 2 ^ 33 := by
  have e : (unmapped refused).ctx = (withS 1 (2 ^ 33)).ctx := rfl
  have n : ((withS 1 (2 ^ 33)).ctx.regs.getS 1).toNat = 2 ^ 33 := by decide
  refine ⟨⟨rfl, rfl, fun h => (by cases h), fun h => (by cases h)⟩, .inl rfl, ?_⟩
  unfold globalVa
  simp only [e]
  exact n

theorem witness_OperandChecksTrap_global : (withS 1 (2 ^ 57)).ready ∧ sGuard (withS 1 (2 ^ 57)) always = true ∧ accessRoom (withS 1 (2 ^ 57)) ∧
    2 ^ 57 ≤ (globalVa (withS 1 (2 ^ 57)) 1 none).toNat ∧ (globalVa (withS 1 3) 1 none).toNat % 4 ≠ 0 ∧
    (withPage 0).ready ∧ Machine.translate (withPage 0) (2 ^ 31) .write = .protection ∧
    Machine.translate (withPage 0x40) (2 ^ 31) .read = .protection ∧
    Machine.translate (unmapped []) (2 ^ 33) .read = .miss (2 ^ 33 / 65536) ∧
    Machine.translate (unmapped [(0, 2 ^ 33 / 65536)]) (2 ^ 33) .write = .unresolvable := by
  refine ⟨(withS_ready _ _).1, (withS_ready _ _).2, .inl rfl, by decide, by decide, ⟨rfl, rfl, fun h => (by cases h), fun h => (by cases h)⟩,
    by decide, by decide, ?_, ?_⟩
  · rw [unmapped_translates]; decide
  · rw [unmapped_translates]; decide

theorem witness_ControlRegistersComplete : base.ready ∧ sGuard base always = true := base_ready

/-- An engine instruction that reads no register, of engine `eng`, at place `id` of program order. -/
def opOf (i : Instr) (eng id : Nat) : EngOp :=
  ⟨id, i, eng, 0, 0, 0, 0, 0, 0, 0, 0, 0, 0, 0, 0, 0, 0, 0, 0, 0, 0, 0, 0, 0, 0, [], 0, [], none, [], none, false, 0, 0, [], false, false,
    [], [], [], [], [], 0, false, false, 0⟩

/-- `base` after an ANG.SWAP that produces o3. -/
def pending3 : State := after (exec (.angSwap makes3) base) base

/-- `base` with a full cascade queue and full copy-engine queues. -/
def full : State :=
  let q := fun (n : Nat) => List.replicate 16 (opOf (.angSwap free) n 0)
  { base with ctx := { base.ctx with eng := { base.ctx.eng with qm := q 0, q0 := q 1, q1 := q 2 } } }

theorem witness_BundlesIssueTogether_waits : sGuard base always = true ∧ base.ctx.pipe.pend = [] ∧ base.noLoopEnd ∧
    base.ctx.instDone (0, (base.ctx.token 0).inst) = true ∧ sGuard pending3 always = true ∧
    pending3.ctx.instDone (3, (pending3.ctx.token 3).inst) = false ∧ eGuard full free = true ∧
    guardOfE (.angSwap free) = some free ∧ isCascade (.angSwap free) = true ∧ isCascade (.tokCl free 1) = false ∧
    isSwpSv (.tokCl free 1) = false ∧ 16 ≤ (full.ctx.eng.queue 0).length ∧ 16 ≤ (full.ctx.eng.queue (firstCopyEngine full)).length :=
  ⟨rfl, rfl, base_ready.1.2.2, by decide, by decide, by decide, by decide, rfl, rfl, rfl, rfl, by decide, by decide⟩

theorem witness_FalseGuardsDiscard : guardOfS (.add ⟨true, 0⟩ 1 2 3) = some ⟨true, 0⟩ ∧
    badLoop (.add ⟨true, 0⟩ 1 2 3) = false ∧ sGuard base ⟨true, 0⟩ = false ∧
    guardOfE (.angSwap ⟨1, none⟩) = some ⟨1, none⟩ ∧ eGuard base ⟨1, none⟩ = false ∧ base.ctx.pipe.pend = [] ∧ base.noLoopEnd :=
  ⟨rfl, rfl, by decide, rfl, by decide, rfl, base_ready.1.2.2⟩

/-! ### Hypotheses of the vector statements -/

theorem vregOk_two (t u : Fmt) (v : BitVec 6) (h : v.toNat < 60) : vregOk (twoTags t u) v := by
  refine ⟨h, ?_⟩
  have e : (twoTags t u).ctx.vecAddr v.toNat = 0 + 256 * v.toNat := rfl
  have r : base.ctx.regSize = 65536 := by decide
  have r' : (twoTags t u).ctx.regSize = base.ctx.regSize := rfl
  omega

theorem vsrcOk_two (t u : Fmt) (v : BitVec 6) (h : v.toNat < 60) : vsrcOk (twoTags t u) v :=
  ⟨vregOk_two t u v h, fun _ _ => rfl⟩

theorem witness_VectorArithmeticCompletes : (∀ row ∈ vec2Rows, row.2.1 .int32 = true) ∧ (tagAll .int32).ready ∧
    vsrcOk (tagAll .int32) 1 ∧ vsrcOk (tagAll .int32) 59 ∧ vtag (tagAll .int32) 1 = .int32 ∧ vtag (tagAll .int32) 59 = .int32 ∧
    vdstOk (tagAll .int32) ⟨false, 1⟩ 2 .int32 ∧ Fmt.isAri .int32 = true :=
  ⟨by decide, twoTags_ready _ _, vsrcOk_two _ _ _ (by decide), vsrcOk_two _ _ _ (by decide), by decide, by decide,
    ⟨vregOk_two _ _ _ (by decide), by decide⟩, rfl⟩

theorem witness_VectorLanesComplete : (∀ row ∈ vec1Rows, row.2.1 .fp32 = true) ∧ (tagAll .fp32).ready ∧
    vsrcOk (tagAll .fp32) 59 ∧ vtag (tagAll .fp32) 59 = .fp32 ∧ vdstOk (tagAll .fp32) ⟨true, 7⟩ 0 .fp32 :=
  ⟨by decide, twoTags_ready _ _, vsrcOk_two _ _ _ (by decide), by decide, ⟨vregOk_two _ _ _ (by decide), by decide⟩⟩

theorem witness_ReductionsAndPermutesComplete : (vtag (tagAll .int16) 3).isAri = true ∧ (vtag (tagAll .int16) 3).isLog = true ∧
    indexTag (vtag (tagAll .int16) 3).width (vtag (tagAll .int16) 4) = true ∧ vtag (tagAll .int16) 4 = vtag (tagAll .int16) 3 ∧
    vsrcOk (tagAll .int16) 3 ∧ vsrcOk (tagAll .int16) 4 ∧ vdstOk (tagAll .int16) ⟨false, 0⟩ 5 (vtag (tagAll .int16) 3) :=
  ⟨by decide, by decide, by decide, by decide, vsrcOk_two _ _ _ (by decide), vsrcOk_two _ _ _ (by decide),
    ⟨vregOk_two _ _ _ (by decide), by decide⟩⟩

theorem witness_MasksAndSelectsComplete : (tagAll .bits).ready ∧ vsrcOk (tagAll .bits) 3 ∧ vtag (tagAll .bits) 4 = vtag (tagAll .bits) 3 ∧
    (vtag (tagAll .bits) 3).isLog = true ∧ (vtag (tagAll .bf16) 3).isAri = true ∧ vregOk (tagAll .bits) 5 :=
  ⟨twoTags_ready _ _, vsrcOk_two _ _ _ (by decide), by decide, by decide, by decide, vregOk_two _ _ _ (by decide)⟩

theorem witness_KsetFollowsR149 : base.ready ∧ (base.ctx.regs.getS 0).toNat = 0 ∧ ((withS 2 (-1)).ctx.regs.getS 2).toInt < 0 :=
  ⟨base_ready.1, by decide, by decide⟩

theorem witness_BroadcastsAndTagsComplete : (tagAll .int32).ready ∧ vdstOk (tagAll .int32) ⟨true, 1⟩ 2 (Fmt.ofCode 13) ∧
    vtag (tagAll .int32) 3 ≠ .raw ∧ vtag (tagAll .int32) 2 = .int32 ∧ vregOk (tagAll .int32) 2 :=
  ⟨twoTags_ready _ _, ⟨vregOk_two _ _ _ (by decide), by decide⟩, by decide, by decide, vregOk_two _ _ _ (by decide)⟩

theorem witness_VectorLoadsAndStoresComplete : (tagAll .fp16).ready ∧ vdstOk (tagAll .fp16) ⟨false, 1⟩ 1 (Fmt.ofCode 3) ∧
    granuleOk (tagAll .fp16) (globalVa (tagAll .fp16) 5 (some 0x3DFF00)) (granuleLen .fp16) ∧
    granuleOk (tagAll .fp16) (globalVa (tagAll .fp16) 5 none) (granuleLen .qc4) ∧
    inSpad (tagAll .fp16) (globalVa (tagAll .fp16) 0 (some 0x3DFFC0)) 64 ∧
    (tagAll .fp16).ctx.basin.poisoned 2 0x3DFF00 256 = false ∧ (tagAll .fp16).ctx.basin.poisoned 2 0 272 = false ∧
    ∀ x, (tagAll .fp16).ctx.eng.busyAt false x = false := by
  refine ⟨twoTags_ready _ _, ⟨vregOk_two _ _ _ (by decide), by decide⟩, ?_, ?_, ?_, by decide, by decide, fun _ => rfl⟩
  · unfold granuleOk; decide
  · unfold granuleOk; decide
  · unfold inSpad; decide

theorem witness_VectorLoadsAndStoresComplete_stores : (tagAll .mxfp4).ready ∧ vsrcOk (tagAll .mxfp4) 1 ∧ Fmt.ofCode 7 = vtag (tagAll .mxfp4) 1 ∧
    granuleOk (tagAll .mxfp4) (globalVa (tagAll .mxfp4) 0 none) (granuleLen (vtag (tagAll .mxfp4) 1)) ∧
    (vtag (tagAll .raw) 1).isBlk = false ∧ vtag (tagAll .raw) 1 = .raw := by
  refine ⟨twoTags_ready _ _, vsrcOk_two _ _ _ (by decide), by decide, ?_, by decide, by decide⟩
  unfold granuleOk; decide

/-- Data and indices, all zeros, and an address in s2. -/
def indexed : State :=
  let s := tagAll .int32
  { s with ctx := { s.ctx with basin := { s.ctx.basin with reg := (List.range 512).map fun i => (1024 + i, 0) } } }

theorem indexed_lanes : laneList indexed 0 2 4 .int32 = List.replicate 64 (0, true) := by decide

theorem witness_GatherAndScatterComplete : indexed.ready ∧ vsrcOk indexed 5 ∧ vsrcOk indexed 4 ∧ (vtag indexed 5).isLog = true ∧
    indexTag (vtag indexed 5).width (vtag indexed 4) = true ∧ lanesOk indexed 0 2 4 (vtag indexed 5) := by
  have t5 : vtag indexed 5 = .int32 := by decide
  refine ⟨⟨rfl, rfl, fun h => (by cases h), fun h => (by cases h)⟩, ⟨vregOk_two .int32 .int32 5 (by decide), fun _ _ => rfl⟩,
    ⟨vregOk_two .int32 .int32 4 (by decide), fun _ _ => rfl⟩, by decide, by decide, ?_⟩
  rw [t5]
  intro l hl _
  rw [indexed_lanes] at hl
  rw [(List.mem_replicate.mp hl).2]
  exact ⟨by unfold inSpad; decide, by decide, fun _ _ => rfl⟩

/-- `indexed` with an address in s2 at which lane 0 is misaligned or outside the scratchpad. -/
def lost2 (base : W64) : State := { indexed with ctx := { indexed.ctx with regs := indexed.ctx.regs.setS 2 base } }

theorem lost2_lanes : laneList (lost2 2) 0 2 4 .int32 = [] ++ (2, true) :: List.replicate 63 (2, true) ∧
    laneList (lost2 0x3E0000) 0 2 4 .int32 = [] ++ (0x3E0000, true) :: List.replicate 63 (0x3E0000, true) := by decide

/-- The scratchpad ends at 0x3E0000, the last aligned granule of 256 bytes 256 below it. -/
theorem witness_OperandChecksTrap : (∀ row ∈ ldsRows ++ stsRows, (withS 1 0x3E0000).ctx.spSize < (smemVa (withS 1 0x3E0000) row.2 1 (.short 0)).toNat + row.2 ∧
      (smemVa (withS 1 0x3E0000) row.2 1 (.short 0)).toNat % row.2 = 0) ∧
    (smemVa (withS 1 1) 8 1 (.short 0)).toNat % 8 ≠ 0 ∧
    ((twoTags .int32 .bits).ready ∧ vsrcOk (twoTags .int32 .bits) 3 ∧ vsrcOk (twoTags .int32 .bits) 32 ∧
      vregOk (twoTags .int32 .bits) 1 ∧ (vtag (twoTags .int32 .bits) 3).isAri = true ∧
      vtag (twoTags .int32 .bits) 32 ≠ vtag (twoTags .int32 .bits) 3) ∧
    ((tagAll .fp32).ready ∧ vsrcOk (tagAll .fp32) 3 ∧ vregOk (tagAll .fp32) 1 ∧ ∀ q, q < 4 →
      ((tagAll .fp32).ctx.port q).st ≠ .source ∧ ((tagAll .fp32).ctx.port q).st ≠ .sink) ∧
    ((tagAll .fp16).ready ∧ vdstOk (tagAll .fp16) ⟨false, 1⟩ 1 (Fmt.ofCode 3) ∧ vsrcOk (tagAll .fp16) 1 ∧
      (globalVa (tagAll .fp16) 0 (some 16)).toNat % 32 ≠ 0 ∧ (globalVa (tagAll .fp16) 0 (some 0x3DFF20)).toNat % 32 = 0 ∧
      (tagAll .fp16).ctx.spSize < (globalVa (tagAll .fp16) 0 (some 0x3DFF20)).toNat + granuleLen .fp16 ∧
      (globalVa (tagAll .fp16) 0 (some 32)).toNat % 64 ≠ 0 ∧
      (tagAll .fp16).ctx.spSize < (globalVa (tagAll .fp16) 0 (some 0x3E0000)).toNat + 64) ∧
    ((2 : W64).toNat % 4 ≠ 0 ∧ (0x3E0000 : W64).toNat % 4 = 0 ∧ (lost2 0x3E0000).ctx.spSize < (0x3E0000 : W64).toNat + 4 ∧
      (lost2 2).ready ∧ vtag (lost2 2) 5 = .int32 ∧ indexTag 32 (vtag (lost2 2) 4) = true) := by
  refine ⟨by decide, by decide, ⟨twoTags_ready _ _, vsrcOk_two _ _ _ (by decide), vsrcOk_two _ _ _ (by decide), vregOk_two _ _ _ (by decide),
    by decide, by decide⟩, ⟨twoTags_ready _ _, vsrcOk_two _ _ _ (by decide), vregOk_two _ _ _ (by decide), by decide⟩,
    ⟨twoTags_ready _ _, ⟨vregOk_two _ _ _ (by decide), by decide⟩, vsrcOk_two _ _ _ (by decide), by decide, by decide, by decide, by decide,
      by decide⟩, by decide, by decide, by decide, ⟨rfl, rfl, fun h => (by cases h), fun h => (by cases h)⟩, by decide, by decide⟩

/-- 1.0, NaN, infinity and their values in fp32. -/
theorem witness_ElementsFollowTheFormats : (∀ row ∈ arithRows, row.1 = .fp32 →
      row.2.finite 0x3F800000 ∧ row.2.isNan 0xFFC00001 ∧ row.2.infinite 0xFF800000 ∧ row.2.val 0x3F800000 = (1 : ℤ) ∧ row.2.val 0 = 0 ∧
      row.2.val 0xBF800000 < 0 ∧ row.2.val 0x40000000 = 2 ^ (1 : ℤ)) ∧
    cvtPair .fp32 .bf16 = true ∧ cvtPair .fp32 .int16 = true ∧ cvtPair .int16 .fp16 = true ∧ cvtPair .int16 .int8 = true ∧
    (List.replicate 32 0x3F800000).length = 32 := by
  refine ⟨fun row h e => ?_, by decide, by decide, by decide, by decide, by decide⟩
  simp only [arithRows, List.mem_cons, List.not_mem_nil, or_false] at h
  rcases h with rfl | rfl | rfl
  · unfold Layout.finite Layout.isNan Layout.infinite
    refine ⟨by decide, by decide, by decide, ?_, ?_, ?_, ?_⟩ <;> norm_num [Layout.val, Layout.mag, Layout.negative]
  · cases e
  · cases e

theorem witness_ConversionsComplete : cvtPair .fp16 .fp32 = true ∧ Fmt.width .fp16 ≤ Fmt.width .fp32 ∧
    vdstOk (tagAll .fp16) ⟨true, 1⟩ 6 (Fmt.ofCode 1) ∧ cvtPair (vtag (twoTags .fp32 .fp16) 3) (Fmt.ofCode 3) = true ∧
    vtag (twoTags .fp32 .fp16) 40 = Fmt.ofCode 3 ∧ (Fmt.ofCode 3).width < (vtag (twoTags .fp32 .fp16) 3).width ∧
    vsrcOk (twoTags .fp32 .fp16) 3 ∧ vregOk (twoTags .fp32 .fp16) 40 :=
  ⟨by decide, by decide, ⟨vregOk_two _ _ _ (by decide), by decide⟩, by decide, by decide, by decide,
    vsrcOk_two _ _ _ (by decide), vregOk_two _ _ _ (by decide)⟩

theorem witness_ConversionsComplete_blocks : (twoTags .fp32 .mxfp4).ready ∧ vregOk (twoTags .fp32 .mxfp4) 40 ∧ Fmt.isFlt .fp32 = true ∧
    Fmt.ofCode 7 = .mxfp4 ∧ runOk (twoTags .fp32 .mxfp4) 4 8 .fp32 ∧ vtag (twoTags .fp32 .mxfp4) 40 = .mxfp4 ∧
    (vtag (twoTags .fp32 .mxfp4) 40).isBlk = true ∧ vsrcOk (twoTags .fp32 .mxfp4) 40 ∧
    (8 : BitVec 6).toNat + 512 / Fmt.lanes .fp32 ≤ 60 := by
  refine ⟨twoTags_ready _ _, vregOk_two _ _ _ (by decide), rfl, rfl, ⟨by decide, by decide, fun _ _ => rfl, by decide⟩, by decide,
    by decide, vsrcOk_two _ _ _ (by decide), by decide⟩

/-- A template of 64 elements of 4 bytes, packed. -/
def template64 : BitVec 1024 := BitVec.ofNat 1024 (4 + 2 ^ 16 + 64 * 2 ^ 256 + 4 * 2 ^ 288 + 4 * 2 ^ 336)

/-- Port 0 a source and port 1 a sink of fp32 in the scratchpad. -/
def ported : State :=
  let s := tagAll .fp32
  let p := fun (st : PortState) (chain : W64) => { Port.start with st := st, chain := chain, tmpl := some template64 }
  let c := (s.ctx.setPort 0 (p .source 0x0020000000000201)).setPort 1 (p .sink 0x4020000000000E01)
  { s with ctx := c }

theorem witness_PortsFeedAndTake_source : ported.ready ∧ (ported.ctx.port 0).st = .source ∧
    (let v := popVec ported ((alone ported (.vneg ⟨false, 0⟩ 2 60)).site 1 + 2 ^ 16) 0 0
     v.ready = true ∧ v.stop = none ∧ v.unc = none ∧ v.tag = .fp32) ∧ vdstOk ported ⟨false, 0⟩ 2 .fp32 :=
  ⟨⟨rfl, rfl, fun h => (by cases h), fun h => (by cases h)⟩, rfl, by decide, ⟨vregOk_two .fp32 .fp32 2 (by decide), by decide⟩⟩

/-- `ported` with v3 holding zeros. -/
def sinking : State :=
  { ported with ctx := { ported.ctx with basin := { ported.ctx.basin with reg := (List.range 256).map fun i => (768 + i, 0) } } }

theorem witness_PortsFeedAndTake_sink : vsrcOk sinking 3 ∧ (sinking.ctx.port 1).st = .sink ∧ vtag sinking 3 = .fp32 ∧
    (sinking.ctx.port 1).fmt = .fp32 ∧ (sinking.ctx.port 1).tmpl.isSome = true ∧ (sinking.ctx.port 1).held + 1 ≤ 8 ∧
    (vlanes sinking 3 .fp32).map (elemNeg .fp32) = List.replicate 64 (0x80000000, 0) ∧
    (pushVec sinking 1 (List.replicate 64 0x80000000) []).stop = none := by
  refine ⟨⟨vregOk_two .fp32 .fp32 3 (by decide), fun _ _ => rfl⟩, rfl, by decide, by decide, by decide, by decide, by decide, by decide⟩

/-! ### Hypotheses of the engine statements -/

theorem engReady_two (t u : Fmt) (n : Nat) (h : n < 3) : engReady (twoTags t u) free n := by
  refine ⟨twoTags_ready t u, rfl, ?_⟩
  match n, h with
  | 0, _ => exact (by decide : 0 < 16)
  | 1, _ => exact (by decide : 0 < 16)
  | 2, _ => exact (by decide : 0 < 16)

/-- Registers tagged fp32, with values in s1 and s2. -/
def cascS (x y : W64) : State :=
  let s := tagAll .fp32
  { s with ctx := { s.ctx with regs := (s.ctx.regs.setS 1 x).setS 2 y } }

theorem witness_CascadeInstructionsEnterQueue : engReady (tagAll .fp32) free 0 ∧ imageFits (tagAll .fp32) 0 64 8256 ∧
    imageFits (tagAll .fp32) 0x3DFFC0 64 64 ∧ accOk (tagAll .fp32) 3 ∧ descOk (tagAll .fp32) 0x8000000000000040 16384 ∧
    descOk (tagAll .fp32) 0xC000 16384 ∧ tagged (tagAll .fp32) 0xC000 64 .fp32 ∧ (58 : BitVec 6).toNat < 60 ∧
    (tagAll .fp32).ctx.vecAddr 58 + 512 ≤ (tagAll .fp32).ctx.regSize ∧
    descOk (tagAll .fp32) 0 (256 * outGranules (tailOut (tagAll .fp32).ctx.casc.tailKept) (64 * 64)) ∧
    outMask 0 = false ∧ tailWordOk 0x210 = true ∧ tailWordOk 0x110 = false := by
  refine ⟨engReady_two _ _ 0 (by decide), ?_, ?_, ?_, ?_, ?_, by unfold tagged; decide, by decide, by decide, ?_, by decide, by decide,
    by decide⟩
  · unfold imageFits; decide
  · unfold imageFits; decide
  · unfold accOk; decide
  · unfold descOk; decide
  · unfold descOk; decide
  · unfold descOk; decide

theorem witness_CascadeInstructionsEnterQueue_mask : outMask 0x103 = true ∧ outTile 0x103 = 3 ∧ tileOk (tagAll .bits) 3 0 ∧
    tagged (tagAll .bits) ((tagAll .bits).ctx.tileAddr 3) 2 .bits := by
  refine ⟨by decide, by decide, ?_, ?_⟩
  · unfold tileOk; decide
  · unfold tagged; decide

theorem witness_PassesAndProductsEnterQueue_passes : Fmt.isFlt .fp32 = true ∧ tagged (tagAll .fp32) ((tagAll .fp32).ctx.tileAddr 0) 2 .fp32 ∧
    passV 0x10000 = 1 ∧ tileOk (tagAll .fp32) 0 (passV 0x10000 * inBytes .fp32) ∧
    tileOk (tagAll .fp32) 3 (256 * outGranules (tailOut (tagAll .fp32).ctx.casc.tailKept) (128 * passV 0x10000)) ∧
    tileOk (tagAll .fp32) 1 (512 * passV 0x10000) ∧ (tagAll .fp32).ctx.accAddr (passGacc 0x10000) + 16384 ≤ (tagAll .fp32).ctx.accSize ∧
    tileOk (tagAll .fp32) 2 (256 * sweepM 2) ∧ tagged (tagAll .fp32) ((tagAll .fp32).ctx.tileAddr 2) (sweepM 2) .fp32 ∧
    imageFits (tagAll .fp32) 8 8 (8 * (sweepOf 2).length) := by
  refine ⟨rfl, by unfold tagged; decide, by decide, ?_, ?_, ?_, by decide, ?_, by unfold tagged; decide, ?_⟩
  · unfold tileOk; decide
  · unfold tileOk; decide
  · unfold tileOk; decide
  · unfold tileOk; decide
  · unfold imageFits; decide

/-- Tiles of 4 KiB, t0 and t1 of bf16 and the bitmap tiles t8 and t9 of bits. -/
def products : State :=
  let s := twoTags .bf16 .bits
  { s with ctx := { s.ctx with ctl := { s.ctx.ctl with viewt := 12 } } }

/-- K = 32. -/
def k32 : EGuard := ⟨0, some ⟨32, false, 0, false, 0, false, 0, false, 0⟩⟩

theorem witness_PassesAndProductsEnterQueue_products : engReady products k32 0 ∧ accOk products 0 ∧ prodFmt products 0 = some .bf16 ∧ prodFmt products 1 = some .bf16 ∧
    prodClass .bf16 ≠ 0 ∧ prodClass .bf16 ≠ 3 ∧ prodK k32 .bf16 .bf16 = 32 ∧ prodOperandOk products 0 64 32 .bf16 true ∧
    prodOperandOk products 1 64 32 .bf16 true ∧ prodOperandOk products 1 64 32 .bf16 false := by
  refine ⟨⟨⟨rfl, rfl, fun h => (by cases h), fun h => (by cases h)⟩, rfl, (by decide : 0 < 16)⟩, ?_, by decide, by decide, by decide,
    by decide, by decide, ?_, ?_, ?_⟩
  · unfold accOk; decide
  · unfold prodOperandOk tileOk tagged; decide
  · unfold prodOperandOk tileOk tagged; decide
  · unfold prodOperandOk tileOk tagged; decide

theorem witness_CopyEngineInstructionsEnterQueue : engReady (tagAll .int32) free (firstCopyEngine (tagAll .int32)) ∧
    imageFits (tagAll .int32) 0 64 1088 ∧ imageFits (tagAll .int32) 16 16 (16 * immOf k32) ∧ imageFits (tagAll .int32) 64 64 16 ∧
    vsrcOk (tagAll .int32) (BitVec.ofNat 6 (immOf k32)) ∧ vtag (tagAll .int32) (BitVec.ofNat 6 (immOf k32)) = .int32 := by
  refine ⟨?_, ?_, ?_, ?_, vsrcOk_two _ _ _ (by decide), by decide⟩
  · have e : firstCopyEngine (tagAll .int32) = 1 := by decide
    rw [e]; exact engReady_two _ _ 1 (by decide)
  · unfold imageFits; decide
  · unfold imageFits; decide
  · unfold imageFits; decide

theorem witness_AtomicsEnterQueue : engReady base free (firstCopyEngine base) ∧ accessRoom base ∧
    (base.ctx.regs.getS 1).toNat % (if immOf free % 2 = 1 then 4 else 8) = 0 ∧ Machine.translate base 0 .write = .ok 0 15 ∧
    base.ctx.det = false := by
  refine ⟨⟨base_ready.1, rfl, by decide⟩, .inl rfl, by decide, by decide, by decide⟩

theorem witness_IssueEffectsComplete : engReady base free (firstCopyEngine base) ∧ closeStop base 0 = none ∧ eGuard base makes3 = true ∧
    (∀ x ∈ base.ctx.captures makes3, base.ctx.instDone x = true) ∧ imageFits base (base.ctx.regs.getS 1) 64 64 ∧ base.ctx.eng.started = [] ∧
    Mem.wf base.ctx.basin.spad = true ∧ producesTok free = none ∧ (base.ctx.eng.queue (firstCopyEngine base)).length < 16 ∧
    closeStop sinking 1 = none ∧ (sinking.ctx.port 1).st = .sink := by
  refine ⟨⟨base_ready.1, rfl, by decide⟩, by decide, rfl, by decide, by unfold imageFits; decide, rfl, rfl, rfl, by decide, by decide, rfl⟩

/-! ### Hypotheses of the traps of the cascade -/

/-- `twoTags` with control registers. -/
def shaped (t u : Fmt) (c : Ctl) : State := { twoTags t u with ctx := { (twoTags t u).ctx with ctl := c } }

/-- `twoTags` with values in s1 and s2. -/
def operands (t u : Fmt) (x y : W64) : State :=
  { twoTags t u with ctx := { (twoTags t u).ctx with regs := ((twoTags t u).ctx.regs.setS 1 x).setS 2 y } }

theorem operands_ready (t u : Fmt) (x y : W64) : engReady (operands t u x y) free 0 :=
  ⟨⟨rfl, rfl, fun h => (by cases h), fun h => (by cases h)⟩, rfl, (by decide : 0 < 16)⟩

/-- `twoTags` with the register space and the accumulator storage seen through views. -/
def viewed (t u : Fmt) : Ctl := { (twoTags t u).ctx.ctl with viewv := 0xFF00, viewa := 0x4000 }

theorem witness_CascadeChecksTrap_images : 7 ≤ (7 : BitVec 5).toNat ∧ ((operands .fp32 .bits 1 0).ctx.regs.getS 1).toNat % 64 ≠ 0 ∧
    ((operands .fp32 .bits 0x3E0000 0).ctx.regs.getS 1).toNat % 64 = 0 ∧
    (operands .fp32 .bits 0x3E0000 0).ctx.spSize < ((operands .fp32 .bits 0x3E0000 0).ctx.regs.getS 1).toNat + 64 ∧
    (∀ x ∈ (operands .fp32 .bits 0x3E0000 0).ctx.captures free, (operands .fp32 .bits 0x3E0000 0).ctx.instDone x = true) := by decide

/-- v0 to v31 are fp32 and the granules after them bits: in tile 0 granule 32 is the first of another tag. -/
theorem witness_CascadeChecksTrap_passes : ¬ tileOk (tagAll .fp32) 4 256 ∧ tileOk (tagAll .fp32) 3 256 ∧ Fmt.isFlt .bits = false ∧
    tileOk (tagAll .bits) 0 256 ∧ passV 0x200000 = 32 ∧
    firstWrong (twoTags .fp32 .bits) ((twoTags .fp32 .bits).ctx.tileAddr 0) 64 .fp32 32 ∧
    (let s := shaped .fp32 .bits (viewed .fp32 .bits); s.ctx.accSize < s.ctx.accAddr (passGacc 0x7010000) + 16384) ∧
    firstWrong (twoTags .fp32 .bits) ((twoTags .fp32 .bits).ctx.tileAddr 0) (sweepM 0) .fp32 32 ∧ sweepLog 0x1000000 = true ∧
    ((operands .fp32 .fp32 0 1).ctx.regs.getS 2).toNat % 8 ≠ 0 ∧
    (operands .fp32 .fp32 2 0x3E0000).ctx.spSize < ((operands .fp32 .fp32 2 0x3E0000).ctx.regs.getS 2).toNat + 8 * (sweepOf 2).length := by
  refine ⟨?_, ?_, rfl, ?_, by decide, ?_, by decide, ?_, by decide, by decide, by decide⟩
  · unfold tileOk; decide
  · unfold tileOk; decide
  · unfold tileOk; decide
  · unfold firstWrong tagged; decide
  · unfold firstWrong tagged; decide

/-- Tiles of 4 KiB: t0 and t1 of one tag, t2 on of another; ports 0 and 1 unbound. -/
def tiled (t u : Fmt) : State := shaped t u { (twoTags t u).ctx.ctl with viewt := 12 }

theorem witness_CascadeChecksTrap_products : (∀ t ∈ [Fmt.bf16, .mxfp8], engReady (tiled t .bits) k32 0 ∧ accOk (tiled t .bits) 0 ∧
      prodFmt (tiled t .bits) 0 = some t ∧ prodFmt (tiled t .bits) 2 = some .bits ∧ prodFmt (tiled t .bits) 60 = none) ∧
    (tiled .bf16 .bits).ctx.accSize < (tiled .bf16 .bits).ctx.accAddr 4 + 16384 ∧
    ¬ tileOk (tiled .bf16 .bits) 16 (prodSpan 64 32 .bits) ∧ tileOk (tiled .bf16 .bits) 0 (prodSpan 64 32 .bf16) ∧
    tileOk (tiled .bf16 .bits) 8 ((64 * 32 + 7) / 8) ∧ prodOperandOk (tiled .bf16 .bits) 0 64 32 .bf16 true ∧
    firstWrong (twoTags .bf16 .bits) ((twoTags .bf16 .bits).ctx.tileAddr 0) ((prodSpan 64 128 .bf16 + 255) / 256) .bf16 32 ∧
    (let s := tiled .bf16 .bits; tileOk s 8 (prodSpan 64 32 .bits) ∧ ¬ tileOk s (8 + 8) ((64 * 32 + 7) / 8)) ∧
    (let s := tiled .bf16 .fp32; tagged s (s.ctx.tileAddr 0) ((prodSpan 64 32 .bf16 + 255) / 256) .bf16 ∧
      firstWrong s (s.ctx.tileAddr 8) ((64 * 32 + 2047) / 2048) .bits 0) ∧
    prodClass .mxfp8 = 3 ∧ 33 % 32 ≠ 0 ∧ prodOperandOk (tiled .mxfp8 .bits) 0 64 33 .mxfp8 false ∧ prodClass .bits = 0 ∧
    firstWrong (tiled .bf16 .bits) ((tiled .bf16 .bits).ctx.tileAddr 1) 17 .bf16 16 := by
  refine ⟨?_, by decide, ?_, ?_, ?_, ?_, ?_, ?_, ?_, rfl, by decide, ?_, rfl, ?_⟩
  · intro t h
    simp only [List.mem_cons, List.not_mem_nil, or_false] at h
    rcases h with rfl | rfl <;>
      exact ⟨⟨⟨rfl, rfl, fun h => (by cases h), fun h => (by cases h)⟩, rfl, (by decide : 0 < 16)⟩, by unfold accOk; decide, by decide,
        by decide, by decide⟩
  · unfold tileOk; decide
  · unfold tileOk; decide
  · unfold tileOk; decide
  · unfold prodOperandOk tileOk tagged; decide
  · unfold firstWrong tagged; decide
  · unfold tileOk; decide
  · unfold firstWrong tagged; decide
  · unfold prodOperandOk tileOk tagged; decide
  · unfold firstWrong tagged; decide

theorem witness_CascadeChecksTrap_accumulators : (operands .fp32 .bits 0 0).ctx.accSize < (operands .fp32 .bits 0 0).ctx.accAddr 4 + 16384 ∧
    accOk (operands .fp32 .bits 0 0) 3 ∧ descSpad 0xD000 = false ∧ (operands .fp32 .bits 0xD000 0).ctx.regSize < descAddr 0xD000 + 16384 ∧
    descAddr 0xC000 + 16384 ≤ (operands .fp32 .bits 0xC000 0).ctx.regSize ∧
    firstWrong (operands .fp32 .bits 0x1000 0) 0x1000 64 .fp32 16 ∧ tagged (operands .fp32 .fp32 0x1001 0) 0x1000 64 .fp32 ∧
    descAddr 0x1001 % 256 ≠ 0 ∧ descSpad 0x8000000000000001 = true ∧ descAddr 0x8000000000000001 % 64 ≠ 0 ∧
    descAddr 0x80000000003E0000 % 64 = 0 ∧ (operands .fp32 .bits 0 0).ctx.spSize < descAddr 0x80000000003E0000 + 16384 ∧
    outMask 0x104 = true ∧ outTile 0x104 = 4 ∧ ¬ tileOk (operands .fp32 .bits 0 0x104) 4 0 ∧ tileOk (operands .fp32 .bits 0 0x100) 0 0 ∧
    firstWrong (operands .fp32 .bits 0 0x100) ((operands .fp32 .bits 0 0x100).ctx.tileAddr 0) 2 .bits 0 ∧
    (let s := shaped .fp32 .bits (viewed .fp32 .bits); s.ctx.regSize < s.ctx.vecAddr 0 + 512) := by
  refine ⟨by decide, by unfold accOk; decide, by decide, by decide, by decide, ?_, ?_, by decide, by decide, by decide, by decide, by decide,
    by decide, by decide, ?_, ?_, ?_, by decide⟩
  · unfold firstWrong tagged; decide
  · unfold tagged; decide
  · unfold tileOk; decide
  · unfold tileOk; decide
  · unfold firstWrong tagged; decide

/-! ### Hypotheses of the statement of bundles of several slots -/

/-- `indexed` with lane masks of lane 0 and of lane 1. -/
def masked : State :=
  let s := indexed
  { s with ctx := { s.ctx with regs := (s.ctx.regs.setK 1 1).setK 2 2 } }

theorem masked_ok : masked.ready ∧ vsrcOk masked 4 ∧ vsrcOk masked 5 ∧ vtag masked 5 = .int32 ∧ vtag masked 4 = vtag masked 5 ∧
    vdstOk masked ⟨false, 0⟩ 4 .int32 ∧ vdstOk masked ⟨false, 1⟩ 6 .int32 ∧ vdstOk masked ⟨false, 2⟩ 6 .int32 :=
  ⟨⟨rfl, rfl, fun h => (by cases h), fun h => (by cases h)⟩, ⟨vregOk_two .int32 .int32 4 (by decide), fun _ _ => rfl⟩,
    ⟨vregOk_two .int32 .int32 5 (by decide), fun _ _ => rfl⟩, by decide, by decide,
    ⟨vregOk_two .int32 .int32 4 (by decide), by decide⟩, ⟨vregOk_two .int32 .int32 6 (by decide), by decide⟩,
    ⟨vregOk_two .int32 .int32 6 (by decide), by decide⟩⟩

theorem witness_BundlesIssueTogether : sGuard masked always = true ∧ Fmt.ofCode 9 = .int32 ∧ (4 : BitVec 6) ≠ 5 ∧
    (∀ row ∈ vec1Rows, row.2.1 .fp32 = true) ∧ (vec1Rows.filter fun row => row.2.1 .int32).length = 2 ∧
    inSpad masked (smemVa masked 8 0 (.short 0)) 8 ∧ spadReadable masked (smemVa masked 8 0 (.short 0)).toNat 8 ∧
    storeOk masked 0 4 0 (globalVa masked 0 none) ∧ (smemVa masked 8 0 (.short 0)).toNat + 0 = (globalVa masked 0 none).toNat + 0 ∧
    (∃ w, (storedBytes masked 0 4)[0]? = some (some w)) ∧
    (∃ i, i < Fmt.lanes .int32 ∧ writesLane masked ⟨false, 0⟩ i ∧ writesLane masked ⟨false, 1⟩ i) ∧
    (∀ i, i < Fmt.lanes .int32 → ¬(writesLane masked ⟨false, 1⟩ i ∧ writesLane masked ⟨false, 2⟩ i)) ∧
    eGuard masked makes3 = true ∧ (2 : BitVec 6) ≠ 3 ∧ producesTok makes3 = some 3 ∧ masked.ctx.eng.q0.length ≤ 14 ∧
    masked.ctx.eng.q1.length ≤ 14 := by
  have w : (storedBytes masked 0 4)[0]? = some (some 0) := by decide
  refine ⟨rfl, by decide, by decide, by decide, by decide, by unfold inSpad; decide, ⟨by decide, fun _ _ => rfl⟩,
    ⟨masked_ok.2.1, by decide, by decide, by unfold granuleOk; decide⟩, by decide, ⟨0, w⟩, ⟨0, by unfold writesLane; decide⟩, ?_, rfl, by decide,
    rfl, by decide, by decide⟩
  unfold writesLane
  decide

/-! ### Hypotheses of the statements of the core's events -/

/-- A record of `launch2` that waits for two arrivals and 100 bytes. -/
def record2 : Record := ⟨3, 1, 1, 2, 100, 0, 0, 0, false, 0, 0, [], [], [], 0, 0, none, none⟩

/-- `base` with results in flight, values awaited and a deferred trap. -/
def landing (pend : List Pending) (sb : List SbEntry) : State :=
  { base with ctx := { base.ctx with pipe := { base.ctx.pipe with pend := pend, sb := sb, deferred := [⟨0x0C, 64⟩] } } }

/-- The access of a load or a store at key 64. -/
def access (kind : AccKind) (data : List Byte) (performed : Bool) : Access :=
  ⟨2, 0, kind, 0, 64, 64, 8, data, false, false, false, performed, 0, 0⟩

/-- `base` with an access and the result that it owes. -/
def accessing (a : Access) : State :=
  { base with ctx := { base.ctx with
      pipe := { base.ctx.pipe with sb := [⟨2, .sreg 5, .load 2, 64, false, []⟩] }, eng := { base.ctx.eng with accs := [a] } } }

theorem witness_ResultsLand :
    (let s := landing [⟨.sreg 4 9, 3, false⟩, ⟨.kmask 2 5 3, 3, false⟩, ⟨.flags 1, 3, false⟩,
        ⟨.vec 256 (List.replicate 256 (some 7)) (List.replicate 16 0), 3, false⟩]
        [⟨7, .sreg 5, .value 8 0, 0, false, []⟩, ⟨8, .sregView 6 2, .value 8 3, 0, false, []⟩,
          ⟨9, .vec 512, .gather [some 1, none] true, 0, false, []⟩, ⟨10, .spad, .scatter [(3, 4), (3, 5)] 0, 0, false, []⟩]
     s.ctx.pipe.pend[0]? = some ⟨.sreg 4 9, 3, false⟩ ∧ s.ctx.pipe.pend[1]? = some ⟨.kmask 2 5 3, 3, false⟩ ∧
      s.ctx.pipe.pend[2]? = some ⟨.flags 1, 3, false⟩ ∧ (s.ctx.pipe.pend[3]?).isSome = true ∧
      Mem.wf s.ctx.basin.reg = true ∧ Mem.wf s.ctx.basin.side = true ∧ Mem.wf s.ctx.basin.spad = true ∧ s.ctx.eng.undone = [] ∧
      256 % 256 = 0 ∧ s.ctx.pipe.sb[0]? = some ⟨7, .sreg 5, .value 8 0, 0, false, []⟩ ∧
      s.ctx.pipe.sb[1]? = some ⟨8, .sregView 6 2, .value 8 3, 0, false, []⟩ ∧
      s.ctx.pipe.sb[2]? = some ⟨9, .vec 512, .gather [some 1, none] true, 0, false, []⟩ ∧
      s.ctx.pipe.sb[3]? = some ⟨10, .spad, .scatter [(3, 4), (3, 5)] 0, 0, false, []⟩ ∧ s.mode = .running ∧ s.ctx.inTrap = false ∧
      s.ctx.pipe.deferred = [⟨0x0C, 64⟩] ∧ fetchBundle s = .bundle [0x80400000] [(0, .add always 0 0 0)]) ∧
    let s := accessing (access .load [] false)
    s.ctx.pipe.sb[0]? = some ⟨2, .sreg 5, .load 2, 64, false, []⟩ ∧
      (s.ctx.eng.accs.find? fun y => y.id == 2) = some (access .load [] false) ∧ loadCanBind s (access .load [] false) = true ∧
      inMerge s.ctx.hdr 64 = false ∧ isRemote 64 = false ∧ (access .load [] false).remote = false := by
  refine ⟨⟨rfl, rfl, rfl, rfl, rfl, rfl, rfl, rfl, rfl, rfl, rfl, rfl, rfl, rfl, by decide, rfl, by decide⟩, rfl, rfl, by decide,
    by decide, by decide, rfl⟩

/-- An instruction that produces the current instance of o3. -/
def producer (i : Instr) (eng : Nat) (sbId : Option Nat) : EngOp := { opOf i eng 4 with prod := some (3, 0), sbId := sbId }

/-- `base` with an instruction at the head of copy engine 1, or under way in the cascade. -/
def heading (o : EngOp) : State := { base with ctx := { base.ctx with eng := { base.ctx.eng with q0 := [o] } } }

/-- `base` with an instruction under way, accumulator 0 live or none. -/
def underway (o : EngOp) (live : Option Nat) : State :=
  { base with ctx := { base.ctx with eng := { base.ctx.eng with started := [o] }, casc := { base.ctx.casc with live := live } } }

theorem heading_idle (o : EngOp) : enginesIdle (heading o) := ⟨rfl, rfl, rfl⟩

theorem heading_heads (o : EngOp) (h : o.eng = 1 ∧ o.waits = [] ∧ o.held = [] ∧ o.alsoProd = []) : heads (heading o) 1 o [] := by
  refine ⟨.inl rfl, rfl, h.1, h.2.1, h.2.2.1, h.2.2.2, fun e he => (nomatch he), fun x hx => ?_⟩
  have e : (heading o).ctx.eng.undone = [o] := rfl
  rw [e, List.mem_singleton] at hx
  rw [hx]

theorem underway_underWay (o : EngOp) (live : Option Nat) (h : o.held = [] ∧ o.alsoProd = []) : underWay (underway o live) 0 o :=
  ⟨rfl, rfl, rfl, h.1, h.2, rfl⟩

/-- The head of copy engine 1 with operands in sA and sB. -/
def asked (i : Instr) (sbId : Option Nat) (a b : W64) : EngOp := { producer i 1 sbId with sa := a, sb := b }

theorem witness_EngineInstructionsAct_heads : ∀ o ∈ [asked (.gtime free 5) (some 2) 0 0, asked (.fence free 3 1) none 0 0, asked (.ttQ free 5 63) (some 2) 0 0,
      asked (.ttReady free 63) none 0 0, asked (.ttRel free 63) none 0 0, asked (.ttSet free 63 1 2) none 64 64,
      asked (.ttBind free 63 1) none 0 0, asked (.drain free 1) none 0 0, asked (.arrive free 1 2) none (recordHandle record2) 1,
      asked (.trec free 5 1 2) (some 2) 0 1, asked (.post free 1) none 0 0],
    enginesIdle (heading o) ∧ heads (heading o) 1 o [] ∧ (heading o).ctx.eng.accs = [] ∧ (heading o).fab.colls = [] ∧
      ((heading o).ctx.tile 63).st = .empty ∧ ((heading o).ctx.tile 63).col = 0 ∧ ((heading o).ctx.tile 63).slot = none ∧
      (heading o).ctx.eng.ports = Vector.replicate 4 Port.start ∧ (heading o).ctx.eng.tiles = Vector.replicate 64 Tile.start ∧
      (heading o).ctx.basin.poisoned 2 0 64 = false ∧ o.clob = [] := by
  intro o h
  have e : o.eng = 1 ∧ o.waits = [] ∧ o.held = [] ∧ o.alsoProd = [] ∧ o.clob = [] := by
    simp only [List.mem_cons, List.not_mem_nil, or_false] at h
    rcases h with rfl | rfl | rfl | rfl | rfl | rfl | rfl | rfl | rfl | rfl | rfl <;> exact ⟨rfl, rfl, rfl, rfl, rfl⟩
  have k : (heading o).ctx.tile 63 = Tile.start := (by decide : base.ctx.tile 63 = Tile.start)
  exact ⟨heading_idle o, heading_heads o ⟨e.1, e.2.1, e.2.2.1, e.2.2.2.1⟩, rfl, rfl, by rw [k]; rfl, by rw [k]; rfl, by rw [k]; rfl, rfl, rfl,
    (by decide : base.ctx.basin.poisoned 2 0 64 = false), e.2.2.2.2⟩

/-- TT.SET at the end of the scratchpad fits and one byte further does not; a READY entry that TT.REL and TT.SET find; an entry and a token
that TT.Q names. -/
theorem witness_EngineInstructionsAct_tiles : (0 : Nat) < 64 ∧ (0x3DFFC0 : W64).toNat % 2 ^ 22 + 64 ≤ base.ctx.spSize ∧
    ¬(0x3DFFC1 : W64).toNat % 2 ^ 22 + 64 ≤ base.ctx.spSize ∧ ((base.ctx.setTile 63 { Tile.start with st := .ready }).tile 63).st = .ready ∧
    immOf (⟨0, some ⟨19, false, 0, false, 0, false, 0, false, 0⟩⟩ : EGuard) = 19 ∧ immOf free < 16 := by decide

/-- A template of one element of one byte. -/
def template1 : BitVec 1024 := BitVec.ofNat 1024 (1 + 2 ^ 16 + 2 ^ 256)

/-- COPY from byte 0 of the scratchpad to byte 64. -/
def copy1 : EngOp := { asked (.copy free 0 1 2) none 0x2000000000000000 0x2000000000000040 with tmpl := template1, begun := true }

theorem witness_EngineInstructionsAct_copies : (∀ o ∈ [asked (.tplLd free 0 1) none 0 0, copy1], underWay (underway o none) 0 o ∧ o.eng ≠ 0 ∧ o.sbId = none ∧
      o.clob = []) ∧ (underway copy1 none).ctx.basin.poisoned 2 0 128 = false ∧ caSpace copy1.sa = 1 ∧ caSpace copy1.sb = 1 ∧
    caAddr copy1.sa ≠ caAddr copy1.sb ∧ tmBad copy1.tmpl = false ∧ tmEsize copy1.tmpl = 1 ∧ tmNdim copy1.tmpl = 1 ∧
    tmCount copy1.tmpl 0 = 1 ∧ tmSoff copy1.tmpl = 0 ∧ tmDoff copy1.tmpl = 0 ∧ tmRec copy1.tmpl = 0 ∧ copy1.seen = [] ∧
    copy1.writes = [] ∧ Mem.wf (underway copy1 none).ctx.basin.spad = true := by
  refine ⟨fun o h => ?_, by decide, by decide, by decide, by decide, by decide, by decide, by decide, by decide, by decide, by decide,
    by decide, rfl, rfl, rfl⟩
  simp only [List.mem_cons, List.not_mem_nil, or_false] at h
  rcases h with rfl | rfl <;> exact ⟨underway_underWay _ _ ⟨rfl, rfl⟩, by decide, rfl, rfl⟩

/-- A cascade instruction under way with operands. -/
def cascaded (i : Instr) (sbId : Option Nat) (a b : W64) : EngOp := { producer i 0 sbId with sa := a, sb := b }

theorem witness_EngineInstructionsAct_cascade : (∀ o ∈ [cascaded (.angLd free 1) none 0 0, cascaded (.angSwap free) none 0 0, cascaded (.patLd free 7 1) none 0 0,
      cascaded (.tailSet free 1 2) none 0 0x210, cascaded (.actLd free 1) none 0 0, cascaded (.accZ free 0) none 0 0,
      cascaded (.accLd free 0 1) none 0x8000000000000000 0, cascaded (.driftRd free 5) none 0 0, cascaded (.arrQ free 5 1) (some 2) 0 0],
      (∀ live, underWay (underway o live) 0 o) ∧ o.eng = 0 ∧ o.clob = [] ∧ (underway o (some 0)).ctx.casc.live = some o.daddr) ∧
    base.ctx.basin.poisoned 2 0 8256 = false ∧ base.ctx.basin.poisoned 2 (descAddr 0x8000000000000000) 16384 = false ∧
    descSpad 0x8000000000000000 = true ∧ tailWordOk 0x210 = true ∧ tailWordOk 0x110 = false ∧ Mem.wf base.ctx.basin.acc = true := by
  refine ⟨fun o h => ?_, by decide, by decide, by decide, by decide, by decide, by decide⟩
  simp only [List.mem_cons, List.not_mem_nil, or_false] at h
  rcases h with rfl | rfl | rfl | rfl | rfl | rfl | rfl | rfl | rfl <;>
    exact ⟨fun _ => underway_underWay _ _ ⟨rfl, rfl⟩, rfl, rfl, rfl⟩

/-- An instruction of the cascade under way with accumulator 0 live, over a tile of zeros, or of zeros after the byte `b`. -/
def tiling (b : Byte) (o : EngOp) : State :=
  let s := underway o (some 0)
  { s with ctx := { s.ctx with basin := { s.ctx.basin with reg := (List.range 1024).map fun i => (i, if i = 0 then b else 0) } } }

theorem tiling_underWay (b : Byte) (o : EngOp) (h : o.held = [] ∧ o.alsoProd = []) : underWay (tiling b o) 0 o :=
  ⟨rfl, rfl, rfl, h.1, h.2, rfl⟩

/-- Sweeps over 2 rows and 2 columns with a log: a pair of zeros, and one that is not. -/
theorem witness_PassesAndProductsAct_sweeps : ∀ o ∈ [cascaded (.tri free 5 1 2) none 0x1020202 0, cascaded (.tri free 5 1 2) none 0x0020202 0,
      cascaded (.grot free 5 1 2) none 0x1020202 0], ∀ b ∈ [(0 : Byte), 1], underWay (tiling b o) 0 o ∧ o.eng = 0 ∧ o.sbId = none ∧
      o.clob = [] ∧ Mem.wf (tiling b o).ctx.basin.reg = true ∧ Mem.wf (tiling b o).ctx.basin.spad = true ∧
      (sweepOrder (sweepM o.sa) (sweepN o.sa))[o.pos]? = some (0, 1) ∧
      (tiling b o).ctx.basin.poisoned 0 (o.daddr + 256 * (1 - 1)) 512 = false ∧
      (tiling b o).ctx.basin.poisoned 2 (o.sb.toNat + 8 * o.pos) 8 = false ∧
      tileWord (tiling b o) o.daddr 0 0 = b.toNat ∧ tileWord (tiling b o) o.daddr 1 0 = 0 := by
  intro o h b hb
  have e : o.held = [] ∧ o.alsoProd = [] := by
    simp only [List.mem_cons, List.not_mem_nil, or_false] at h
    rcases h with rfl | rfl | rfl <;> exact ⟨rfl, rfl⟩
  refine ⟨tiling_underWay b o e, ?_⟩
  simp only [List.mem_cons, List.not_mem_nil, or_false] at h hb
  rcases h with rfl | rfl | rfl <;> rcases hb with rfl | rfl <;> decide

/-- Passes over two vectors, of two stages and of none. -/
theorem witness_PassesAndProductsAct_passes : ∀ o ∈ [cascaded (.rotp free 5 1 2) none 0 0x20100, cascaded (.roti free 5 1 2) none 0 0x20001,
      cascaded (.rotg free 5 1 2) none 0 0x20001], underWay (tiling 1 { o with atag := 1 }) 0 { o with atag := 1 } ∧ o.eng = 0 ∧
      o.sbId = none ∧ o.clob = [] ∧ Mem.wf (tiling 1 o).ctx.basin.reg = true ∧ o.pos < passV o.sb ∧
      Fmt.ofCode { o with atag := 1 }.atag = .fp32 ∧ o.tailCmd.extractLsb' 0 5 = 0 ∧ o.daddr = o.aaddr ∧
      (tailOut o.tailCmd).width ≤ 32 ∧ (tiling 1 o).ctx.casc.live = some o.gaddr ∧
      (tiling 1 o).ctx.basin.poisoned 0 (o.aaddr + 512 * o.pos) 512 = false ∧
      passLast 0x20001 < passFirst 0x20001 ∧ passFirst 0x20100 ≤ passLast 0x20100 := by
  intro o h
  have e : o.held = [] ∧ o.alsoProd = [] := by
    simp only [List.mem_cons, List.not_mem_nil, or_false] at h
    rcases h with rfl | rfl | rfl <;> exact ⟨rfl, rfl⟩
  refine ⟨tiling_underWay 1 { o with atag := 1 } e, ?_⟩
  simp only [List.mem_cons, List.not_mem_nil, or_false] at h
  rcases h with rfl | rfl | rfl <;> decide

/-- ROTG of one vector of stages 0 and 1 on tiles that are apart. -/
theorem witness_PassesAndProductsAct_gradients :
    let o := { cascaded (.rotg free 5 1 2) none 0 0x10100 with daddr := 512 }
    underWay (tiling 1 o) 0 o ∧ o.clob = [] ∧ (tiling 1 o).ctx.casc.live = some o.gaddr ∧
      (tiling 1 o).ctx.basin.poisoned 0 0 512 = false ∧ (tiling 1 o).ctx.basin.poisoned 0 512 512 = false ∧
      o.aaddr + 512 * passV o.sb ≤ o.daddr ∧ (passStages (tiling 1 o).ctx.casc o.plane o.sb).length = 2 :=
  ⟨tiling_underWay 1 _ ⟨rfl, rfl⟩, rfl, rfl, by decide, by decide, by decide, by decide⟩

/-- Products of one row pair of 8 elements under a bitmap of zeros, and an output of one row. -/
theorem witness_PassesAndProductsAct_products : ∀ o ∈ [cascaded (.mprod free 0 1 2) none 0 0, cascaded (.mprodb free 0 1 2) none 0 0,
      cascaded (.accOut free 0 1 2) none 0 0],
    (let p := { o with mshape := 0x101, dlen := 8, atag := 2, btag := 2 }
     underWay (tiling 0 p) 0 p ∧ p.eng = 0 ∧ p.sbId = none ∧ p.clob = [] ∧ (tiling 0 p).ctx.casc.live = some p.daddr ∧
      (∀ r ∈ p.rd, (tiling 0 p).ctx.basin.poisoned (if r.1 then 0 else 2) r.2.1 r.2.2 = false) ∧ portOf 1 = none ∧ portOf 2 = none ∧
      (Fmt.ofCode p.atag).isBlk = false ∧
      (∀ x ∈ (tiling 0 p).ctx.regBytes (p.view.toNat % 2 ^ 64) ((mshapeM p.mshape * p.dlen + 7) / 8), x = 0) ∧
      descSpad p.sa = false ∧ outMask p.sb = false ∧ p.tailCmd.extractLsb' 0 5 = 0 ∧ Mem.wf (tiling 0 p).ctx.basin.reg = true) := by
  intro o h
  have e : o.held = [] ∧ o.alsoProd = [] := by
    simp only [List.mem_cons, List.not_mem_nil, or_false] at h
    rcases h with rfl | rfl | rfl <;> exact ⟨rfl, rfl⟩
  refine ⟨tiling_underWay 0 _ e, ?_⟩
  simp only [List.mem_cons, List.not_mem_nil, or_false] at h
  rcases h with rfl | rfl | rfl <;> decide

/-- A rotation, a stage of one pair, a vector of ones, a tail with each stage on, product operands of one group, and elements of each kind. -/
theorem witness_PassesAndProductsAct_values :
    single.finite 0x3F800000 ∧ single.finite 0x80000000 ∧ single.infinite 0xFF800000 ∧ single.isNan 0xFFC00001 ∧ 0 < of32 0x3F800000 ∧
    of32 0 = 0 ∧ stageLanes [((0, 1), 0x2000)] ∧ (∀ x ∈ List.replicate 128 0x3F800000, single.finite x) ∧
    (let t : TailCfg := ⟨0x1F, .bf16, false, 0, 0, 0⟩
     t.en.getLsbD 0 = true ∧ t.en.getLsbD 1 = true ∧ t.en.getLsbD 2 = true ∧ t.en.getLsbD 3 = true ∧ t.en.getLsbD 4 = true ∧
       t.qfmt = .bf16 ∧ word32 t.act 0 = 0 ∧ word32 t.g 0 = 0) ∧
    (∀ r ∈ prodRows, r.2.1.finite (codeAt r.2.1.w (List.replicate 64 0x38) 3)) ∧ ([4, 16, 32] = (prodRows.map fun r => r.2.2).dedup) ∧
    (FVal.nan, (0 : Flags)) ∈ [((FVal.nan, 0) : Prod32)] := by
  have h : (1 : ℚ) = single.val 0x3F800000 := by norm_num [single, Layout.val, Layout.mag, Layout.negative]
  have z : (0 : ℚ) = single.val 0 := by norm_num [single, Layout.val, Layout.mag, Layout.negative]
  refine ⟨⟨by decide, by decide⟩, ⟨by decide, by decide⟩, ⟨by decide, by decide⟩, ⟨by decide, by decide, by decide⟩, ?_, ?_,
    ⟨by decide, by decide⟩, fun x hx => ?_, by decide, fun r hr => ?_, by decide, by decide⟩
  · unfold of32; rw [← h]; norm_num
  · unfold of32; rw [← z]; norm_num
  · rw [List.eq_of_mem_replicate hx]; exact ⟨by decide, by decide⟩
  · simp only [prodRows, List.mem_cons, List.not_mem_nil, or_false] at hr
    rcases hr with rfl | rfl | rfl | rfl | rfl <;> exact ⟨by decide, by decide⟩

/-- Images that PAT.LD takes and refuses. -/
theorem witness_EngineInstructionsAct_patterns : (∀ l, l < 128 → ∃ i, i < 128 ∧ (((List.range 128).map fun i => BitVec.ofNat 8 i).getD i (0 : Byte)).toNat = l) ∧
    ∃ l, l < 128 ∧ ∀ i, i < 128 → ((List.replicate 128 (0 : Byte)).getD i 0).toNat ≠ l := by
  refine ⟨fun l hl => ⟨l, hl, ?_⟩, 5, by decide, by decide⟩
  simp [List.getD, hl]
  omega

/-- A launch of two tasks of priority 5 with 8 words of code. -/
def hdr2 : BitVec 2048 := BitVec.ofNat 2048
  (2 * 2 ^ 32 + 5 * 2 ^ 48 + 2 ^ 56 + 8 * 2 ^ 64 + 0x0101 * 2 ^ 256 + 14 * 2 ^ 340 + 2 ^ 576)

def launch2 : Launch := ⟨1, 0, 0, hdr2, 0, 0, 0, false, false, none, [], [], [], none⟩

/-- Task `n` of `launch2`. -/
def task2 (n : Nat) (st : TaskState) (started : Bool) : Task := ⟨1, BitVec.ofNat 64 n, n, 5, 0, .launch, [], st, started, [], []⟩

/-- The context of task 0 of `launch2`. -/
def ctx2 : Ctx := { Ctx.start with lid := 1, hdr := hdr2, ctl := { Ctl.start with prio := 5 } }

/-- The core bound to logical cores 0 and 1 and to queue 0, with the tasks of `launch2`. -/
def scheduled (mode : CoreMode) (c : Ctx) (ts : List Task) (saved : List Saved) : State :=
  { State.reset with
    ctx := c
    mode := mode
    sched := { State.reset.sched with
      launches := [launch2], tasks := ts, saved := saved, nextLid := 2, bind := BitVec.ofNat 1024 (8 + 2 ^ 256 + 3 * 2 ^ 512) }
    mgmt := { State.reset.mgmt with dispatchOff := false, boot := .up } }

/-- Both tasks of `launch2` queued on an idle core. -/
def queued2 : State := scheduled .idle Ctx.start [task2 0 .queued false, task2 1 .queued false] []

/-- Task 0 parked. -/
def parked2 : State := scheduled .idle Ctx.start [task2 0 .parked true] [⟨ctx2, .preempted, false, false⟩]

/-- Task 0 running, task 1 queued. -/
def running2 (mode : CoreMode) : State := scheduled mode ctx2 [task2 0 .running true, task2 1 .queued false] []

/-- Task 0 running at priority 5, a task of the given priority queued. -/
def challenged (prio : Nat) (c : Ctx) : State :=
  scheduled .running c [task2 0 .running true, { task2 1 .queued false with prio := prio }] []

/-- `ctx2` with a result in flight, with one awaited, or with a DRAIN that waits. -/
def flying2 : Ctx := { ctx2 with pipe := { ctx2.pipe with pend := [⟨.sreg 4 9, 3, false⟩] } }
def owed2 : Ctx := { ctx2 with pipe := { ctx2.pipe with sb := [⟨7, .sreg 5, .value 8 0, 0, false, []⟩] } }
def waiting2 : Ctx := { ctx2 with eng := { ctx2.eng with started := [asked (.drain free 1) none 0 0] } }

theorem witness_SavesRestoresAndDispatch : (∀ c ∈ [ctx2, flying2, owed2, waiting2], (challenged 6 c).mode = .running ∧ noneDue (challenged 6 c) ∧
      (∀ o ∈ c.eng.started, finishesFirst o = false) ∧ (c.eng.started.map EngOp.id).Nodup ∧ c.casc.live = none ∧
      ((candidates (challenged 6 c)).any fun x => decide (c.ctl.prio.toNat < x.2.prio)) = true ∧
      ((candidates (challenged 5 c)).any fun x => decide (c.ctl.prio.toNat ≤ x.2.prio)) = true) ∧
    saveKind (asked (.drain free 1) none 0 0) = .abandon ∧
    chosen queued2 launch2 (task2 0 .queued false) ∧ hdrSpadLen hdr2 = 0 ∧ hdrRegLen hdr2 = 0 ∧
    chosen parked2 launch2 (task2 0 .parked true) ∧ savedOf parked2 1 0 = some (0, ⟨ctx2, .preempted, false, false⟩) ∧
    ctx2.settled = true ∧ ctx2.replied = true := by
  refine ⟨?_, by decide, ⟨rfl, rfl, by decide, by decide⟩, by decide, by decide, ⟨rfl, rfl, by decide, by decide⟩, rfl, by decide, by decide⟩
  unfold noneDue
  decide

theorem witness_TasksEndAndKillsComplete : (running2 .draining).mode = .draining ∧ taskQuiet (running2 .draining) = true ∧
    (running2 .draining).ctx.eng.started = [] ∧ noneDue (running2 .draining) ∧
    (∀ q, q < 4 → ((running2 .draining).ctx.port q).st ≠ .sink) ∧ taskPlace (running2 .draining).sched.tasks 1 0 0 = some 0 ∧
    (running2 .draining).sched.tasks[0]? = some (task2 0 .running true) ∧ endRecordOf (running2 .draining) 1 0 = none ∧
    ((running2 .running).launchOf 1).isSome = true ∧ (running2 .running).ctx.lid = 1 ∧ (running2 .running).ctx.pipe.pend = [] ∧
    (let s := running2 (.killing 2 0 0 0 0 0 0); killQuiet s s.ctx = true ∧ s.ctx.eng.streams = [] ∧ noneDue s ∧ s.mgmt.snapshot = none) := by
  unfold noneDue
  refine ⟨rfl, by decide, rfl, rfl, by decide, by decide, rfl, by decide, by decide, rfl, rfl, by decide, rfl, rfl, rfl⟩

/-! ### Hypotheses of the statements of launches, translation and memory -/

/-- `queued2` with `record2`. -/
def recorded : State := { queued2 with sched := { queued2.sched with records := [record2] } }

/-- `launch2` once its tasks have ended. -/
def ended2 : State := scheduled .idle Ctx.start [task2 0 .ended true, task2 1 .ended true] []

theorem append_toNat {m n : Nat} (x : BitVec m) (y : BitVec n) : (x ++ y).toNat = x.toNat * 2 ^ n + y.toNat := by
  rw [BitVec.toNat_append, ← Nat.shiftLeft_add_eq_or_of_lt y.isLt, Nat.shiftLeft_eq]

theorem recordHandle_toNat (r : Record) (hg : r.gen < 2 ^ 26) (hs : r.slot < 2 ^ 18) :
    (recordHandle r).toNat = ((2 ^ 19 + Config.packageId.toNat) * 2 ^ 26 + r.gen) * 2 ^ 18 + r.slot := by
  have e : (recordHandle r).toNat = (((1 : BitVec 1) ++ Config.packageId).toNat * 2 ^ 26 + (BitVec.ofNat 26 r.gen).toNat) * 2 ^ 18 +
      (BitVec.ofNat 18 r.slot).toNat := by
    unfold recordHandle
    exact (append_toNat _ _).trans (by rw [append_toNat])
  rw [e, append_toNat, BitVec.toNat_ofNat, BitVec.toNat_ofNat, Nat.mod_eq_of_lt hg, Nat.mod_eq_of_lt hs]
  simp

theorem recordHandle_local (r : Record) (hg : r.gen < 2 ^ 26) (hs : r.slot < 2 ^ 18) : handleLocal (recordHandle r) = true := by
  have e := recordHandle_toNat r hg hs
  have hp := Config.packageId.isLt
  have a : (recordHandle r).getLsbD 63 = true := by
    rw [BitVec.getLsbD_eq_getElem (by decide), BitVec.getElem_eq_testBit_toNat, Nat.testBit_eq_decide_div_mod_eq, e]
    simp only [decide_eq_true_eq]
    omega
  have b : (recordHandle r).extractLsb' 44 19 = Config.packageId := by
    apply BitVec.eq_of_toNat_eq
    rw [BitVec.extractLsb'_toNat, Nat.shiftRight_eq_div_pow, e]
    omega
  unfold handleLocal
  rw [a, b]
  simp

theorem record2_found : recorded.recordOf (recordHandle record2) = some record2 := by
  have e := recordHandle_toNat record2 (by decide) (by decide)
  have hs : record2.slot = 3 := rfl
  have hg : record2.gen = 1 := rfl
  rw [hs, hg] at e
  have h1 : (recordHandle record2).toNat % 2 ^ 18 = 3 := by omega
  have h2 : (recordHandle record2).toNat / 2 ^ 18 % 2 ^ 26 = 1 := by omega
  unfold State.recordOf
  rw [recordHandle_local record2 (by decide) (by decide), h1, h2]
  rfl

/-- A task of `launch2` with an instruction at the head of copy engine 1, `record2`, and an image at 0 whose byte 56 is b. -/
def posting (o : EngOp) (b : Byte) : State :=
  { heading o with
    ctx := { (heading o).ctx with
      lid := 1
      basin := { base.ctx.basin with spad := (List.range 64).map fun i => (i, if i = 56 then b else 0) } }
    sched := recorded.sched }

theorem witness_EngineInstructionsAct_records : (∀ o ∈ [asked (.arrive free 1 2) none (recordHandle record2) 1, asked (.trec free 5 1 2) (some 2) 0 1,
      asked (.post free 1) none 0 0], ∀ b, enginesIdle (posting o b) ∧ heads (posting o b) 1 o [] ∧ o.clob = [] ∧
      (posting o b).launchOf (posting o b).ctx.lid = some launch2 ∧ launch2.killing = false ∧
      (posting o b).ctx.eng.tiles = Vector.replicate 64 Tile.start ∧ (posting o b).ctx.basin.poisoned 2 0 64 = false ∧
      (posting o b).recordOf (recordHandle record2) = some record2 ∧ (∃ k, freeSlot (posting o b) = some k)) ∧
    (∀ i, i < 8 → ((posting copy1 0).ctx.spadBytes 0 64).getD (56 + i) 0 = 0) ∧
    ((posting copy1 1).ctx.spadBytes 0 64).getD (56 + 0) 0 ≠ 0 := by
  refine ⟨fun o h b => ?_, by decide, by decide⟩
  have e : o.eng = 1 ∧ o.waits = [] ∧ o.held = [] ∧ o.alsoProd = [] ∧ o.clob = [] := by
    simp only [List.mem_cons, List.not_mem_nil, or_false] at h
    rcases h with rfl | rfl | rfl <;> exact ⟨rfl, rfl, rfl, rfl, rfl⟩
  refine ⟨⟨rfl, rfl, rfl⟩, heading_heads o ⟨e.1, e.2.1, e.2.2.1, e.2.2.2.1⟩, e.2.2.2.2, (by decide : recorded.launchOf 1 = some launch2), rfl,
    rfl, (by decide : base.ctx.basin.poisoned 2 0 64 = false), record2_found, ?_⟩
  have hf : ∀ s : State, s.sched.records = [record2] → ∃ k, freeSlot s = some k := by
    intro s hs
    unfold freeSlot
    rw [hs]
    rw [if_neg (by decide)]
    simp only
    split
    · exact ⟨0, by decide⟩
    · exact ⟨_, rfl⟩
  exact hf _ rfl

theorem witness_LaunchesAndRecords : queued2.mgmt.boot = .up ∧ rejectCode queued2 0 0 ≠ 0 ∧ hdrGrid 0 = 0 ∧
    rejectCode queued2 0 hdr2 = 0 ∧ inExtents hdr2 (fun _ => 0) ∧ (List.replicate 57 (1 : Byte)).getD 56 0 ≠ 0 ∧ hdrEnd hdr2 = false ∧ hdrDet hdr2 = false ∧
    ended2.launchOf 1 = some launch2 ∧ launch2.done = false ∧ hdrDet launch2.hdr = false ∧
    (∀ k ∈ ended2.sched.tasks, k.lid = 1 → k.st = .ended) ∧ plainRecord recorded (recordHandle record2) record2 launch2 := by
  refine ⟨rfl, by decide, by decide, by decide, fun _ _ => Nat.zero_le _, by decide, by decide, by decide, by decide, rfl, by decide, by decide,
    record2_found, rfl, rfl, by decide, rfl, rfl⟩

/-- `hdr2` with one byte of arguments. -/
def hdr3 : BitVec 2048 := BitVec.ofNat 2048
  (2 * 2 ^ 32 + 5 * 2 ^ 48 + 2 ^ 56 + 8 * 2 ^ 64 + 2 ^ 108 + 0x0101 * 2 ^ 256 + 14 * 2 ^ 340 + 2 ^ 576)

/-- A graph of one header with one byte of arguments at 0. -/
def graph1 (replay : Option Replay) (waiting : Nat) : Graph := ⟨0, 0, [hdr3], [[]], replay, waiting, 0⟩

/-- The page in which the replay area of `base` lies. -/
def replayPage : TlbEntry := ⟨0, 0, replayArea base 0 / 2 ^ 30 * 2 ^ 30, 30, 15⟩

/-- `base` with a graph registered, and the page in which the replay area lies mapped. -/
def graphed (replay : Option Replay) (waiting : Nat) : State :=
  { base with
    mem := { base.mem with tlb := [replayPage] }
    mgmt := { base.mgmt with graphs := [graph1 replay waiting] } }

theorem graphed_reads : (∃ bs, readImageAt (graphed none 1) 0 (hdrArg hdr3) (hdrArgLen hdr3) = .bytes bs) ∧
    endImage (graphed none 1) 0 hdr3 = .bytes [] := by
  refine ⟨?_, by decide⟩
  have n : (List.range (hdrArgLen hdr3)).findSome? (fun i => imageStop (graphed none 1) 0 (hdrArg hdr3 + i)) = none := by decide
  unfold readImageAt
  rw [n]
  exact ⟨_, rfl⟩

theorem graphed_area : replayArea (graphed none 1) 0 = replayArea base 0 := by
  unfold replayArea
  rfl

theorem graphed_tlb : (graphed none 1).mem.tlb = [replayPage] ∧ (graphed none 1).mem.gen 0 = 0 ∧
    ∀ t ∈ (graphed none 1).mem.tlb1, leafForbids t.leaf .write = false := ⟨rfl, by decide, by decide⟩

theorem replayPage_covers : replayPage.base ≤ replayArea base 0 ∧ replayArea base 0 < replayPage.base + 2 ^ replayPage.bits := by
  have b : replayPage.base = replayArea base 0 / 2 ^ 30 * 2 ^ 30 := rfl
  have k : replayPage.bits = 30 := rfl
  rw [b, k]
  generalize replayArea base 0 = x
  omega

theorem graphed_hit : ∃ t, (graphed none 1).mem.hit 0 (replayArea base 0) = some t ∧ leafForbids t.leaf .write = false := by
  obtain ⟨htlb, hgen, hall⟩ := graphed_tlb
  obtain ⟨lo, hi⟩ := replayPage_covers
  have asid : replayPage.asid = 0 ∧ replayPage.gen = 0 ∧ leafForbids replayPage.leaf .write = false := ⟨rfl, rfl, by decide⟩
  unfold MemSys.hit
  rw [htlb, hgen]
  generalize (graphed none 1).mem.tlb1 = ts at hall
  rcases h : (ts ++ [replayPage]).find? _ with _ | t
  · have p := List.find?_eq_none.mp h replayPage (List.mem_append_right _ (.head _))
    simp [asid.1, asid.2.1, lo, hi] at p
  · refine ⟨t, rfl, ?_⟩
    rcases List.mem_append.mp (List.mem_of_find?_eq_some h) with m | m
    · exact hall t m
    · rw [List.mem_singleton.mp m]
      exact asid.2.2

theorem graphed_lands : landReach (graphed none 1) 0 (replayArea base 0) = .ok := by
  obtain ⟨t, ht, hw⟩ := graphed_hit
  have lt : replayArea base 0 < 2 ^ 57 := by unfold replayArea; exact Nat.mod_lt _ (by decide)
  have h0 : (graphed none 1).mem.heldReset = 0 := by decide
  unfold landReach translateIn
  rw [if_neg (Nat.not_le.mpr lt)]
  simp only [ht, hw]
  simp [State.homeWaits, h0]

theorem graphed_starts : replayStop (graphed none 1) (graph1 none 1) = none := by
  obtain ⟨⟨bs, hr⟩, he⟩ := graphed_reads
  have n : hdrArgLen hdr3 = 1 := by decide
  have m : areasMeet (graphed none 1) (graph1 none 1) = false := by simp [areasMeet, graph1]
  have z : (graph1 none 1).hdrs.zipIdx = [(hdr3, 0)] := rfl
  have ga : (graph1 none 1).asid = 0 := rfl
  have ar : areaStop (graphed none 1) 0 (replayArea (graphed none 1) 0) 1 = none := by
    unfold areaStop
    rw [show List.range 1 = [0] from rfl, graphed_area]
    simp only [List.findSome?_cons, List.findSome?_nil, Nat.add_zero, graphed_lands]
  unfold replayStop
  rw [m, z]
  rw [n] at hr
  simp only [List.findSome?_cons, List.findSome?_nil, ga, hr, n, ar]
  rfl

/-- A replay under way, whose one header has started. -/
def replay1 : Replay := ⟨0, [(hdr3, [])], [], [0]⟩

theorem witness_GraphsAreRegisteredAndReplayed : (graph1 none 0).hdrs.length ≤ 1024 ∧ (∀ h ∈ (graph1 none 0).hdrs, hdrArgLen h ≠ 0) ∧
    (graph1 none 0).after.length = (graph1 none 0).hdrs.length ∧ (∀ ps ∈ (graph1 none 0).after, ∀ p ∈ ps, p < 1) ∧
    (∃ h ∈ [hdr2], hdrArgLen h = 0) ∧ (graphed none 0).mgmt.graphs[0]? = some (graph1 none 0) ∧ 0 < (graph1 none 0).hdrs.length ∧
    (graph1 none 0).waiting = 0 ∧ replayStop (graphed none 1) (graph1 none 1) = none ∧
    (graph1 (some replay1) 0).replay = some replay1 ∧ (∀ k, k < replay1.hdrs.length → k ∈ replay1.started) ∧
    (∃ k, k < replay1.hdrs.length ∧ k ∉ replay1.completed) := by
  refine ⟨by decide, fun h hh => ?_, rfl, by decide, ⟨hdr2, .head _, by decide⟩, rfl, by decide, rfl, graphed_starts, rfl, by decide,
    ⟨0, by decide, by decide⟩⟩
  rw [List.mem_singleton.mp hh]
  decide

/-- Where the level-1 table of `mapped` lies: apart from the level-0 table. -/
def tableAt : Nat := if Config.pageRoot 0 * 0x20000 < 2 ^ 32 then 2 ^ 33 else 0

/-- Eight bytes from `a` on. -/
def run8 (a : Nat) (bs : List Byte) : Mem := (List.range 8).map fun j => (a + j, bs.getD j 0)

theorem read_run8 (a : Nat) (bs : List Byte) (rest : Mem) (h : bs.length = 8) : Mem.read (run8 a bs ++ rest) a 8 = bs.map some := by
  match bs, h with
  | [b0, b1, b2, b3, b4, b5, b6, b7], _ => simp [run8, List.range, List.range.loop, Mem.read, Mem.pick]

theorem skip_run8 (k a n : Nat) (bs : List Byte) (rest : Mem) (h : k + 8 ≤ a) : Mem.read (run8 k bs ++ rest) a n = Mem.read rest a n := by
  have h0 : k < a := by omega
  have h1 : k + 1 < a := by omega
  have h2 : k + 2 < a := by omega
  have h3 : k + 3 < a := by omega
  have h4 : k + 4 < a := by omega
  have h5 : k + 5 < a := by omega
  have h6 : k + 6 < a := by omega
  have h7 : k + 7 < a := by omega
  simp [run8, List.range, List.range.loop, Mem.read, h0, h1, h2, h3, h4, h5, h6, h7]

/-- The two tables, the lower one first. -/
def tables : Mem :=
  let root := run8 (Config.pageRoot 0 * 0x20000) (leBytes 8 (tableAt + 1))
  let leaf := run8 tableAt (leBytes 8 0x1F)
  if tableAt = 0 then leaf ++ (root ++ []) else root ++ (leaf ++ [])

/-- `base` with page tables that map the first 1 GiB, and no TLB entry. -/
def mapped : State := { base with mem := { base.mem with tlb1 := [], tlb := [], gmem := tables } }

/-- The two entries that the walk reads. -/
theorem mapped_reads : Mem.read mapped.mem.gmem (Config.pageRoot 0 * 0x20000) 8 = (leBytes 8 (tableAt + 1)).map some ∧
    Mem.read mapped.mem.gmem tableAt 8 = (leBytes 8 0x1F).map some := by
  have l1 : (leBytes 8 0x1F).length = 8 := by decide
  have l2 : ∀ n, (leBytes 8 n).length = 8 := fun n => by simp [leBytes]
  simp only [mapped, tables]
  by_cases h : Config.pageRoot 0 * 0x20000 < 2 ^ 32
  · have t : tableAt = 2 ^ 33 := by unfold tableAt; rw [if_pos h]
    rw [if_neg (by omega)]
    exact ⟨read_run8 _ _ _ (l2 _), by rw [skip_run8 _ _ _ _ _ (by omega), read_run8 _ _ _ l1]⟩
  · have t : tableAt = 0 := by unfold tableAt; rw [if_neg h]
    rw [if_pos t]
    exact ⟨by rw [skip_run8 _ _ _ _ _ (by omega), read_run8 _ _ _ (l2 _)], read_run8 _ _ _ l1⟩

theorem walk_entry (m : MemSys) (va level table : Nat) (bs : List Byte)
    (h : Mem.read m.gmem (table + 8 * walkIndex level va) 8 = bs.map some) :
    ofLe (m.homeBytes (table + 8 * walkIndex level va) 8) = ofLe bs := by
  unfold MemSys.homeBytes Mem.bytes
  rw [h]
  congr 1
  apply List.ext_getElem <;> simp

theorem mapped_walks : mapped.walk 0 0 = .leaf 0 30 0x1F := by
  obtain ⟨r, l⟩ := mapped_reads
  have hr := walk_entry mapped.mem 0 0 (Config.pageRoot 0 * 0x20000) (leBytes 8 (tableAt + 1)) (by simpa [walkIndex] using r)
  have hl := walk_entry mapped.mem 0 1 tableAt (leBytes 8 0x1F) (by simpa [walkIndex] using l)
  have hd : ∀ k, mapped.homeWaits k = false := by
    intro k
    have h0 : mapped.mem.heldReset = 0 := by decide
    simp [State.homeWaits, h0]
  have t : tableAt = 2 ^ 33 ∨ tableAt = 0 := by unfold tableAt; split <;> omega
  unfold State.walk walkGo
  simp only [hd, Bool.false_eq_true, if_false]
  rw [hr]
  have f : pteFrame (BitVec.ofNat 64 (ofLe (leBytes 8 (tableAt + 1)))) = tableAt := by
    rcases t with t | t <;> rw [t] <;> decide
  have v : pteV (BitVec.ofNat 64 (ofLe (leBytes 8 (tableAt + 1)))) = true ∧
      pteLeaf (BitVec.ofNat 64 (ofLe (leBytes 8 (tableAt + 1)))) = false ∧
      tableOk (BitVec.ofNat 64 (ofLe (leBytes 8 (tableAt + 1)))) = true := by
    rcases t with t | t <;> rw [t] <;> decide
  simp only [f, v.1, v.2.1, v.2.2]
  unfold walkGo
  simp only [hd, Nat.zero_add, hl]
  decide

theorem witness_TranslationEvents : mapped.walk 0 0 = .leaf 0 30 0x1F ∧ mapped.mem.tlb1 ++ mapped.mem.tlb = [] ∧
    (let s := { base with
       mem := { base.mem with pageReqs := [(5, 77)], raises := [5], asGen := [(6, BitVec.allOnes 20)] }
       ctx := { base.ctx with asid := 5 }
       mgmt := { base.mgmt with boot := .up } }
     (5, 77) ∈ s.mem.pageReqs ∧ s.mgmt.graphs = [] ∧ s.sched.saved = [] ∧ s.mem.gen 6 = BitVec.allOnes 20 ∧
      s.mem.gen 5 ≠ BitVec.allOnes 20 ∧ (5 : BitVec 16) ∈ s.mem.raises ∧ s.ctx.eng.accs = [] ∧
      s.ctx.eng.started = [] ∧ s.ctx.eng.ports = Vector.replicate 4 Port.start ∧ s.mgmt.boot = .up) :=
  ⟨mapped_walks, rfl, by decide, rfl, rfl, by decide, by decide, by decide, rfl, rfl, rfl, rfl⟩

/-- Runs at the end of the scratchpad and of the register space of `base`. -/
theorem witness_WritesPerformAtHome_runs : holdsCore base 0 0 ∧ openRun base false 0x3DFFFF 1 ∧ openRun base true 0x0FFF 1 ∧
    ¬openRun base false 0x3E0000 1 ∧ (base.ctx.tile 63).st = .empty := by
  unfold holdsCore openRun
  decide

theorem witness_WritesPerformAtHome : Mem.wf base.mem.gmem = true ∧ Mem.wf base.mem.cistern = true ∧ Mem.wf base.ctx.basin.spad = true ∧
    Mem.wf base.ctx.basin.reg = true ∧
    (let a := access .store [1, 2, 3, 4, 5, 6, 7, 8] false
     (accessing a).ctx.eng.accs[0]? = some a ∧ a.performed = false ∧ loadCanBind (accessing a) a = true ∧
      inMerge (accessing a).ctx.hdr 64 = false ∧ a.remote = false ∧ undisturbed (accessing a) (some (accessing a).ctx.lid)) ∧
    (∀ op, op < 7 → ∀ z ∈ [(4, 0), (4, 1), (4, 2), (8, 0), (8, 1)], ∀ gives : Bool,
      let a := { access (.atom op z.2 5 0 gives) [] false with size := z.1 }
      (accessing a).ctx.eng.accs[0]? = some a ∧ (accessing a).ctx.eng.queued 2 = false ∧ loadCanBind (accessing a) a = true ∧
      a.rwin = false ∧ a.remote = false ∧ (a.size = 4 ∨ (a.size = 8 ∧ z.2 ≠ 2)) ∧ z.2 < 3 ∧ (5 : W64).toNat < 2 ^ (8 * a.size) ∧
      (accessing a).mem.poisoned 64 a.size = false ∧ undisturbed (accessing a) (some (accessing a).ctx.lid)) ∧
    base.mem.heldReset = 0 ∧ 0xB2D05DFFFF + [(7 : Byte)].length ≤ 0xB2D05E0000 ∧ undisturbed base none ∧
    0xFFFFFFF + [(7 : Byte)].length ≤ 2 ^ 28 ∧
    (let a := access .store [1] true
     (accessing a).ctx.eng.accs[0]? = some a ∧ a.performed = true) ∧
    (let o := producer (.atomAdd free 1 2 3) 1 (some 2)
     let a := access (.atom 0 0 5 0 true) [] true
     let s := { accessing a with ctx := { (accessing a).ctx with eng := { (accessing a).ctx.eng with started := [{ o with id := 2 }] } } }
     s.ctx.eng.accs[0]? = some a ∧ a.performed = true ∧ (s.ctx.eng.started.find? fun y => y.id == a.id) = some { o with id := 2 } ∧
      o.held = [] ∧ o.alsoProd = []) := by
  unfold undisturbed
  refine ⟨rfl, rfl, rfl, rfl, ⟨rfl, rfl, by decide, by decide, rfl, by decide⟩, by decide,
    by decide, by decide, by decide, by decide, ⟨rfl, rfl⟩, rfl, rfl, rfl, rfl, rfl⟩

/-- A global sink with the last element of its vector still to come. -/
def closingPort : Port :=
  { Port.start with st := .sink, chain := 0x5020000000000E01, tmpl := some template64, pos := 63, part := List.replicate 63 0 }

/-- `base` with it as port 1, a word at the root of the page tables, no TLB entry, and dies held in reset. -/
def closing (held : BitVec 8) (root : Nat) : State :=
  { base with
    mem := { base.mem with tlb := [], tlb1 := [], heldReset := held, gmem := run8 (Config.pageRoot 0 * 0x20000) (leBytes 8 root) ++ [] }
    ctx := base.ctx.setPort 1 closingPort }

theorem closing_root (held : BitVec 8) (root : Nat) :
    ofLe ((closing held root).mem.homeBytes (Config.pageRoot 0 * 0x20000 + 8 * walkIndex 0 252) 8) = ofLe (leBytes 8 root) := by
  have w : walkIndex 0 252 = 0 := by decide
  refine walk_entry _ _ _ _ _ ?_
  have g : (closing held root).mem.gmem = run8 (Config.pageRoot 0 * 0x20000) (leBytes 8 root) ++ [] := rfl
  have r := read_run8 (Config.pageRoot 0 * 0x20000) (leBytes 8 root) [] (by simp [leBytes])
  rw [w, g, Nat.mul_zero, Nat.add_zero]
  exact r

/-- The padding of a global sink stops where the translation of its first byte does. -/
theorem padding_stops (s : State) (p : Port) (t : BitVec 1024) (a : BitVec 64) (st : Stop) (hp : s.ctx.port 1 = p) (hst : p.st = .sink)
    (ht : p.tmpl = some t) (hc : chainFormats p.chain = some (.fp32, .fp32)) (hg : p.part.isEmpty = false)
    (he : sinkElems p .fp32 p.pos (p.unit - p.part.length) = [63]) (hd : tmDst t 0 63 = a) (hz : tmEsize t = 4) (hs : chSpace p.chain = 1)
    (ha : a.toNat < 2 ^ 57) (hm : inMerge s.ctx.hdr a.toNat = false)
    (h : (Machine.translate s a.toNat .write = .miss 0 ∧ st = .page 0) ∨ (Machine.translate s a.toNat .write = .waits ∧ st = .hold)) :
    closeStop s 1 = some st := by
  have m : a.toNat % 18446744073709551616 = a.toNat := by omega
  have n : ¬144115188075855872 ≤ a.toNat := by omega
  have k : ∃ l, sinkKeys s p a.toNat 4 = (0, some st) :: l := by
    rw [show sinkKeys s p a.toNat 4 = _ from List.map_cons ..]
    rcases h with ⟨h, rfl⟩ | ⟨h, rfl⟩
    all_goals
      refine ⟨_, congrArg (· :: _) ?_⟩
      simp [m, hs, h, hm, n]
  obtain ⟨l, k⟩ := k
  unfold closeStop padStop padKeys elemKeys
  simp only [hp, hst, ht, hc, hg, he, hd, hz, List.flatMap_cons, k]
  rcases h with ⟨-, rfl⟩ | ⟨-, rfl⟩ <;> rfl

theorem closing_stops (held : BitVec 8) (root : Nat) (w : WalkRes) (st : Stop) (hw : (closing held root).walk 0 252 = w)
    (h : (w = .miss ∧ st = .page 0) ∨ (w = .waits ∧ st = .hold)) : closeStop (closing held root) 1 = some st := by
  refine padding_stops _ closingPort template64 252 st rfl rfl rfl (by decide) rfl (by decide) (by decide) (by decide) (by decide) (by decide)
    (by decide : inMerge base.ctx.hdr 252 = false) ?_
  have t : (closing held root).mem.hit 0 252 = none := rfl
  have z : (closing held root).ctx.asid = 0 := rfl
  have r : (closing held root).mem.refused = [] := rfl
  have e : (252 : BitVec 64).toNat = 252 := rfl
  unfold Machine.translate translateIn
  rw [z, e, t, hw, r]
  rcases h with ⟨rfl, rfl⟩ | ⟨rfl, rfl⟩
  · exact .inl ⟨rfl, rfl⟩
  · exact .inr ⟨rfl, rfl⟩

theorem closing_queue (held : BitVec 8) (root : Nat) :
    ((closing held root).ctx.eng.queue (firstCopyEngine (closing held root))).length < 16 := by
  have q : ∀ n, n = 1 ∨ n = 2 → ((closing held root).ctx.eng.queue n).length = 0 := by
    rintro n (rfl | rfl) <;> rfl
  rw [q]
  · decide
  · unfold firstCopyEngine
    split <;> decide

theorem witness_StreamPortsChangeAtIssue : (∀ held root, engReady (closing held root) free (firstCopyEngine (closing held root))) ∧
    closeStop (closing 0 0) 1 = some (.page 0) ∧ closeStop (closing 0xFF 1) 1 = some .hold := by
  refine ⟨fun _ _ => ⟨⟨rfl, rfl, fun h => (by cases h), fun h => (by cases h)⟩, rfl, closing_queue _ _⟩,
    closing_stops _ _ .miss _ ?_ (.inl ⟨rfl, rfl⟩), closing_stops _ _ .waits _ ?_ (.inr ⟨rfl, rfl⟩)⟩
  · have hd : ∀ k, (closing 0 0).homeWaits k = false := by
      intro k
      have h0 : (closing 0 0).mem.heldReset = 0 := rfl
      unfold State.homeWaits
      rw [h0]
      simp
    unfold State.walk walkGo
    simp only [hd, closing_root]
    decide
  · have hz : (closing 0xFF 1).homeWaits 0 = true := by decide
    unfold State.walk walkGo
    simp only [closing_root]
    have v : pteV (BitVec.ofNat 64 (ofLe (leBytes 8 1))) = true ∧ pteLeaf (BitVec.ofNat 64 (ofLe (leBytes 8 1))) = false ∧
      tableOk (BitVec.ofNat 64 (ofLe (leBytes 8 1))) = true ∧ pteFrame (BitVec.ofNat 64 (ofLe (leBytes 8 1))) = 0 := by decide
    simp only [v.1, v.2.1, v.2.2.1, v.2.2.2]
    split
    · rfl
    · unfold walkGo
      have w : 0 + 8 * walkIndex (0 + 1) 252 = 0 := by decide
      simp [w]
      exact fun hx => absurd (hz.symm.trans hx) (by decide)

/-! ### Hypotheses of the statements of the fabric and of management -/

/-- Another package. -/
def elsewhere : BitVec 19 := Config.packageId + 1

theorem elsewhere_ne : elsewhere ≠ Config.packageId := by
  unfold elsewhere
  bv_omega

theorem elsewhere_other (s : State) (l : BitVec 9) : isOwnCore s elsewhere l = false := by
  unfold isOwnCore
  rw [beq_false_of_ne elsewhere_ne]
  rfl

theorem own_beq : (Config.packageId == Config.packageId) = true := by simp

/-- `scheduled` with task 0 running, a record that it made, and the deciding parts of the fabric given. -/
def fabric (bytes : Nat) (f : Fabric) : State :=
  let s := scheduled .running { ctx2 with ctl := { ctx2.ctl with part := 0x0101 } } [task2 0 .running true] []
  { s with fab := f, mem := { base.mem with kept := [] }, sched := { s.sched with records := [{ record2 with bytes := bytes }] } }

theorem fabric_record (bytes : Nat) (f : Fabric) :
    (fabric bytes f).recordOf (recordHandle record2) = some { record2 with bytes := bytes } := by
  have e := recordHandle_toNat record2 (by decide) (by decide)
  have hs : record2.slot = 3 := rfl
  have hg : record2.gen = 1 := rfl
  rw [hs, hg] at e
  have h1 : (recordHandle record2).toNat % 2 ^ 18 = 3 := by omega
  have h2 : (recordHandle record2).toNat / 2 ^ 18 % 2 ^ 26 = 1 := by omega
  unfold State.recordOf
  rw [recordHandle_local record2 (by decide) (by decide), h1, h2]
  rfl

/-- `fabric` while the cascade runs an instruction. -/
def cascading : State :=
  let s := fabric 20000 Fabric.reset
  { s with ctx := { s.ctx with eng := { s.ctx.eng with started := [cascaded (.accZ free 0) none 0 0] } } }

/-- `fabric` with a launch in deterministic mode. -/
def fabricDet : State :=
  let s := fabric 20000 Fabric.reset
  { s with sched := { s.sched with launches := [{ launch2 with hdr := hdr2 ||| (1 <<< 59) }] } }

theorem witness_PeerDrainsArrive : isOwnCore (fabric 20000 Fabric.reset) elsewhere 0 = false ∧
    (List.replicate 4096 (0 : BitVec 32)).length = 4096 ∧ 351 < (352 : BitVec 9).toNat ∧ (fabric 20000 Fabric.reset).recordOf 0 = none ∧
    (fabric 20000 Fabric.reset).recordOf (recordHandle record2) = some { record2 with bytes := 20000 } ∧
    (fabric 20000 Fabric.reset).launchOf 1 = some launch2 ∧ hdrDet launch2.hdr = false ∧
    (∀ s ∈ [fabric 20000 Fabric.reset, cascading, fabricDet], s.mode = .running ∧ s.ctx.lid = record2.lid ∧
      s.ctx.ctl.lcore.toNat = 0 ∧ (3 : BitVec 5).toNat * 16384 + 16384 ≤ s.ctx.accSize ∧ s.atParked = false ∧ canSave s = true) ∧
    (fabric 20000 Fabric.reset).ctx.cascadeBusy = false ∧ cascading.ctx.cascadeBusy = true ∧
    ((fabricDet.launchOf 1).map fun l => hdrDet l.hdr) = some true ∧
    (lookupKey (elsewhere, (0 : BitVec 9), (0 : W64)) record2.peers).getD 0 = 0 ∧ 16384 < 20000 := by
  refine ⟨elsewhere_other _ _, List.length_replicate, by decide, ?_, fabric_record _ _, by decide, by decide, by decide, by decide, by decide,
    by decide, rfl, by decide⟩
  unfold State.recordOf handleLocal
  rfl

/-- A collective of 64 fp32 values in chunks of 32, whose firing from entry 0 is under way. -/
def coll2 (hdr : BitVec 512) (chunks : List ChunkState) : Coll :=
  ⟨2, 0, 1, 0, 0, hdr, [], 9, 0, 0, [(1, 0, 0)], [], chunks, [], false, false⟩

/-- Members, an operation and FUSE as asked, two chunks, the bad-chunk list at 4096. -/
def ringHdr (members op fuse : Nat) : BitVec 512 :=
  BitVec.ofNat 512 (members + op * 2 ^ 12 + fuse * 2 ^ 32 + 32 * 2 ^ 48 + 64 * 2 ^ 64 + 4096 * 2 ^ 128 + 1 * 2 ^ 192)

/-- Two members that add, or that gather with FUSE. -/
def collHdr (fuse : Nat) : BitVec 512 := ringHdr 2 (4 * fuse) fuse

/-- Every chunk of a firing written. -/
def allWritten (n : Nat) : List ChunkState := (List.range n).map fun q => ⟨q, true, true, false⟩

/-- `fabric` with a collective. -/
def collecting (c : Coll) : State := fabric 20000 { Fabric.reset with colls := [c] }

theorem base_reaches : ∀ i, i < 16 → base.mem.hit 0 (4096 + i) = some (flatEntry State.reset 0) ∧
    leafKey (flatEntry State.reset 0).base (flatEntry State.reset 0).leaf (4096 + i) = 4096 + i := by decide

theorem reaches_fabric (bytes : Nat) (f : Fabric) (n : Nat) (h : n ≤ 16) : reaches (fabric bytes f) 0 4096 n 4096 :=
  ⟨(by decide : base.mem.heldReset = 0), by omega, fun i hi =>
    ⟨flatEntry State.reset 0, (base_reaches i (by omega)).1, by decide, (base_reaches i (by omega)).2⟩⟩

theorem witness_CollectivesAndLostEndpoints :
    (let c := coll2 (collHdr 0) []
     (collecting c).fab.colls[0]? = some c ∧ collHolder (collecting c) c = .own ∧ c.fires = [(1, 0, 0)] ∧ c.lost = false ∧
      chGather c.hdr = false ∧ chFuse c.hdr = false ∧ chNmem c.hdr ≠ 1 ∧ c.contrib.length < chunkCount c.hdr) ∧
    (∀ f, f < 2 → let c := coll2 (collHdr f) (allWritten (if f = 0 then 2 else 4))
      (collecting c).fab.colls[0]? = some c ∧ ((collecting c).fab.colls.find? fun x => x.slot == c.slot) = some c ∧
      collHolder (collecting c) c = .own ∧ chFuse c.hdr = (f == 1) ∧ (∀ q, q < c.wireChunks → (c.chunk q).written = true) ∧ chRec c.hdr = 0 ∧
      Mem.wf (collecting c).mem.gmem = true ∧ reaches (collecting c) 0 (chBadlist c.hdr) (badList c).length 4096 ∧
      undisturbed (collecting c) (some (collecting c).ctx.lid) ∧
      (∀ k, k < 64 → ((collecting c).ctx.tile k).col = 0 ∧ ((collecting c).ctx.tile k).slot = none) ∧ (collecting c).fab.colls = [c] ∧
      c.chunks.Pairwise (fun a b => a.idx ≠ b.idx)) ∧
    elsewhere ≠ Config.packageId ∧ ((0 : BitVec 1) ++ elsewhere) ∉ base.fab.lost ∧ base.ctx.eng.started = [] ∧ base.sched.saved = [] := by
  refine ⟨⟨rfl, by decide, rfl, rfl, by decide, by decide, by decide, by decide⟩, fun f hf => ?_, elsewhere_ne,
    List.not_mem_nil, rfl, rfl⟩
  obtain rfl | rfl : f = 0 ∨ f = 1 := by omega
  all_goals
    refine ⟨rfl, by decide, by decide, by decide, by decide, by decide, by decide, ?_, by unfold undisturbed; decide, by decide, rfl, by decide⟩
    refine reaches_fabric 20000 _ _ ?_
    decide

theorem chunkHead_fields (cid : BitVec 32) (k q n : Nat) (p : List Byte) :
    (chunkHead cid k q n false p).extractLsb' 32 16 = BitVec.ofNat 16 k ∧ (chunkHead cid k q n false p).extractLsb' 48 32 = BitVec.ofNat 32 q := by
  constructor
  all_goals
    unfold chunkHead
    ext i hi
    simp only [BitVec.getElem_extractLsb', BitVec.getLsbD_append]
  · simp [show ¬(32 + i < 32) by omega, ← BitVec.getLsbD_eq_getElem, show ¬16 ≤ i by omega]
  · simp [show ¬(48 + i < 32) by omega, show ¬(48 + i - 32 < 16) by omega, show 48 + i - 32 - 16 = i by omega, hi, ← BitVec.getLsbD_eq_getElem]

/-- A collective that has read both chunks of its contribution. -/
def ring (members op fuse : Nat) : Coll :=
  { coll2 (ringHdr members op fuse) [] with contrib := [(List.replicate 32 0, false), (List.replicate 32 0, false)] }

/-- Zeros are a chunk's payload, and the header flit of it is not malformed for any member. -/
theorem witness_ChunksArrive :
    (∀ x ∈ [(3, 0, 0), (2, 0, 0), (2, 4, 0), (2, 4, 1)], let c := ring x.1 x.2.1 x.2.2
      (collecting c).fab.colls[0]? = some c ∧ collHolder (collecting c) c = .own ∧ c.fires ≠ [] ∧ c.lost = false ∧ headerBad c.hdr = false ∧
      Mem.wf (collecting c).ctx.basin.reg = true ∧ Mem.wf (collecting c).ctx.basin.spad = true ∧ Mem.wf (collecting c).mem.cistern = true ∧
      chComp c.hdr = 0 ∧ min (chChunk c.hdr) (chElems c.hdr) = 32) ∧
    (∀ p : List Byte, p.length = 4096 → let f := chunkHead 9 1 0 32 false p
      f.extractLsb' 32 16 = BitVec.ofNat 16 1 ∧ (f.extractLsb' 48 32).toNat = 0) ∧
    (let c := ring 3 0 0
     chGather c.hdr = false ∧ c.stepAt 0 = chNmem c.hdr ∧ c.stepAt 1 ≠ 1 ∧ c.stepAt 1 < chNmem c.hdr ∧ (c.chunk 1).passed = false ∧
      chFuse c.hdr = false ∧ ∀ e, ((collecting c).ctx.tile e).st = .empty) ∧
    (let c := ring 2 0 0; c.stepAt 1 = 1 ∧ 1 < c.contrib.length ∧ (c.chunk 1).written = false) ∧
    (let c := ring 2 4 1; 2 / chunkCount c.hdr ≠ c.pos ∧ chFuse c.hdr = true ∧ c.landed = []) ∧
    headerBad (ringHdr 2 0 0) = false ∧ headerBad (ringHdr 2 0 0 ||| (1 <<< 18)) = false := by
  refine ⟨by decide, fun p _ => ⟨(chunkHead_fields _ _ _ _ _).1, ?_⟩, ⟨by decide, by decide, by decide, by decide, by decide, by decide,
    fun e => ?_⟩, by decide, by decide, by decide, by decide⟩
  · show ((chunkHead 9 1 0 32 false p).extractLsb' 48 32).toNat = 0
    rw [(chunkHead_fields _ _ _ _ _).2]
    rfl
  · have h : (collecting (ring 3 0 0)).ctx.eng.tiles = Vector.replicate 64 Tile.start := rfl
    unfold Ctx.tile
    rw [h]
    simp only [Vector.toArray_replicate, Array.getD_eq_getD_getElem?, Array.getElem?_replicate]
    split <;> rfl

/-- A board of two slots in this package with this core's neighbour elsewhere registered for slot 0. -/
def board2 : Board := ⟨77, Config.packageId, 2, [(0, elsewhere, 4)], 0, [], []⟩

theorem witness_BoardsServe : handleTaken base 77 = false ∧ (base.fab.boards.filter fun b => b.home == elsewhere).length < 4096 ∧
    (let s := { base with fab := { base.fab with boards := [board2] } }
     (s.fab.boards.find? fun x => x.handle == 77) = some board2 ∧ 1 < board2.slots ∧ isOwnCore s elsewhere 4 = false ∧
      s.boardOf 77 = some board2 ∧ board2.home = Config.packageId ∧ board2.slotOf elsewhere 4 = some 0 ∧ ∀ q ∈ board2.posts, q.1 ≠ 0) := by
  refine ⟨by decide, by simp [base, placeWords, State.reset, Fabric.reset], rfl, by decide, elsewhere_other _ _, ?_, rfl, ?_, ?_⟩
  · have k : ∀ s : State, s.fab.lost = [] → s.pkgLost Config.packageId = false := fun s h => by simp [State.pkgLost, packageKnown, h]
    unfold State.boardOf
    simp only [board2]
    rw [List.find?_cons_of_pos]
    rw [k _ rfl]
    rfl
  · simp [Board.slotOf, board2]
  · intro q hq; cases hq

/-- A package is not lost to its own fabric. -/
theorem own_found (s : State) (h : s.fab.lost = []) : s.pkgLost Config.packageId = false := by simp [State.pkgLost, packageKnown, h]

/-- A demand block for round 1: RBASE and the record of `record2`. -/
def block1 (rbase : W64) : BitVec 8704 := (0 : BitVec 8512) ++ recordHandle record2 ++ rbase ++ (1 : BitVec 64)

theorem block1_toNat (rbase : W64) : (block1 rbase).toNat = ((recordHandle record2).toNat * 2 ^ 64 + rbase.toNat) * 2 ^ 64 + 1 := by
  have e : (block1 rbase).toNat = (((0 : BitVec 8512).toNat * 2 ^ 64 + (recordHandle record2).toNat) * 2 ^ 64 + rbase.toNat) * 2 ^ 64 +
      (1 : BitVec 64).toNat := by
    unfold block1
    exact (append_toNat _ _).trans (by rw [append_toNat, append_toNat])
  rw [e]
  simp

theorem block1_fields (rbase : W64) : blkRec (block1 rbase) = recordHandle record2 ∧ blkRbase (block1 rbase) = rbase.toNat := by
  have hb := block1_toNat rbase
  have hr := rbase.isLt
  constructor
  · apply BitVec.eq_of_toNat_eq
    have h := (recordHandle record2).isLt
    unfold blkRec
    simp only [BitVec.extractLsb'_toNat, Nat.shiftRight_eq_div_pow]
    omega
  · unfold blkRbase blkBits
    omega

/-- A plain demand block for round 1. -/
def block0 : BitVec 8704 := BitVec.ofNat 8704 (1 + 8 * 2 ^ 512 + 8 * 2 ^ 544)

/-- A group of two members with its rounds, its arbiters given: member 0 elsewhere, member 1 this core. -/
def groupOf2 (p b : BitVec 19) (rounds : List Round) : Group :=
  ⟨5, p, b, 2, [(0, elsewhere, 4), (1, Config.packageId, 0)], rounds, [], 0⟩

/-- A group whose primary is here. -/
def group2 (rounds : List Round) : Group := groupOf2 Config.packageId elsewhere rounds

/-- A round with its rows, calendared or not. -/
def round1 (rows : List Row) (cal : Option (List Phase)) : Round := ⟨1, rows, cal, 0, false, false, false, false, [], []⟩

/-- One phase, in which member 1 sends to member 0 and member 0 to member 1. -/
def calendar1 : List Phase := [⟨0, 8, [(1, 0), (0, 1)]⟩]

/-- `fabric` with a group. -/
def exchanging (g : Group) : State := fabric 20000 { Fabric.reset with groups := [g] }

theorem witness_ExchangeRoundsProceed : handleTaken base 5 = false ∧
    (exchanging (group2 [])).groupOf 5 = some (group2 []) ∧ isOwnCore (exchanging (group2 [])) elsewhere 4 = false ∧
    (group2 []).memberOf elsewhere 4 = some 0 ∧ (exchanging (group2 [])).arbitersLost (group2 []) = false ∧ blkBad block0 = false ∧
    (∀ c ∈ (group2 []).calendared, c.toNat < (blkRound block0).toNat) ∧ ((group2 []).roundOf 1).rowOf 0 = none ∧
    (∃ j, j < 2 ∧ (round1 [⟨0, block0, 3, none⟩] none).rowOf j = none) ∧
    (let r := round1 [⟨1, block0, 2, none⟩] none
     r.rowOf 0 = none ∧ r.cancelled = false ∧
      ∀ j, j < 2 → (({ r with rows := r.rows ++ [⟨0, block0, 3, none⟩] } : Round).rowOf j).isSome = true) ∧
    (∀ r ∈ [round1 [] (some calendar1), { round1 [] (some calendar1) with delivered := true, standby := true }],
      ∀ p b, calendaredRound (exchanging (groupOf2 p b [r])) 5 1 (groupOf2 p b [r])) ∧
    (∀ g, (exchanging g).pkgLost Config.packageId = false) ∧ ((group2 []).roundOf 1).cal = none := by
  have own : ∀ g, (exchanging g).pkgLost Config.packageId = false := fun g => own_found _ rfl
  refine ⟨by decide, rfl, elsewhere_other _ _, ?_, ?_, by decide, ?_, by decide, ⟨1, by decide, by decide⟩, ⟨by decide, rfl, by decide⟩,
    ?_, own, by decide⟩
  · simp [Group.memberOf, group2, groupOf2]
  · unfold State.arbitersLost
    rw [show (group2 []).primary = Config.packageId from rfl, own]
    rfl
  · intro c hc; cases hc
  · intro r hr p b
    refine ⟨rfl, ?_⟩
    simp only [List.mem_cons, List.not_mem_nil, or_false] at hr
    rcases hr with rfl | rfl <;> rfl

/-- A CAL.GO of one entry that member 1 runs: to member 0 from the scratchpad, 8 bytes. -/
def goOp : EngOp :=
  { opOf (.calGo free 1 2 3) 1 4 with sa := 5, sd := 1, idx := leBytes 8 0x2000000000000000 ++ leBytes 8 8 ++ List.replicate 16 0 }

/-- The state in which it has started. -/
def going : State :=
  let s := exchanging (group2 [round1 [] (some calendar1)])
  { s with ctx := { s.ctx with eng := { s.ctx.eng with started := [goOp] } } }

theorem own_member (rounds : List Round) : (group2 rounds).memberOf Config.packageId 0 = some 1 := by
  have h : (elsewhere == Config.packageId) = false := beq_false_of_ne elsewhere_ne
  simp [Group.memberOf, group2, groupOf2, h]

theorem witness_ExchangeDataMoves_start : going.mode = .running ∧ going.ctx.eng.wants = none ∧ going.ctx.eng.started[0]? = some goOp ∧
    goEntries going goOp = some (group2 [round1 [] (some calendar1)], round1 [] (some calendar1), 1, sendsOf calendar1 1) ∧
    (sendsOf calendar1 1)[goOp.pos]? = some ⟨0, 0, 8, 0, false⟩ ∧ endedAt goOp 0 = none ∧ actualOf goOp 0 = 8 ∧
    BitVec.ofNat 64 0 ≤ going.fab.time ∧ firstStuck going goOp 0 0 8 = none := by
  refine ⟨rfl, rfl, rfl, ?_, by decide, by decide, by decide, by decide, by decide⟩
  unfold goEntries
  have h : going.groupOf goOp.sa = some (group2 [round1 [] (some calendar1)]) := rfl
  rw [h]
  have m : (group2 [round1 [] (some calendar1)]).memberOf Config.packageId (going.ctx.ctl.lcore.setWidth 9) = some 1 := own_member _
  simp only [m]
  rfl

/-- A calendared round in which this core has posted a row with RBASE. -/
def receiving (rbase : W64) : Group := group2 [round1 [⟨1, block1 rbase, 2, none⟩] (some calendar1)]

/-- A page at 2 GiB that may not be written. -/
def readOnly : State :=
  let s := exchanging (receiving 0x80000000)
  { s with mem := { s.mem with tlb := [⟨0, 0, 2 ^ 31, 30, 3⟩] } }

theorem readOnly_hit : ∀ i, i < 8 → readOnly.mem.hit 0 (0x80000000 + i) = some ⟨0, 0, 2 ^ 31, 30, 3⟩ ∧
    leafForbids (3 : W64) .write = true := by decide

theorem witness_ExchangeDataMoves : (∀ rbase, let s := exchanging (receiving rbase); let g := receiving rbase
     s.groupOf 5 = some g ∧ g.memberHere 1 = true ∧ isSelf s g 0 = false ∧ (g.roundOf 1).rowOf 1 = some ⟨1, block1 rbase, 2, none⟩ ∧
      (g.roundOf 1).cal = some calendar1 ∧ plainRecord s (blkRec (block1 rbase)) { record2 with bytes := 20000 } launch2 ∧
      hdrDet launch2.hdr = false ∧ Mem.wf s.mem.gmem = true ∧ undisturbed s (some 1)) ∧
    (blkRbase (block1 4096) + 0 * blkStride (block1 4096) + 0) % 2 ^ 64 = 4096 ∧ reaches (exchanging (receiving 4096)) 0 4096 8 4096 ∧
    (blkRbase (block1 0x80000000) + 0 * blkStride (block1 0x80000000) + 0) % 2 ^ 64 = 0x80000000 ∧ forbidden readOnly 0 0x80000000 8 ∧
    readOnly.groupOf 5 = some (receiving 0x80000000) ∧ readOnly.sched.saved = [] ∧ 256 < 20000 := by
  refine ⟨fun rbase => ⟨rfl, ?_, ?_, rfl, rfl, ?_, by decide, (by decide : Mem.wf base.mem.gmem = true), ?_⟩, ?_, reaches_fabric _ _ _ (by decide),
    ?_, ⟨by decide, fun i hi => ⟨_, readOnly_hit i hi⟩⟩, rfl, rfl, by decide⟩
  · simp [Group.memberHere, receiving, group2, groupOf2]
  · have m : (receiving rbase).memberOf Config.packageId ((exchanging (receiving rbase)).ctx.ctl.lcore.setWidth 9) = some 1 := own_member _
    unfold isSelf
    simp only [m]
    rfl
  · rw [(block1_fields rbase).1]
    exact ⟨fabric_record _ _, rfl, rfl, (by decide : (fabric 20000 Fabric.reset).launchOf 1 = some launch2), rfl, rfl⟩
  · exact (by unfold undisturbed; decide : undisturbed (fabric 20000 Fabric.reset) (some 1))
  · rw [(block1_fields 4096).2]; simp
  · rw [(block1_fields 0x80000000).2]; simp

/-- The header of a flit of one byte of VC 2 with sequence number 9, and one of VC 5. -/
def flit1 : BitVec 128 := BitVec.ofNat 128 (2 ^ 31 + 9 * 2 ^ 40 + 2 * 2 ^ 85)
def flit5 : BitVec 128 := BitVec.ofNat 128 (5 * 2 ^ 85)

/-- `base` with link 3 given, and a flow of which flit 9 is the next. -/
def linked (l : Link) : State := { base with fab := { base.fab with links := [(3, l)], inSeq := [(flowOf flit1, 9)] } }

theorem witness_LinksAndTime : ((linked ⟨16, none, []⟩).linkAt 3).active = none ∧ (flit1.extractLsb' 31 9).toNat = [(7 : Byte)].length ∧
    (∀ n, lookupKey (flowOf flit1) (linked ⟨16, none, []⟩).fab.inSeq = some n → n = flit1.extractLsb' 40 16) ∧
    ((linked ⟨16, some (.width, 3), []⟩).linkAt 3).active ≠ none ∧ 5 ≤ (flit5.extractLsb' 85 3).toNat ∧ 48 ≤ 48 ∧ 47 < 48 ∧
    (let s := linked ⟨16, some (.frequency, 0), []⟩; (s.linkAt 3).active = some (.frequency, s.fab.time)) ∧
    (let s := linked ⟨16, some (.width, 3), [(.width, 5)]⟩
     (s.linkAt 3).active = some (.width, 3) ∧ (s.linkAt 3).queue = [(.width, 5)] ++ [] ∧
      (RetrainKind.frequency, s.fab.time) ∉ [(RetrainKind.width, (5 : W64))]) := by
  refine ⟨by decide, by decide, ?_, by decide, by decide, by decide, by decide, by decide, by decide, by decide, by decide⟩
  intro n h
  have e : lookupKey (flowOf flit1) (linked ⟨16, none, []⟩).fab.inSeq = some 9 := by decide
  rw [e] at h
  cases h
  decide

/-- `base` with an instruction at the head of copy engine 1, or under way, in a fabric. -/
def headingIn (o : EngOp) (f : Fabric) : State := { heading o with fab := f }
def underwayIn (o : EngOp) (f : Fabric) : State := { underway o none with fab := f }

theorem headingIn_heads (o : EngOp) (f : Fabric) (h : o.eng = 1 ∧ o.waits = [] ∧ o.held = [] ∧ o.alsoProd = []) :
    enginesIdle (headingIn o f) ∧ heads (headingIn o f) 1 o [] := by
  refine ⟨⟨rfl, rfl, rfl⟩, .inl rfl, rfl, h.1, h.2.1, h.2.2.1, h.2.2.2, fun e he => (nomatch he), fun x hx => ?_⟩
  have e : (headingIn o f).ctx.eng.undone = [o] := rfl
  rw [e, List.mem_singleton] at hx
  rw [hx]

theorem underwayIn_first (o : EngOp) (f : Fabric) (h : o.held = [] ∧ o.alsoProd = []) :
    underWay (underwayIn o f) 0 o ∧ firstToHome (underwayIn o f) o := by
  refine ⟨⟨rfl, rfl, rfl, h.1, h.2, rfl⟩, fun x hx => ?_, rfl⟩
  have e : (underwayIn o f).ctx.eng.undone = [o] := rfl
  rw [e, List.mem_singleton] at hx
  rw [hx]

/-- The board of `board2` at level 3 with this core registered for slot 1, and posts at this level. -/
def board3 (posts : List (Nat × W64)) : Board :=
  { board2 with parts := [(0, elsewhere, 4), (1, Config.packageId, 0)], level := 3, posts := posts, prev := [(1, 8)] }

/-- Instructions on it: sA names it, sB is a value or a slot. -/
def boarded (i : Instr) : EngOp := { asked i (some 2) 77 1 with sd := 3 }

theorem witness_FabricInstructionsAct_boards : (∀ o ∈ [boarded (.pav free 5 1 2), boarded (.brdRd free 5 1 2), boarded (.brdLv free 5 1)],
      ∀ posts ∈ [[], [((0 : Nat), (55 : W64))]], let f := { Fabric.reset with boards := [board3 posts] }
      o.sbId = some 2 ∧ underWay (underwayIn o f) 0 o ∧ firstToHome (underwayIn o f) o ∧
        (underwayIn o f).boardOf o.sa = some (board3 posts) ∧
        (board3 posts).slotOf Config.packageId ((underwayIn o f).ctx.ctl.lcore.setWidth 9) = some 1 ∧
        o.sd.setWidth 32 = (board3 posts).level ∧ ∀ q ∈ (board3 posts).posts, q.1 ≠ 1) ∧
    immOf free < 4 ∧ (let g : EGuard := ⟨0, some ⟨5, false, 0, false, 0, false, 0, false, 0⟩⟩
      4 ≤ immOf g ∧ let o := boarded (.brdRd g 5 1 2)
      enginesIdle (headingIn o Fabric.reset) ∧ heads (headingIn o Fabric.reset) 1 o []) := by
  refine ⟨fun o h posts hp => ?_, by decide, by decide, headingIn_heads _ _ ⟨rfl, rfl, rfl, rfl⟩⟩
  have e : o.held = [] ∧ o.alsoProd = [] ∧ o.sbId = some 2 ∧ o.sa = 77 ∧ o.sd = 3 := by
    simp only [List.mem_cons, List.not_mem_nil, or_false] at h
    rcases h with rfl | rfl | rfl <;> exact ⟨rfl, rfl, rfl, rfl, rfl⟩
  have k := underwayIn_first o { Fabric.reset with boards := [board3 posts] } ⟨e.1, e.2.1⟩
  refine ⟨e.2.2.1, k.1, k.2, ?_, ?_, by rw [e.2.2.2.2]; rfl, ?_⟩
  · unfold State.boardOf
    rw [e.2.2.2.1]
    have := own_found (underwayIn o { Fabric.reset with boards := [board3 posts] }) rfl
    simp only [underwayIn, board3, board2] at this ⊢
    rw [List.find?_cons_of_pos]
    rw [this]
    rfl
  · have h : (elsewhere == Config.packageId) = false := beq_false_of_ne elsewhere_ne
    have z : (underwayIn o { Fabric.reset with boards := [board3 posts] }).ctx.ctl.lcore.setWidth 9 = 0 := rfl
    rw [z]
    simp [Board.slotOf, board3, h]
  · simp only [List.mem_cons, List.not_mem_nil, or_false] at hp
    rcases hp with rfl | rfl
    · intro q hq; cases hq
    · intro q hq
      have : q = (0, 55) := List.mem_singleton.mp hq
      rw [this]
      decide

/-- Levels against that of `board3`, a post made again while slot 0 is awaited, and a core without a slot. -/
theorem witness_BoardInstructionsAct_levels : (let b := board3 [(1, 55)]
     0 < ((4 : BitVec 32) - b.level).toInt ∧ ((2 : BitVec 32) - b.level).toInt = -1 ∧ ((1 : BitVec 32) - b.level).toInt < -1 ∧
      ((3 : BitVec 32) - b.level).toInt = 0 ∧ (∃ q ∈ b.posts, q.1 = 1) ∧ (∃ p ∈ b.parts, ∀ q ∈ b.posts, q.1 ≠ p.1) ∧
      b.slotOf elsewhere 5 = none) ∧
    (underwayIn (boarded (.pav free 5 1 2)) Fabric.reset).boardOf 77 = none := by
  refine ⟨⟨by decide, by decide, by decide, by decide, ⟨(1, 55), by decide, rfl⟩, ⟨(0, elsewhere, 4), List.mem_cons_self, ?_⟩, ?_⟩, rfl⟩
  · intro q hq
    rw [List.mem_singleton.mp hq]
    decide
  · simp [Board.slotOf, board3]

theorem leBytes_holds {w : Nat} (v : BitVec w) (n : Nat) : holdsBytes v 0 (leBytes n v.toNat) := by
  intro i hi
  have hn : i < n := by simpa [leBytes] using hi
  apply BitVec.eq_of_toNat_eq
  simp [leBytes, List.getD, hn, BitVec.extractLsb'_toNat, Nat.shiftRight_eq_div_pow]

/-- A DPOST whose block has been read. -/
def dposted : EngOp := { asked (.dpost free 5 1 2) (some 2) 64 5 with idx := leBytes 1088 block0.toNat, sd := 9 }

/-- A CAL.RD of two entries of round 1. -/
def calRead : EngOp :=
  { asked (.calRd ⟨0, some ⟨2, false, 0, false, 0, false, 0, false, 0⟩⟩ 5 1 2) (some 2) 64 5 with sd := 1 }

theorem witness_FabricInstructionsAct_exchange : (∀ g, ∀ o ∈ [dposted, calRead], let f := { Fabric.reset with groups := [g] }
      o.sbId = some 2 ∧ o.clob = [] ∧ enginesIdle (headingIn o f) ∧ heads (headingIn o f) 1 o [] ∧
        underWay (underwayIn o f) 0 o ∧ firstToHome (underwayIn o f) o) ∧
    base.ctx.basin.poisoned 2 64 1088 = false ∧ base.ctx.eng.tiles = Vector.replicate 64 Tile.start ∧
    (underwayIn dposted Fabric.reset).groupOf 5 = none ∧
    (∀ rounds, (underwayIn dposted { Fabric.reset with groups := [group2 rounds] }).groupOf 5 = some (group2 rounds) ∧
      (group2 rounds).memberOf Config.packageId 0 = some 1 ∧
      (underwayIn dposted { Fabric.reset with groups := [group2 rounds] }).arbitersLost (group2 rounds) = false) ∧
    dposted.idx.length = 1088 ∧ holdsBytes block0 0 dposted.idx ∧ blkBad block0 = false ∧
    (∀ c ∈ (group2 []).calendared, c.toNat < (blkRound block0).toNat) ∧
    (((group2 [round1 [⟨1, block0, 2, none⟩] none]).roundOf (blkRound block0)).rowOf 1).isSome = true ∧
    ((group2 []).roundOf (blkRound block0)).rowOf 1 = none ∧
    (∃ j, j < 2 ∧ (round1 [⟨1, block0, 9, some 0⟩] none).rowOf j = none) ∧ Mem.wf base.ctx.basin.spad = true ∧
    (let r := { round1 [] (some calendar1) with holders := [1] }
     (group2 [r]).roundOf 1 = r ∧ r.cancelled = false ∧ (group2 [r]).passedOver 1 = false ∧ r.cal = some calendar1 ∧ 1 ∈ r.holders ∧
      ({ group2 [r] with calendared := [5, 4] } : Group).passedOver 1 = true) := by
  refine ⟨fun g o h => ?_, by decide, rfl, rfl, fun rounds => ⟨rfl, own_member _, ?_⟩, by simp [dposted, leBytes], ?_, by decide,
    ?_, by decide, by decide, ⟨0, by decide, by decide⟩, rfl, rfl, rfl, rfl, rfl, by decide, by decide⟩
  · simp only [List.mem_cons, List.not_mem_nil, or_false] at h
    rcases h with rfl | rfl <;> exact ⟨rfl, rfl, (headingIn_heads _ _ ⟨rfl, rfl, rfl, rfl⟩).1,
      (headingIn_heads _ _ ⟨rfl, rfl, rfl, rfl⟩).2, underwayIn_first _ _ ⟨rfl, rfl⟩⟩
  · unfold State.arbitersLost
    rw [show (group2 rounds).primary = Config.packageId from rfl, own_found _ rfl]
    rfl
  · exact leBytes_holds block0 1088
  · intro c hc; cases hc

/-- A header of one member without FUSE, and its member: this core. -/
def hdrC : BitVec 512 := BitVec.ofNat 512 (1 + 32 * 2 ^ 48 + 8 * 2 ^ 64 + 4096 * 2 ^ 128 + 2 ^ 192)
def memberC : BitVec 128 := (0 : BitVec 64) ++ Config.packageId ++ (0 : BitVec 45)

/-- Fields of a word whose bits 63:45 are a package and whose other bits are zero. -/
theorem zeros_below (x : BitVec 19) (lo w : Nat) (h : lo + w ≤ 45) : (x ++ (0 : BitVec 45)).extractLsb' lo w = 0 := by
  ext i hi
  simp only [BitVec.getElem_extractLsb', BitVec.getLsbD_append, show lo + i < 45 by omega, if_true]
  simp

theorem package_above (x : BitVec 19) : (x ++ (0 : BitVec 45)).extractLsb' 45 19 = x := by
  ext i hi
  simp only [BitVec.getElem_extractLsb', BitVec.getLsbD_append]
  simp [show i < 19 by omega]

/-- The same with 64 zero bits above. -/
theorem zeros_around (x : BitVec 19) (lo w : Nat) (h : lo + w ≤ 45 ∨ lo = 64) :
    ((0 : BitVec 64) ++ x ++ (0 : BitVec 45)).extractLsb' lo w = 0 := by
  ext i hi
  rw [BitVec.getElem_extractLsb', BitVec.getLsbD_append, BitVec.getLsbD_append]
  rcases h with h | rfl
  · rw [if_pos (by omega)]
    simp
  · rw [if_neg (by omega), if_neg (by omega)]
    simp

theorem package_within (x : BitVec 19) : ((0 : BitVec 64) ++ x ++ (0 : BitVec 45)).extractLsb' 45 19 = x := by
  ext i hi
  simp only [BitVec.getElem_extractLsb', BitVec.getLsbD_append]
  simp [show i < 19 by omega]

theorem memberC_fields : memPkg memberC = Config.packageId ∧ memLcore memberC = 0 ∧ memBad memberC = false := by
  refine ⟨package_within _, zeros_around _ 32 9 (by decide), ?_⟩
  unfold memBad memLcore
  rw [show memberC.extractLsb' 64 64 = 0 from zeros_around _ _ _ (.inr rfl), show memberC.extractLsb' 41 4 = 0 from zeros_around _ _ _ (by decide),
    show memberC.extractLsb' 6 26 = 0 from zeros_around _ _ _ (by decide), show memberC.extractLsb' 32 9 = 0 from zeros_around _ _ _ (by decide)]
  rfl
/-- Bytes in a memory from an address on. -/
def cells (a : Nat) : List Byte → Mem
  | [] => []
  | b :: bs => (a, b) :: cells (a + 1) bs

theorem cells_read (bs : List Byte) (a : Nat) : Mem.read (cells a bs) a bs.length = bs.map some := by
  have p : ∀ (bs : List Byte) (a : Nat), Mem.pick bs.length a (cells a bs) = bs.map some := by
    intro bs
    induction bs with
    | nil => exact fun _ => rfl
    | cons b bs ih => intro a; simp [cells, Mem.pick, ih]
  cases bs with
  | nil => rfl
  | cons b bs => simpa [cells, Mem.read] using p (b :: bs) a

theorem zipIdx_getD (bs : List Byte) (f : Nat → Byte) (k : Nat) :
    ((bs.map some).zipIdx k).map (fun p => p.1.getD (f p.2)) = bs := by
  induction bs generalizing k with
  | nil => rfl
  | cons b bs ih => simp [List.zipIdx_cons, ih]

/-- A COL.SET with the image at 64, and the head of copy engine 1 over it. -/
def colSetting (h : W64) : EngOp := asked (.colSet free 5 1 2) (some 2) 64 h
def imaged (o : EngOp) (f : Fabric) : State :=
  let s := headingIn o f
  { s with ctx := { s.ctx with basin := { s.ctx.basin with spad := cells 64 (leBytes 64 hdrC.toNat ++ leBytes 16 memberC.toNat) } } }

theorem imaged_bytes (o : EngOp) (f : Fabric) :
    (imaged o f).ctx.spadBytes 64 80 = leBytes 64 hdrC.toNat ++ leBytes 16 memberC.toNat := by
  have l : (leBytes 64 hdrC.toNat ++ leBytes 16 memberC.toNat).length = 80 := by simp [leBytes]
  have r := cells_read (leBytes 64 hdrC.toNat ++ leBytes 16 memberC.toNat) 64
  rw [l] at r
  unfold Ctx.spadBytes Basin.bytes
  rw [show (imaged o f).ctx.basin.spad = cells 64 (leBytes 64 hdrC.toNat ++ leBytes 16 memberC.toNat) from rfl, r]
  exact zipIdx_getD _ (fun i => Config.unwritten
    (8 * (imaged o f).ctx.basin.epochAt ((imaged o f).ctx.spadBlock + (64 + i) / 4096) + 2) (64 + i)) 0

theorem collHandle_toNat (slot gen : Nat) (hg : gen < 2 ^ 34) (hs : slot < 2 ^ 10) :
    (collHandle slot gen).toNat = ((2 ^ 19 + Config.packageId.toNat) * 2 ^ 34 + gen) * 2 ^ 10 + slot := by
  have e : (collHandle slot gen).toNat = (((1 : BitVec 1) ++ Config.packageId).toNat * 2 ^ 34 + (BitVec.ofNat 34 gen).toNat) * 2 ^ 10 +
      (BitVec.ofNat 10 slot).toNat := by
    unfold collHandle
    exact (append_toNat _ _).trans (by rw [append_toNat])
  rw [e, append_toNat, BitVec.toNat_ofNat, BitVec.toNat_ofNat, Nat.mod_eq_of_lt hg, Nat.mod_eq_of_lt hs]
  simp

theorem collHandle_named (c : Coll) (hg : c.gen < 2 ^ 34) (hs : c.slot < 2 ^ 10) : c.named (collHandle c.slot c.gen) = true := by
  have e := collHandle_toNat c.slot c.gen hg hs
  have hp := Config.packageId.isLt
  have a : (collHandle c.slot c.gen).getLsbD 63 = true := by
    rw [BitVec.getLsbD_eq_getElem (by decide), BitVec.getElem_eq_testBit_toNat, Nat.testBit_eq_decide_div_mod_eq, e]
    simp only [decide_eq_true_eq]
    omega
  have b : (collHandle c.slot c.gen).extractLsb' 44 19 = Config.packageId := by
    apply BitVec.eq_of_toNat_eq
    rw [BitVec.extractLsb'_toNat, Nat.shiftRight_eq_div_pow, e]
    omega
  have h1 : (collHandle c.slot c.gen).toNat / 2 ^ 10 % 2 ^ 34 = c.gen := by omega
  have h2 : (collHandle c.slot c.gen).toNat % 2 ^ 10 = c.slot := by omega
  unfold Coll.named
  rw [a, b, h1, h2]
  simp

/-- A collective whose firings are over. -/
def collDone : Coll := { coll2 (collHdr 0) [] with fires := [] }

/-- An XS.OPEN that closes stream 9. -/
def closing9 : EngOp := asked (.xsOpen free 5 1 2) (some 2) 9 0
def stream9 : DieStream := ⟨9, 3, false, 0, 64, 64, 1, 0, [0], 0⟩

theorem witness_FabricInstructionsAct_collectives : (∀ h, ∀ f, let o := colSetting h
      enginesIdle (imaged o f) ∧ heads (imaged o f) 1 o [] ∧ o.sbId = some 2 ∧ o.clob = [] ∧
        (imaged o f).ctx.eng.tiles = Vector.replicate 64 Tile.start) ∧
    (∀ o f, let bytes := (imaged o f).ctx.spadBytes 64 80
      holdsBytes hdrC 0 (bytes.take 64) ∧ (∀ i, i < 1 → holdsBytes ([memberC].getD i 0) 0 ((bytes.drop (64 + 16 * i)).take 16))) ∧
    chNmem hdrC = 1 ∧ base.ctx.basin.poisoned 2 64 80 = false ∧ 64 + 64 + 16 * 1 ≤ base.ctx.spSize ∧ headerBad hdrC = false ∧
    (∀ m ∈ [memberC], memBad m = false) ∧ membersClash [memberC] = false ∧ chComp hdrC = 0 ∧ chFuse hdrC = false ∧
    (∃ m ∈ [memberC], memPkg m = Config.packageId ∧ memLcore m = base.ctx.ctl.lcore.setWidth 9) ∧
    ((imaged (colSetting 0) { Fabric.reset with colls := [collDone] }).collOf (collHandle 2 0) = some collDone ∧ collDone.fires = []) ∧
    (let s := imaged (colSetting 1) { Fabric.reset with colls := [collDone] }
     s.collOf 1 = none ∧ s.foreignColl 1 = false) ∧
    (let s : State := { headingIn closing9 Fabric.reset with
        ctx := { (headingIn closing9 Fabric.reset).ctx with eng := { (headingIn closing9 Fabric.reset).ctx.eng with streams := [stream9] } } }
     enginesIdle s ∧ closing9.sb.toNat / 2 ^ 16 % 256 = 0 ∧
      (s.ctx.eng.streams.find? fun w => w.tag == closing9.sa.toNat % 256) = some stream9 ∧ streamInUse s closing9 9 = false) := by
  refine ⟨fun h f => ⟨⟨rfl, rfl, rfl⟩, (headingIn_heads _ f ⟨rfl, rfl, rfl, rfl⟩).2, rfl, rfl, rfl⟩, fun o f => ?_, by decide, by decide, by decide,
    by decide, ?_, rfl, by decide, by decide, ⟨memberC, List.mem_cons_self, memberC_fields.1, memberC_fields.2.1⟩, ⟨?_, rfl⟩,
    ⟨by decide, ?_⟩, ⟨rfl, rfl, rfl⟩, by decide, by decide, by decide⟩
  · intro bytes
    have e : bytes = leBytes 64 hdrC.toNat ++ leBytes 16 memberC.toNat := imaged_bytes o f
    constructor
    · rw [e, List.take_left' (by simp [leBytes])]
      exact leBytes_holds _ _
    · intro i hi
      obtain rfl : i = 0 := by omega
      rw [e, List.drop_left' (by simp [leBytes]), List.take_of_length_le (by simp [leBytes])]
      exact leBytes_holds _ _
  · intro m hm
    rw [List.mem_singleton.mp hm]
    exact memberC_fields.2.2
  · have n : collDone.named (collHandle 2 0) = true := collHandle_named collDone (by decide) (by decide)
    unfold State.collOf
    exact List.find?_cons_of_pos n
  · unfold State.foreignColl
    rfl

/-- A TRIG at the head of copy engine 1. -/
theorem witness_FabricInstructionsAct_triggers : ∀ a, let o := asked (.trig free 1) none a 0
    enginesIdle (headingIn o Fabric.reset) ∧ heads (headingIn o Fabric.reset) 1 o [] ∧ o.sbId = none :=
  fun _ => ⟨(headingIn_heads _ _ ⟨rfl, rfl, rfl, rfl⟩).1, (headingIn_heads _ _ ⟨rfl, rfl, rfl, rfl⟩).2, rfl⟩

/-- An ACC.PEER to a package elsewhere, queued or under way. -/
def peering (idx : List Byte) (answered : Bool) (outcome : Nat) : EngOp :=
  { cascaded (.accPeer free 0 1 2) none (elsewhere ++ (0 : BitVec 45)) 77 with
    idx := idx, answered := answered, pos := outcome }

/-- `base` with it at the head of the cascade's queue and its accumulator live. -/
def peerQueued : State :=
  let s := underway (peering [] false 0) (some 0)
  { s with ctx := { s.ctx with eng := { s.ctx.eng with started := [], qm := [peering [] false 0] } } }

theorem witness_FabricInstructionsAct_drains : (enginesIdle peerQueued ∧ peerQueued.ctx.eng.queue 0 = peering [] false 0 :: [] ∧
      scatterDone peerQueued (peering [] false 0) ∧ peerQueued.sched.saved = [] ∧
      (∀ z ∈ peerQueued.ctx.eng.undone, (peering [] false 0).id ≤ z.id) ∧ peerQueued.ctx.casc.live = some (peering [] false 0).daddr) ∧
    (∀ idx b k, let o := peering idx b k
      o.eng = 0 ∧ o.sbId = none ∧ o.waits = [] ∧ underWay (underway o none) 0 o ∧ (∀ z ∈ (underway o none).ctx.eng.started, o.id ≤ z.id) ∧
        (o.sa.extractLsb' 32 9).toNat ≤ 351 ∧ (o.sa.extractLsb' 45 19 : BitVec 19) ≠ Config.packageId ∧ o.idx = idx ∧
        o.answered = b ∧ o.pos = k) ∧
    ∃ bs : List Byte, bs.length = 16384 ∧ holdsBytes (0 : BitVec 131072) 0 bs := by
  refine ⟨⟨⟨rfl, rfl, rfl⟩, rfl, fun e he => (nomatch he), rfl, fun z hz => ?_, rfl⟩, fun idx b k => ⟨rfl, rfl, rfl, underway_underWay _ _ ⟨rfl, rfl⟩, fun z hz => ?_, ?_, ?_,
    rfl, rfl, rfl⟩, leBytes 16384 (0 : BitVec 131072).toNat, by rw [leBytes, List.length_map, List.length_range], leBytes_holds _ _⟩
  · have e : peerQueued.ctx.eng.undone = [peering [] false 0] := rfl
    rw [e] at hz
    rw [List.mem_singleton.mp hz]
  · rw [List.mem_singleton.mp hz]
  · rw [show (peering idx b k).sa = elsewhere ++ (0 : BitVec 45) from rfl, zeros_below _ _ _ (by decide)]
    decide
  · rw [show (peering idx b k).sa = elsewhere ++ (0 : BitVec 45) from rfl, package_above]
    exact elsewhere_ne

/-- COPY.RED ADD of one element of `n` bytes of the scratchpad into the cistern, and GATH of one byte with index 3. -/
def template (n : Nat) : BitVec 1024 := BitVec.ofNat 1024 (n + 2 ^ 16 + 2 ^ 256 + 2 * 2 ^ 288)
def reducing (n : Nat) (i : BitVec 12) : EngOp :=
  { asked (.copyRed ⟨0, some ⟨i, false, 0, false, 0, false, 0, false, 0⟩⟩ 0 1 2) none 0x2000000000000008 0x6000000000000040 with
    tmpl := template n, begun := true }
def gathering : EngOp :=
  { asked (.gath free 0 1 2) none 0x2000000000000008 0x2000000000000040 with tmpl := template 1, begun := true, idx := [3, 0, 0, 0] }

/-- An instruction under way over 8 bytes of the cistern. -/
def overCistern (o : EngOp) : State :=
  let s := underway o none
  { s with mem := { s.mem with cistern := (List.range 8).map fun i => (64 + i, 0xFF) } }

theorem witness_FabricInstructionsAct_reductions : (∀ o ∈ [reducing 4 0, reducing 8 12, gathering], underWay (overCistern o) 0 o ∧ o.eng ≠ 0 ∧
      o.sbId = none ∧ o.clob = [] ∧ tmBad o.tmpl = false ∧ tmNdim o.tmpl = 1 ∧ tmCount o.tmpl 0 = 1 ∧ tmSoff o.tmpl = 0 ∧
      tmDoff o.tmpl = 0 ∧ tmRec o.tmpl = 0 ∧ caSpace o.sa = 1) ∧
    (∀ x ∈ [(reducing 4 0, 4), (reducing 8 12, 8)], caSpace x.1.sb = 3 ∧ tmEsize x.1.tmpl = x.2 ∧
      (overCistern x.1).ctx.basin.poisoned 2 (caAddr x.1.sa).toNat x.2 = false ∧ (overCistern x.1).mem.poison = [] ∧
      (overCistern x.1).mem.appliedReds = [] ∧ Mem.wf (overCistern x.1).mem.cistern = true ∧
      ∀ i, i < x.2 → Mem.get (overCistern x.1).mem.cistern ((caAddr x.1.sb).toNat + i) = some ((List.replicate x.2 (0xFF : Byte)).getD i 0)) ∧
    caSpace gathering.sb = 1 ∧ tmEsize gathering.tmpl = 1 ∧
    (let lane : BitVec 32 := BitVec.ofNat 32 (ofLe (gathering.idx.take 4))
     let a := (caAddr gathering.sa + lane.signExtend 64 * tmSstride gathering.tmpl 0).toNat
     a = 14 ∧ a ≠ (caAddr gathering.sb).toNat ∧ (overCistern gathering).ctx.basin.poisoned 2 a 1 = false) := by
  refine ⟨fun o h => ?_, by decide, by decide, by decide, by decide⟩
  have e : o.held = [] ∧ o.alsoProd = [] := by
    simp only [List.mem_cons, List.not_mem_nil, or_false] at h
    rcases h with rfl | rfl | rfl <;> exact ⟨rfl, rfl⟩
  refine ⟨⟨rfl, rfl, rfl, e.1, e.2, rfl⟩, ?_⟩
  simp only [List.mem_cons, List.not_mem_nil, or_false] at h
  rcases h with rfl | rfl | rfl <;> decide

/-- An image that the boot ROM accepts, and one whose version is too low. -/
def image (version : Nat) : BootImage := ⟨0, true, Config.fusedKeyDigest, version⟩

/-- `base` in a module that is up, or in recovery, with a fused version 4. -/
def managed (boot : BootPhase) : State := { base with mgmt := { base.mgmt with boot := boot, version := 4, sealed := [(4, 2)], parts := 4 } }

/-- `managed .up` with a power reading of `w` watts. -/
def metered (w : Nat) : State := { managed .up with mgmt := { (managed .up).mgmt with power := w } }

theorem witness_BootVersionAndClamp : imageGood (managed .up) (image 4) ∧ ¬imageGood (managed .up) (image 3) ∧
    (managed .recovery).mgmt.boot = .recovery ∧ (managed .up).mgmt.boot = .up ∧ Mem.wf (managed .up).mem.gmem = true ∧
    aboveClamp (metered 4301).mgmt.power (metered 4301).mgmt.temps ∧ ¬aboveClamp (metered 4300).mgmt.power (metered 4300).mgmt.temps ∧
    belowClamp (metered 4299).mgmt.power (metered 4299).mgmt.temps ∧ ¬belowClamp (metered 4300).mgmt.power (metered 4300).mgmt.temps := by
  refine ⟨⟨rfl, rfl, by decide⟩, fun h => absurd h.2.2 (by decide), rfl, rfl, rfl, .inl (by decide), ?_, ⟨by decide, ?_⟩, ?_⟩
  · rintro (h | ⟨d, t, h, -⟩)
    · exact absurd h (by decide)
    · cases h
  · intro d t h
    cases h
  · intro h
    exact absurd h.1 (by decide)

theorem witness_TrustIsKept : (managed .up).mgmt.boot = .up ∧ ((managed .up).mgmt.parts, (2 : BitVec 3)) ∈ (managed .up).mgmt.sealed ∧
    partitionBusy (managed .up) 2 = false ∧ (managed .up).mem.heldReset = 0 ∧ undisturbed (managed .up) none ∧
    (let s := scheduled .running Ctx.start [task2 0 .running true] []
     let s := { s with mgmt := { s.mgmt with sealed := [(s.mgmt.parts, 0)] } }
     partitionBusy s 0 = true ∧ (s.mgmt.parts, (0 : BitVec 3)) ∈ s.mgmt.sealed ∧ (0 : Nat) < s.mgmt.parts ∧ s.mgmt.parts ∈ [1, 2, 4, 8]) ∧ Mem.wf (managed .up).mem.gmem = true ∧ (3 : BitVec 3).toNat < (managed .up).mgmt.parts ∧
    (managed .up).mgmt.parts ≤ (4 : BitVec 3).toNat ∧
    (let s := { managed .up with mgmt := { (managed .up).mgmt with ceilings := [((some 3, 3, 1), 9)] } }
     lookupKey (some 3, 3, 1) s.mgmt.ceilings = some 9) := by
  refine ⟨rfl, by decide, by decide, rfl, by unfold undisturbed; decide, by decide, rfl, by decide, by decide, by decide⟩

theorem witness_SnapshotsLatch : base.mgmt.snapshot = none ∧
    ({ base with mgmt := { base.mgmt with snapshot := some ⟨1, 2, []⟩ } } : State).mgmt.snapshot = some ⟨1, 2, []⟩ := ⟨rfl, rfl⟩

/-- A saved context that no longer fits a mode, until the mode changes back. -/
def evicted2 : State := scheduled .idle Ctx.start [task2 0 .evicted true] [⟨ctx2, .evicted, false, false⟩]

theorem witness_PartitionsAndBinding : (running2 .running).mgmt.boot = .up ∧ keepsTask (running2 .running) 0 = false ∧
    noneDue (running2 .running) ∧ cascadeSettled (running2 .running) ∧ noneDue queued2 ∧
    keepsTask (running2 .running) (running2 .running).sched.bind = true ∧ 3 ∉ [1, 2, 4, 8] ∧ 8 ∈ [1, 2, 4, 8] ∧ queued2.mode = .idle ∧
    evicted2.sched.saved = [⟨ctx2, .evicted, false, false⟩] ∧ fitsMode evicted2.mgmt.parts ctx2.hdr = true ∧
    taskPlace evicted2.sched.tasks 1 0 0 = some 0 := by
  refine ⟨rfl, by decide, rfl, fun o h => (by cases h), rfl, by decide, by decide, by decide, rfl, rfl, by decide, by decide⟩

/-! ### Hypotheses of the statements of decoding, the step and the invariants -/

theorem witness_DecodeOfEncode : (Instr.add always 1 2 3).wf = true ∧ (Instr.add always 1 2 3).fitsBundle 1 = true ∧
    (Instr.addi always 1 2 (.lit 7)).wf = true ∧ (Instr.addi always 1 2 (.lit 7)).fitsBundle 2 = true := by decide

theorem witness_EncodeOfDecode : decodeSlot 0x15005140 1000 = some (.addi always 5 5 (.lit 1000)) := by decide

theorem witness_StepRunsDecodedInstruction : base.agenda = [] ∧ base.mode = .running ∧ base.trapDue = false ∧
    (Instr.add always 0 0 0).wf = true ∧ (Instr.add always 0 0 0).fitsBundle 1 = true ∧ base.ctx.regs.pc.toNat + 1 ≤ base.ctx.codeLen ∧
    encode true (.add always 0 0 0) = [0x80400000] ∧ codeStands base [0x80400000] ∧ stallsAlone (base.keepWords [0x80400000]) (.add always 0 0 0) = false := by
  refine ⟨rfl, rfl, by decide, by decide, by decide, by decide, by decide, ?_, by decide⟩
  intro j w h
  match j, h with
  | 0, h =>
    cases h
    refine ⟨⟨0, 15, by decide, by decide, by decide, by decide⟩, by decide⟩

/-- A bundle of two slots at the pc: ADD and VADD. -/
def twoSlots : State := placeWords State.reset [0x00400000, 0xA0443105]

theorem witness_StepRunsDecodedInstruction_slots : fetchBundle twoSlots =
      .bundle [0x00400000, 0xA0443105] [(0, .add always 0 0 0), (1, .vadd ⟨false, 1⟩ 3 4 5)] ∧
    onlySlot [(0, Instr.add always 0 0 0), (1, .vadd ⟨false, 1⟩ 3 4 5)] = none ∧ isEvent .preEmption = true ∧
    isEvent (.add always 0 0 0) = false := by decide

theorem witness_StepsKeepMemoryCanonical : memoryCanonical base ∧ (match step base with | .next _ => true | _ => false) = true := by
  unfold memoryCanonical
  decide

theorem witness_StepsKeepManagementLegal : managementLegal base ∧
    (let s := { base with mgmt := { base.mgmt with boot := .up, locked := true } }
     managementLegal s ∧ s.mgmt.locked = true ∧ (match step s with | .next _ => true | _ => false) = true) := by
  unfold managementLegal
  decide

/-! ### Ill-formed instructions, one for each check of WellFormed -/

/-- A token word with an enable clear and its number set (R53). -/
def badTok : EGuard := ⟨0, some ⟨0, false, 3, false, 0, false, 0, false, 0⟩⟩

/-- An engine guard with a token word of this IMM12. -/
def withImm (n : BitVec 12) : EGuard := ⟨0, some ⟨n, false, 0, false, 0, false, 0, false, 0⟩⟩

theorem smoke_scalar_and_vector : ∀ i ∈ [Instr.sext always 1 2 3, .plog always 6 1 2 3, .mfc always 1 0x13, .mtc always 0x26 1,
    .vfma ⟨false, 0⟩ 60 1 2, .vbcast ⟨false, 0⟩ 1 (.reg 2) 0, .vcvt ⟨false, 0⟩ 1 2 false false 6, .vqmx 0 1 2 false 8, .vqc4 0 1 2 7,
    .vdq ⟨false, 0⟩ 1 2 4, .vtag 60 1, .vtag 1 15, .vld ⟨true, 0⟩ 1 2 7 none, .vld ⟨false, 0⟩ 60 2 1 none, .vst 0 1 2 15 none,
    .vldx ⟨false, 0⟩ 1 2 60, .vstx 0 60 2 1, .klog 7 1 2 3], i.wf = false := by decide

theorem smoke_engines : ∀ i ∈ [Instr.angSwap badTok, .angLd (withImm 1) 2, .patLd free 6 1, .rotp free 16 0 1, .tri free 16 1 2,
    .mprod free 0 16 1, .mprodb free 0 8 1, .driftRd free 59, .arrQ free 1 5, .copy (withImm 1) 0 1 2, .copyRed (withImm 3) 0 1 2,
    .gath (withImm 60) 0 1 2, .atomAdd (withImm 4) 1 2 3, .atomAnd (withImm 5) 1 2 3, .pav (withImm 4) 1 2 3,
    .brdRd (withImm 4) 1 2 3, .ttQ (withImm 16) 1 2, .preEmption], i.wf = false := by decide

/-! ### Words written out from the spec's encodings -/

/-- Words of the spec's own examples, chapters 3 to 6. -/
theorem test_decode_scalar : decodeSlot 0x81405187 0 = some (.div always 5 6 7) ∧ decodeSlot 0x89800000 0 = some (.rte always) ∧
    decodeSlot 0x9C004262 0x40 = some (.gld always 4 9 2 2 (some 0x40)) ∧ decodeSlot 0x8E418240 0 = some (.mtc always 0x18 9) ∧
    decodeSlot 0x88C011C7 0 = some (.loop always 1 7 (.short 7)) := by decide

theorem test_decode_vector : decodeSlot 0xA9C28781 0 = some (.vdq ⟨false, 0⟩ 40 30 1) ∧ decodeSlot 0xAD001000 0 = some (.vldm 1 0 none) ∧
    decodeSlot 0xAE404040 0 = some (.kpop 4 1) ∧ decodeSlot 0xAEC02040 0 = some (.kmov 2 1) ∧
    decodeSlot 0xA8432C87 0 = some (.vrot ⟨false, 0⟩ 50 50 7) ∧ decodeSlot 0xA8006109 0 = some (.vperm ⟨false, 0⟩ 6 4 9) ∧
    decodeSlot 0xA8806105 0 = some (.vintl ⟨false, 0⟩ 6 4 5) := by decide

theorem test_decode_engines : decodeSlot 0xC2C00280 0 = some (.swpSv free 10) ∧ decodeSlot 0xE74000F0 0 = some (.tokCl free 0xF0) := by
  decide

/-- R56, R57: operation 0x00 of a class, and a zero field that is not zero, are no instruction. -/
theorem test_decode_refuses : decodeSlot 0x80000000 0 = none ∧ decodeSlot 0x89800001 0 = none ∧ decodeSlot 0xAE404041 0 = none := by
  decide

/-! ### Steps with results worked out from the spec -/

/-- `base` with s2 and s3. -/
def two (x y : W64) : State := { base with ctx := { base.ctx with regs := (base.ctx.regs.setS 2 x).setS 3 y } }

/-- s1 after an instruction. -/
def s1 (i : Instr) (s : State) : W64 := (after (exec i s) s).ctx.regs.getS 1

/-- The scoreboarded values and the results in flight after an instruction. -/
def sbOf (i : Instr) (s : State) : List SbSrc := (after (exec i s) s).ctx.pipe.sb.map SbEntry.src
/-- Results in flight. -/
def pendOf (i : Instr) (s : State) : List PDest := (after (exec i s) s).ctx.pipe.pend.map Pending.dst

/-- TCAUSE after an instruction. -/
def causeOf (i : Instr) (s : State) : W64 := (after (exec i s) s).ctx.tr.tcause

theorem test_add_wraps : s1 (.add always 1 2 3) (two (BitVec.allOnes 64) 1) = 0 := by decide
theorem test_sub_borrows : s1 (.sub always 1 2 3) (two 0 1) = BitVec.allOnes 64 := by decide
theorem test_mulh_spec : pendOf (.mulh always 4 2 2) (two (2 ^ 63) 0) = [.sreg 4 0x4000000000000000] := by decide
theorem test_mul_spec : pendOf (.mul always 5 2 2) (two (2 ^ 63) 0) = [.sreg 5 0] := by decide
theorem test_clz_spec : s1 (.clz always 1 2) (two 1 0) = 63 ∧ s1 (.clz always 1 2) (two 0 0) = 64 := by decide
theorem test_sext_h_spec : s1 (.sext always 1 2 1) (two 0x8001 0) = 0xFFFFFFFFFFFF8001 := by decide
theorem test_sar_copies_sign : s1 (.sar always 1 2 3) (two (2 ^ 63) 127) = BitVec.allOnes 64 := by decide
theorem test_shl_ignores_high_bits : s1 (.shl always 1 2 3) (two 1 65) = 2 := by decide
theorem test_min_is_signed : s1 (.min always 1 2 3) (two (BitVec.allOnes 64) 1) = BitVec.allOnes 64 := by decide
theorem test_div_spec : sbOf (.div always 1 2 3) (two (-7) 2) = [.value (-3) 0] := by decide
theorem test_rem_spec : sbOf (.rem always 1 2 3) (two (-7) 2) = [.value (-1) 0] ∧ sbOf (.rem always 1 2 3) (two (-2 ^ 63) (-1)) = [.value 0 0] := by
  decide
theorem test_div_zero_traps : causeOf (.divu always 1 2 3) { two 1 0 with ctx := { (two 1 0).ctx with tr := { (two 1 0).ctx.tr with tvec := 4 } } } = 6 := by
  decide
theorem test_lih_keeps_low : s1 (.lih always 1 0xABCD) { base with ctx := { base.ctx with regs := base.ctx.regs.setS 1 0x123456789 } } = 0xABCD23456789 := by
  decide
theorem test_s0_stays_zero : (after (exec (.li always 0 (.short 5)) base) base).ctx.regs.getS 0 = 0 := by decide
theorem test_kset_negative : ((after (exec (.kset 1 2) (two (-1) 0)) base).ctx.regs.getK 1) = BitVec.allOnes 512 := by decide
theorem test_call_links : (after (exec (.call always (.short 10)) base) base).ctx.regs.getS 63 = 1 ∧
    (after (exec (.call always (.short 10)) base) base).ctx.regs.pc = 10 := by decide
theorem test_jr_reads_before_writing : (after (exec (.jr always 2 2) (two 9 0)) base).ctx.regs.pc = 9 ∧
    (after (exec (.jr always 2 2) (two 9 0)) base).ctx.regs.getS 2 = 1 := by decide
theorem test_loop_goes_back : (after (exec (.add always 1 2 3) (looping 2)) base).ctx.regs.pc = 0 ∧
    (after (exec (.add always 1 2 3) (looping 2)) base).ctx.tr.lcnt0 = 1 := by decide
theorem test_trap_saves : (after (exec (.trap always 0x123) handled) base).ctx.regs.pc = 8 ∧
    (after (exec (.trap always 0x123) handled) base).ctx.tr.tval = 0x123 ∧
    (after (exec (.trap always 0x123) handled) base).ctx.tr.tnpc = 1 ∧
    (after (exec (.trap always 0x123) handled) base).ctx.tr.tstat = 1 := by decide
theorem test_rte_resumes : (after (exec (.rte always) { inHandler with ctx := { inHandler.ctx with tr := { inHandler.ctx.tr with tpc := 5 } } }) base).ctx.regs.pc = 5 := by
  decide
theorem test_sts_is_little_endian : pendOf (.stsH always 2 0 (.short 3)) (two 0xABCD 0) = [.spad 6 [some 0xCD, some 0xAB]] := by decide
theorem test_lds_align : causeOf (.ldsD always 1 2 (.short 0)) { two 4 0 with ctx := { (two 4 0).ctx with tr := handled.ctx.tr } } = 7 := by decide
theorem test_twait_stalls : (after (exec (.twait always 3) pending3) base).ctx.regs.pc = pending3.ctx.regs.pc := by decide
theorem test_token_pends : ((pending3.ctx.token 3).done, (pending3.ctx.token 3).inst) = (false, 1) := by decide
theorem test_tokcl_status : (after (exec (.tokCl free 8) pending3) base).ctx.token 3 = ⟨2, true, 0⟩ := by decide

/-! ### Numbers -/

/-- The example of R134: 13, 5 and −0.7 in an mxfp4 block. -/
theorem test_vqmx_spec :
    let b := mxQuant e2m1F 2 (fun _ => .rne) ([0x41500000, 0x40A00000, 0xBF333333].map (Fmt.fval .fp32) ++ List.replicate 29 (.fin false 0 0))
    b.scale = 0x80 ∧ b.elems.take 4 = [7, 4, 9, 0] ∧ b.flags.getLsbD 4 = true := by decide
theorem test_fp32_add : elemAdd .fp32 .rne 0x3F800000 0x40000000 = (0x40400000, 0) := by decide
theorem test_fp32_overflow : (elemMul .fp32 .rne 0x7F000000 0x7F000000).1 = 0x7F800000 ∧ (elemMul .fp32 .rtz 0x7F000000 0x7F000000).1 = 0x7F7FFFFF := by
  decide
theorem test_e4m3_saturates : (Fmt.rnd .e4m3 .rne (Fmt.fval .fp32 0x44000000)).1 = 0x7E := by decide
theorem test_int8_saturating_add : (elemAdds .int8 0x7F 1).1 = 0x7F := by decide
theorem test_crc32c : crc32c (("123456789".toList).map fun c => BitVec.ofNat 8 c.toNat) = 0xE3069283 := by decide

/-- The example of R343: fields 2:3, 3:5, 4:16, PLACE 1, GRID 12. -/
def hdr343 : BitVec 2048 := BitVec.ofNat 2048
  (12 * 2 ^ 32 + 1 * 2 ^ 53 + 3 * 2 ^ 56 + 2 * 2 ^ 576 + 3 * 2 ^ 583 + 4 * 2 ^ 590 + 2 * 2 ^ 640 + 4 * 2 ^ 704 + 15 * 2 ^ 768)

theorem test_placement_spec : coreOfWid hdr343 0x149 = 2 ∧ coreOfWid hdr343 0x020 = 2 ∧ coreOfWid hdr343 0x080 = 5 := by decide

/-! ### The step -/

theorem test_step_runs_first_word : (after (step base) base).ctx.regs.pc = 1 := by decide
theorem test_fetch_word : (after (step (State.reset.withFetchWord 32 0x86812345)) base).ctx.regs.getS 0x12 = 0x345 := by decide
/-- LI s1, 5 and KMOV k2, k0 in one bundle. -/
theorem test_two_slots_issue : let t := after (step (placeWords State.reset [0x06801005, 0xAEC02000])) base
    t.ctx.regs.getS 1 = 5 ∧ t.ctx.regs.getK 2 = BitVec.allOnes 512 ∧ t.ctx.regs.pc = 2 := by decide

end Sys2Proof.Tests
end

section
/-! Decoding and encoding agree (R47 to R62). Words and their fields determine each other; every row of the opcode map reads
back the fields that its encoder writes; so a word decodes to exactly the well-formed instructions that encode to it. -/

namespace Sys2Proof.Encoding

open Sys2Proof Sys2Proof.Claims

/-! ### Words and their fields -/

theorem ofBool_getLsbD {n : Nat} (w : BitVec n) (i : Nat) : BitVec.ofBool (w.getLsbD i) = w.extractLsb' i 1 := by
  ext j hj
  simp [show j = 0 by omega]

-- The widths of nested appends stay sums (`-Nat.reduceAdd`), or the lemmas on `++` no longer match.

theorem word_rawOf (w : IWord) : (rawOf w).word = w := by
  simp only [rawOf, Raw.word, ofBool_getLsbD, BitVec.extractLsb'_append_extractLsb'_eq_extractLsb', -Nat.reduceAdd]
  exact BitVec.extractLsb'_eq_self

theorem rawOf_word (r : Raw) : rawOf r.word = r := by
  cases r
  simp [rawOf, Raw.word, BitVec.extractLsb'_append_eq_of_le, BitVec.extractLsb'_append_eq_right,
    BitVec.getLsbD_append, -BitVec.getLsbD_eq_getElem, -Nat.reduceAdd]

theorem word_tokOf (x : IWord) : (tokOf x).word = x := by
  simp only [tokOf, TokWord.word, ofBool_getLsbD, BitVec.extractLsb'_append_extractLsb'_eq_extractLsb', -Nat.reduceAdd]
  exact BitVec.extractLsb'_eq_self

theorem tokOf_word (t : TokWord) : tokOf t.word = t := by
  cases t
  simp [tokOf, TokWord.word, BitVec.extractLsb'_append_eq_of_le, BitVec.extractLsb'_append_eq_right,
    BitVec.getLsbD_append, -BitVec.getLsbD_eq_getElem, -Nat.reduceAdd]

theorem tokOf_eq_iff (x : IWord) (t : TokWord) : tokOf x = t ↔ x = t.word :=
  ⟨fun h => h ▸ (word_tokOf x).symm, fun h => h ▸ tokOf_word t⟩

/-! ### Fields inside fields -/

theorem getLsbD_ofBool_append {n : Nat} (f : Bool) (v : BitVec n) : (BitVec.ofBool f ++ v).getLsbD n = f := by
  simp only [BitVec.getLsbD_append]
  simp

theorem append_three_fields {n : Nat} (v : BitVec (n + 6 + 6)) :
    v.extractLsb' 12 n ++ v.extractLsb' 6 6 ++ v.extractLsb' 0 6 = v := by
  rw [BitVec.extractLsb'_append_extractLsb'_eq_extractLsb' (start₂ := 12) rfl,
    BitVec.extractLsb'_append_extractLsb'_eq_extractLsb' (start₂ := 6) rfl]
  exact BitVec.extractLsb'_eq_self

/-! ### The fields of an encoded slot, by class -/

section
variable (e : Bool) (op d a b : BitVec 6) (lit : Option IWord) (x : IWord)

@[simp] theorem encS_fields (g : SGuard) :
    (encS e g op d a b lit).1.d = d ∧ (encS e g op d a b lit).1.a = a ∧ (encS e g op d a b lit).1.b = b ∧
      (encS e g op d a b lit).2 = lit := ⟨rfl, rfl, rfl, rfl⟩

@[simp] theorem encS_l (g : SGuard) : (encS e g op d a b lit).1.l = lit.isSome := getLsbD_ofBool_append _ _

@[simp] theorem encS_op (g : SGuard) : (encS e g op d a b lit).1.op.extractLsb' 0 6 = op := BitVec.extractLsb'_append_eq_right

@[simp] theorem encS_sg (g : SGuard) : (encS e g op d a b lit).1.sg = g :=
  congrArg₂ SGuard.mk (getLsbD_ofBool_append _ _) (BitVec.extractLsb'_append_eq_right)

@[simp] theorem encV_fields (m : VMask) :
    (encV e m op d a b lit).1.d = d ∧ (encV e m op d a b lit).1.a = a ∧ (encV e m op d a b lit).1.b = b ∧
      (encV e m op d a b lit).2 = lit := ⟨rfl, rfl, rfl, rfl⟩

@[simp] theorem encV_l (m : VMask) : (encV e m op d a b lit).1.l = lit.isSome := getLsbD_ofBool_append _ _

@[simp] theorem encV_op (m : VMask) : (encV e m op d a b lit).1.op.extractLsb' 0 6 = op := BitVec.extractLsb'_append_eq_right

@[simp] theorem encV_vm (m : VMask) : (encV e m op d a b lit).1.vm = m :=
  congrArg₂ VMask.mk (getLsbD_ofBool_append _ _) (BitVec.extractLsb'_append_eq_right)

variable (k : BitVec 2) (t : EGuard) (op' : BitVec 7)

@[simp] theorem encE_fields :
    (encE e k t op' d a b).1.d = d ∧ (encE e k t op' d a b).1.a = a ∧ (encE e k t op' d a b).1.b = b ∧
      (encE e k t op' d a b).2 = t.tok.map TokWord.word := ⟨rfl, rfl, rfl, rfl⟩

theorem encE_g : (encE e k t op' d a b).1.g.getLsbD 3 = t.tok.isSome := getLsbD_ofBool_append _ _

theorem encE_eg : (encE e k t op' d a b).1.eg x = ⟨t.p, if t.tok.isSome then some (tokOf x) else none⟩ :=
  congrArg₂ EGuard.mk (BitVec.extractLsb'_append_eq_right) (by rw [encE_g])

@[simp] theorem encE_eg_eq_iff : (encE e k t op' d a b).1.eg x = t ↔ ∀ y ∈ t.tok.map TokWord.word, x = y := by
  rw [encE_eg]
  obtain ⟨p, _ | w⟩ := t
  · simp
  · simp [tokOf_eq_iff]

end

/-! ### Operands that a literal may replace: read back exactly from the literal word that stands there -/

section
variable (e : Bool) (op d a b : BitVec 6) (x : IWord)

theorem lit_or_short_eq_iff {n : Nat} {l : Bool} {v : BitVec n} {imm : Imm n} (hl : l = imm.litWord.isSome)
    (hv : v = imm.field) : (if l then Imm.lit x else .short v) = imm ↔ ∀ y ∈ imm.litWord, x = y := by
  subst hl hv
  cases imm <;> simp [Imm.litWord, Imm.field]

@[simp] theorem encS_imm6_eq_iff (g : SGuard) (imm : Imm 6) :
    (encS e g op d a imm.field imm.litWord).1.imm6 x = imm ↔ ∀ y ∈ imm.litWord, x = y :=
  lit_or_short_eq_iff x (encS_l ..) rfl

@[simp] theorem encS_imm12_eq_iff (g : SGuard) (imm : Imm 12) :
    (encS e g op d (imm.field.extractLsb' 6 6) (imm.field.extractLsb' 0 6) imm.litWord).1.imm12 x = imm ↔
      ∀ y ∈ imm.litWord, x = y :=
  lit_or_short_eq_iff x (encS_l ..) BitVec.extractLsb'_append_extractLsb'

@[simp] theorem encS_imm18_eq_iff (g : SGuard) (imm : Imm 18) :
    (encS e g op (imm.field.extractLsb' 12 6) (imm.field.extractLsb' 6 6) (imm.field.extractLsb' 0 6) imm.litWord).1.imm18 x =
      imm ↔ ∀ y ∈ imm.litWord, x = y :=
  lit_or_short_eq_iff x (encS_l ..) (append_three_fields (n := 6) imm.field)

theorem optLit_eq_iff {r : Raw} {off : Option IWord} (hl : r.l = off.isSome) : r.optLit x = off ↔ ∀ y ∈ off, x = y := by
  cases off <;> simp [Raw.optLit, hl]

@[simp] theorem encS_optLit_eq_iff (g : SGuard) (off : Option IWord) :
    (encS e g op d a b off).1.optLit x = off ↔ ∀ y ∈ off, x = y := optLit_eq_iff x (encS_l ..)

@[simp] theorem encV_optLit_eq_iff (m : VMask) (off : Option IWord) :
    (encV e m op d a b off).1.optLit x = off ↔ ∀ y ∈ off, x = y := optLit_eq_iff x (encV_l ..)

@[simp] theorem encV_bcSrc_eq_iff (m : VMask) (src : BcSrc) :
    (encV e m op d src.field b src.litWord).1.bcSrc x = src ↔ ∀ y ∈ src.litWord, x = y := by
  rw [Raw.bcSrc, encV_l]
  cases src <;> simp [BcSrc.litWord, BcSrc.field]

end

/-! ### Every row of the opcode map -/

/-- The slot word and owned word `p` stand for `i`: E is as asked, the word after is owned where there is one (R51, R52), the
operation is assigned (R57), and the fields read as `i` exactly where the owned word follows. -/
structure Encodes (i : Instr) (last : Bool) (p : Raw × Option IWord) : Prop where
  ends : p.1.e = last
  owns : p.1.owns = p.2.isSome
  assigned : inRanges p.1.op.toNat (assignedOps p.1.k) = true
  reads : ∀ x, parse p.1 x = some i ↔ ∀ y ∈ p.2, x = y

section
variable {i : Instr} {last : Bool} {d a b : BitVec 6}

theorem encS_owns (g : SGuard) (op : BitVec 6) (lit : Option IWord) :
    (encS last g op d a b lit).1.owns = (encS last g op d a b lit).2.isSome :=
  (if_neg (by decide : ¬(0 : BitVec 2).getLsbD 1 = true)).trans (encS_l ..)

theorem encV_owns (m : VMask) (op : BitVec 6) (lit : Option IWord) :
    (encV last m op d a b lit).1.owns = (encV last m op d a b lit).2.isSome :=
  (if_neg (by decide : ¬(1 : BitVec 2).getLsbD 1 = true)).trans (encV_l ..)

theorem encodes_encS {g : SGuard} {op : BitVec 6} {lit : Option IWord} (l : Bool) (hl : lit.isSome = l)
    (hop : inRanges (BitVec.ofBool l ++ op).toNat (assignedOps 0) = true)
    (h : ∀ x, parseS (encS last g op d a b lit).1 x = some i ↔ ∀ y ∈ lit, x = y) :
    Encodes i last (encS last g op d a b lit) := by
  subst hl
  exact ⟨rfl, encS_owns g op lit, hop, h⟩

theorem encodes_encS_of_either {g : SGuard} {op : BitVec 6} {lit : Option IWord}
    (hop : ∀ l, inRanges (BitVec.ofBool l ++ op).toNat (assignedOps 0) = true)
    (h : ∀ x, parseS (encS last g op d a b lit).1 x = some i ↔ ∀ y ∈ lit, x = y) :
    Encodes i last (encS last g op d a b lit) :=
  encodes_encS _ rfl (hop _) h

theorem encodes_encV {m : VMask} {op : BitVec 6} {lit : Option IWord} (l : Bool) (hl : lit.isSome = l)
    (hop : inRanges (BitVec.ofBool l ++ op).toNat (assignedOps 1) = true)
    (h : ∀ x, parseV (encV last m op d a b lit).1 x = some i ↔ ∀ y ∈ lit, x = y) :
    Encodes i last (encV last m op d a b lit) := by
  subst hl
  exact ⟨rfl, encV_owns m op lit, hop, h⟩

theorem encodes_encV_of_either {m : VMask} {op : BitVec 6} {lit : Option IWord}
    (hop : ∀ l, inRanges (BitVec.ofBool l ++ op).toNat (assignedOps 1) = true)
    (h : ∀ x, parseV (encV last m op d a b lit).1 x = some i ↔ ∀ y ∈ lit, x = y) :
    Encodes i last (encV last m op d a b lit) :=
  encodes_encV _ rfl (hop _) h

theorem encE_owns {t : EGuard} {op : BitVec 7} {k : BitVec 2} (hk : k.getLsbD 1 = true) :
    (encE last k t op d a b).1.owns = (encE last k t op d a b).2.isSome :=
  (if_pos hk).trans ((encE_g ..).trans Option.isSome_map.symm)

theorem encodes_encE_M {t : EGuard} {op : BitVec 7} (hop : inRanges op.toNat (assignedOps 2) = true)
    (h : ∀ x, parseM (encE last 2 t op d a b).1 x = some i ↔ ∀ y ∈ t.tok.map TokWord.word, x = y) :
    Encodes i last (encE last 2 t op d a b) :=
  ⟨rfl, encE_owns rfl, hop, h⟩

theorem encodes_encE_C {t : EGuard} {op : BitVec 7} (hop : inRanges op.toNat (assignedOps 3) = true)
    (h : ∀ x, parseC (encE last 3 t op d a b).1 x = some i ↔ ∀ y ∈ t.tok.map TokWord.word, x = y) :
    Encodes i last (encE last 3 t op d a b) :=
  ⟨rfl, encE_owns rfl, hop, h⟩

end

/-- One case for each row of Tables 3-8 to 3-11: its operation picks it out of the map of its class, and its operands read back as
the fields that hold them. -/
theorem encodes_of_mem_enc (i : Instr) (last : Bool) : ∀ p ∈ i.enc last, Encodes i last p := by
  cases i with
  -- S slots without a literal form
  | add | sub | mul | mulh | div | divu | rem | and | or | xor | shl | shr | sar | min | max | clz | popc | sext | addv | shli
  | shri | sari | cmp | plog | jr | tend | trap | rte | brk | mfc | mtc | twait =>
    rintro _ ⟨⟩
    refine encodes_encS false rfl (by decide) fun x => ?_
    rw [parseS, encS_l, encS_op]
    exact Option.some_inj.trans (by simp)
  -- S slots whose immediate or offset a literal may replace
  | addi _ _ _ lit | andi _ _ _ lit | ori _ _ _ lit | li _ _ lit | cmpi _ _ _ _ lit | br _ lit | call _ lit | loop _ _ _ lit
  | ldsB _ _ _ lit | ldsH _ _ _ lit | ldsW _ _ _ lit | ldsD _ _ _ lit | stsB _ _ _ lit | stsH _ _ _ lit | stsW _ _ _ lit
  | stsD _ _ _ lit | gld _ _ _ _ _ lit | gst _ _ _ _ _ lit =>
    rintro _ ⟨⟩
    refine encodes_encS_of_either (by decide) fun x => ?_
    rw [parseS, encS_l, encS_op]
    cases lit <;> exact Option.some_inj.trans (by simp)
  -- LIH always owns its literal
  | lih =>
    rintro _ ⟨⟩
    refine encodes_encS true rfl (by decide) fun x => ?_
    rw [parseS, encS_l, encS_op]
    exact Option.some_inj.trans (by simp)
  -- V slots without a literal form
  | vadd | vsub | vmul | vfma | vfms | vmin | vmax | vabs | vneg | vrcp | vrsq | vsqrt | vexp2 | vlog2 | vand | vor | vxor | vshl
  | vshr | vsar | vadds | vcmp | vsel | vrsum | vrmax | vext | vperm | vrot | vintl | vcvt | vqmx | vqc4 | vdq | vtag | vrand
  | vldx | vstx | klog | kpop | kset | kmov =>
    rintro _ ⟨⟩
    refine encodes_encV false rfl (by decide) fun x => ?_
    rw [parseV, encV_l, encV_op]
    exact Option.some_inj.trans (by simp)
  -- V slots whose source or offset may be a literal
  | vbcast _ _ lit _ | vld _ _ _ _ lit | vst _ _ _ _ lit | vldm _ _ lit =>
    rintro _ ⟨⟩
    refine encodes_encV_of_either (by decide) fun x => ?_
    rw [parseV, encV_l, encV_op]
    cases lit <;> exact Option.some_inj.trans (by simp)
  -- M slots
  | angLd | angSwap | patLd | rotp | roti | rotg | tailSet | actLd | tri | grot | swpSv | swpLd | mprod | mprodb | accZ | accLd
  | accOut | accPeer | driftRd | arrQ =>
    rintro _ ⟨⟩
    exact encodes_encE_M (by decide) fun x => Option.some_inj.trans (by simp)
  -- C slots
  | copy | copyRed | gath | tplLd | strm | strmCl | xsOpen | ttSet | ttReady | ttRel | ttBind | ttQ | fence | drain | arrive | trec
  | post | tokCl | atomAdd | atomMin | atomMax | atomXch | atomAnd | atomOr | atomCas | redAdd | redMin | redMax | colSet | pav
  | brdRd | brdLv | dpost | calRd | calGo | gtime | trig =>
    rintro _ ⟨⟩
    exact encodes_encE_C (by decide) fun x => Option.some_inj.trans (by simp)
  -- events have no words
  | _ => rintro _ ⟨⟩

theorem exists_mem_enc_of_wf {i : Instr} (h : i.wf = true) (last : Bool) : ∃ p, p ∈ i.enc last := by
  have henc : i.wf = true → (i.enc last).isSome = true := by cases i <;> simp [Instr.wf, Instr.enc]
  exact Option.isSome_iff_exists.mp (henc h)

/-! ### The decoder and the words of an instruction -/

theorem encode_of_mem_enc {i : Instr} {last : Bool} {p : Raw × Option IWord} (hp : p ∈ i.enc last) :
    encode last i = p.1.word :: p.2.toList := by
  obtain ⟨r, _ | y⟩ := p <;> simp [encode, Option.mem_def.mp hp]

/-- What the decoder does: a word decodes to the well-formed instructions whose slot word it is and whose owned word follows it. -/
theorem decodeSlot_eq_some_iff (w x : IWord) (i : Instr) :
    decodeSlot w x = some i ↔ i.wf = true ∧ ∃ o, (rawOf w, o) ∈ i.enc (rawOf w).e ∧ ∀ y ∈ o, x = y := by
  constructor
  · intro h
    unfold decodeSlot at h
    split at h
    · cases h
    · next j hj =>
      split at h
      · next hc =>
        cases h
        obtain ⟨hwf, p, hp, hr⟩ : i.wf = true ∧ ∃ p, i.enc (rawOf w).e = some p ∧ p.1 = rawOf w := by simpa using hc
        obtain ⟨r, o⟩ := p
        subst hr
        exact ⟨hwf, o, hp, ((encodes_of_mem_enc i _ _ hp).reads x).mp hj⟩
      · cases h
  · rintro ⟨hwf, o, hp, ho⟩
    have hparse : parse (rawOf w) x = some i := ((encodes_of_mem_enc i _ _ hp).reads x).mpr ho
    simp [decodeSlot, hparse, hwf, Option.mem_def.mp hp]

theorem decodeSlot_word {i : Instr} {last : Bool} {p : Raw × Option IWord} (hwf : i.wf = true) (hp : p ∈ i.enc last) :
    decodeSlot p.1.word (p.2.getD 0) = some i := by
  have hends : p.1.e = last := (encodes_of_mem_enc i last p hp).ends
  rw [decodeSlot_eq_some_iff, rawOf_word, hends]
  exact ⟨hwf, p.2, hp, fun y hy => by simp [Option.mem_def.mp hy]⟩

/-! ### A bundle of one slot -/

theorem frame_one_slot {r : Raw} {o : Option IWord} (he : r.e = true) (ho : r.owns = o.isSome) (rest : List IWord) :
    frame (r.word :: o.toList ++ rest) = .ok (o.toList.length + 1) [⟨0, r.word, o.getD 0⟩] := by
  have hlimit : ¬classLimit r.k.toNat < 1 := by unfold classLimit; split <;> omega
  rw [frame, List.cons_append]
  unfold frameGo
  cases o <;> simp [rawOf_word, he, ho, hlimit]

/-! ### The obligations -/

/-- Settles O53: each well-formed instruction has a slot word (`exists_mem_enc_of_wf`), which its class's map reads back. -/
theorem decodeOfEncode : Obligations.DecodeOfEncode := by
  intro i hwf
  constructor
  · intro last
    obtain ⟨p, hp⟩ := exists_mem_enc_of_wf hwf last
    have hends : (rawOf p.1.word).e = last := (rawOf_word p.1).symm ▸ (encodes_of_mem_enc i last p hp).ends
    have howned : (encode last i).getD 1 0 = p.2.getD 0 := by rw [encode_of_mem_enc hp]; cases p.2 <;> rfl
    exact ⟨p.1.word, by rw [encode_of_mem_enc hp]; rfl, hends, howned ▸ decodeSlot_word hwf hp⟩
  · intro hfits rest
    obtain ⟨p, hp⟩ := exists_mem_enc_of_wf hwf true
    have henc := encodes_of_mem_enc i true p hp
    have hlen : i.len = p.2.toList.length + 1 := by rw [Instr.len, encode_of_mem_enc hp]; rfl
    rw [hlen] at hfits ⊢
    rw [encode_of_mem_enc hp, decodeBundle, frame_one_slot henc.ends henc.owns]
    simp only [decodeSlots, decodeSlot_word hwf hp, hfits, if_true, List.nil_append]

/-- Settles O54: what decodes has the very word as its slot word, and the owned word is the one that follows. -/
theorem encodeOfDecode : Obligations.EncodeOfDecode := by
  intro w x i h
  obtain ⟨hwf, o, hp, ho⟩ := (decodeSlot_eq_some_iff w x i).mp h
  have henc := encodes_of_mem_enc i _ _ hp
  have howns : (rawOf w).owns = o.isSome := henc.owns
  refine ⟨hwf, ?_, henc.assigned⟩
  rw [encode_of_mem_enc hp, word_rawOf, howns]
  cases o with
  | none => rfl
  | some y => rw [ho y rfl]; rfl

/-- Settles O55, by running the decoder and the framing on the spec's words. -/
theorem decodingIsRight : Obligations.DecodingIsRight :=
  ⟨by decide, by decide, by decide, by decide, by decide⟩

end Sys2Proof.Encoding
end

section
/-! The arithmetic of the scalar slots (R82): each row of Table 5-2 is a slot of one or two sources, so that the laws of such a slot give
its result; and words of the S class that are no instruction. -/

namespace Sys2Proof.ScalarControl

open Sys2Proof Sys2Proof.Machine Sys2Proof.Claims

/-! ### Table 5-2 -/

theorem minS_eq (x y : W64) : minS x y = if x.toInt < y.toInt then x else y := by
  simp [minS, BitVec.slt_iff_toInt_lt]

theorem maxS_eq (x y : W64) : maxS x y = if x.toInt < y.toInt then y else x := by
  simp [maxS, BitVec.slt_iff_toInt_lt]

/-- Each operation of latency 1 in Table 5-2 is the two-source operation of its row. -/
theorem exec_aluRow : ∀ row ∈ aluRows, ∀ (s : State) (g : SGuard) (d a b : BitVec 6),
    exec (row.1 g d a b) s = issueOne s (row.1 g d a b) (alu2 row.2 1 g d a b) := by
  have hmin : (fun x y : W64 => if x.toInt < y.toInt then x else y) = minS := funext₂ fun x y => (minS_eq x y).symm
  have hmax : (fun x y : W64 => if x.toInt < y.toInt then y else x) = maxS := funext₂ fun x y => (maxS_eq x y).symm
  simp only [aluRows, List.forall_mem_cons, hmin, hmax]
  exact ⟨fun _ _ _ _ _ => rfl, fun _ _ _ _ _ => rfl, fun _ _ _ _ _ => rfl, fun _ _ _ _ _ => rfl, fun _ _ _ _ _ => rfl,
    fun _ _ _ _ _ => rfl, fun _ _ _ _ _ => rfl, fun _ _ _ _ _ => rfl, fun _ _ _ _ _ => rfl, fun _ _ _ _ _ => rfl, by simp⟩

theorem scalarArithmeticCompletes : ScalarArithmeticCompletes := by
  intro row hrow s g d a b hr hg
  rw [exec_aluRow row hrow]
  exact issueOne_scalar s _ _ d _ hr (alu2_sem s _ row.2 1 g d a b hr hg)

/-- Bits 127:64 of a product of 128 bits are those of the exact product. -/
theorem mulHigh_eq (x y : W64) : mulHigh x y = (x.signExtend 128 * y.signExtend 128).extractLsb' 64 64 := by
  have hx : x.signExtend 128 = BitVec.ofInt 128 x.toInt := rfl
  have hy : y.signExtend 128 = BitVec.ofInt 128 y.toInt := rfl
  rw [mulHigh, hx, hy, ← BitVec.ofInt_mul]
  apply BitVec.eq_of_toNat_eq
  generalize x.toInt * y.toInt = p
  simp only [BitVec.toNat_ofInt, BitVec.extractLsb'_toNat, Nat.shiftRight_eq_div_pow]
  omega

theorem exec_mulRow : ∀ row ∈ mulRows, ∀ (s : State) (g : SGuard) (d a b : BitVec 6),
    exec (row.1 g d a b) s = issueOne s (row.1 g d a b) (alu2 row.2 3 g d a b) := by
  have hhigh : (fun x y : W64 => (x.signExtend 128 * y.signExtend 128).extractLsb' 64 64) = mulHigh :=
    funext₂ fun x y => (mulHigh_eq x y).symm
  simp only [mulRows, List.forall_mem_cons, hhigh]
  exact ⟨fun _ _ _ _ _ => rfl, fun _ _ _ _ _ => rfl, by simp⟩

theorem multiplyCompletes : MultiplyCompletes := by
  intro row hrow s g d a b hr hg
  rw [exec_mulRow row hrow]
  exact issueOne_flying s _ _ d _ 3 hr (by decide) (alu2_sem s _ row.2 3 g d a b hr hg)

/-- The count of leading zeros `n` is the one with exactly the bits above bit 63 - n zero. -/
theorem leadingZeros_spec (v : Nat) (hv : v < 2 ^ 64) :
    leadingZeros 64 v ≤ 64 ∧ v < 2 ^ (64 - leadingZeros 64 v) ∧
      (leadingZeros 64 v < 64 → 2 ^ (63 - leadingZeros 64 v) ≤ v) := by
  unfold leadingZeros
  by_cases h : v = 0
  · simp [h]
  · have hlog : v.log2 < 64 := (Nat.log2_lt h).mpr hv
    have e1 : 64 - (64 - 1 - v.log2) = v.log2 + 1 := by omega
    have e2 : 63 - (64 - 1 - v.log2) = v.log2 := by omega
    simp only [beq_iff_eq, h, if_false, e1, e2]
    exact ⟨by omega, Nat.lt_log2_self, fun _ => Nat.log2_self_le h⟩

theorem sextSize_eq (sz : BitVec 2) (x : W64) (h : sz ≠ 3) :
    sextSize sz x = (x.setWidth (8 * 2 ^ sz.toNat)).signExtend 64 := by
  have hsz : sz = 0 ∨ sz = 1 ∨ sz = 2 := by revert sz; decide
  obtain rfl | rfl | rfl := hsz <;> rfl

theorem bitCountsComplete : BitCountsComplete := by
  intro s g d a hr hg
  refine ⟨⟨leadingZeros 64 (s.ctx.regs.getS a).toNat, ?_⟩, ?_, fun sz hsz => ?_⟩
  · obtain ⟨hle, hlt, hge⟩ := leadingZeros_spec (s.ctx.regs.getS a).toNat (s.ctx.regs.getS a).isLt
    exact ⟨hle, hlt, hge, issueOne_scalar s _ (semClz g d a) d _ hr (alu1_sem s _ _ g d a hr hg)⟩
  · exact issueOne_scalar s _ (semPopc g d a) d _ hr (alu1_sem s _ _ g d a hr hg)
  · rw [← sextSize_eq sz _ hsz]
    exact issueOne_scalar s _ (semSext g d a sz) d _ hr (alu1_sem s _ _ g d a hr hg)

/-! ### Words that are no instruction -/

/-- A word of the S class that decodes is what its class's map reads, well formed, and the encoder writes that word for it. -/
theorem parseS_of_decodeSlot {w x : IWord} {i : Instr} (hk : (rawOf w).k = 0) (h : decodeSlot w x = some i) :
    parseS (rawOf w) x = some i ∧ i.wf = true ∧ ∃ o, i.enc (rawOf w).e = some (rawOf w, o) := by
  obtain ⟨hwf, o, ho, hx⟩ := (Encoding.decodeSlot_eq_some_iff w x i).mp h
  have hp : parse (rawOf w) x = some i := ((Encoding.encodes_of_mem_enc i _ _ ho).reads x).mpr hx
  rw [parse, hk] at hp
  exact ⟨hp, hwf, o, ho⟩

theorem refusedS_of {bad : Raw → Prop} (h : ∀ r x i o, bad r → parseS r x = some i → i.wf = true → i.enc r.e ≠ some (r, o)) :
    refusedS bad := by
  intro w x hk hbad
  refine Option.eq_none_iff_forall_not_mem.mpr fun i hi => ?_
  obtain ⟨hp, hwf, o, ho⟩ := parseS_of_decodeSlot hk hi
  exact h _ x i o hbad hp hwf ho

/-- A word whose operation has no form in the S class, with L as it stands, is no instruction. -/
theorem refusedS_of_unassigned {bad : Raw → Prop} (h : ∀ r x, bad r → parseS r x = none) : refusedS bad :=
  refusedS_of fun r x i o hbad hp => by simp [h r x hbad] at hp

theorem arithmeticEncodings : ArithmeticEncodings := by
  refine ⟨?_, fun g d a => ⟨fun _ => rfl, fun _ => rfl, fun _ _ => rfl⟩, refusedS_of ?_, refusedS_of ?_⟩
  · simp only [tripleCodes, List.forall_mem_cons]
    exact ⟨fun _ _ _ _ _ => rfl, fun _ _ _ _ _ => rfl, fun _ _ _ _ _ => rfl, fun _ _ _ _ _ => rfl, fun _ _ _ _ _ => rfl,
      fun _ _ _ _ _ => rfl, fun _ _ _ _ _ => rfl, fun _ _ _ _ _ => rfl, fun _ _ _ _ _ => rfl, fun _ _ _ _ _ => rfl,
      fun _ _ _ _ _ => rfl, fun _ _ _ _ _ => rfl, by simp⟩
  · rintro r x i o ⟨hop | hop, hb⟩ hp - henc
    all_goals
      simp [parseS, Raw.l, hop] at hp
      subst hp
      exact hb (congrArg (fun p => p.1.b) (Option.some.inj henc)).symm
  · rintro r x i o ⟨hop, hb⟩ hp hwf henc
    simp [parseS, Raw.l, hop] at hp
    subst hp
    have hb' : 0#4 ++ r.b.extractLsb' 0 2 = r.b := congrArg (fun p => p.1.b) (Option.some.inj henc)
    generalize r.b = b at hb hb' hwf
    revert b
    simp only [Instr.wf]
    decide

/-- Settles O1: every row of Table 5-2 is a slot of one or two sources that lands one result; the encodings are evaluated. -/
theorem arithmeticCompletes : Obligations.ArithmeticCompletes :=
  ⟨scalarArithmeticCompletes, multiplyCompletes, bitCountsComplete, arithmeticEncodings⟩

end Sys2Proof.ScalarControl
end

section
/-! Divisions, ADDV, immediates and predicates (R83 to R88). -/

namespace Sys2Proof.ScalarControl

open Sys2Proof Sys2Proof.Machine Sys2Proof.Claims

/-! ### Divisions and ADDV (R83, R84) -/

theorem remS_eq (x y : W64) : remS x y = BitVec.ofInt 64 (x.toInt.tmod y.toInt) := by
  rw [remS, Int.tmod_def, Int.mul_comm]

theorem exec_divRow : ∀ row ∈ divRows, ∀ (s : State) (g : SGuard) (d a b : BitVec 6),
    exec (row.1 g d a b) s = issueOne s (row.1 g d a b) (divide row.2 g d a b) := by
  have hrem : (fun x y : W64 => BitVec.ofInt 64 (x.toInt.tmod y.toInt)) = remS := funext₂ fun x y => (remS_eq x y).symm
  simp only [divRows, List.forall_mem_cons, hrem]
  exact ⟨fun _ _ _ _ _ => rfl, fun _ _ _ _ _ => rfl, fun _ _ _ _ _ => rfl, by simp⟩

theorem divide_sem {s : State} {g : SGuard} (i : Instr) (f : W64 → W64 → W64) (d a b : BitVec 6) (h : s.ready) (hg : sGuard s g = true) :
    divide f g d a b s (alone s i) =
      { SlotSem.effect [.dst (.sreg d 0)] (scoreS (alone s i) d (f (s.ctx.regs.getS a) (s.ctx.regs.getS b))) with
        stop := if s.ctx.regs.getS b == 0 then some (.trap 0x06 0) else none } := by
  simp only [divide, sSlot_ready _ _ _ _ hg h.2.1, readS_quiet _ _ _ h.1]

theorem divisionCompletes : DivisionCompletes := by
  intro row hrow s g d a b hr hg
  rw [exec_divRow row hrow]
  have hsem := divide_sem (row.1 g d a b) row.2 d a b hr hg
  constructor
  · intro hne
    refine issueOne_later s _ _ _ _ hr hsem rfl ?_ rfl rfl ?_ rfl rfl ⟨rfl, rfl⟩ rfl rfl ?_
    · simp only [beq_eq_false_iff_ne.mpr hne, Bool.false_eq_true, if_false]
    · exact owing_eq s _ d _ hr.1
    · simp [Ctx.owing, hr.1]
  · intro heq
    exact issueOne_stop s _ _ _ _ hsem rfl rfl rfl (if_pos (by simpa using heq))

/-- ADDV overflows where the exact sum is no value of 64 signed bits. -/
theorem addOverflows_eq_false_iff (x y : W64) :
    addOverflows x y = false ↔ -(2 : Int) ^ 63 ≤ x.toInt + y.toInt ∧ x.toInt + y.toInt < 2 ^ 63 := by
  have hx := x.isLt
  simp only [addOverflows, bne_eq_false_iff_eq, BitVec.toInt_add]
  constructor
  · intro h
    rw [← h]
    exact ⟨Int.le_bmod (by decide), Int.bmod_lt (by decide)⟩
  · rintro ⟨hlo, hhi⟩
    exact Int.bmod_eq_of_le hlo hhi

theorem addv_sem {s : State} {g : SGuard} (d a b : BitVec 6) (h : s.ready) (hg : sGuard s g = true) :
    semAddv g d a b s (alone s (.addv g d a b)) =
      { scalarResult (alone s (.addv g d a b)) d (s.ctx.regs.getS a + s.ctx.regs.getS b) 1 with
        stop := if addOverflows (s.ctx.regs.getS a) (s.ctx.regs.getS b) then some (.trap 0x05 0) else none } := by
  simp only [semAddv, sSlot_ready _ _ _ _ hg h.2.1, readS_quiet _ _ _ h.1]

theorem addvCompletesOrTraps : AddvCompletesOrTraps := by
  intro s g d a b hr hg sum
  have hsem := addv_sem d a b hr hg
  have hiff := addOverflows_eq_false_iff (s.ctx.regs.getS a) (s.ctx.regs.getS b)
  have hsum : BitVec.ofInt 64 sum = s.ctx.regs.getS a + s.ctx.regs.getS b := by
    rw [BitVec.ofInt_add, BitVec.ofInt_toInt, BitVec.ofInt_toInt]
  constructor
  · intro hlo hhi
    rw [hsum]
    refine issueOne_scalar s _ (semAddv g d a b) d _ hr ?_
    rw [hsem, hiff.mpr ⟨hlo, hhi⟩]
    rfl
  · intro hout
    have hov : addOverflows (s.ctx.regs.getS a) (s.ctx.regs.getS b) = true := by
      rw [← Bool.not_eq_false, hiff]
      rintro ⟨hlo, hhi⟩
      omega
    exact issueOne_stop s _ (semAddv g d a b) _ (.trap 0x05 0) hsem rfl rfl rfl (by simp [hov])

/-- Settles O2: each slot lands its result or stops, by the divisor and by the exact sum. -/
theorem divisionAndAddvComplete : Obligations.DivisionAndAddvComplete := ⟨divisionCompletes, addvCompletesOrTraps⟩

/-! ### Immediates (R85, R86) -/

theorem exec_immRow : ∀ row ∈ immRows, ∀ (s : State) (g : SGuard) (d a : BitVec 6) (imm : Imm 6),
    exec (row.1 g d a imm) s = issueOne s (row.1 g d a imm) (alu1 (fun x => row.2 x (immValue imm)) g d a) := by
  simp only [immRows, List.forall_mem_cons]
  exact ⟨fun _ _ _ _ _ => rfl, fun _ _ _ _ _ => rfl, fun _ _ _ _ _ => rfl, by simp⟩

theorem exec_shiftRow : ∀ row ∈ shiftRows, ∀ (s : State) (g : SGuard) (d a n : BitVec 6),
    exec (row.1 g d a n) s = issueOne s (row.1 g d a n) (alu1 (fun x => row.2 x n.toNat) g d a) := by
  simp only [shiftRows, List.forall_mem_cons]
  exact ⟨fun _ _ _ _ _ => rfl, fun _ _ _ _ _ => rfl, fun _ _ _ _ _ => rfl, by simp⟩

theorem li_sem {s : State} {g : SGuard} (d : BitVec 6) (imm : Imm 12) (h : s.ready) (hg : sGuard s g = true) :
    semLi g d imm s (alone s (.li g d imm)) = scalarResult (alone s (.li g d imm)) d (immValue imm) 1 :=
  sSlot_ready _ _ _ _ hg h.2.1

theorem lih_sem {s : State} {g : SGuard} (d : BitVec 6) (lit : BitVec 32) (h : s.ready) (hg : sGuard s g = true) :
    semLih g d lit s (alone s (.lih g d lit)) =
      scalarResult (alone s (.lih g d lit)) d (lit ++ (s.ctx.regs.getS d).setWidth 32) 1 := by
  simp only [semLih, sSlot_ready _ _ _ _ hg h.2.1, readS_quiet _ _ _ h.1, BitVec.setWidth_eq_extractLsb' (by decide : 32 ≤ 64)]

theorem immediateEncodings (g : SGuard) (d a : BitVec 6) :
    ∀ row ∈ [(Instr.addi, 0x14#6), (Instr.andi, 0x15#6), (Instr.ori, 0x16#6)],
      (∀ b, encodedS (row.1 g d a (.short b)) row.2 g d a b) ∧ ∀ v, encodedLit (row.1 g d a (.lit v)) row.2 g d a 0 v := by
  simp only [List.forall_mem_cons]
  exact ⟨⟨fun _ _ => rfl, fun _ _ => rfl⟩, ⟨fun _ _ => rfl, fun _ _ => rfl⟩, ⟨fun _ _ => rfl, fun _ _ => rfl⟩, by simp⟩

theorem shiftEncodings (g : SGuard) (d a : BitVec 6) :
    ∀ row ∈ [(Instr.shli, 0x17#6), (Instr.shri, 0x18#6), (Instr.sari, 0x19#6)], ∀ b, encodedS (row.1 g d a b) row.2 g d a b := by
  simp only [List.forall_mem_cons]
  exact ⟨fun _ _ => rfl, fun _ _ => rfl, fun _ _ => rfl, by simp⟩

/-- Settles O3: an immediate operation is a slot of one source with the immediate as its second operand. -/
theorem immediatesComplete : Obligations.ImmediatesComplete := by
  intro s g d a hr hg
  refine ⟨fun row hrow imm => ?_, fun row hrow n => ?_, fun imm => ?_, fun lit => ?_, immediateEncodings g d a, shiftEncodings g d a,
    refusedS_of_unassigned ?_, refusedS_of_unassigned ?_⟩
  · rw [exec_immRow row hrow]
    exact issueOne_scalar s _ _ d _ hr (alu1_sem s _ _ g d a hr hg)
  · rw [exec_shiftRow row hrow]
    exact issueOne_scalar s _ _ d _ hr (alu1_sem s _ _ g d a hr hg)
  · exact issueOne_scalar s _ (semLi g d imm) d _ hr (li_sem d imm hr hg)
  · exact issueOne_scalar s _ (semLih g d lit) d _ hr (lih_sem d lit hr hg)
  · rintro r x (hop | hop | hop) <;> simp [parseS, Raw.l, hop]
  · intro r x hop
    simp [parseS, Raw.l, hop]

/-! ### Predicates (R87, R88) -/

theorem condS_of_mem_condRows : ∀ row ∈ condRows, ∀ x y : W64, condS row.1 x y = row.2 x y := by
  simp only [condRows, List.forall_mem_cons]
  refine ⟨fun x y => rfl, ?_, fun x y => rfl, ?_, fun x y => rfl, ?_, ?_, fun x y => rfl, by simp⟩
  all_goals
    intro x y
    simp only [decide_not, ← not_lt]
    rfl

theorem plogFn_of_mem_plogRows : ∀ row ∈ plogRows, ∀ x y : Bool, plogFn row.1 x y = row.2 x y := by
  simp only [plogRows, List.forall_mem_cons]
  exact ⟨fun _ _ => rfl, fun _ _ => rfl, fun _ _ => rfl, fun _ _ => rfl, fun _ _ => rfl, fun _ _ => rfl, by simp⟩

theorem cmp_sem {s : State} {g : SGuard} (c q : BitVec 3) (a b : BitVec 6) (h : s.ready) (hg : sGuard s g = true) :
    semCmp g c q a b s (alone s (.cmp g c q a b)) =
      predResult (alone s (.cmp g c q a b)) q (condS c (s.ctx.regs.getS a) (s.ctx.regs.getS b)) := by
  simp only [semCmp, sSlot_ready _ _ _ _ hg h.2.1, readS_quiet _ _ _ h.1]

theorem cmpi_sem {s : State} {g : SGuard} (c q : BitVec 3) (a : BitVec 6) (imm : Imm 6) (h : s.ready) (hg : sGuard s g = true) :
    semCmpi g c q a imm s (alone s (.cmpi g c q a imm)) =
      predResult (alone s (.cmpi g c q a imm)) q (condS c (s.ctx.regs.getS a) (immValue imm)) := by
  simp only [semCmpi, sSlot_ready _ _ _ _ hg h.2.1, readS_quiet _ _ _ h.1]
  rfl

theorem plog_completes {s : State} {g : SGuard} (f q x y : BitVec 3) (h : s.ready) (hg : sGuard s g = true) :
    exec (.plog g f q x y) s = .next (wrote s (.plog g f q x y)
      (s.ctx.regs.setP q (plogFn f (s.ctx.regs.getP x) (s.ctx.regs.getP y)))) :=
  issueOne_pred s _ (semPlog g f q x y) q _ h (sSlot_ready _ _ _ _ hg h.2.1)

/-- Settles O4: a compare and PLOG are slots whose one result is a predicate. -/
theorem predicatesComplete : Obligations.PredicatesComplete := by
  intro s g q hr hg
  refine ⟨fun row hrow a b => ?_, fun row hrow a imm => ?_, fun row hrow x y => ?_, fun x => ?_, refusedS_of ?_, by decide⟩
  · rw [← condS_of_mem_condRows row hrow]
    exact issueOne_pred s _ (semCmp g row.1 q a b) q _ hr (cmp_sem row.1 q a b hr hg)
  · rw [← condS_of_mem_condRows row hrow]
    exact issueOne_pred s _ (semCmpi g row.1 q a imm) q _ hr (cmpi_sem row.1 q a imm hr hg)
  · rw [← plogFn_of_mem_plogRows row hrow]
    exact plog_completes row.1 q x y hr hg
  · have hnot : plogFn 2 (s.ctx.regs.getP x) (s.ctx.regs.getP 0) = !(s.ctx.regs.getP x) := by
      simp [plogFn, Regs.getP]
    rw [← hnot]
    exact plog_completes 2 q x 0 hr hg
  · rintro r x i o ⟨hop, hf⟩ hp hwf -
    simp [parseS, Raw.l, hop] at hp
    subst hp
    simp only [Instr.wf, decide_eq_true_eq] at hwf
    omega

end Sys2Proof.ScalarControl
end

section
/-! Control transfer and hardware loops (R89 to R93): what leaving loops and the loop-end action do to the loop registers, and bundles of
one slot that transfer control or end a loop. -/

namespace Sys2Proof.ScalarControl

open Sys2Proof Sys2Proof.Machine Sys2Proof.Claims

/-! ### Where control goes (R90, R93) -/

/-- A guarded slot that reads no register waits for none, whatever is outstanding. -/
theorem sSlot_no_regs {s : State} {g : SGuard} (body : SlotSem) (hg : sGuard s g = true) : sSlot s g [] body = body := by
  simp [sSlot, hg]

/-- What leaving loops does to any context: the count of an active loop whose range does not hold the target is 0. -/
theorem leaveLoops_eq (c : Ctx) (was : Bool → Bool) (next : W64) :
    c.leaveLoops was next = { c with tr := { c.tr with
      lcnt0 := if was false && outside c.tr.lbeg0 c.tr.lend0 next then 0 else c.tr.lcnt0
      lcnt1 := if was true && outside c.tr.lbeg1 c.tr.lend1 next then 0 else c.tr.lcnt1 } } := by
  have h0 (t : TrapRegs) : (!t.inRange false next) = outside t.lbeg0 t.lend0 next := rfl
  have h1 (t : TrapRegs) : (!t.inRange true next) = outside t.lbeg1 t.lend1 next := rfl
  simp only [Ctx.leaveLoops, h0, h1]
  split <;> split <;> simp_all [Ctx.deactivate]

theorem leaveLoops_eq_leftLoops (s : State) (next : W64) :
    s.ctx.leaveLoops (fun n => s.ctx.loopActive n) next = { s.ctx with tr := leftLoops s next } :=
  leaveLoops_eq s.ctx _ next

/-- The loop-end action of a bundle that writes no loop register is that of R93. -/
theorem loopEnd_eq_loopEndAction (s : State) (c : Ctx) (nb : W64) (htr : c.tr = s.ctx.tr) :
    c.loopEnd (fun n => s.ctx.loopActive n) (fun _ => false) s.ctx.regs.pc nb =
      { c with tr := (loopEndAction s nb).1, regs := { c.regs with pc := (loopEndAction s nb).2 } } := by
  obtain ⟨⟩ := c
  subst htr
  simp only [Ctx.loopEnd, loopEndAction, Bool.not_false, Bool.and_true]
  cases s.ctx.loopActive false && s.ctx.tr.lend0 == s.ctx.regs.pc <;>
    cases s.ctx.loopActive true && s.ctx.tr.lend1 == s.ctx.regs.pc <;>
      simp <;> (repeat' split) <;> rfl

/-! ### Slots with one scalar result -/

/-- A scalar result of latency 1 in flight, in an otherwise empty pipeline. -/
def inFlight (c : Ctx) (d : BitVec 6) (v : W64) : Ctx :=
  { c with pipe := { c.pipe with pend := if d = 0 then [] else [⟨.sreg d v, c.pipe.bundleNo + 1, false⟩] } }

theorem landS_quiet (s : State) (p : At) (d : BitVec 6) (v : W64) (h : s.ctx.pipe.pend = []) :
    landS p d v 1 s = { s with ctx := inFlight s.ctx d v } := by
  rw [landS, land_scalar _ _ _ _ _ h, inFlight]

/-- A bundle of one slot with one scalar result and a control transfer. -/
theorem commit_scalar_jump (s : State) (x : SlotSem) (p : At) (d : BitVec 6) (v nb next : W64) (hp : s.ctx.pipe.pend = [])
    (hap : x.apply = landS p d v 1) (htr : x.transfer = some next) (he : x.ends = false) :
    commit s [(0, x)] s.ctx.regs.pc nb = s.finished
      { s.ctx with
        regs := s.ctx.regs.setS d v
        tr := if x.leaves then leftLoops s next else s.ctx.tr } next := by
  have hleave : (inFlight s.ctx d v).leaveLoops (fun n => s.ctx.loopActive n) next =
      { inFlight s.ctx d v with tr := leftLoops s next } := leaveLoops_eq (inFlight s.ctx d v) _ next
  rw [← close_scalar s x d v _ next hp he, commit]
  congr 1
  simp only [nextPc, applySlots, List.foldl_cons, List.foldl_nil, List.findSome?_cons, htr, hap, landS_quiet s p d v hp,
    List.any_cons, List.any_nil, Bool.or_false, hleave]
  split <;> rfl

/-- A bundle of one slot with one scalar result and no transfer takes its loop-end action. -/
theorem commit_scalar_loopEnd (s : State) (p : At) (d : BitVec 6) (v nb : W64) (hp : s.ctx.pipe.pend = []) :
    commit s [(0, scalarResult p d v 1)] s.ctx.regs.pc nb = s.finished
      { s.ctx with regs := s.ctx.regs.setS d v, tr := (loopEndAction s nb).1 } (loopEndAction s nb).2 := by
  have hend := loopEnd_eq_loopEndAction s (inFlight s.ctx d v) nb rfl
  rw [← close_scalar s (scalarResult p d v 1) d v _ _ hp rfl, commit]
  congr 1
  simp only [nextPc, applySlots, List.foldl_cons, List.foldl_nil, scalarResult, SlotSem.effect, SlotSem.nop, List.findSome?_cons,
    List.findSome?_nil, landS_quiet s p d v hp, List.any_cons, List.any_nil, Bool.or_false, ite_self, hend]
  rfl

/-! ### BR, CALL and JR (R89, R90) -/

theorem branchTo_eq_codeAddr (ba : W64) {n : Nat} (imm : Imm n) : branchTo ba imm = codeAddr (ba + immValue imm) := rfl

theorem br_completes {s : State} {g : SGuard} (imm : Imm 18) (hp : s.ctx.pipe.pend = []) (hg : sGuard s g = true) :
    exec (.br g imm) s = .next (s.finished { s.ctx with tr := leftLoops s (codeAddr (s.ctx.regs.pc + immValue imm)) }
      (codeAddr (s.ctx.regs.pc + immValue imm))) := by
  show issueOne s (.br g imm) (semBr g imm) = _
  rw [issueOne, semBr, sSlot_no_regs _ hg, issueBundle_one _ _ _ _ rfl rfl rfl rfl]
  rw [show (alone s (.br g imm)).ba = s.ctx.regs.pc from rfl, branchTo_eq_codeAddr]
  rw [commit_jump s _ s.ctx _ _ rfl rfl rfl rfl rfl (by simp [hp]), if_pos rfl, leaveLoops_eq_leftLoops]

theorem call_completes {s : State} {g : SGuard} (imm : Imm 18) (hp : s.ctx.pipe.pend = []) (hb : s.ctx.pipe.sb = [])
    (hg : sGuard s g = true) :
    exec (.call g imm) s = .next (s.finished { s.ctx with regs := s.ctx.regs.setS 63 (s.nb (.call g imm)) }
      (codeAddr (s.ctx.regs.pc + immValue imm))) := by
  show issueOne s (.call g imm) (semCall g imm) = _
  rw [issueOne, semCall, sSlot_ready _ _ _ _ hg hb, issueBundle_one _ _ _ _ rfl rfl rfl rfl]
  exact congrArg Host.Outcome.next (commit_scalar_jump s _ _ 63 _ _ _ hp rfl rfl rfl)

theorem jr_completes {s : State} {g : SGuard} (d a : BitVec 6) (hp : s.ctx.pipe.pend = []) (hb : s.ctx.pipe.sb = [])
    (hg : sGuard s g = true) :
    exec (.jr g d a) s = .next (s.finished
      { s.ctx with
        regs := s.ctx.regs.setS d (s.nb (.jr g d a))
        tr := leftLoops s (s.ctx.regs.getS a) } (s.ctx.regs.getS a)) := by
  show issueOne s (.jr g d a) (semJr g d a) = _
  rw [issueOne, semJr, sSlot_ready _ _ _ _ hg hb, readS_quiet _ _ _ hp, issueBundle_one _ _ _ _ rfl rfl rfl rfl]
  exact congrArg Host.Outcome.next (commit_scalar_jump s _ _ d _ _ _ hp rfl rfl rfl)

/-- Settles O5: BR only transfers control; CALL and JR have the link as a result of latency 1 beside the transfer. -/
theorem branchesComplete : Obligations.BranchesComplete := by
  intro s g hp hb hg
  exact ⟨fun imm => br_completes imm hp hg, fun imm => call_completes imm hp hb hg, fun d a => jr_completes d a hp hb hg⟩

/-! ### Loops (R92, R93) -/

theorem alu2_sem_quiet {s : State} {g : SGuard} (i : Instr) (f : W64 → W64 → W64) (lat : Nat) (d a b : BitVec 6)
    (hp : s.ctx.pipe.pend = []) (hb : s.ctx.pipe.sb = []) (hg : sGuard s g = true) :
    alu2 f lat g d a b s (alone s i) = scalarResult (alone s i) d (f (s.ctx.regs.getS a) (s.ctx.regs.getS b)) lat := by
  simp only [alu2, sSlot_ready _ _ _ _ hg hb, readS_quiet _ _ _ hp]

theorem loopEndActs : LoopEndActs := by
  intro row hrow s g d a b hp hb hg
  rw [exec_aluRow row hrow, issueOne, alu2_sem_quiet _ _ _ _ _ _ hp hb hg, issueBundle_one _ _ _ _ rfl rfl rfl rfl]
  exact congrArg Host.Outcome.next (commit_scalar_loopEnd s _ d _ _ hp)

theorem startLoop_eq_startedLoop (s : State) (n : BitVec 1) (count beg fin : W64) :
    s.ctx.startLoop (n == 1) count beg fin = { s.ctx with tr := startedLoop s n count beg fin } := by
  have hn : n = 0 ∨ n = 1 := by revert n; decide
  obtain rfl | rfl := hn <;> rfl

/-- LOOP as a slot, its end `fin` no earlier than the next bundle. -/
theorem loop_sem {s : State} {g : SGuard} {n : BitVec 1} {a : BitVec 6} {off : Imm 6} {fin : W64} (h : s.ready) (hg : sGuard s g = true)
    (hlen : (Instr.loop g n a off).len ≤ loopOff off) (hfin : s.ctx.regs.pc + BitVec.ofNat 64 (loopOff off) = fin) :
    semLoop g n a off s (alone s (.loop g n a off)) =
      { SlotSem.effect [] (fun t =>
          { t with ctx := t.ctx.startLoop (n == 1) (s.ctx.regs.getS a) (s.nb (.loop g n a off)) fin }) with
        stall := s.ctx.regs.getS a == 0 && loopWaits s fin
        stop := if s.ctx.regs.getS a == 0 then (loopFrame s fin).1 else none
        transfer := if s.ctx.regs.getS a == 0 then some (fin + BitVec.ofNat 64 (loopFrame s fin).2) else none
        leaves := true
        wrote0 := !(n == 1)
        wrote1 := n == 1 } := by
  subst hfin
  have hnot : ¬ loopOff off < (alone s (.loop g n a off)).len := Nat.not_lt.mpr hlen
  simp only [semLoop, if_neg hnot, readS_quiet _ _ _ h.1, sSlot_ready _ _ _ _ hg h.2.1]
  rfl

/-- A bundle that ends no active loop but one whose registers it writes goes on to the next bundle. -/
theorem loopEnd_skips (c : Ctx) (was wrote : Bool → Bool) (ba nb : W64)
    (h0 : was false = true → wrote false = false → c.tr.lend0 ≠ ba) (h1 : was true = true → wrote true = false → c.tr.lend1 ≠ ba) :
    c.loopEnd was wrote ba nb = { c with regs := { c.regs with pc := nb } } := by
  have e0 : (was false && c.tr.lend0 == ba && !(wrote false)) = false := by
    cases hw : was false <;> cases hv : wrote false <;> simp_all
  have e1 : (was true && c.tr.lend1 == ba && !(wrote true)) = false := by
    cases hw : was true <;> cases hv : wrote true <;> simp_all
  simp [Ctx.loopEnd, e0, e1]

/-- A bundle of one slot that only writes loop registers. -/
theorem commit_loop_regs (s : State) (x : SlotSem) (tr : TrapRegs) (nb : W64) (hp : s.ctx.pipe.pend = [])
    (hap : x.apply s = { s with ctx := { s.ctx with tr := tr } }) (htr : x.transfer = none) (he : x.ends = false)
    (h0 : s.ctx.loopActive false = true → x.wrote0 = false → tr.lend0 ≠ s.ctx.regs.pc)
    (h1 : s.ctx.loopActive true = true → x.wrote1 = false → tr.lend1 ≠ s.ctx.regs.pc) :
    commit s [(0, x)] s.ctx.regs.pc nb = s.finished { s.ctx with tr := tr } nb := by
  have hgo := loopEnd_skips { s.ctx with tr := tr } (fun n => s.ctx.loopActive n)
    (fun n => if n then x.wrote1 else x.wrote0) s.ctx.regs.pc nb h0 h1
  simp [commit, applySlots, hap, nextPc, htr, hgo, closeBundle, he, Ctx.landDue, hp, State.spend, State.tick, State.finished]

theorem loop_starts {s : State} {g : SGuard} {n : BitVec 1} {a : BitVec 6} {off : Imm 6} {fin : W64} (h : s.ready)
    (hg : sGuard s g = true) (hlen : (Instr.loop g n a off).len ≤ loopOff off)
    (hfin : s.ctx.regs.pc + BitVec.ofNat 64 (loopOff off) = fin) (hcount : s.ctx.regs.getS a ≠ 0) :
    exec (.loop g n a off) s = .next (s.finished
      { s.ctx with tr := startedLoop s n (s.ctx.regs.getS a) (s.nb (.loop g n a off)) fin } (s.nb (.loop g n a off))) := by
  have hz : (s.ctx.regs.getS a == 0) = false := beq_eq_false_iff_ne.mpr hcount
  have hsem := loop_sem h hg hlen hfin
  obtain ⟨hpend, -, hend0, hend1⟩ := h
  show issueOne s (.loop g n a off) (semLoop g n a off) = _
  rw [issueOne, hsem]
  simp only [hz, Bool.false_and, Bool.false_eq_true, if_false]
  rw [issueBundle_one _ _ _ _ rfl rfl rfl rfl]
  refine congrArg Host.Outcome.next (commit_loop_regs s _ _ _ hpend ?_ rfl rfl ?_ ?_)
  · exact congrArg (fun c => { s with ctx := c }) (startLoop_eq_startedLoop s n _ _ _)
  · obtain rfl | rfl := BitVec.eq_zero_or_eq_one n
    · exact fun _ hw => by cases hw
    · exact fun hact _ => hend0 hact
  · obtain rfl | rfl := BitVec.eq_zero_or_eq_one n
    · exact fun hact _ => hend1 hact
    · exact fun _ hw => by cases hw

/-- LOOP with a count of zero branches past the bundle at its end, and leaves loops as a branch does. -/
theorem loop_skips {s : State} {g : SGuard} {n : BitVec 1} {a : BitVec 6} {off : Imm 6} {fin : W64} (h : s.ready)
    (hg : sGuard s g = true) (hlen : (Instr.loop g n a off).len ≤ loopOff off)
    (hfin : s.ctx.regs.pc + BitVec.ofNat 64 (loopOff off) = fin) (hcount : s.ctx.regs.getS a = 0) {ws : List IWord} {len : Nat}
    {slots : List Framed} (hend : fetchAt s fin.toNat = .words ws (.ok len slots)) :
    exec (.loop g n a off) s = .next (s.finished
      (({ s.ctx with tr := startedLoop s n 0 (s.nb (.loop g n a off)) fin } : Ctx).leaveLoops (fun k => s.ctx.loopActive k)
        (fin + BitVec.ofNat 64 ws.length))
      (fin + BitVec.ofNat 64 ws.length)) := by
  have hframe : loopFrame s fin = (none, ws.length) := by rw [loopFrame, hend]
  have hwait : loopWaits s fin = false := by rw [loopWaits, hend]; rfl
  show issueOne s (.loop g n a off) (semLoop g n a off) = _
  rw [issueOne, loop_sem h hg hlen hfin]
  simp only [hcount, hframe, hwait, beq_self_eq_true, Bool.and_false, if_true]
  rw [issueBundle_one _ _ _ _ rfl rfl rfl rfl]
  exact congrArg Host.Outcome.next (commit_jump s _ { s.ctx with tr := startedLoop s n 0 (s.nb (.loop g n a off)) fin } _ _
    (congrArg (fun c => { s with ctx := c }) (startLoop_eq_startedLoop s n _ _ _)) rfl rfl rfl rfl (by simp [h.1]))

theorem loopCompletes : LoopCompletes := by
  intro s g n a off hr hg hlen fin nb
  refine ⟨loop_starts hr hg hlen rfl, fun ws len slots hcount hend => ⟨_, loop_skips hr hg hlen rfl hcount hend, rfl, ?_, ?_, ?_, ?_⟩⟩
  all_goals simp only [leaveLoops_eq]
  · obtain rfl | rfl := BitVec.eq_zero_or_eq_one n <;> exact ite_self _
  · obtain rfl | rfl := BitVec.eq_zero_or_eq_one n <;> rfl
  · rfl
  · rfl

/-- Settles O6: LOOP only writes the loop set it starts, or transfers control past the loop's end as a branch does. -/
theorem loopsCompleteAndEnd : Obligations.LoopsCompleteAndEnd := ⟨loopCompletes, loopEndActs⟩

end Sys2Proof.ScalarControl
end

section
/-! Software traps, trap entry, aborts, TEND and RTE (R94 to R96, R108, R111). -/

namespace Sys2Proof.ScalarControl

open Sys2Proof Sys2Proof.Machine Sys2Proof.Claims

/-! ### Software traps and trap entry (R95, R108) -/

/-- A guarded slot that reads no register and stops takes its stop, whatever is outstanding. -/
theorem issueOne_stopped {s : State} {g : SGuard} (i : Instr) (sem : State → At → SlotSem) (st : Stop) (hg : sGuard s g = true)
    (hs : sem s (alone s i) = sSlot s g [] (.stopped st)) :
    issueOne s i sem = .next (takeStop s st s.ctx.regs.pc (s.nb i)).spend.tick :=
  issueOne_stop s i sem _ st (hs.trans (sSlot_no_regs _ hg)) rfl rfl rfl rfl

theorem softwareTrapsComplete : SoftwareTrapsComplete := by
  intro s g code hg
  exact ⟨issueOne_stopped _ (semTrap g code) _ hg rfl, issueOne_stopped _ (semBrk g code) _ hg rfl⟩

/-- Trap entry outside a handler with TVEC inside the code (R108). -/
theorem enterTrap_enters {s : State} (cause tval tpc tnpc : W64) (hin : s.ctx.inTrap = false)
    (hvec : s.ctx.tr.tvec.toNat < s.ctx.codeLen) :
    enterTrap s cause tval tpc tnpc = { s with ctx := (s.ctx.landAll s.freeCtr).trapRegs cause tval tpc tnpc } := by
  have hf := landAll_frame s.freeCtr s.ctx
  have hlen : ¬ (s.ctx.landAll s.freeCtr).codeLen ≤ (s.ctx.landAll s.freeCtr).tr.tvec.toNat := by
    rw [codeLen_landAll, hf.tr]; exact Nat.not_le.mpr hvec
  rw [enterTrap, inTrap_landAll, hin]
  exact if_neg hlen

theorem trapEntryFollowsR108 : TrapEntryFollowsR108 := by
  intro s cause tval tpc tnpc hin hvec t c
  have ht : t = { s with ctx := c.trapRegs cause tval tpc tnpc } := enterTrap_enters cause tval tpc tnpc hin hvec
  have hf : LandFrame { s.ctx with pipe := { s.ctx.pipe with pend := [] } } c := landAll_frame s.freeCtr s.ctx
  have hloops (n : Bool) : c.loopActive n = s.ctx.loopActive n := loopActive_landAll s.freeCtr s.ctx n
  rw [ht]
  simp [Ctx.trapRegs, hloops, hf.tr, hf.pend, hf.sb]

/-- Settles O7: TRAP and BRK are slots that only stop; trap entry lands what is pending and then writes the trap registers. -/
theorem trapsAreTaken : Obligations.TrapsAreTaken := ⟨softwareTrapsComplete, trapEntryFollowsR108⟩

/-! ### What landing leaves of the engines' queues -/

/-- A change of engine instructions that keeps their places in program order keeps the queues as they stand in it. -/
theorem queued_mapOps (e : Engines) (f : EngOp → EngOp) (hf : ∀ o, (f o).id = o.id) (id : Nat) :
    (e.mapOps f).queued id = e.queued id := by
  simp [Engines.queued, Engines.mapOps, hf, Function.comp_def]

theorem clobber_id (o : EngOp) (reg : Bool) (xs : List SlotByte) : (o.clobber reg xs).id = o.id := by
  unfold EngOp.clobber
  dsimp only
  split <;> rfl

theorem queued_unsettle (e : Engines) (rs : List (Bool × Nat × Nat)) (id : Nat) : (e.unsettle rs).queued id = e.queued id :=
  queued_mapOps e _ (fun o => by split <;> rfl) id

theorem queued_clobber (e : Engines) (reg : Bool) (xs : List SlotByte) (id : Nat) : (e.clobber reg xs).queued id = e.queued id :=
  (queued_unsettle _ _ id).trans (queued_mapOps e _ (fun o => clobber_id o reg xs) id)

theorem queued_landBytes (ctr : Nat) (c : Ctx) (reg : Bool) (a : Nat) (bs : List (Option Byte)) (id : Nat) :
    (c.landBytes ctr reg a bs).eng.queued id = c.eng.queued id := by
  unfold Ctx.landBytes
  split
  · split <;> rfl
  · exact (queued_clobber _ _ _ id).trans (by split <;> rfl)

theorem queued_writeDst (ctr : Nat) (c : Ctx) (d : PDest) (id : Nat) : (c.writeDst ctr d).eng.queued id = c.eng.queued id := by
  cases d with
  | vec addr bytes side => exact queued_landBytes ctr c true addr bytes id
  | spad addr bytes => exact queued_landBytes ctr c false addr bytes id
  | sreg | pred | kmask | flags | fault => rfl

theorem queued_hideStore (c : Ctx) (p : Pending) (id : Nat) : (c.hideStore p).eng.queued id = c.eng.queued id := by
  unfold Ctx.hideStore
  split
  · exact queued_mapOps c.eng _ (fun o => by split <;> rfl) id
  · rfl

theorem queued_landAll (ctr : Nat) (c : Ctx) (id : Nat) : (c.landAll ctr).eng.queued id = c.eng.queued id := by
  refine foldl_keeps (fun c : Ctx => c.eng.queued id) (Ctx.landOne ctr) (fun c p => ?_) _ _
  unfold Ctx.landOne
  split
  · rfl
  · exact (queued_hideStore _ p id).trans (queued_writeDst ctr c p.dst id)

/-! ### A trap that aborts its task (R91, R111) -/

/-- The instructions of the task that have not started are gone, and so are the accesses of those that stood in a queue. -/
def aborted (s t : State) : Prop :=
  t.ctx.eng.qm = [] ∧ t.ctx.eng.q0 = [] ∧ t.ctx.eng.q1 = [] ∧
    ∀ a ∈ t.ctx.eng.accs, a ∈ s.ctx.eng.accs ∧ s.ctx.eng.queued a.id = false

/-- A kill of a task whose engines hold what those of `s` do leaves none of its unstarted instructions. -/
theorem aborted_beginKill {s u : State} (reason : Nat) (g2 g1 : W64 × W64 × W64) (haccs : u.ctx.eng.accs = s.ctx.eng.accs)
    (hq : ∀ id, u.ctx.eng.queued id = s.ctx.eng.queued id) : aborted s (beginKill u reason g2 g1) := by
  refine ⟨rfl, rfl, rfl, fun a ha => ?_⟩
  obtain ⟨hmem, hkeep⟩ := List.mem_filter.mp ha
  rw [(landAll_frame u.freeCtr u.ctx).accs] at hmem
  rw [queued_landAll, hq, Bool.not_eq_true', Bool.or_eq_false_iff] at hkeep
  exact ⟨haccs ▸ hmem, hkeep.2⟩

/-- Inside a handler, trap entry begins a kill with reason 1 (R111). -/
theorem enterTrap_in_handler {s : State} (cause tval tpc tnpc : W64) (hin : s.ctx.inTrap = true) :
    enterTrap s cause tval tpc tnpc = beginKill { s with ctx := s.ctx.landAll s.freeCtr } 1 (cause, tpc, tval)
      (s.ctx.tr.copyCause, s.ctx.tr.copyPc, s.ctx.tr.copyVal) := by
  rw [enterTrap, inTrap_landAll, hin, (landAll_frame s.freeCtr s.ctx).tr]
  rfl

/-- With TVEC at or beyond the end of the code, trap entry begins one as the fetch of TVEC fails (R91, R111). -/
theorem enterTrap_outside_code {s : State} (cause tval tpc tnpc : W64) (hin : s.ctx.inTrap = false)
    (hvec : s.ctx.codeLen ≤ s.ctx.tr.tvec.toNat) :
    enterTrap s cause tval tpc tnpc = beginKill { s with ctx := (s.ctx.landAll s.freeCtr).trapRegs cause tval tpc tnpc } 1
      (causeProtection, s.ctx.tr.tvec, s.ctx.tr.tvec) (cause, tpc, tval) := by
  have htr := (landAll_frame s.freeCtr s.ctx).tr
  have hout : (s.ctx.landAll s.freeCtr).codeLen ≤ (s.ctx.landAll s.freeCtr).tr.tvec.toNat := by
    rw [codeLen_landAll, htr]; exact hvec
  rw [enterTrap, inTrap_landAll, hin]
  exact (if_pos hout).trans (by rw [htr])

/-- Settles O8: trap entry begins a kill, which drops what has not started. -/
theorem trapInHandlerAborts : Obligations.TrapInHandlerAborts := by
  intro s cause tval tpc tnpc t _
  have hf := landAll_frame s.freeCtr s.ctx
  have hgone (c : Ctx) (heng : c.eng = (s.ctx.landAll s.freeCtr).eng) (g2 g1 : W64 × W64 × W64) :
      aborted s (beginKill { s with ctx := c } 1 g2 g1) :=
    aborted_beginKill 1 g2 g1 ((congrArg Engines.accs heng).trans hf.accs) fun id =>
      (congrArg (Engines.queued · id) heng).trans (queued_landAll s.freeCtr s.ctx id)
  constructor
  · intro hin
    show t.mode = _ ∧ t.ctx.tr = _ ∧ aborted s t
    rw [show t = _ from enterTrap_in_handler cause tval tpc tnpc hin]
    exact ⟨rfl, (landAll_frame s.freeCtr (s.ctx.landAll s.freeCtr)).tr.trans hf.tr, hgone _ rfl _ _⟩
  · intro hin hvec
    show t.mode = _ ∧ aborted s t
    rw [show t = _ from enterTrap_outside_code cause tval tpc tnpc hin hvec]
    exact ⟨rfl, hgone ((s.ctx.landAll s.freeCtr).trapRegs cause tval tpc tnpc) rfl _ _⟩

/-! ### TEND and RTE (R94, R96) -/

theorem loopEnd_eng (c : Ctx) (was wrote : Bool → Bool) (ba nb : W64) : (c.loopEnd was wrote ba nb).eng = c.eng := by
  unfold Ctx.loopEnd
  dsimp only
  (repeat' split) <;> rfl

/-- TEND closes its bundle, after its loop-end action, with every exposed result landed. -/
theorem tend_closes {s : State} {g : SGuard} (hg : sGuard s g = true) :
    exec (.tend g) s = .next (closeBundle
      { s with ctx := s.ctx.loopEnd (fun n => s.ctx.loopActive n) (fun _ => false) s.ctx.regs.pc (s.nb (.tend g)) }
      [(0, { SlotSem.nop with ends := true })]) := by
  show issueOne s (.tend g) (semTend g) = _
  rw [issueOne, semTend, sSlot_no_regs _ hg, issueBundle_one _ _ _ _ rfl rfl rfl rfl]
  simp only [commit, nextPc, applySlots, List.foldl_cons, List.foldl_nil, SlotSem.nop, id, List.findSome?_cons, List.findSome?_nil,
    List.any_cons, List.any_nil, Bool.or_false, ite_self]
  rfl

theorem tendCompletes : TendCompletes := by
  intro s g hg
  refine ⟨⟨_, tend_closes hg, rfl, (landAll_frame _ _).pend, ?_⟩, ?_⟩
  · exact (undone_instr (landAll_frame _ _)).trans
      (congrArg (fun e : Engines => e.undone.map EngOp.instr) (loopEnd_eng s.ctx _ _ _ _))
  · rintro ⟨hp, -, h0, h1⟩
    rw [tend_closes hg, loopEnd_plain _ _ _ _ _ h0 h1]
    simp [closeBundle, Ctx.landAll, hp, State.finished, State.spend, State.tick]

theorem rteCompletes : RteCompletes := by
  intro s g hp hg
  show issueOne s (.rte g) (semRte g) = _
  rw [issueOne, semRte, sSlot_no_regs _ hg, issueBundle_one _ _ _ _ rfl rfl rfl rfl]
  exact congrArg Host.Outcome.next (commit_jump s _ s.ctx.returnStatus _ _ rfl rfl rfl rfl rfl (by simp [hp]))

/-- Settles O9: TEND lands what is exposed as its bundle closes; RTE only transfers control. -/
theorem tendAndRteComplete : Obligations.TendAndRteComplete := ⟨tendCompletes, rteCompletes⟩

end Sys2Proof.ScalarControl
end

section
/-! Global accesses (R101, R102, R259): the access of a slot enters the program order of its class. -/

namespace Sys2Proof.ScalarControl

open Sys2Proof Sys2Proof.Machine Sys2Proof.Claims

/-! ### Global accesses (R101, R102) -/

theorem globalVa_eq (s : State) (a : BitVec 6) (off : Option (BitVec 32)) : globalVa s a off = s.ctx.regs.getS a + litOff off := by
  cases off with
  | none => exact (BitVec.add_zero _).symm
  | some v => rfl

/-- GLD as a slot: what its check of the address answers decides whether it stops, and what its access translates to. -/
theorem gld_sem {s : State} {g : SGuard} (d a : BitVec 6) (sz : BitVec 2) (cls : BitVec 4) (off : Option (BitVec 32)) (h : s.ready)
    (hg : sGuard s g = true) :
    let i := Instr.gld g d a sz cls off
    let va := globalVa s a off
    let chk := globalCheck s va (2 ^ sz.toNat) .read
    semGld g d a sz cls off s (alone s i) =
      { SlotSem.effect [.dst (.sreg d 0)] (fun t =>
          { t with
            ctx := (t.ctx.addAccess (accessOf s .load cls chk.2.1 chk.2.2 va (2 ^ sz.toNat) [])).addSb t.freeCtr ((alone s i).site 16)
              ⟨t.ctx.pipe.nextId, .sreg d, .load t.ctx.pipe.nextId, va, false, []⟩ [.sreg d 0] }) with
        stop := chk.1
        offcore := true } := by
  simp only [semGld, sSlot_ready _ _ _ _ hg h.2.1, readS_quiet _ _ _ h.1, globalVa_eq]
  rfl

/-- GST as a slot. -/
theorem gst_sem {s : State} {g : SGuard} (d a : BitVec 6) (sz : BitVec 2) (cls : BitVec 4) (off : Option (BitVec 32)) (h : s.ready)
    (hg : sGuard s g = true) :
    let va := globalVa s a off
    let chk := globalCheck s va (2 ^ sz.toNat) .write
    semGst g d a sz cls off s (alone s (.gst g d a sz cls off)) =
      { SlotSem.effect [] (fun t =>
          { t with
            ctx := t.ctx.addAccess (accessOf s .store cls chk.2.1 chk.2.2 va (2 ^ sz.toNat)
              (leBytes (2 ^ sz.toNat) (s.ctx.regs.getS d).toNat)) }) with
        stop := chk.1
        offcore := true } := by
  simp only [semGst, sSlot_ready _ _ _ _ hg h.2.1, readS_quiet _ _ _ h.1, globalVa_eq]
  rfl

theorem globalCheck_above {s : State} {va : W64} (size : Nat) (mode : AccMode) (h : 2 ^ 57 ≤ va.toNat) :
    globalCheck s va size mode = (some (.trap causeProtection va), 0, 0) :=
  if_pos (by simpa [vaOk] using h)

theorem globalCheck_unaligned {s : State} {va : W64} {size : Nat} (mode : AccMode) (hva : va.toNat < 2 ^ 57) (h : va.toNat % size ≠ 0) :
    globalCheck s va size mode = (some (.trap 0x07 va), 0, 0) :=
  (if_neg (by simpa [vaOk] using hva)).trans (if_pos (by simpa using h))

/-- Below 2^57 and aligned, an access meets what its translation answers. -/
theorem globalCheck_aligned {s : State} {va : W64} {size : Nat} (mode : AccMode) (hva : va.toNat < 2 ^ 57) (h : va.toNat % size = 0) :
    globalCheck s va size mode =
      (match translate s va.toNat mode with
       | .ok key leaf => (none, key, leaf)
       | .miss pg => (some (.page pg), 0, 0)
       | .unresolvable => (some (.unresolvable va), 0, 0)
       | .protection => (some (.trap causeProtection va), 0, 0)
       | .waits => (some .hold, 0, 0)) :=
  (if_neg (by simpa [vaOk] using hva)).trans (if_neg (by simpa using h))

/-- A scoreboarded result after an access, in a quiet pipeline: it is the one result owed. -/
theorem addSb_withAccess (s : State) (kind : AccKind) (cls : BitVec 4) (key : Nat) (leaf va : W64) (size : Nat) (data : List Byte)
    (ctr site : Nat) (e : SbEntry) (ds : List PDest) (h : s.ready) (hl : e.lost = false) (hu : e.under = []) :
    (s.ctx.addAccess (accessOf s kind cls key leaf va size data)).addSb ctr site e ds =
      (let c := withAccess s kind cls key leaf va data size
       { c with pipe := { c.pipe with sb := [e] } }) := by
  obtain ⟨hp, hb, -⟩ := h
  obtain ⟨⟩ := e
  subst hl hu
  rw [addSb_quiet _ _ (s.ctx.addAccess _) _ _ hp]
  simp [Ctx.addAccess, withAccess, accessOf, hb]

/-- Settles O11: a check that finds a page leaves a slot of one access, whose owed result is the scoreboard's. -/
theorem globalAccessesComplete : Obligations.GlobalAccessesComplete := by
  intro s g d a sz cls off key leaf hr hg hroom va size hva halign
  constructor
  · intro htr
    have hchk : globalCheck s va size .read = (none, key, leaf) := by rw [globalCheck_aligned _ hva halign, htr]
    refine issueOne_access s _ (semGld g d a sz cls off) _ _ hr (gld_sem d a sz cls off hr hg) rfl (congrArg Prod.fst hchk) rfl hroom ?_
      rfl rfl ⟨rfl, rfl⟩ rfl rfl ?_
    · show { s with ctx := Ctx.addSb _ _ (s.ctx.addAccess (accessOf s .load cls (globalCheck s va size .read).2.1 _ va size [])) _ _ } = _
      rw [hchk, addSb_withAccess s .load cls key leaf va size [] _ _ _ _ hr rfl rfl]
    · simp [withAccess, hr.1]
  · intro htr
    have hchk : globalCheck s va size .write = (none, key, leaf) := by rw [globalCheck_aligned _ hva halign, htr]
    refine issueOne_access s _ (semGst g d a sz cls off) _ _ hr (gst_sem d a sz cls off hr hg) rfl (congrArg Prod.fst hchk) rfl hroom ?_
      rfl rfl ⟨rfl, rfl⟩ rfl rfl ?_
    · show { s with ctx := s.ctx.addAccess (accessOf s .store cls (globalCheck s va size .write).2.1 _ va size _) } = _
      rw [hchk]
      rfl
    · simp [withAccess, hr.1]

end Sys2Proof.ScalarControl
end

section
/-! Slots that only stop (R107): the checks of scratchpad and global accesses, and what the rows of vector operations are as slots (R98,
R101). -/

namespace Sys2Proof.ScalarControl

open Sys2Proof Sys2Proof.Machine Sys2Proof.Claims

/-! ### A bundle that takes the trap of its one slot (R107) -/

/-- A slot that only stops takes its trap. -/
theorem traps_of_stop {s : State} {i : Instr} {sem : State → At → SlotSem} {cause val : W64} (hexec : exec i s = issueOne s i sem)
    (hst : (sem s (alone s i)).stall = false) (hq : (sem s (alone s i)).enq = none) (ho : (sem s (alone s i)).offcore = false)
    (hsp : (sem s (alone s i)).stop = some (.trap cause val)) : traps s i cause val :=
  hexec.trans (issueOne_stop s i sem _ _ rfl hst hq ho hsp)

theorem spadCheck_unaligned {s : State} {va : W64} {align : Nat} (n : Nat) (h : va.toNat % align ≠ 0) :
    spadCheck s va align n = some (.trap 0x07 va) := if_pos (by simpa using h)

theorem spadCheck_outside {s : State} {va : W64} {align n : Nat} (h : va.toNat % align = 0) (hout : s.ctx.spSize < va.toNat + n) :
    spadCheck s va align n = some (.trap 0x08 va) := (if_neg (by simpa using h)).trans (if_pos hout)

/-- A slot that stops exactly where its scratchpad address fails checks the alignment first and the range after it. -/
theorem traps_of_spadCheck {s : State} {i : Instr} {sem : State → At → SlotSem} {va : W64} {align n : Nat}
    (hexec : exec i s = issueOne s i sem) (hst : (sem s (alone s i)).stall = false) (hq : (sem s (alone s i)).enq = none)
    (ho : (sem s (alone s i)).offcore = false) (hsp : (sem s (alone s i)).stop = spadCheck s va align n) :
    (va.toNat % align ≠ 0 → traps s i 0x07 va) ∧
      (va.toNat % align = 0 → s.ctx.spSize < va.toNat + n → traps s i 0x08 va) :=
  ⟨fun h => traps_of_stop hexec hst hq ho (hsp.trans (spadCheck_unaligned n h)),
    fun h hout => traps_of_stop hexec hst hq ho (hsp.trans (spadCheck_outside h hout))⟩

/-! ### Scratchpad accesses of the S slot (R98) -/

theorem spadAddr_quiet {s : State} (p : At) (size : Nat) (a : BitVec 6) (off : Imm 6) (h : s.ready) :
    spadAddr s p size a off = smemVa s size a off := by
  rw [spadAddr, readS_quiet _ _ _ h.1]
  cases off <;> rfl

theorem exec_ldsRow : ∀ row ∈ ldsRows, ∀ (s : State) (g : SGuard) (d a : BitVec 6) (off : Imm 6),
    exec (row.1 g d a off) s = issueOne s (row.1 g d a off) (loadSpad row.2 g d a off) := by
  simp only [ldsRows, List.forall_mem_cons]
  exact ⟨fun _ _ _ _ _ => rfl, fun _ _ _ _ _ => rfl, fun _ _ _ _ _ => rfl, fun _ _ _ _ _ => rfl, by simp⟩

theorem exec_stsRow : ∀ row ∈ stsRows, ∀ (s : State) (g : SGuard) (d a : BitVec 6) (off : Imm 6),
    exec (row.1 g d a off) s = issueOne s (row.1 g d a off) (storeSpad row.2 g d a off) := by
  simp only [stsRows, List.forall_mem_cons]
  exact ⟨fun _ _ _ _ _ => rfl, fun _ _ _ _ _ => rfl, fun _ _ _ _ _ => rfl, fun _ _ _ _ _ => rfl, by simp⟩

theorem scratchpadChecksTrap : ScratchpadChecksTrap := by
  intro row hrow s g d a off hr hg va trapped
  have hva (i : Instr) : spadCheck s (spadAddr s (alone s i) row.2 a off) row.2 row.2 = spadCheck s va row.2 row.2 :=
    congrArg (spadCheck s · row.2 row.2) (spadAddr_quiet _ _ a off hr)
  have hbusy : spadBusy s = false := spadBusy_quiet s hr.2.1
  obtain hrow | hrow := List.mem_append.mp hrow
  · have hexec := exec_ldsRow row hrow s g d a off
    apply traps_of_spadCheck hexec <;> rw [loadSpad, sSlot_ready _ _ _ _ hg hr.2.1]
    · exact hbusy
    · rfl
    · rfl
    · exact hva _
  · have hexec := exec_stsRow row hrow s g d a off
    apply traps_of_spadCheck hexec <;> rw [storeSpad, sSlot_ready _ _ _ _ hg hr.2.1]
    · exact hbusy
    · rfl
    · rfl
    · exact hva _

/-! ### Global accesses (R101) -/

/-- The fault record of an unresolvable fault goes to the host; of the machine's memory only the host's refusals change, once each
(R112, R255). -/
theorem takeStop_unresolvable (s : State) (va ba nb : W64) :
    ∃ t, takeStop s (.unresolvable va) ba nb = enterTrap t 0x0A va ba nb ∧ t.ctx = s.ctx ∧ t.mode = s.mode ∧
      t.host = s.host ++ [.faultRecord (faultRecord 3 s.ctx.ctl.wid s.ctx.ctl.lcore.toNat Config.pcore.toNat (0x0A, ba, va) (0, 0, 0))] ∧
      t.mem.gmem = s.mem.gmem ∧ t.sched = s.sched := by
  refine ⟨_, rfl, ?_⟩
  simp [State.record, MemSys.spendRefusals]

/-- A global access whose check stops it takes that stop. -/
theorem issueOne_globalStop {s : State} {i : Instr} {sem : State → At → SlotSem} {st : Stop} {k : Nat × W64} {size : Nat} {va : W64}
    {mode : AccMode} (hroom : accessRoom s) (hst : (sem s (alone s i)).stall = false) (hq : (sem s (alone s i)).enq = none)
    (hsp : (sem s (alone s i)).stop = (globalCheck s va size mode).1) (hchk : globalCheck s va size mode = (some st, k)) :
    issueOne s i sem = .next (takeStop s st s.ctx.regs.pc (s.nb i)).spend.tick :=
  issueOne_stop_access s i sem st hroom hst hq (hsp.trans (congrArg Prod.fst hchk))

/-- What GLD and GST do where their check of the address answers a stop. -/
theorem exec_globalStop {s : State} {g : SGuard} (d a : BitVec 6) (sz : BitVec 2) (cls : BitVec 4) (off : Option (BitVec 32))
    (h : s.ready) (hg : sGuard s g = true) (hroom : accessRoom s) :
    ∀ p ∈ [(Instr.gld g d a sz cls off, AccMode.read), (Instr.gst g d a sz cls off, AccMode.write)], ∀ (st : Stop) (k : Nat × W64),
      globalCheck s (globalVa s a off) (2 ^ sz.toNat) p.2 = (some st, k) →
        exec p.1 s = .next (takeStop s st s.ctx.regs.pc (s.nb p.1)).spend.tick := by
  simp only [List.forall_mem_cons]
  refine ⟨fun st k hchk => ?_, fun st k hchk => ?_, by simp⟩
  · have hsem := gld_sem d a sz cls off h hg
    exact issueOne_globalStop (sem := semGld g d a sz cls off) hroom (congrArg SlotSem.stall hsem) (congrArg SlotSem.enq hsem)
      (congrArg SlotSem.stop hsem) hchk
  · have hsem := gst_sem d a sz cls off h hg
    exact issueOne_globalStop (sem := semGst g d a sz cls off) hroom (congrArg SlotSem.stall hsem) (congrArg SlotSem.enq hsem)
      (congrArg SlotSem.stop hsem) hchk

theorem globalAccessesTrap : GlobalAccessesTrap := by
  intro s g d a sz cls off hr hg hroom p hp va trapped
  have hstop := exec_globalStop d a sz cls off hr hg hroom p hp
  refine ⟨fun habove => hstop _ _ (globalCheck_above _ _ habove), fun hva => ⟨fun hal => hstop _ _ (globalCheck_unaligned _ hva hal),
    fun hal => ⟨fun htr => ?_, fun htr => ?_, fun pg htr => ?_⟩⟩⟩
  all_goals
    have hchk := globalCheck_aligned (s := s) p.2 hva hal
    rw [htr] at hchk
    have hexec := hstop _ _ hchk
  · exact hexec
  · obtain ⟨t, ht, hrest⟩ := takeStop_unresolvable s va s.ctx.regs.pc (s.nb p.1)
    exact ⟨t, ht ▸ hexec, hrest⟩
  · exact hexec

/-! ### Vector operands: tags and ports (R107, R151, R179) -/

/-- Only what a slot is at its own bundle counts. -/
theorem issueOne_congr {s : State} {i : Instr} {sem sem' : State → At → SlotSem} (h : sem s (alone s i) = sem' s (alone s i)) :
    issueOne s i sem = issueOne s i sem' := by
  simp only [issueOne, h]

theorem exec_vec2Row : ∀ row ∈ vec2Rows, ∀ (s : State) (m : VMask) (d a b : BitVec 6),
    exec (row.1 m d a b) s = issueOne s (row.1 m d a b) (vec2 row.2.1 row.2.2.1 (row.2.2.2 s) m d a b) := by
  simp only [vec2Rows, List.forall_mem_cons]
  exact ⟨fun s m d a b => issueOne_congr (sem := semVadd m d a b) rfl, fun s m d a b => issueOne_congr (sem := semVsub m d a b) rfl,
    fun s m d a b => issueOne_congr (sem := semVmul m d a b) rfl, fun _ _ _ _ _ => rfl, fun _ _ _ _ _ => rfl,
    fun _ _ _ _ _ => rfl, fun _ _ _ _ _ => rfl, fun _ _ _ _ _ => rfl, fun _ _ _ _ _ => rfl, fun _ _ _ _ _ => rfl,
    fun _ _ _ _ _ => rfl, fun _ _ _ _ _ => rfl, by simp⟩

theorem exec_vec1Row : ∀ row ∈ vec1Rows, ∀ (s : State) (m : VMask) (d a : BitVec 6),
    exec (row.1 m d a) s = issueOne s (row.1 m d a) (vec1 row.2.1 row.2.2.1 lanewise (perLane row.2.2.2) m d a) := by
  simp only [vec1Rows, List.forall_mem_cons]
  exact ⟨fun _ _ _ _ => rfl, fun _ _ _ _ => rfl, fun _ _ _ _ => rfl, fun _ _ _ _ => rfl, fun _ _ _ _ => rfl, fun _ _ _ _ => rfl,
    fun _ _ _ _ => rfl, by simp⟩

end Sys2Proof.ScalarControl
end

section
/-! The checks of vector operations: tags, stream ports and vector accesses of the scratchpad (R107, R151, R172 to R176, R179). -/

namespace Sys2Proof.ScalarControl

open Sys2Proof Sys2Proof.Machine Sys2Proof.Claims

/-- A register that no engine instruction writes, as a source of a V slot. -/
theorem vecSrc_of_vsrcOk {s : State} {v : BitVec 6} (p : At) (field : Nat) (prior : List Nat) (hr : s.ready) (hv : vsrcOk s v) :
    vecSrc s p field v 0 prior = ⟨field, some (vtag s v), s.ctx.regBytes (s.ctx.vecAddr v.toNat) 256,
      s.ctx.basin.sideAt (s.ctx.vecAddr v.toNat), s.ctx.vecAddr v.toNat, none, true⟩ :=
  vecSrc_reg s p field v 0 prior hr hv.1.1 hv.2

theorem vecRange_of_vregOk {s : State} {v : BitVec 6} (p : At) (field : Nat) (hv : vregOk s v) : vecRange s p field v 1 = none :=
  vecRange_reg s p field v 1 hv.2

theorem dstBusy_of_reg {s : State} {v : BitVec 6} (n pushes : Nat) (hr : s.ready) (hv : v.toNat < 60) :
    dstBusy s v n pushes = false := by
  simp only [dstBusy, portOf_reg _ hv, vBusy_quiet _ _ _ hr.2.1]

theorem firstStop_nil : firstStop [] = none := rfl

theorem firstStop_cons (o : Option Stop) (os : List (Option Stop)) : firstStop (o :: os) = o.or (firstStop os) := by
  cases o <;> rfl

/-! ### Tags that differ (R107, R151) -/

theorem formatStop_alone (s : State) (i : Instr) (field : Nat) (found expected : Fmt) (addr : Nat) :
    formatStop (alone s i) field found expected addr = .trap 0x04 (formatVal field found expected addr) := by
  simp [formatStop, trapOf, formatVal, alone]

/-- A two-source operation on two registers whose tags differ stops at field B, whose tag is not that of field A. -/
theorem vec2_stop_of_ne {s : State} {ok : Fmt → Bool} {m : VMask} {d a b : BitVec 6} (lat : Nat) (f : Fmt → Nat → Nat → Elem)
    (p : At) (hr : s.ready) (hm : m.k = 0) (hd : vregOk s d) (ha : vsrcOk s a) (hb : vsrcOk s b) (hok : ok (vtag s a) = true)
    (hne : vtag s b ≠ vtag s a) :
    (vec2 ok lat f m d a b s p).stop = some (formatStop p 2 (vtag s b) (vtag s a) (s.ctx.vecAddr b.toNat)) := by
  have hx := vecSrc_of_vsrcOk p 1 [] hr ha
  have hy := vecSrc_of_vsrcOk p 2 (popsOf a 1) hr hb
  have hdst (rt : Fmt) : checkDst s p m d 1 ok (some rt) = none := checkDst_reg s p _ d 1 _ rt hd.1 (.inl hm)
  simp [vec2, srcs2, hx, hy, vecSlot, vecRange_of_vregOk _ _ hd, vecRange_of_vregOk _ _ ha.1, vecRange_of_vregOk _ _ hb.1,
    refTag, hdst, checkTags, hok, hne, firstStop_cons]

theorem tagMismatchTraps : TagMismatchTraps := by
  intro row hrow s d a b hr ha hb hd hok hne
  have hx (p : At) := vecSrc_of_vsrcOk p 1 [] hr ha
  have hy (p : At) := vecSrc_of_vsrcOk p 2 (popsOf a 1) hr hb
  refine traps_of_stop (exec_vec2Row row hrow s _ d a b) ?_ rfl rfl ?_
  · simp [vec2, srcs2, hx, hy, vecSlot, underMask, VSrc.under, dstBusy_of_reg _ _ hr hd.1]
  · rw [vec2_stop_of_ne _ _ _ hr rfl hd ha hb hok hne, formatStop_alone]

/-! ### Ports that are not bound (R107, R179) -/

theorem portOf_port {q : Nat} (hq : q < 4) : portOf (BitVec.ofNat 6 (60 + q)) = some q := by
  have hn : (BitVec.ofNat 6 (60 + q)).toNat = 60 + q := by
    rw [BitVec.toNat_ofNat]; omega
  simp [portOf, hn]

theorem streamStop_alone (s : State) (i : Instr) (field q : Nat) :
    streamStop (alone s i) field q = .trap 0x11 (streamVal field q) := by
  simp [streamStop, trapOf, streamVal, alone]

theorem vecRange_of_port {s : State} {v : BitVec 6} {q : Nat} (p : At) (field n : Nat) (hv : portOf v = some q) :
    vecRange s p field v n = none := by
  refine if_pos ?_
  by_contra h
  simp [portOf, h] at hv

/-- A port that is not bound as a source has no tag and is never waited for. -/
theorem vecSrc_of_unbound {s : State} {v : BitVec 6} {q : Nat} (p : At) (field : Nat) (hv : portOf v = some q)
    (hst : (s.ctx.port q).st ≠ .source) : ∃ bytes, vecSrc s p field v 0 [] = ⟨field, none, bytes, zeroSide, 0, none, true⟩ := by
  refine ⟨List.replicate 256 0, ?_⟩
  rw [vecSrc, hv]
  exact if_neg (by simpa using hst)

/-- A one-source operation of a port that is not bound as a source waits for nothing and stops at field A. -/
theorem vec1_of_unbound_source {s : State} {ok : Fmt → Bool} {m : VMask} {d v : BitVec 6} {q : Nat} (lat : Nat)
    (f : Fmt → Nat → Elem) (p : At) (hr : s.ready) (hd : vregOk s d) (hv : portOf v = some q) (hst : (s.ctx.port q).st ≠ .source) :
    (vec1 ok lat lanewise (perLane f) m d v s p).stall = false ∧
      (vec1 ok lat lanewise (perLane f) m d v s p).stop = some (streamStop p 1 q) := by
  obtain ⟨bytes, hx⟩ := vecSrc_of_unbound p 1 hv hst
  constructor
  · simp [vec1, hx, vecSlot, VSrc.under, dstBusy_of_reg _ _ hr hd.1]
  · simp [vec1, hx, vecSlot, vecRange_of_vregOk _ _ hd, vecRange_of_port _ _ _ hv, refTag, checkDst, checkTags,
      dstStream_reg _ _ _ hd.1, srcStream, hv, hst, firstStop_cons]

/-- A one-source operation into a port that is not a sink waits for nothing and stops at field D. -/
theorem vec1_of_unbound_sink {s : State} {ok : Fmt → Bool} {m : VMask} {v a : BitVec 6} {q : Nat} (lat : Nat)
    (f : Fmt → Nat → Elem) (p : At) (hr : s.ready) (ha : vsrcOk s a) (hok : ok (vtag s a) = true) (hv : portOf v = some q)
    (hst : (s.ctx.port q).st ≠ .sink) :
    (vec1 ok lat lanewise (perLane f) m v a s p).stall = false ∧
      (vec1 ok lat lanewise (perLane f) m v a s p).stop = some (streamStop p 0 q) := by
  have hx := vecSrc_of_vsrcOk p 1 [] hr ha
  constructor
  · simp [vec1, hx, vecSlot, VSrc.under, dstBusy, hv, hst]
  · simp [vec1, hx, vecSlot, vecRange_of_vregOk _ _ ha.1, vecRange_of_port _ _ _ hv, refTag, checkDst, hv, hst, checkTags, hok,
      dstStream, firstStop_cons]

theorem unboundPortsTrap : UnboundPortsTrap := by
  intro row hrow s m q hq hr port
  have hport : portOf port = some q := portOf_port hq
  refine ⟨fun d hd hst => ?_, fun a ha hok hst => ?_⟩
  · obtain ⟨hstall, hstop⟩ := vec1_of_unbound_source row.2.2.1 row.2.2.2 (alone s (row.1 m d port)) hr hd hport hst
    exact traps_of_stop (exec_vec1Row row hrow s m d port) hstall rfl rfl (hstop.trans (congrArg some (streamStop_alone ..)))
  · obtain ⟨hstall, hstop⟩ := vec1_of_unbound_sink row.2.2.1 row.2.2.2 (alone s (row.1 m port a)) hr ha hok hport hst
    exact traps_of_stop (exec_vec1Row row hrow s m port a) hstall rfl rfl (hstop.trans (congrArg some (streamStop_alone ..)))

/-! ### Vector accesses of the scratchpad (R172, R173, R176) -/

theorem vecMemAddr_quiet {s : State} (p : At) (a : BitVec 6) (off : Option (BitVec 32)) (hr : s.ready) :
    vecMemAddr s p a off = globalVa s a off := by
  rw [vecMemAddr, readS_quiet _ _ _ hr.1, globalVa_eq]

theorem vld_checks {s : State} {m : VMask} {d : BitVec 6} (a : BitVec 6) {f : BitVec 4} (off : Option (BitVec 32)) (hr : s.ready)
    (hd : vdstOk s m d (Fmt.ofCode f)) :
    (semVld m d a f off s (alone s (.vld m d a f off))).stall = false ∧
      (semVld m d a f off s (alone s (.vld m d a f off))).stop =
        spadCheck s (globalVa s a off) 32 (granuleLen (Fmt.ofCode f)) := by
  have hdst (p : At) : checkDst s p m d 1 (fun _ => true) (some (Fmt.ofCode f)) = none :=
    checkDst_reg s p m d 1 _ _ hd.1.1 (hd.2.imp_right (Or.imp_right fun ht i hi => by
      obtain rfl : i = 0 := by omega
      exact ht))
  constructor
  · simp [semVld, vecSlot, dstBusy_of_reg _ _ hr hd.1.1, sBusy_quiet _ _ hr.2.1, spadBusy_quiet _ hr.2.1]
  · simp [semVld, vecSlot, vecMemAddr_quiet _ _ _ hr, vecRange_of_vregOk _ _ hd.1, hdst, pushStop, portOf_reg _ hd.1.1, firstStop_cons,
      firstStop_nil, granuleBytes, granuleLen]

theorem vst_checks {s : State} {k : BitVec 3} {d : BitVec 6} (a : BitVec 6) {f : BitVec 4} (off : Option (BitVec 32)) (hr : s.ready)
    (hd : vsrcOk s d) (hf : f = 0 ∨ Fmt.ofCode f = vtag s d) (hk : (vtag s d).isBlk = true ∨ vtag s d = .raw → k = 0) :
    (semVst k d a f off s (alone s (.vst k d a f off))).stall = false ∧
      (semVst k d a f off s (alone s (.vst k d a f off))).stop = spadCheck s (globalVa s a off) 32 (granuleLen (vtag s d)) := by
  have hx (p : At) := vecSrc_of_vsrcOk p 0 [] hr hd
  have hfmt1 (p : At) (x : VSrc) (hx : x.tag = some (vtag s d)) : (if f = 0 then none else checkIs p x (Fmt.ofCode f)) = none := by
    obtain rfl | hf := hf
    · rfl
    · simp [checkIs, hx, hf]
  have hfmt2 (st : Stop) : (if ((vtag s d).isBlk || vtag s d == .raw) && k != 0 then some st else none) = none := by
    refine if_neg ?_
    simpa using hk
  constructor
  · simp [semVst, srcSlot, SlotSem.effect, hx, underMask, VSrc.under, sBusy_quiet _ _ hr.2.1, spadBusy_quiet _ hr.2.1]
  · simp only [semVst, srcSlot, hx, Option.getD_some, beq_iff_eq, hfmt1, hfmt2, vecRange_of_vregOk _ _ hd.1, vecMemAddr_quiet _ _ _ hr]
    simp [firstStop_cons, firstStop_nil, underMask, VSrc.under, popStop, granuleBytes, granuleLen]

theorem vldm_checks {s : State} (q : BitVec 3) (a : BitVec 6) (off : Option (BitVec 32)) (hr : s.ready) :
    (semVldm q a off s (alone s (.vldm q a off))).stall = false ∧
      (semVldm q a off s (alone s (.vldm q a off))).stop = spadCheck s (globalVa s a off) 64 64 := by
  constructor
  · simp [semVldm, sBusy_quiet _ _ hr.2.1, spadBusy_quiet _ hr.2.1]
  · simp [semVldm, srcSlot, firstStop_cons, firstStop_nil, vecMemAddr_quiet _ _ _ hr]

theorem vectorMemoryTraps : VectorMemoryTraps := by
  intro s m q d a f off hr va checked
  refine ⟨fun hd => ?_, fun hd hf hk => ?_, ?_⟩
  · obtain ⟨hstall, hstop⟩ := vld_checks a off hr hd
    exact traps_of_spadCheck (sem := semVld m d a f off) rfl hstall rfl rfl hstop
  · obtain ⟨hstall, hstop⟩ := vst_checks a off hr hd hf hk
    exact traps_of_spadCheck (sem := semVst m.k d a f off) rfl hstall rfl rfl hstop
  · obtain ⟨hstall, hstop⟩ := vldm_checks q a off hr
    exact traps_of_spadCheck (sem := semVldm q a off) rfl hstall rfl rfl hstop

/-! ### Gathers and scatters (R174, R175) -/

theorem findSome?_filter {α β : Type} (xs : List α) (p : α → Bool) (f : α → Option β) :
    (xs.filter p).findSome? f = xs.findSome? fun x => if p x then f x else none := by
  induction xs with
  | nil => rfl
  | cons x xs ih => cases hp : p x <;> simp [List.findSome?_cons, hp, ih]

/-- The check of one lane: none where the mask does not select it. -/
def laneCheck (s : State) (size : Nat) (l : W64 × Bool) : Option Stop := if l.2 then spadCheck s l.1 size size else none

/-- An indexed access meets the first check that fails, over its lanes in ascending order. -/
theorem laneStop_eq (s : State) (k : BitVec 3) (a b : BitVec 6) (t : Fmt) (size : Nat) :
    laneStop s (s.ctx.regs.getK k) size (laneAddrs t (vtag s b) (s.ctx.regs.getS a) (vlanes s b (vtag s b))) =
      (laneList s k a b t).findSome? (laneCheck s size) := by
  have hlanes : laneAddrs t (vtag s b) (s.ctx.regs.getS a) (vlanes s b (vtag s b)) =
      (vlanes s b (vtag s b)).map (laneVa s a t (vtag s b)) := rfl
  rw [laneStop, hlanes, activeLanes, findSome?_filter, List.zipIdx_map, laneList, List.findSome?_map, List.findSome?_map]
  rfl

theorem laneCheck_of_inSpad {s : State} {size : Nat} {l : W64 × Bool} (h : l.2 = true → inSpad s l.1 size) :
    laneCheck s size l = none := by
  unfold laneCheck
  split
  · next hl =>
    obtain ⟨halign, hin⟩ := h hl
    exact (if_neg (by simpa using halign)).trans (if_neg (Nat.not_lt.mpr hin))
  · rfl

/-- With every lane before it good, a selected lane decides. -/
theorem laneStop_of_first {s : State} {k : BitVec 3} {a b : BitVec 6} {t : Fmt} {size : Nat} {before after : List (W64 × Bool)}
    {l : W64 × Bool} {st : Stop} (hlist : laneList s k a b t = before ++ l :: after) (hsel : l.2 = true)
    (hgood : ∀ e ∈ before, e.2 = true → inSpad s e.1 size) (hst : spadCheck s l.1 size size = some st) :
    laneStop s (s.ctx.regs.getK k) size (laneAddrs t (vtag s b) (s.ctx.regs.getS a) (vlanes s b (vtag s b))) = some st := by
  have hbefore : before.findSome? (laneCheck s size) = none :=
    List.findSome?_eq_none_iff.mpr fun e he => laneCheck_of_inSpad (hgood e he)
  have hl : laneCheck s size l = some st := (if_pos hsel).trans hst
  rw [laneStop_eq, hlist, List.findSome?_append, hbefore, Option.none_or, List.findSome?_cons, hl]

/-- The format checks of an indexed access pass on a data tag of LOG and an index tag of its width. -/
theorem indexChecks_pass {t it : Fmt} {x y : VSrc} (p : At) (hx : x.tag = some t) (hy : y.tag = some it) (ht : t.isLog = true)
    (hit : indexTag t.width it = true) : indexChecks p x y = [none, none] := by
  simp [indexChecks, hx, hy, checkTags, ht, hit]

/-- VLDX and VSTX as slots: they wait for nothing, and stop where a selected lane fails its check. -/
theorem indexed_checks {s : State} {m : VMask} {d b : BitVec 6} (a : BitVec 6) (hr : s.ready) (hd : vsrcOk s d) (hb : vsrcOk s b)
    (ht : (vtag s d).isLog = true) (hit : indexTag (vtag s d).width (vtag s b) = true) :
    ∀ sem ∈ [semVldx m d a b, semVstx m.k d a b], ∀ p, (sem s p).stall = false ∧
      (sem s p).stop = laneStop s (s.ctx.regs.getK m.k) ((vtag s d).width / 8)
        (laneAddrs (vtag s d) (vtag s b) (s.ctx.regs.getS a) (vlanes s b (vtag s b))) := by
  have hx (p : At) := vecSrc_of_vsrcOk p 0 [] hr hd
  have hy (p : At) := vecSrc_of_vsrcOk p 2 [] hr hb
  have hmask (p : At) : maskOf s p m.k = s.ctx.regs.getK m.k := readK_quiet s _ _ hr.1
  have hpass (p : At) (bx by' sx sy : List Byte) (ax ay : Nat) :
      indexChecks p ⟨0, some (vtag s d), bx, sx, ax, none, true⟩ ⟨2, some (vtag s b), by', sy, ay, none, true⟩ = [none, none] :=
    indexChecks_pass p rfl rfl ht hit
  simp only [List.forall_mem_cons]
  refine ⟨fun p => ⟨?_, ?_⟩, fun p => ⟨?_, ?_⟩, by simp⟩
  · simp [semVldx, srcSlot, SlotSem.effect, hx, hy, underMask, VSrc.under, sBusy_quiet _ _ hr.2.1, spadBusy_quiet _ hr.2.1]
  · simp [semVldx, srcSlot, hx, hy, vecRange_of_vregOk _ _ hd.1, vecRange_of_vregOk _ _ hb.1, hpass, hmask, readS_quiet _ _ _ hr.1,
      VSrc.lanes, vlanes, underMask, VSrc.under, popStop, firstStop_cons, firstStop_nil]
  · simp [semVstx, srcSlot, SlotSem.effect, hx, hy, underMask, VSrc.under, sBusy_quiet _ _ hr.2.1, spadBusy_quiet _ hr.2.1]
  · simp [semVstx, srcSlot, hx, hy, vecRange_of_vregOk _ _ hd.1, vecRange_of_vregOk _ _ hb.1, hpass, hmask, readS_quiet _ _ _ hr.1,
      VSrc.lanes, vlanes, underMask, VSrc.under, popStop, firstStop_cons, firstStop_nil]

theorem indexedLanesTrap : IndexedLanesTrap := by
  intro s m d a b hr hd hb t size ht hit before l after hlist hsel hgood i hi
  have hchecks := indexed_checks (m := m) a hr hd hb ht hit
  obtain ⟨sem, hsem, hexec, hq, ho⟩ : ∃ sem ∈ [semVldx m d a b, semVstx m.k d a b], exec i s = issueOne s i sem ∧
      (sem s (alone s i)).enq = none ∧ (sem s (alone s i)).offcore = false := by
    simp only [List.mem_cons, List.not_mem_nil, or_false] at hi
    obtain rfl | rfl := hi
    · exact ⟨semVldx m d a b, by simp, rfl, rfl, rfl⟩
    · exact ⟨semVstx m.k d a b, by simp, rfl, rfl, rfl⟩
  obtain ⟨hstall, hstop⟩ := hchecks sem hsem (alone s i)
  exact ⟨fun h => traps_of_stop hexec hstall hq ho (hstop.trans (laneStop_of_first hlist hsel hgood (spadCheck_unaligned _ h))),
    fun h hout => traps_of_stop hexec hstall hq ho (hstop.trans (laneStop_of_first hlist hsel hgood (spadCheck_outside h hout)))⟩

/-- Settles O28: in every slot the first check that fails is the one stop of the bundle, whose trap it takes. -/
theorem operandChecksTrap : Obligations.OperandChecksTrap :=
  ⟨scratchpadChecksTrap, globalAccessesTrap, tagMismatchTraps, unboundPortsTrap, vectorMemoryTraps, indexedLanesTrap⟩

end Sys2Proof.ScalarControl
end

section
/-! Task ends and kills (R94, R119, R351). -/

namespace Sys2Proof.ScalarControl

open Sys2Proof Sys2Proof.Machine Sys2Proof.Claims

/-! ### Tasks by their place -/

theorem fireWaiting_noneDue {s : State} (h : noneDue s) : fireWaiting s = s := by
  rw [fireWaiting, h]
  rfl

theorem modifyAt_eq_set {α : Type} (f : α → α) : ∀ (xs : List α) (n : Nat) (x : α), xs[n]? = some x → modifyAt n f xs = xs.set n (f x)
  | [], _, _, h => by simp at h
  | y :: ys, 0, x, h => by
    obtain rfl : y = x := by simpa using h
    rfl
  | y :: ys, n + 1, x, h => congrArg (y :: ·) (modifyAt_eq_set f ys n x (by simpa using h))

/-- The task at the place that is found for a launch, logical core and work id has them. -/
theorem taskPlace_ids {ts : List Task} {lid : BitVec 32} {lcore : Nat} {wid : W64} {n : Nat} {k : Task}
    (hn : taskPlace ts lid lcore wid = some n) (hk : ts[n]? = some k) : k.lid = lid ∧ k.lcore = lcore ∧ k.wid = wid := by
  have hat {p : Task → Bool} (hf : ts.findIdx? p = some n) : p k = true := by
    obtain ⟨hlt, hp, -⟩ := List.findIdx?_eq_some_iff_getElem.mp hf
    rw [List.getElem?_eq_getElem hlt] at hk
    exact Option.some.inj hk ▸ hp
  unfold taskPlace at hn
  dsimp only at hn
  split at hn
  · next j hj =>
    obtain rfl : j = n := Option.some.inj hn
    have := hat hj
    simp only [Bool.and_eq_true, beq_iff_eq] at this
    tauto
  · have := hat hn
    simp only [Bool.and_eq_true, beq_iff_eq] at this
    tauto

theorem setTask_eq {s : State} {lid : BitVec 32} {lcore : Nat} {wid : W64} {n : Nat} {k : Task}
    (hn : taskPlace s.sched.tasks lid lcore wid = some n) (hk : s.sched.tasks[n]? = some k) (f : Task → Task) :
    s.setTask lid lcore wid f = { s with sched := { s.sched with tasks := s.sched.tasks.set n (f k) } } := by
  rw [State.setTask, hn]
  simp only [modifyAt_eq_set f _ n k hk]

/-! ### Kills (R119, R351) -/

theorem discardUnstarted_eq_discarded (c : Ctx) : c.discardUnstarted = discarded c := rfl

theorem landAll_quiet (ctr : Nat) {c : Ctx} (h : c.pipe.pend = []) : c.landAll ctr = c := by
  rw [Ctx.landAll, h, List.foldl_nil, ← h]

theorem kill_happens {s : State} {lid : BitVec 32} (hl : (s.launchOf lid).isSome = true) (hm : s.mode = .running)
    (hlid : s.ctx.lid = lid) (hp : s.ctx.pipe.pend = []) :
    happens (.kill lid none) s { s with
      ctx := discarded s.ctx
      mode := .killing 2 0 0 0 0 0 0
      sched := { s.sched with
        launches := s.sched.launches.map fun l => if l.lid = lid then { l with killing := true } else l
        tasks := s.sched.tasks.filter fun k => !(k.lid == lid && !k.started && k.st != .ended)
        saved := s.sched.saved.map fun x => if x.ctx.lid = lid then { x with killed := true, ctx := discarded x.ctx } else x } } := by
  have hask : killAsked s lid none = s.killLaunch lid := if_neg (by simp [Option.isSome_iff_ne_none.mp hl])
  show Host.Outcome.next (killAsked s lid none).tick = _
  rw [hask]
  simp [State.killLaunch, State.setLaunch, State.markKilled, canSave, hm, hlid, beginKill, landAll_quiet _ hp,
    discardUnstarted_eq_discarded]

/-! ### The end of a task (R94) -/

theorem endPort_no_started {s : State} (q : Nat) (h : s.ctx.eng.started = []) :
    endPort s q = some { s with ctx := s.ctx.setPort q Port.start } := by
  rw [endPort, h]
  rfl

/-- With no engine instruction started, the open ports close at once. -/
theorem endPorts_no_started {s : State} (h : s.ctx.eng.started = []) :
    endPorts s = some { s with
      ctx := (((s.ctx.setPort 0 Port.start).setPort 1 Port.start).setPort 2 Port.start).setPort 3 Port.start } := by
  have hrange : List.range 4 = [0, 1, 2, 3] := rfl
  simp [endPorts, hrange, endPort_no_started, h, Ctx.setPort]

theorem endStop_no_sink {s : State} (h : ∀ q, q < 4 → (s.ctx.port q).st ≠ .sink) : endStop s = none := by
  refine List.findSome?_eq_none_iff.mpr fun q hq => if_neg ?_
  simpa using h q (List.mem_range.mp hq)

theorem closeStreams_none {s : State} (h : s.ctx.eng.streams = []) :
    closeStreams s = { s with ctx := { s.ctx with eng := { s.ctx.eng with streams := [] } } } := by
  rw [closeStreams, h]
  rfl

/-- A task that ends with no end record to arrive at: its log is kept in a deterministic launch (R357). -/
theorem taskEnded_eq {s : State} {n : Nat} {k : Task} (serial : Nat) (log : Mem)
    (hn : taskPlace s.sched.tasks k.lid k.lcore k.wid = some n) (hk : s.sched.tasks[n]? = some k)
    (hrec : endRecordOf s k.lid k.wid = none) :
    taskEnded s k serial log = { s with sched := { s.sched with
      tasks := s.sched.tasks.set n { k with st := .ended }
      launches := s.sched.launches.map fun l =>
        if l.lid = k.lid ∧ hdrDet l.hdr = true then
          (if k.origin = .launch then { l with logs := l.logs ++ [(serial, k.wid, log)] }
           else { l with restLogs := l.restLogs ++ [(serial, k.wid, log)] })
        else l } } := by
  have hrec' (tasks : List Task) (launches : List Launch) :
      endRecordOf { s with sched := { s.sched with tasks := tasks, launches := launches } } k.lid k.wid = none := hrec
  have hkeep (l : Launch) :
      (if (l.lid == k.lid) = true then
        (if (!hdrDet l.hdr) = true then l
         else if (k.origin == .launch) = true then { l with logs := l.logs ++ [(serial, k.wid, log)] }
         else { l with restLogs := l.restLogs ++ [(serial, k.wid, log)] })
       else l) =
      (if l.lid = k.lid ∧ hdrDet l.hdr = true then
        (if k.origin = .launch then { l with logs := l.logs ++ [(serial, k.wid, log)] }
         else { l with restLogs := l.restLogs ++ [(serial, k.wid, log)] })
       else l) := by
    by_cases hlid : l.lid = k.lid <;> cases hdet : hdrDet l.hdr <;> simp [hlid]
  simp only [taskEnded, setTask_eq hn hk, State.setLaunch, hrec', ite_self, hkeep]

/-- A task whose ports are all that is left leaves the core. -/
theorem leaveTask_eq {s : State} {n : Nat} {k : Task} (hst : s.ctx.eng.started = []) (hstr : s.ctx.eng.streams = [])
    (hn : taskPlace s.sched.tasks s.ctx.lid s.ctx.ctl.lcore.toNat s.ctx.ctl.wid = some n) (hk : s.sched.tasks[n]? = some k) :
    leaveTask s = taskEnded { s with ctx := Ctx.start, mode := .idle } k s.ctx.ctl.serial s.ctx.log := by
  have hvacate (c : Ctx) (hc : c.eng.streams = []) :
      (closeStreams { s with ctx := c }).vacate = { s with ctx := Ctx.start, mode := .idle } := by
    rw [closeStreams_none hc, State.vacate]
  have hplace : ((taskPlace s.sched.tasks s.ctx.lid s.ctx.ctl.lcore.toNat s.ctx.ctl.wid).bind fun k => s.sched.tasks[k]?) = some k := by
    rw [hn]; exact hk
  rw [leaveTask, endPorts_no_started hst]
  dsimp only
  rw [hvacate ((((s.ctx.setPort 0 Port.start).setPort 1 Port.start).setPort 2 Port.start).setPort 3 Port.start) hstr]
  dsimp only [Ctx.setPort]
  rw [hplace]

theorem taskEnd_happens {s : State} {n : Nat} {k : Task} (hm : s.mode = .draining) (hquiet : taskQuiet s = true)
    (hst : s.ctx.eng.started = []) (hstr : s.ctx.eng.streams = []) (hdue : noneDue s) (hsink : ∀ q, q < 4 → (s.ctx.port q).st ≠ .sink)
    (hn : taskPlace s.sched.tasks s.ctx.lid s.ctx.ctl.lcore.toNat s.ctx.ctl.wid = some n) (hk : s.sched.tasks[n]? = some k)
    (hrec : endRecordOf s k.lid k.wid = none) :
    happens (.taskEnd none) s { s with
      ctx := Ctx.start
      mode := .idle
      sched := { s.sched with
        tasks := s.sched.tasks.set n { k with st := .ended }
        launches := s.sched.launches.map fun l =>
          if l.lid = k.lid ∧ hdrDet l.hdr = true then
            (if k.origin = .launch then { l with logs := l.logs ++ [(s.ctx.ctl.serial, k.wid, s.ctx.log)] }
             else { l with restLogs := l.restLogs ++ [(s.ctx.ctl.serial, k.wid, s.ctx.log)] })
          else l } } := by
  have hgo : ¬ (s.mode != .draining || !taskQuiet s) = true := by simp [hm, hquiet]
  obtain ⟨hlid, hlcore, hwid⟩ := taskPlace_ids hn hk
  have hn' : taskPlace s.sched.tasks k.lid k.lcore k.wid = some n := by rw [hlid, hlcore, hwid, hn]
  have hend : endOwnTask s = leaveTask s := by
    rw [endOwnTask, if_neg hgo]
    simp only [fireWaiting_noneDue hdue, endStop_no_sink hsink]
  show Host.Outcome.next (endOwnTask s).tick = _
  rw [hend, leaveTask_eq hst hstr hn hk,
    taskEnded_eq (s := { s with ctx := Ctx.start, mode := .idle }) s.ctx.ctl.serial s.ctx.log hn' hk hrec]

/-! ### The end of a killed task (R119, R369) -/

/-- A killed task ends with its fault record, which triggers the snapshot registers, and is counted. -/
theorem killEnded_eq {s : State} {c : Ctx} {n : Nat} {k : Task} (reason : Nat) (g1 g2 : W64 × W64 × W64)
    (hn : taskPlace s.sched.tasks c.lid c.ctl.lcore.toNat c.ctl.wid = some n) (hk : s.sched.tasks[n]? = some k) :
    killEnded s c reason g1 g2 =
      { s.sendFault (faultRecord reason c.ctl.wid c.ctl.lcore.toNat Config.pcore.toNat g1 g2) with
        sched := { s.sched with
          tasks := s.sched.tasks.set n { k with st := .ended }
          launches := s.sched.launches.map fun l => if l.lid = c.lid then { l with killed := l.killed + 1 } else l } } := by
  rw [killEnded, setTask_eq (by rw [State.sendFault_sched]; exact hn) (by rw [State.sendFault_sched]; exact hk)]
  simp [State.setLaunch]

theorem sendFault_latches (s : State) (r : BitVec 512) : faultLatched s (s.sendFault r) := by
  constructor
  · intro h
    have hlatch : s.sendFault r = (s.tell (.faultRecord r)).latch (Config.free s.freeCtr (2 ^ 60 + 2 ^ 30) 16) :=
      if_neg (by simp [State.tell, h])
    exact ⟨_, _, congrArg State.mgmt hlatch⟩
  · intro h
    simp [State.sendFault, State.trigger, State.tell, Option.isSome_iff_ne_none.mpr h]

theorem killCompletes_eq {s : State} {reason : Nat} {c2 p2 v2 c1 p1 v1 : W64} (hm : s.mode = .killing reason c2 p2 v2 c1 p1 v1)
    (hquiet : killQuiet s s.ctx = true) (hstr : s.ctx.eng.streams = []) :
    killCompletes s s.ctx.lid s.ctx.ctl.wid =
      killEnded { s with ctx := Ctx.start, mode := .idle } s.ctx reason (c1, p1, v1) (c2, p2, v2) := by
  have hvacate : (closeStreams s).vacate = { s with ctx := Ctx.start, mode := .idle } := by
    rw [closeStreams_none hstr, State.vacate]
  simp [killCompletes, hm, hquiet, hvacate]

theorem noneDue_of_records {s t : State} (h : noneDue s) (hr : t.sched.records = s.sched.records) : noneDue t := by
  rw [noneDue, hr]; exact h

theorem killCompletion_happens {s : State} {reason n : Nat} {c2 p2 v2 c1 p1 v1 : W64} {k : Task}
    (hm : s.mode = .killing reason c2 p2 v2 c1 p1 v1) (hquiet : killQuiet s s.ctx = true) (hstr : s.ctx.eng.streams = [])
    (hdue : noneDue s) (hn : taskPlace s.sched.tasks s.ctx.lid s.ctx.ctl.lcore.toNat s.ctx.ctl.wid = some n)
    (hk : s.sched.tasks[n]? = some k) :
    happens (.killCompletion s.ctx.lid s.ctx.ctl.wid) s
      (killEnded { s with ctx := Ctx.start, mode := .idle } s.ctx reason (c1, p1, v1) (c2, p2, v2)) := by
  have hrec : noneDue (killEnded { s with ctx := Ctx.start, mode := .idle } s.ctx reason (c1, p1, v1) (c2, p2, v2)) :=
    noneDue_of_records hdue (by
      rw [killEnded_eq (s := { s with ctx := Ctx.start, mode := .idle }) reason _ _ hn hk])
  show Host.Outcome.next (fireWaiting (killCompletes s s.ctx.lid s.ctx.ctl.wid)).tick = _
  rw [killCompletes_eq hm hquiet hstr, fireWaiting_noneDue hrec]

/-- Settles O37: the end of a task, the kill of its launch and the end of a killed task, each as one event. -/
theorem tasksEndAndKillsComplete : Obligations.TasksEndAndKillsComplete := by
  intro s
  refine ⟨fun n k hm hquiet hst hstr hdue hsink hn hk hrec => taskEnd_happens hm hquiet hst hstr hdue hsink hn hk hrec,
    fun lid hl hm hlid hp => kill_happens hl hm hlid hp, ?_⟩
  rintro _ _ reason c2 p2 v2 c1 p1 v1 n k hm rfl rfl hquiet hstr hdue hn hk
  refine ⟨_, killCompletion_happens hm hquiet hstr hdue hn hk, ?_⟩
  rw [killEnded_eq (s := { s with ctx := Ctx.start, mode := .idle }) reason _ _ hn hk]
  refine ⟨State.sendFault_ctx _ _, State.sendFault_mode _ _, State.sendFault_mem _ _, State.sendFault_fab _ _, ?_,
    State.sendFault_host _ _, rfl⟩
  exact sendFault_latches { s with ctx := Ctx.start, mode := .idle } _

end Sys2Proof.ScalarControl
end

section
/-! What a save keeps of a context (R42, R115, R268): open windows land, instructions that owe a write to the basin stand in their queues
again, and the task is parked. -/

namespace Sys2Proof.Preemption

open Sys2Proof Sys2Proof.Machine Sys2Proof.Claims Sys2Proof.ScalarControl

/-! ### Scoreboarded results that land open no window (R25, R27) -/

theorem landScalar_pend (c : Ctx) (e : SbEntry) (v : W64) (view : BitVec 1024) : (c.landScalar e v view).pipe.pend = c.pipe.pend := by
  unfold Ctx.landScalar
  dsimp only
  split
  · split <;> rfl
  · split <;> rfl
  · rfl
  · rfl

theorem landScatter_pend (ctr : Nat) (c : Ctx) (m : Nat) (ws : List (Nat × Byte)) :
    (c.landScatter ctr m ws).pipe.pend = c.pipe.pend := by
  unfold Ctx.landScatter
  split <;> rfl

theorem landReady_pend (ctr : Nat) (c : Ctx) (e : SbEntry) : (c.landReady ctr e).pipe.pend = c.pipe.pend := by
  unfold Ctx.landReady
  split
  case h_3 v view _ => exact landScalar_pend c e v view
  case h_5 bytes bad _ =>
    have hdefer (d : Ctx) : (if bad = true then d.defer 0x0C e.addr else d).pipe.pend = d.pipe.pend := by split <;> rfl
    dsimp only
    rw [hdefer]
    split
    · exact (landBytes_frame ctr _ true _ _).pend
    · rfl
  case h_6 ws n _ => exact landScatter_pend ctr _ n _
  all_goals rfl

/-! ### Instructions abandoned at a save (R115, R244, R281) -/

theorem tile_setTileState_same (c : Ctx) {e : Nat} (st : TileState) (he : e < 64) : ((c.setTileState e st).tile e).st = st := by
  simp [Ctx.setTileState, Ctx.setTile, Ctx.tile, he]

theorem tile_setTileState_empty {c : Ctx} {x : Nat} (e : Nat) (h : (c.tile x).st = .empty) :
    ((c.setTileState e .empty).tile x).st = .empty := by
  by_cases hx : x = e
  · subst hx
    by_cases hlt : x < 64
    · exact tile_setTileState_same c _ hlt
    · simpa [Ctx.setTileState, Ctx.setTile, Ctx.tile, hlt] using h
  · simpa [Ctx.setTileState, Ctx.setTile, Ctx.tile, Array.getD_eq_getD_getElem?, Array.getElem?_setIfInBounds_ne (Ne.symm hx)] using h

/-- Entries set EMPTY leave one that is EMPTY so. -/
theorem tile_foldl_empty {x : Nat} (es : List Nat) (c : Ctx) (h : (c.tile x).st = .empty) :
    ((es.foldl (fun c e => c.setTileState e .empty) c).tile x).st = .empty := by
  induction es generalizing c with
  | nil => exact h
  | cons e es ih => exact ih _ (tile_setTileState_empty e h)

/-- Each entry set EMPTY is. -/
theorem tile_foldl_empty_of_mem {x : Nat} (hx : x < 64) (es : List Nat) (c : Ctx) (hmem : x ∈ es) :
    ((es.foldl (fun c e => c.setTileState e .empty) c).tile x).st = .empty := by
  induction es generalizing c with
  | nil => simp at hmem
  | cons e es ih =>
    rcases List.mem_cons.mp hmem with rfl | hmem
    · exact tile_foldl_empty es _ (tile_setTileState_same c _ hx)
    · exact ih _ hmem

theorem mem_insertOp {o x : EngOp} {q : List EngOp} : x ∈ insertOp o q ↔ x = o ∨ x ∈ q := by
  induction q with
  | nil => simp [insertOp]
  | cons y q ih =>
    unfold insertOp
    split
    · simp
    · simp only [List.mem_cons, ih]
      tauto

@[simp] theorem setQueue_tiles (e : Engines) (n : Nat) (q : List EngOp) : (e.setQueue n q).tiles = e.tiles := by
  unfold Engines.setQueue; split <;> rfl

@[simp] theorem setQueue_started (e : Engines) (n : Nat) (q : List EngOp) : (e.setQueue n q).started = e.started := by
  unfold Engines.setQueue; split <;> rfl

@[simp] theorem setQueue_tokens (e : Engines) (n : Nat) (q : List EngOp) : (e.setQueue n q).tokens = e.tokens := by
  unfold Engines.setQueue; split <;> rfl

@[simp] theorem setQueue_accs (e : Engines) (n : Nat) (q : List EngOp) : (e.setQueue n q).accs = e.accs := by
  unfold Engines.setQueue; split <;> rfl

@[simp] theorem queue_setQueue_same (e : Engines) (q : List EngOp) : ∀ n, (e.setQueue n q).queue n = q
  | 0 | 1 | _ + 2 => rfl

/-- A queue that takes an instruction in loses none, and neither does another queue. -/
theorem mem_queue_insert {e : Engines} {o x : EngOp} : ∀ (n m : Nat), x ∈ e.queue m →
    x ∈ (e.setQueue n (insertOp o (e.queue n))).queue m
  | 0, 0, h | 1, 1, h | _ + 2, _ + 2, h => mem_insertOp.mpr (.inr h)
  | 0, 1, h | 0, _ + 2, h | 1, 0, h | 1, _ + 2, h | _ + 2, 0, h | _ + 2, 1, h => h

/-- A context of whose engines only the tokens and the accesses are kept: what abandoning an instruction leaves as it is. -/
def aroundQueues (c : Ctx) : Ctx := { c with eng := { Engines.start with tokens := c.eng.tokens, accs := c.eng.accs } }

/-- The context once the entries that an instruction holds are EMPTY. -/
def tilesLetGo (c : Ctx) (o : EngOp) : Ctx := o.held.foldl (fun c e => c.setTileState e .empty) c

theorem tilesLetGo_keeps {γ : Type} (g : Ctx → γ) (h : ∀ c e t, g (c.setTile e t) = g c) (c : Ctx) (o : EngOp) :
    g (tilesLetGo c o) = g c := foldl_keeps g _ (fun c e => h c e _) o.held c

theorem abandonOp_eq (c : Ctx) (o : EngOp) : c.abandonOp o = { tilesLetGo c o with
    eng := ((tilesLetGo c o).eng.dropStarted o.id).setQueue o.eng (insertOp o.restart ((tilesLetGo c o).eng.queue o.eng)) } := by
  unfold Ctx.abandonOp Engines.dropStarted tilesLetGo
  rfl

theorem abandonOp_aroundQueues (c : Ctx) (o : EngOp) : aroundQueues (c.abandonOp o) = aroundQueues c := by
  rw [abandonOp_eq, ← tilesLetGo_keeps aroundQueues (fun _ _ _ => rfl) c o]
  simp only [aroundQueues, setQueue_tokens, setQueue_accs]
  rfl

theorem abandonOp_started (c : Ctx) (o : EngOp) : (c.abandonOp o).eng.started = c.eng.started.filter fun x => x.id != o.id := by
  rw [abandonOp_eq, ← tilesLetGo_keeps (fun c => c.eng.started) (fun _ _ _ => rfl) c o]
  exact setQueue_started _ _ _

/-- An abandoned instruction stands unstarted in its queue, and the entries that it held are EMPTY. -/
def requeued (c : Ctx) (o : EngOp) : Prop := o.restart ∈ c.eng.queue o.eng ∧ ∀ e ∈ o.held, e < 64 → (c.tile e).st = .empty

theorem abandonOp_requeued (c : Ctx) (o : EngOp) : requeued (c.abandonOp o) o := by
  rw [abandonOp_eq]
  refine ⟨?_, fun e he hlt => ?_⟩
  · rw [queue_setQueue_same]
    exact mem_insertOp.mpr (.inl rfl)
  · rw [Ctx.tile, setQueue_tiles]
    exact tile_foldl_empty_of_mem hlt o.held c he

theorem requeued.abandonOp {c : Ctx} {x : EngOp} (h : requeued c x) (o : EngOp) : requeued (c.abandonOp o) x := by
  obtain ⟨hq, ht⟩ := h
  rw [abandonOp_eq]
  refine ⟨mem_queue_insert (e := (tilesLetGo c o).eng.dropStarted o.id) o.eng x.eng ?_, fun e he hlt => ?_⟩
  · rw [← tilesLetGo_keeps (fun c => c.eng.queue x.eng) (fun _ _ _ => rfl) c o] at hq
    exact hq
  · rw [Ctx.tile, setQueue_tiles]
    exact tile_foldl_empty o.held c (ht e he hlt)

theorem foldl_abandonOp_started (os : List EngOp) (c : Ctx) :
    (os.foldl Ctx.abandonOp c).eng.started = c.eng.started.filter fun x => os.all fun o => x.id != o.id := by
  induction os generalizing c with
  | nil => simp
  | cons o os ih =>
    rw [List.foldl_cons, ih, abandonOp_started, List.filter_filter]
    simp only [List.all_cons, Bool.and_comm]

theorem foldl_abandonOp_keeps_requeued {x : EngOp} (os : List EngOp) (c : Ctx) (h : requeued c x) :
    requeued (os.foldl Ctx.abandonOp c) x := by
  induction os generalizing c with
  | nil => exact h
  | cons o os ih => exact ih _ (h.abandonOp o)

theorem foldl_abandonOp_requeued {x : EngOp} (os : List EngOp) (c : Ctx) (hx : x ∈ os) :
    requeued (os.foldl Ctx.abandonOp c) x := by
  induction os generalizing c with
  | nil => simp at hx
  | cons o os ih =>
    rcases List.mem_cons.mp hx with rfl | hx
    · exact foldl_abandonOp_keeps_requeued os _ (abandonOp_requeued c x)
    · exact ih _ hx

/-- With the ids of the started instructions distinct, dropping the abandoned ones by id drops no other. -/
theorem started_without_abandoned {os : List EngOp} (hids : (os.map EngOp.id).Nodup) :
    (os.filter fun x => (os.filter fun o => saveKind o == .abandon).all fun o => x.id != o.id) =
      os.filter fun o => saveKind o != .abandon := by
  refine List.filter_congr fun x hx => ?_
  rw [Bool.eq_iff_iff]
  simp only [List.all_eq_true, List.mem_filter, beq_iff_eq, bne_iff_ne]
  constructor
  · exact fun h hk => h x ⟨hx, hk⟩ rfl
  · rintro hk o ⟨ho, hok⟩ hid
    exact hk (List.inj_on_of_nodup_map hids hx ho hid ▸ hok)

end Sys2Proof.Preemption
end

section
/-! The context that a save keeps, and the task parked (R42, R115). -/

namespace Sys2Proof.Preemption

open Sys2Proof Sys2Proof.Machine Sys2Proof.Claims Sys2Proof.ScalarControl

/-! ### The context as it is saved (R42, R115) -/

theorem writeBackLive_none {c : Ctx} (h : c.casc.live = none) : c.writeBackLive = c := by
  rw [Ctx.writeBackLive, h]

theorem writeBackLive_pipe (c : Ctx) : c.writeBackLive.pipe = c.pipe := by
  unfold Ctx.writeBackLive
  split <;> rfl

theorem writeBackLive_regs (c : Ctx) : c.writeBackLive.regs = c.regs := by
  unfold Ctx.writeBackLive
  split <;> rfl

/-- The started instructions of a context that a save abandons start over. -/
def abandonsAll (c : Ctx) : Ctx := (c.eng.started.filter fun o => saveKind o == .abandon).foldl Ctx.abandonOp c

theorem abandonsAll_aroundQueues (c : Ctx) : aroundQueues (abandonsAll c) = aroundQueues c :=
  foldl_keeps aroundQueues Ctx.abandonOp abandonOp_aroundQueues _ c

theorem abandonsAll_pipe (c : Ctx) : (abandonsAll c).pipe = c.pipe := (congrArg Ctx.pipe (abandonsAll_aroundQueues c) :)

theorem abandonsAll_regs (c : Ctx) : (abandonsAll c).regs = c.regs := (congrArg Ctx.regs (abandonsAll_aroundQueues c) :)

/-- The scoreboarded results of a context whose values are there land. -/
def landsReady (ctr : Nat) (c : Ctx) : Ctx := c.pipe.sb.foldl (fun c e => c.landReady ctr e) c

theorem frozen_eq (ctr : Nat) (c : Ctx) : c.frozen ctr =
    { (abandonsAll (landsReady ctr (c.landAll ctr))).writeBackLive with
      basin := { (abandonsAll (landsReady ctr (c.landAll ctr))).writeBackLive.basin with dirty := [] } } := rfl

theorem frozen_pend (ctr : Nat) (c : Ctx) : (c.frozen ctr).pipe.pend = [] := by
  have hland : (c.landAll ctr).pipe.pend = [] := (landAll_frame ctr c).pend
  rw [frozen_eq]
  calc (abandonsAll (landsReady ctr (c.landAll ctr))).writeBackLive.pipe.pend
      = (landsReady ctr (c.landAll ctr)).pipe.pend := by rw [writeBackLive_pipe, abandonsAll_pipe]
    _ = (c.landAll ctr).pipe.pend := foldl_keeps (fun c => c.pipe.pend) _ (fun c e => landReady_pend ctr c e) _ _
    _ = [] := hland

/-- Abandoning and writing back change no scalar register. -/
theorem frozen_regs (ctr : Nat) (c : Ctx) : (c.frozen ctr).regs = (landsReady ctr (c.landAll ctr)).regs := by
  rw [frozen_eq]
  exact (writeBackLive_regs _).trans (abandonsAll_regs _)

theorem frozen_sb (ctr : Nat) (c : Ctx) : (c.frozen ctr).pipe.sb = (landsReady ctr (c.landAll ctr)).pipe.sb := by
  rw [frozen_eq]
  exact (congrArg Pipe.sb (writeBackLive_pipe _)).trans (congrArg Pipe.sb (abandonsAll_pipe _))

theorem landsReady_none (ctr : Nat) {c : Ctx} (h : c.pipe.sb = []) : landsReady ctr c = c := by
  rw [landsReady, h, List.foldl_nil]

/-- With no window open and no accumulator live, a save only abandons instructions. -/
theorem frozen_quiet (ctr : Nat) {c : Ctx} (hp : c.pipe.pend = []) (hsb : c.pipe.sb = []) (hlive : c.casc.live = none) :
    c.frozen ctr = { abandonsAll c with basin := { (abandonsAll c).basin with dirty := [] } } := by
  have hlive' : (abandonsAll c).casc.live = none := (congrArg (fun d : Ctx => d.casc.live) (abandonsAll_aroundQueues c)).trans hlive
  rw [frozen_eq, landAll_quiet ctr hp, landsReady_none ctr hsb, writeBackLive_none hlive']

theorem savedKeeps_frozen (ctr : Nat) (s : State) : savedKeeps s (s.ctx.frozen ctr) := by
  intro hp hsb hlive hids
  have hk := abandonsAll_aroundQueues s.ctx
  have hbasin : (abandonsAll s.ctx).basin = s.ctx.basin := (congrArg Ctx.basin hk :)
  rw [frozen_quiet ctr hp hsb hlive]
  refine ⟨(congrArg Ctx.regs hk :), (congrArg Ctx.ctl hk :), (congrArg Ctx.tr hk :), (congrArg (fun c => c.eng.tokens) hk :),
    (congrArg (fun c => c.eng.accs) hk :), congrArg (fun b : Basin => { b with dirty := [] }) hbasin, (congrArg Ctx.casc hk :),
    ?_, ?_, ?_⟩
  · exact (foldl_abandonOp_started _ s.ctx).trans (started_without_abandoned hids)
  · intro o ho hkind
    obtain ⟨hq, ht⟩ : requeued (abandonsAll s.ctx) o :=
      foldl_abandonOp_requeued _ s.ctx (List.mem_filter.mpr ⟨ho, beq_iff_eq.mpr hkind⟩)
    exact ⟨⟨o.restart, hq, rfl, rfl, rfl, rfl, rfl⟩, ht⟩
  · intro hnone
    have hfilter : (s.ctx.eng.started.filter fun o => saveKind o == .abandon) = [] :=
      List.filter_eq_nil_iff.mpr fun o ho => by simpa using hnone o ho
    rw [abandonsAll, hfilter, List.foldl_nil]

/-! ### The task parked (R115) -/

@[simp] theorem setTask_saved (s : State) (lid : BitVec 32) (lcore : Nat) (wid : W64) (f : Task → Task) :
    (s.setTask lid lcore wid f).sched.saved = s.sched.saved := by
  unfold State.setTask
  split <;> rfl

@[simp] theorem setTask_bind (s : State) (lid : BitVec 32) (lcore : Nat) (wid : W64) (f : Task → Task) :
    (s.setTask lid lcore wid f).sched.bind = s.sched.bind := by
  unfold State.setTask
  split <;> rfl

theorem settleCascade_settled {s : State} (h : cascadeSettled s) : settleCascade s = s := by
  rw [settleCascade, List.filter_eq_nil_iff.mpr fun o ho => by simp [h o ho], List.foldl_nil]

theorem frozen_one_exposed {c : Ctx} (ctr due : Nat) (n : BitVec 6) (v : W64) (hp : c.pipe.pend = [⟨.sreg n v, due, false⟩])
    (hsb : c.pipe.sb = []) : (c.frozen ctr).regs = c.regs.setS n v := by
  rw [frozen_regs, landsReady_none ctr ((landAll_frame ctr c).sb.trans hsb), Ctx.landAll, hp]
  rfl

theorem frozen_one_scoreboarded {c : Ctx} (ctr id : Nat) (n : BitVec 6) (v a : W64) (hp : c.pipe.pend = [])
    (hsb : c.pipe.sb = [⟨id, .sreg n, .value v 0, a, false, []⟩]) :
    (c.frozen ctr).regs = c.regs.setS n v ∧ (c.frozen ctr).pipe.sb = [] := by
  rw [frozen_regs, frozen_sb, landAll_quiet ctr hp, landsReady, hsb]
  refine ⟨rfl, ?_⟩
  show (c.dropSb id).pipe.sb = []
  simp [Ctx.dropSb, hsb]

/-- A save parks the task that holds the core. -/
theorem saveContext_parks {s : State} (why : SaveReason) (st : TaskState) (h : cascadeSettled s) :
    parked s (saveContext s why st) why := by
  rw [saveContext, settleCascade_settled h]
  refine ⟨s.ctx.frozen s.freeCtr, rfl, rfl, ?_, frozen_pend _ _, savedKeeps_frozen _ s,
    fun n v due hp hsb _ _ => frozen_one_exposed _ due n v hp hsb,
    fun id n v a hp hsb _ _ => frozen_one_scoreboarded _ id n v a hp hsb, State.setTask_mem .., State.setTask_host ..⟩
  simp only [State.setTask_mode, setTask_saved]

theorem preempt_parks {s : State} (hm : s.mode = .running ∨ s.mode = .draining) (h : cascadeSettled s) :
    parked s (preempt s) .preempted := by
  have hsave : canSave s = true := by rcases hm with hm | hm <;> simp [canSave, hm]
  rw [preempt, if_pos hsave]
  exact saveContext_parks _ _ h

theorem preempt_idle {s : State} (h : s.mode = .idle) : preempt s = s := by
  rw [preempt, if_neg (by simp [canSave, h])]

end Sys2Proof.Preemption
end

section
/-! Bind records, partition modes and evicted contexts (R120, R352, R367, R368, R373). -/

namespace Sys2Proof.Preemption

open Sys2Proof Sys2Proof.Machine Sys2Proof.Claims Sys2Proof.ScalarControl

/-! ### Bind records (R352) -/

/-- A bind record written for this core, of a module that is up. -/
theorem evBindRecordWrite_eq {s : State} (rec : BitVec 1024) (hup : s.mgmt.boot = .up) : evBindRecordWrite Config.pcore rec s =
    (let t := if canSave s && !(keepsTask s rec) then preempt s else s
     { t with sched := { t.sched with bind := rec } }) := by
  simp [evBindRecordWrite, hup]

theorem bindRecordWrite_undisturbed {s : State} {rec : BitVec 1024} (hup : s.mgmt.boot = .up)
    (h : s.mode = .idle ∨ keepsTask s rec = true) :
    happens (.bindRecordWrite Config.pcore rec) s { s with sched := { s.sched with bind := rec } } := by
  have hstay : ¬ (canSave s && !(keepsTask s rec)) = true := by
    rcases h with h | h <;> simp [canSave, h]
  show Host.Outcome.next (evBindRecordWrite Config.pcore rec s).tick = _
  rw [evBindRecordWrite_eq rec hup]
  simp only [if_neg hstay]

theorem bindRecordWrite_preempts {s : State} {rec : BitVec 1024} (hup : s.mgmt.boot = .up) (hm : s.mode = .running)
    (h : keepsTask s rec = false) :
    happens (.bindRecordWrite Config.pcore rec) s { preempt s with sched := { (preempt s).sched with bind := rec } } := by
  have hgo : (canSave s && !(keepsTask s rec)) = true := by simp [canSave, hm, h]
  show Host.Outcome.next (evBindRecordWrite Config.pcore rec s).tick = _
  rw [evBindRecordWrite_eq rec hup]
  simp only [if_pos hgo]

/-! ### Eviction (R120) -/

/-- A saved context as a partition mode leaves it. -/
def evictedIn (parts : Nat) (x : Saved) : Saved := if fitsMode parts x.ctx.hdr = true then x else { x with why := .evicted }

theorem modifyAt_eq_modify {α : Type} (f : α → α) : ∀ (xs : List α) (n : Nat), modifyAt n f xs = xs.modify n f
  | [], _ => by simp [modifyAt]
  | x :: xs, 0 => by simp [modifyAt]
  | x :: xs, n + 1 => by simp [modifyAt, modifyAt_eq_modify f xs n]

/-- Changing every element in turn by its place maps the list. -/
theorem foldl_range_modify {α : Type} (f : α → α) (xs : List α) :
    (List.range xs.length).foldl (fun ys k => ys.modify k f) xs = xs.map f := by
  have hupto : ∀ n i, ((List.range n).foldl (fun ys k => ys.modify k f) xs)[i]? = if i < n then xs[i]?.map f else xs[i]? := by
    intro n i
    induction n with
    | zero => simp
    | succ n ih =>
      rw [List.range_succ, List.foldl_append, List.foldl_cons, List.foldl_nil, List.getElem?_modify, ih]
      by_cases hi : n = i
      · subst hi; simp
      · have : (i < n + 1) = (i < n) := by simp; omega
        simp [hi, this]
  refine List.ext_getElem? fun i => ?_
  rw [hupto, List.getElem?_map]
  by_cases hi : i < xs.length
  · rw [if_pos hi]
  · simp [List.getElem?_eq_none (Nat.le_of_not_lt hi)]

@[simp] theorem trigger_parts (s : State) (g : BitVec 16) : (s.trigger g).mgmt.parts = s.mgmt.parts := by
  unfold State.trigger
  split <;> rfl

@[simp] theorem sendFault_parts (s : State) (r : BitVec 512) : (s.sendFault r).mgmt.parts = s.mgmt.parts := trigger_parts _ _

/-- An eviction leaves the core, memory, the mode and the bind record alone. -/
theorem evictOne_keeps (parts : Nat) (s : State) (k : Nat) :
    ((evictOne parts s k).ctx, (evictOne parts s k).mem, (evictOne parts s k).mgmt.parts, (evictOne parts s k).sched.bind) =
      (s.ctx, s.mem, s.mgmt.parts, s.sched.bind) := by
  unfold evictOne
  split
  · rfl
  · dsimp only
    split
    · rfl
    · simp only [State.setTask_ctx, State.setTask_mem, State.setTask_mgmt, setTask_bind, State.sendFault_ctx, State.sendFault_mem,
        State.sendFault_sched, sendFault_parts]

/-- The place k of the saved contexts is evicted where it does not fit; one that was evicted before is evicted still. -/
theorem evictOne_saved (parts : Nat) (s : State) (k : Nat) :
    (evictOne parts s k).sched.saved = s.sched.saved.modify k (evictedIn parts) := by
  unfold evictOne
  split
  · next hnone => rw [List.modify_eq_self (List.getElem?_eq_none_iff.mp hnone)]
  · next sv hsv =>
    have hset : s.sched.saved.modify k (evictedIn parts) = s.sched.saved.set k (evictedIn parts sv) := by
      rw [← modifyAt_eq_modify, modifyAt_eq_set _ _ k sv hsv]
    rw [hset]
    split
    · next hstay =>
      have hsame : evictedIn parts sv = sv := by
        unfold evictedIn
        split
        · rfl
        · next hfit =>
          have hwhy : sv.why = .evicted := by simpa [hfit] using hstay
          rw [← hwhy]
      obtain ⟨hlt, rfl⟩ := List.getElem?_eq_some_iff.mp hsv
      rw [hsame, List.set_getElem_self]
    · next hgo =>
      have hfit : ¬ fitsMode parts sv.ctx.hdr = true := fun h => hgo (by simp [h])
      rw [evictedIn, if_neg hfit, ← modifyAt_eq_set (fun x => { x with why := .evicted }) _ k sv hsv]
      simp only [setTask_saved, State.sendFault_sched]

/-- Every saved context that does not fit a mode evicted. -/
def evictAll (parts : Nat) (s : State) : State := (List.range s.sched.saved.length).foldl (evictOne parts) s

theorem evictAll_saved (parts : Nat) (s : State) : (evictAll parts s).sched.saved = s.sched.saved.map (evictedIn parts) := by
  rw [← foldl_range_modify]
  exact (List.foldl_hom (fun t : State => t.sched.saved) fun t k => (evictOne_saved parts t k).symm).symm

/-- Evictions leave the core, memory, the mode and the bind record alone. -/
theorem evictAll_keeps (parts : Nat) (s : State) :
    (evictAll parts s).ctx = s.ctx ∧ (evictAll parts s).mem = s.mem ∧ (evictAll parts s).mgmt.parts = s.mgmt.parts ∧
      (evictAll parts s).sched.bind = s.sched.bind := by
  simpa only [evictAll, Prod.mk.injEq] using
    foldl_keeps (fun t : State => (t.ctx, t.mem, t.mgmt.parts, t.sched.bind)) (evictOne parts) (evictOne_keeps parts) _ s

/-! ### Partition modes (R367, R368, R373) -/

/-- A mode and a bind record set. -/
def inMode (s : State) (parts : Nat) (rec : BitVec 1024) : State :=
  { s with mgmt := { s.mgmt with parts := parts }, sched := { s.sched with bind := rec } }

/-- What the core and the package hold once a mode and a bind record are set and every context that does not fit is evicted. -/
theorem evictAll_inMode (s : State) (n : Nat) (rec : BitVec 1024) :
    (evictAll n (inMode s n rec)).mgmt.parts = n ∧ (evictAll n (inMode s n rec)).sched.bind = rec ∧
      (evictAll n (inMode s n rec)).sched.saved = s.sched.saved.map (evictedIn n) ∧
      (evictAll n (inMode s n rec)).ctx = s.ctx ∧ (evictAll n (inMode s n rec)).mem = s.mem := by
  obtain ⟨hctx, hmem, hparts, hbind⟩ := evictAll_keeps n (inMode s n rec)
  exact ⟨hparts, hbind, evictAll_saved n (inMode s n rec), hctx, hmem⟩

theorem modeExists_iff {n : Nat} : modeExists n = true ↔ n ∈ [1, 2, 4, 8] := List.contains_iff_mem

theorem evPartitionModeChange_refused {s : State} {n : Nat} (h : n ∉ [1, 2, 4, 8]) :
    evPartitionModeChange n s = s.tell (.managed "partition mode" (BitVec.ofNat 64 n) false) := by
  have hno : (!(modeExists n) || s.mgmt.boot != .up) = true := by
    rw [Bool.eq_false_iff.mpr (mt modeExists_iff.mp h)]; rfl
  unfold evPartitionModeChange
  exact if_pos hno

/-- A mode that exists, taken with the core idle: the bind record of R373 is written, and what does not fit is evicted. -/
theorem evPartitionModeChange_idle {s : State} {n : Nat} (hup : s.mgmt.boot = .up) (h : n ∈ [1, 2, 4, 8]) (hm : s.mode = .idle)
    (hdue : noneDue s) : evPartitionModeChange n s = (evictAll n (inMode s n (bindFor s.mem.heldReset n))).tell
      (.managed "partition mode" (BitVec.ofNat 64 n) true) := by
  have hyes : ¬ (!(modeExists n) || s.mgmt.boot != .up) = true := by simp [modeExists_iff.mpr h, hup]
  have hfree : ¬ (s.mode != .idle && !(canSave s)) = true := by simp [hm]
  have hstep : evPartitionModeChange n s = (evictAll n (inMode (fireWaiting (preempt s)) n
      (bindFor (fireWaiting (preempt s)).mem.heldReset n))).tell (.managed "partition mode" (BitVec.ofNat 64 n) true) := by
    unfold evPartitionModeChange
    exact (if_neg hyes).trans (if_neg hfree)
  rw [hstep, preempt_idle hm, fireWaiting_noneDue hdue]

theorem happens_partitionModeChange {s t : State} {n : Nat} (h : evPartitionModeChange n s = t) :
    happens (.partitionModeChange n) s t := congrArg (fun t : State => Host.Outcome.next t.tick) h

/-! ### Relaunch (R120) -/

/-- The one saved context, evicted and fitting the mode again, becomes ready. -/
theorem evEvictedContextRelaunch_eq {s : State} {sv : Saved} (hs : s.sched.saved = [sv]) (hwhy : sv.why = .evicted)
    (hk : sv.killed = false) (hfit : fitsMode s.mgmt.parts sv.ctx.hdr = true) :
    evEvictedContextRelaunch sv.ctx.lid sv.ctx.ctl.wid s =
      State.setTask { s with sched := { s.sched with saved := [{ sv with why := .preempted }] } } sv.ctx.lid
        sv.ctx.ctl.lcore.toNat sv.ctx.ctl.wid fun t => { t with st := .parked } := by
  simp [evEvictedContextRelaunch, hs, hwhy, hk, hfit]

/-- Settles O52: a record that no longer serves the task parks it by a save (R115); a mode is taken by evicting each saved context in
turn; a relaunch changes the one saved context and its task. -/
theorem partitionsAndBinding : Obligations.PartitionsAndBinding := by
  intro s hup
  refine ⟨fun rec h => bindRecordWrite_undisturbed hup h, fun rec hm _ hset hkeep => ?_,
    fun n h => happens_partitionModeChange (evPartitionModeChange_refused h), fun n h hm hdue => ?_, fun sv hs hwhy hk hfit => ?_⟩
  · exact ⟨_, bindRecordWrite_preempts hup hm hkeep, preempt_parks (.inl hm) hset, rfl⟩
  · have hev := evPartitionModeChange_idle hup h hm hdue
    obtain ⟨hparts, hbind, hsaved, hctx, hmem⟩ := evictAll_inMode s n (bindFor s.mem.heldReset n)
    -- the state named, or checking would evaluate the bits of its bind record
    generalize evictAll n (inMode s n (bindFor s.mem.heldReset n)) = t at *
    exact ⟨_, happens_partitionModeChange hev, hparts, hbind, hsaved, by simp, hctx, hmem⟩
  · refine ⟨_, rfl, ?_⟩
    rw [evEvictedContextRelaunch_eq hs hwhy hk hfit]
    refine ⟨setTask_saved .., State.setTask_ctx .., State.setTask_mem .., fun n k hn hkn => ?_⟩
    exact congrArg (fun t : State => t.sched.tasks) (setTask_eq
      (s := { s with sched := { s.sched with saved := [{ sv with why := .preempted }] } }) hn hkn _)

end Sys2Proof.Preemption
end

section
/-! Conversions, quantisation and dequantisation as instructions (R133, R136, R165 to R168): each is a slot of the common shape on registers whose
checks pass, so that what it leaves in flight is its result. -/

namespace Sys2Proof.Conversions

open Sys2Proof Sys2Proof.Machine Sys2Proof.Claims Sys2Proof.ScalarControl

/-! ### Lists of lanes -/

theorem zipIdx_map_range {α : Type} (g : Nat → α) (n : Nat) :
    ((List.range n).map g).zipIdx = (List.range n).map fun i => (g i, i) := by
  apply List.ext_getElem <;> simp

theorem zipWith_flatMap {α β γ δ : Type} (f : β → γ → δ) (a : α → List β) (b : α → List γ) (h : ∀ i, (a i).length = (b i).length)
    (l : List α) : List.zipWith f (l.flatMap a) (l.flatMap b) = l.flatMap fun i => List.zipWith f (a i) (b i) := by
  induction l with
  | nil => rfl
  | cons x xs ih => simp only [List.flatMap_cons, List.zipWith_append (h x), ih]

/-- A run of `n` groups of `k` places, place by place. -/
theorem flatMap_range_mul {α : Type} (h : Nat → List α) (n k : Nat) :
    ((List.range n).flatMap fun i => (List.range k).flatMap fun j => h (i * k + j)) = (List.range (n * k)).flatMap h := by
  induction n with
  | zero => simp
  | succ n ih => rw [List.range_succ, List.flatMap_append, ih, Nat.succ_mul, List.range_add, List.flatMap_append]; simp [List.flatMap_map]

theorem getD_map_range {α : Type} (g : Nat → α) (d : α) {n i : Nat} (h : i < n) : ((List.range n).map g).getD i d = g i := by
  simp [List.getD_eq_getElem?_getD, h]

theorem eq_map_range_getD {α : Type} (d : α) (xs : List α) : xs = (List.range xs.length).map fun i => xs.getD i d := by
  apply List.ext_getElem
  · simp
  · intro i h _; simp [List.getD_eq_getElem?_getD, h]

/-- What a fold of flags raises: what it began with, and what any of its elements raises. -/
theorem getLsbD_foldl_or {α : Type} {n : Nat} (f : α → BitVec n) (xs : List α) (z : BitVec n) (b : Nat) :
    (xs.foldl (fun acc x => acc ||| f x) z).getLsbD b = true ↔ z.getLsbD b = true ∨ ∃ x ∈ xs, (f x).getLsbD b = true := by
  induction xs generalizing z with
  | nil => simp
  | cons x xs ih => simp [ih, or_assoc]

/-- Flags of lanes under a mask, as a fold that every lane takes part in. -/
theorem foldl_masked {α : Type} {n : Nat} (p : α → Bool) (f : α → BitVec n) (xs : List α) (z : BitVec n) :
    xs.foldl (fun acc x => if p x then acc ||| f x else acc) z = xs.foldl (fun acc x => acc ||| if p x then f x else 0) z := by
  congr 1
  funext acc x
  split <;> simp

theorem laneFlags_range (mask : BitVec 512) (g : Nat → Elem) (n : Nat) :
    laneFlags mask ((List.range n).map g) = (List.range n).foldl (fun acc i => acc ||| if mask.getLsbD i then (g i).2 else 0) 0 := by
  rw [laneFlags, zipIdx_map_range, List.foldl_map, foldl_masked]

theorem getLsbD_laneFlags_range (mask : BitVec 512) (g : Nat → Elem) (n b : Nat) :
    (laneFlags mask ((List.range n).map g)).getLsbD b = true ↔ ∃ i, i < n ∧ mask.getLsbD i = true ∧ (g i).2.getLsbD b = true := by
  rw [laneFlags_range, getLsbD_foldl_or]
  have (i : Nat) : (if mask.getLsbD i then (g i).2 else 0).getLsbD b = true ↔ mask.getLsbD i = true ∧ (g i).2.getLsbD b = true := by
    split <;> simp [*]
  refine (or_iff_right (by simp)).trans ?_
  simp only [this, List.mem_range]

theorem maskedBytes_range (w : Nat) (mask : BitVec 512) (z : Bool) (g : Nat → Nat) (n : Nat) :
    maskedBytes w mask z ((List.range n).map g) = (List.range n).flatMap fun i =>
      if mask.getLsbD i then (leBytes (w / 8) (g i)).map some
      else if z then List.replicate (w / 8) (some 0) else List.replicate (w / 8) none := by
  rw [maskedBytes, zipIdx_map_range, List.flatMap_map]

@[simp] theorem leBytes_length (n v : Nat) : (leBytes n v).length = n := by simp [leBytes]

theorem getLsbD_lowMask {n i : Nat} (hn : n ≤ 512) : (lowMask n).getLsbD i = decide (i < n) := by
  rw [lowMask, BitVec.getLsbD_ofNat, Nat.testBit_two_pow_sub_one]
  by_cases h : i < n <;> simp [h]; omega

theorem lanes16_length (bs : List Byte) : (lanes16 bs).length = bs.length / 2 := by
  fun_induction lanes16 bs with
  | case1 a b rest ih => simp [ih]; omega
  | case2 bs h =>
    match bs, h with
    | [], _ => rfl
    | [_], _ => simp
    | a :: b :: rest, h => exact absurd rfl (h a b rest)

theorem lanes32_length (bs : List Byte) : (lanes32 bs).length = bs.length / 4 := by
  fun_induction lanes32 bs with
  | case1 a b c d rest ih => simp [ih]; omega
  | case2 bs h =>
    match bs, h with
    | [], _ => rfl
    | [_], _ => simp
    | [_, _], _ => simp
    | [_, _, _], _ => simp
    | a :: b :: c :: d :: rest, h => exact absurd rfl (h a b c d rest)

theorem lanes4_length (bs : List Byte) : (lanes4 bs).length = 2 * bs.length := by
  simp [lanes4, mul_comm]

/-- A granule holds LANES of its format (R151). -/
theorem lanesOf_granule_length (t : Fmt) {bs : List Byte} (h : bs.length = 256) : (lanesOf t.width bs).length = t.lanes := by
  cases t <;> simp [lanesOf, Fmt.width, Fmt.lanes, lanes16_length, lanes32_length, lanes4_length, h]

theorem vlanes_length (s : State) (v : BitVec 6) (t : Fmt) : (vlanes s v t).length = t.lanes :=
  lanesOf_granule_length t (Basin.bytes_length _ _ _ _ _ _)

/-! ### Operands -/

theorem maskOf_quiet {s : State} (p : At) (k : BitVec 3) (hr : s.ready) : maskOf s p k = s.ctx.regs.getK k :=
  readK_quiet s _ _ hr.1

theorem checkDst_of_vdstOk {s : State} {m : VMask} {d : BitVec 6} {t : Fmt} (p : At) (hd : vdstOk s m d t) :
    checkDst s p m d 1 (fun _ => true) (some t) = none :=
  checkDst_reg s p m d 1 _ _ hd.1.1 (hd.2.imp_right (Or.imp_right fun ht i hi => by
    obtain rfl : i = 0 := by omega
    exact ht))

/-- The register `v + k` of a run as a source of a V slot. -/
def runSource (s : State) (field : Nat) (v : BitVec 6) (k : Nat) : VSrc :=
  ⟨field, some (s.ctx.basin.tagAt (s.ctx.vecAddr (v.toNat + k))), s.ctx.regBytes (s.ctx.vecAddr (v.toNat + k)) 256,
    s.ctx.basin.sideAt (s.ctx.vecAddr (v.toNat + k)), s.ctx.vecAddr (v.toNat + k), none, true⟩

theorem vecSrc_eq_runSource {s : State} {v : BitVec 6} (p : At) (field : Nat) (hr : s.ready) (hv : vsrcOk s v) :
    vecSrc s p field v 0 [] = runSource s field v 0 :=
  vecSrc_of_vsrcOk p field [] hr hv

@[simp] theorem runSource_under (s : State) (field : Nat) (v : BitVec 6) (k : Nat) (live : Nat → Bool) :
    (runSource s field v k).under live = runSource s field v k := rfl

/-- A register run as sources needs no pop and is ready. -/
theorem runSource_quiet (s : State) (field : Nat) (v : BitVec 6) (k : Nat) :
    (runSource s field v k).pop = none ∧ (runSource s field v k).ready = true := ⟨rfl, rfl⟩

/-! ### VCVT (R165, R166) -/

/-- VCVT on registers is a slot of the common shape whose source passes its check. -/
theorem semVcvt_reg {s : State} {a : BitVec 6} (m : VMask) (d : BitVec 6) (sr half : Bool) (f : BitVec 4) (p : At) (hr : s.ready)
    (ha : vsrcOk s a) (hc : cvtPair (vtag s a) (Fmt.ofCode f) = true) :
    semVcvt m d a sr half f s p =
      (let t := Fmt.ofCode f
       let src := vtag s a
       let rs := cvtLanes s src t sr half (vlanes s a src)
       let mask := s.ctx.regs.getK m.k
       vecSlot s p d 1 [runSource s 1 a 0] [vecRange s p 0 d 1, vecRange s p 1 a 1]
         [if t.width < src.width then narrowDst s p d t else checkDst s p m d 1 (fun _ => true) (some t), none]
         [dstStream s p d, srcStream s p 1 a] []
         (if t.width < src.width then narrowRes t mask m.z half src.lanes rs else plainRes t mask m.z rs 3)) := by
  have htag : (runSource s 1 a 0).tag = some (vtag s a) := rfl
  have hl : (runSource s 1 a 0).lanes (vtag s a) = vlanes s a (vtag s a) := rfl
  simp only [semVcvt, vecSrc_eq_runSource p 1 hr ha, htag, Option.getD_some, hc, hl, maskOf_quiet p m.k hr, Bool.true_and, if_true,
    decide_eq_true_eq, runSource_under, Bool.not_true, Bool.and_false, Bool.false_eq_true, if_false]

/-- The checks of a conversion on registers pass where its destination may take the result. -/
theorem vcvt_checks {s : State} {d a : BitVec 6} (p : At) (dst : Option Stop) (hdst : dst = none) (ha : vsrcOk s a)
    (hd : vregOk s d) :
    ∀ o ∈ [vecRange s p 0 d 1, vecRange s p 1 a 1] ++ [dst, none] ++ [dstStream s p d, srcStream s p 1 a] ++ [], o = none := by
  simp [hdst, vecRange_of_vregOk _ _ hd, vecRange_of_vregOk _ _ ha.1, dstStream_reg _ _ _ hd.1, srcStream_reg _ _ _ _ ha.1.1]

theorem cvtLanes_wide (s : State) (src t : Fmt) (sr half : Bool) (xs : List Nat) (h : src.width ≤ t.width) :
    cvtLanes s src t sr half xs =
      (sliceOf xs (if src.width < t.width ∧ half = true then t.lanes else 0) t.lanes).zipIdx.map
        fun x => elemCvt src t (cvtMode s sr x.2) x.1 := by
  rw [cvtLanes, if_neg (by omega)]
  cases half <;> simp

theorem sameAndWideConversionsComplete : SameAndWideConversionsComplete := by
  intro s m d a sr half f hr ha src t hcvt hwide hd first mode
  have hexec : exec (.vcvt m d a sr half f) s = issueOne s (.vcvt m d a sr half f) (semVcvt m d a sr half f) := rfl
  have hw : ¬(Fmt.ofCode f).width < (vtag s a).width := not_lt.2 hwide
  have hdst : (if t.width < src.width then narrowDst s (alone s (.vcvt m d a sr half f)) d t
      else checkDst s (alone s (.vcvt m d a sr half f)) m d 1 (fun _ => true) (some t)) = none := by
    rw [if_neg hw, checkDst_of_vdstOk _ hd]
  rw [hexec, issueOne_vec s _ _ d 1 _ _ _ _ _ _ hr hd.1.1 (semVcvt_reg m d sr half f _ hr ha hcvt)
    (by simpa using runSource_quiet s 1 a 0) (vcvt_checks _ _ hdst ha hd.1) (by rw [if_neg hw]; exact (by decide : 1 < 3)),
    if_neg hw, cvtLanes_wide s src t sr half _ hwide]
  simp [plainRes, maskedResult, vresult]
  rfl

/-- Half H of the target of a narrowing conversion begins at this lane. -/
def halfStart (half : Bool) (n : Nat) : Nat := if half then n else 0

theorem cvtLanes_narrow (s : State) (src t : Fmt) (sr half : Bool) (xs : List Nat) (h : t.width < src.width) :
    cvtLanes s src t sr half xs = (List.range (2 * xs.length)).map fun i =>
      if halfStart half xs.length ≤ i ∧ i < halfStart half xs.length + xs.length then
        elemCvt src t (cvtMode s sr i) (xs.getD (i - halfStart half xs.length) 0)
      else (0, 0) := by
  rw [cvtLanes, if_pos h]
  apply List.ext_getElem
  · cases half <;> simp <;> omega
  · intro i hi _
    cases half <;> simp [halfStart, List.getElem_append] at hi ⊢
    · by_cases hn : i < xs.length <;> simp [hn]
    · by_cases hn : i < xs.length
      · simp [hn]
      · have hlt : i - xs.length < xs.length := by omega
        have hle : xs.length ≤ i := by omega
        simp [hn, hle, show i < xs.length + xs.length by omega, hlt]

theorem getLsbD_halfMask (half : Bool) {n i : Nat} (hn : 2 * n ≤ 512) :
    (halfMask half n).getLsbD i = decide (halfStart half n ≤ i ∧ i < halfStart half n + n) := by
  cases half
  · simp [halfMask, halfStart, getLsbD_lowMask (show n ≤ 512 by omega)]
  · by_cases hi : i < 512
    · simp only [halfMask, if_true, BitVec.getLsbD_and, BitVec.getLsbD_not, getLsbD_lowMask hn, getLsbD_lowMask (show n ≤ 512 by omega),
        hi, decide_true, Bool.true_and, halfStart, ← two_mul]
      by_cases h : i < n
      · simp [h]
      · simp [h, not_lt.1 h]
    · rw [BitVec.getLsbD_of_ge _ _ (by omega)]
      simp [halfStart]; omega

theorem zipWith_none_or {α : Type} (n : Nat) (xs : List (Option α)) (h : xs.length = n) :
    List.zipWith (fun a b => a.or b) xs (List.replicate n none) = xs := by
  subst h
  induction xs with
  | nil => rfl
  | cons x xs ih => simp [List.replicate_succ, ih]

/-- What a narrowing conversion writes, lane by lane: its half under the mask, nothing in the other half (R166). -/
theorem narrowRes_bytes (t : Fmt) (mask : BitVec 512) (z half : Bool) {n : Nat} (hn : 2 * n ≤ 512) (g : Nat → Elem) :
    (narrowRes t mask z half n ((List.range (2 * n)).map g)).bytes = [(List.range (2 * n)).flatMap fun i =>
      if halfStart half n ≤ i ∧ i < halfStart half n + n then
        if mask.getLsbD i then (leBytes (t.width / 8) (g i).1).map some
        else if z then List.replicate (t.width / 8) (some 0) else List.replicate (t.width / 8) none
      else List.replicate (t.width / 8) none] := by
  have hand (i : Nat) : (mask &&& halfMask half n).getLsbD i =
      (mask.getLsbD i && decide (halfStart half n ≤ i ∧ i < halfStart half n + n)) := by
    rw [BitVec.getLsbD_and, getLsbD_halfMask half hn]
  have hrest (i : Nat) : (halfMask half n &&& ~~~ mask).getLsbD i =
      (decide (halfStart half n ≤ i ∧ i < halfStart half n + n) && !mask.getLsbD i) := by
    by_cases hi : i < 512
    · rw [BitVec.getLsbD_and, getLsbD_halfMask half hn, BitVec.getLsbD_not]; simp [hi]
    · rw [BitVec.getLsbD_of_ge _ _ (by omega)]
      have : ¬(halfStart half n ≤ i ∧ i < halfStart half n + n) := by cases half <;> simp [halfStart] <;> omega
      simp [this]
  have hzeros : leBytes (t.width / 8) 0 = List.replicate (t.width / 8) 0 := by simp [leBytes, List.map_const']
  cases z
  · simp only [narrowRes, plainRes, List.map_map, maskedBytes_range, hand]
    simp only [Bool.and_eq_true, decide_eq_true_eq, Bool.false_eq_true, if_false]
    refine congrArg (fun x => [x]) (List.flatMap_congr fun i _ => ?_)
    by_cases h : halfStart half n ≤ i ∧ i < halfStart half n + n <;> simp [h]
  · simp only [narrowRes, plainRes, List.map_map, maskedBytes_range, hand, hrest, if_true, List.map_cons, List.map_nil,
      Function.comp_def]
    rw [zipWith_flatMap _ _ _ fun i => by simp only [Bool.false_eq_true, if_false]; split <;> split <;> simp]
    simp only [Bool.and_eq_true, decide_eq_true_eq, Bool.not_eq_true', Bool.false_eq_true, if_false]
    refine congrArg (fun x => [x]) (List.flatMap_congr fun i _ => ?_)
    by_cases h : halfStart half n ≤ i ∧ i < halfStart half n + n
    · by_cases hm : mask.getLsbD i = true
      · simp [h, hm, zipWith_none_or]
      · simp [h, hm, hzeros]
    · simp [h]

theorem narrowRes_flags (t : Fmt) (mask : BitVec 512) (z half : Bool) {n : Nat} (hn : 2 * n ≤ 512) (g : Nat → Elem) :
    (narrowRes t mask z half n ((List.range (2 * n)).map g)).flags =
      (List.range n).foldl (fun acc j => if mask.getLsbD (halfStart half n + j) then acc ||| (g (halfStart half n + j)).2 else acc) 0 := by
  have hfl : (narrowRes t mask z half n ((List.range (2 * n)).map g)).flags =
      laneFlags (mask &&& halfMask half n) ((List.range (2 * n)).map g) := by
    simp only [narrowRes]; split <;> rfl
  rw [hfl, foldl_masked]
  refine BitVec.eq_of_getLsbD_eq fun b _ => ?_
  rw [Bool.eq_iff_iff, getLsbD_laneFlags_range, getLsbD_foldl_or]
  simp only [BitVec.getLsbD_and, getLsbD_halfMask half hn, Bool.and_eq_true, decide_eq_true_eq, BitVec.ofNat_eq_ofNat,
    BitVec.getLsbD_zero, Bool.false_eq_true, false_or, List.mem_range]
  have hstart : halfStart half n ≤ n := by cases half <;> simp [halfStart]
  constructor
  · rintro ⟨i, _, ⟨hm, hlo, hhi⟩, hb⟩
    refine ⟨i - halfStart half n, by omega, ?_⟩
    rw [show halfStart half n + (i - halfStart half n) = i by omega, if_pos hm]
    exact hb
  · rintro ⟨j, hj, hb⟩
    by_cases hm : mask.getLsbD (halfStart half n + j) = true
    · exact ⟨halfStart half n + j, by omega, ⟨hm, by omega, by omega⟩, by simpa [hm] using hb⟩
    · simp [hm] at hb

theorem narrowRes_rest (t : Fmt) (mask : BitVec 512) (z half : Bool) (n : Nat) (rs : List Elem) :
    (narrowRes t mask z half n rs).tag = t ∧ (narrowRes t mask z half n rs).sides = [zeroSide] ∧
      (narrowRes t mask z half n rs).lat = 3 := by
  simp only [narrowRes]; split <;> exact ⟨rfl, rfl, rfl⟩

theorem narrowDst_of_tag {s : State} {d : BitVec 6} {t : Fmt} (p : At) (hd : vregOk s d) (ht : vtag s d = t) :
    narrowDst s p d t = none :=
  checkDst_of_vdstOk p ⟨hd, .inr (.inr ht)⟩

/-- The two halves of a narrower target have a lane each for every lane of the source (R166). -/
theorem two_lanes_le {src t : Fmt} (hc : cvtPair src t = true) (hw : t.width < src.width) : 2 * src.lanes ≤ 512 := by
  revert hc hw
  cases src <;> cases t <;> decide

theorem narrowingConversionsComplete : NarrowingConversionsComplete := by
  intro s m d a sr half f hr ha hd src t hcvt hnarrow htag n lo mask mode elem
  have hw : (Fmt.ofCode f).width < (vtag s a).width := hnarrow
  have hn : 2 * n ≤ 512 := two_lanes_le hcvt hw
  have hexec : exec (.vcvt m d a sr half f) s = issueOne s (.vcvt m d a sr half f) (semVcvt m d a sr half f) := rfl
  have hdst : (if t.width < src.width then narrowDst s (alone s (.vcvt m d a sr half f)) d t
      else checkDst s (alone s (.vcvt m d a sr half f)) m d 1 (fun _ => true) (some t)) = none := by
    rw [if_pos hw, narrowDst_of_tag _ hd htag]
  obtain ⟨htg, hsides, hlat⟩ := narrowRes_rest t mask m.z half n (cvtLanes s src t sr half (vlanes s a src))
  have hlanes : cvtLanes s src t sr half (vlanes s a src) = (List.range (2 * n)).map fun i =>
      if lo ≤ i ∧ i < lo + n then elem i else (0, 0) := by
    rw [cvtLanes_narrow s src t sr half _ hw, vlanes_length]; rfl
  have hbytes := narrowRes_bytes t mask m.z half hn fun i => if lo ≤ i ∧ i < lo + n then elem i else (0, 0)
  have hflags : (narrowRes t mask m.z half n (cvtLanes s src t sr half (vlanes s a src))).flags =
      (List.range n).foldl (fun acc j => if mask.getLsbD (lo + j) then acc ||| (elem (lo + j)).2 else acc) 0 := by
    rw [hlanes, narrowRes_flags t mask m.z half hn]
    refine List.foldl_ext _ _ _ fun acc j hj => ?_
    rw [show halfStart half n = lo from rfl, if_pos (⟨by omega, by have := List.mem_range.1 hj; omega⟩ : lo ≤ lo + j ∧ lo + j < lo + n)]
  rw [← hlanes] at hbytes
  rw [hexec, issueOne_vec s _ _ d 1 _ _ _ _ _ _ hr hd.1 (semVcvt_reg m d sr half f _ hr ha hcvt)
    (by simpa using runSource_quiet s 1 a 0) (vcvt_checks _ _ hdst ha hd) (by rw [if_pos hw, hlat]; decide), if_pos hw,
    htg, hsides, hlat, hbytes, hflags]
  have hl (i : Nat) : (lo ≤ i ∧ i < lo + n) = (halfStart half n ≤ i ∧ i < halfStart half n + n) := rfl
  simp only [vresult, List.flatten_cons, List.flatten_nil, List.append_nil, List.length_cons, List.length_nil]
  congr 6
  funext i
  simp only [hl]
  split <;> rfl

/-! ### VQMX and VQC4 (R133, R136, R167) -/

/-- The sources of a run, each with its own register. -/
theorem runSrcs_eq {s : State} {a : BitVec 6} {n : Nat} {t : Fmt} (p : At) (hr : s.ready) (ha : runOk s a n t) :
    ∀ k, k < n → ∀ prior, vecSrc s p 1 a k prior = runSource s 1 a k := by
  obtain ⟨hv, _, hbusy, _⟩ := ha
  intro k hk prior
  refine vecSrc_reg s p 1 a k prior hr (by omega) fun i hi => ?_
  rw [show s.ctx.vecAddr (a.toNat + k) + i = s.ctx.vecAddr a.toNat + (256 * k + i) by simp only [Ctx.vecAddr]; omega]
  exact hbusy _ (by omega)

theorem runSource_tag {s : State} {a : BitVec 6} {n : Nat} {t : Fmt} (ha : runOk s a n t) {k : Nat} (hk : k < n) :
    (runSource s 1 a k).tag = some t :=
  congrArg some (ha.2.2.2 k hk)

/-- Sources of one tag of the class pass the tag check. -/
theorem checkTags_of_tag (p : At) {ok : Fmt → Bool} {t : Fmt} (hok : ok t = true) (xs : List VSrc) (hx : ∀ x ∈ xs, x.tag = some t)
    (ref : Option Fmt) (href : ref = none ∨ ref = some t) : checkTags p ok xs ref = none := by
  induction xs generalizing ref with
  | nil => rfl
  | cons x xs ih =>
    have hxs : ∀ y ∈ xs, y.tag = some t := fun y hy => hx y (List.mem_cons_of_mem _ hy)
    obtain rfl | rfl := href
    · simp only [checkTags, hx x List.mem_cons_self, hok, if_true, ih hxs _ (.inr rfl)]
    · simp only [checkTags, hx x List.mem_cons_self, beq_self_eq_true, if_true, ih hxs _ (.inr rfl)]

theorem runRange_of_runOk {s : State} {v : BitVec 6} {n : Nat} (p : At) (field : Nat) (hv : v.toNat + n ≤ 60)
    (hspace : s.ctx.vecAddr v.toNat + 256 * n ≤ s.ctx.regSize) : runRange s p field v n = none := by
  rw [runRange, if_neg (by simp; omega), vecRange_reg s p field v n hspace]

/-- The values that a quantisation takes of a run (R167). -/
theorem quantVals_eq (s : State) (a : BitVec 6) (n : Nat) (t : Fmt) (k : BitVec 3) :
    quantVals t (s.ctx.regs.getK k) ((List.range n).map (runSource s 1 a)) = runValues s a n t k := by
  simp only [quantVals, runValues, List.flatMap_map]
  rfl

/-- A quantising slot on a run of registers of one floating-point tag. -/
theorem quantSlot_reg {s : State} {k : BitVec 3} {a : BitVec 6} {src tgt : Fmt} (d : BitVec 6) (gran : List FVal → VRes) (p : At)
    (hr : s.ready) (hf : src.isFlt = true) (hn : 0 < tgt.lanes / src.lanes) (ha : runOk s a (tgt.lanes / src.lanes) src) :
    quantSlot k d a tgt gran s p =
      (let n := tgt.lanes / src.lanes
       let xs := (List.range n).map (runSource s 1 a)
       vecSlot s p d 1 xs [vecRange s p 0 d 1, runRange s p 1 a n]
         [checkDst s p ⟨false, k⟩ d 1 (fun _ => true) (some tgt), checkTags p Fmt.isFlt xs none]
         [dstStream s p d, srcStream s p 1 a] [] (gran (runValues s a n src k))) := by
  have hx := runSrcs_eq p hr ha
  have hxs : runSrcs s p a (tgt.lanes / src.lanes) = (List.range (tgt.lanes / src.lanes)).map (runSource s 1 a) :=
    List.map_congr_left fun i hi => hx i (List.mem_range.1 hi) _
  have hlive (xs : List Nat) (live : VSrc × Nat → Nat → Bool) :
      (xs.map (runSource s 1 a)).zipIdx.map (fun x => x.1.under (live x)) = xs.map (runSource s 1 a) := by
    apply List.ext_getElem <;> simp
  simp only [quantSlot, hx 0 hn, runSource_tag ha hn, Option.getD_some, quantRunLen, hf, if_true, hxs, quantVals_eq, maskOf_quiet p k hr,
    hlive]

/-- A quantisation whose checks pass leaves its granule on the way (R133, R136, R167). -/
theorem issueOne_quant {s : State} {k : BitVec 3} {a d : BitVec 6} {src tgt : Fmt} (i : Instr) (sem : State → At → SlotSem)
    (gran : List FVal → VRes) (data side : List Byte) (fl : Flags) (hr : s.ready) (hd : vregOk s d) (hf : src.isFlt = true)
    (hn : 0 < tgt.lanes / src.lanes) (ha : runOk s a (tgt.lanes / src.lanes) src) (hk : k = 0 ∨ vtag s d = tgt)
    (hsem : sem s (alone s i) = quantSlot k d a tgt gran s (alone s i))
    (hg : gran (runValues s a (tgt.lanes / src.lanes) src k) = blkRes tgt data side fl 6) :
    issueOne s i sem = .next (s.finished (granuleResult s d tgt data side fl 6) (s.nb i)) := by
  have hdst : vdstOk s ⟨false, k⟩ d tgt := ⟨hd, hk.imp_right .inr⟩
  have htags : ∀ x ∈ (List.range (tgt.lanes / src.lanes)).map (runSource s 1 a), x.tag = some src := by
    simpa using fun j hj => runSource_tag ha hj
  have hsem' := hsem.trans (quantSlot_reg d gran (alone s i) hr hf hn ha)
  rw [issueOne_vec s i sem d 1 _ _ _ _ _ _ hr hd.1 hsem' (by simp [runSource]) ?_ (by rw [hg]; exact (by decide : 1 < 6)), hg]
  · simp [blkRes, granuleResult]
  · have ha60 : a.toNat < 60 := by have := ha.1; omega
    simp [vecRange_of_vregOk _ _ hd, runRange_of_runOk _ _ ha.1 ha.2.1, checkDst_of_vdstOk _ hdst,
      checkTags_of_tag _ hf _ htags none (.inl rfl), dstStream_reg _ _ _ hd.1, srcStream_reg _ _ _ _ ha60]

theorem run_pos {src tgt : Fmt} (hs : src.isFlt = true) (ht : tgt.isBlk = true) : 0 < tgt.lanes / src.lanes := by
  revert hs ht
  cases src <;> cases tgt <;> decide

theorem quantisersComplete : QuantisersComplete := by
  intro s k d a src hr hd hf
  constructor
  · intro f sr ht t n ha hk blocks scales
    have hblk : t.isBlk = true := by
      obtain h | h := ht <;> simp [t, h, Fmt.isBlk]
    refine issueOne_quant (.vqmx k d a sr f) (semVqmx k d a sr f) (mxGranule s t sr) _ _ _ hr hd hf (run_pos hf hblk) ha hk rfl ?_
    have hb : (t == Fmt.mxfp8) = decide (t = .mxfp8) := rfl
    simp only [mxGranule, hb, decide_eq_true_eq]
    rfl
  · intro f n ha hk vals b0 b1
    exact issueOne_quant (.vqc4 k d a f) (semVqc4 k d a f) qcGranule _ _ _ hr hd hf (run_pos (tgt := .qc4) hf rfl) ha hk rfl rfl

/-! ### VDQ (R168) -/

/-- The result of VDQ on a register: a plain result for each register of its run. -/
def vdqResult (s : State) (m : VMask) (t : Fmt) (n : Nat) (rs : List Elem) : VRes :=
  let parts := (List.range n).map fun i =>
    plainRes t (s.ctx.regs.getK m.k >>> (i * t.lanes)) m.z (sliceOf rs (i * t.lanes) t.lanes) 6
  ⟨t, parts.flatMap VRes.bytes, parts.flatMap VRes.sides, parts.flatMap VRes.lanes, [],
    parts.foldl (fun acc q => acc ||| q.flags) 0, 6⟩

theorem sliceOf_map_range {α : Type} (g : Nat → α) {lo k n : Nat} (h : lo + k ≤ n) :
    sliceOf ((List.range n).map g) lo k = (List.range k).map fun j => g (lo + j) := by
  apply List.ext_getElem
  · simp [sliceOf]; omega
  · intro i _ _; simp [sliceOf]

/-- The parts of a dequantised granule take its lanes in order. -/
theorem slice_of_part (t : Fmt) (n : Nat) (g : Nat → Elem) {i : Nat} (hi : i < n) :
    sliceOf ((List.range (n * t.lanes)).map g) (i * t.lanes) t.lanes = (List.range t.lanes).map fun j => g (i * t.lanes + j) :=
  sliceOf_map_range g (by rw [← Nat.succ_mul]; exact Nat.mul_le_mul_right _ hi)

theorem vdqResult_bytes (s : State) (m : VMask) (t : Fmt) (n : Nat) (g : Nat → Elem) :
    (vdqResult s m t n ((List.range (n * t.lanes)).map g)).bytes.length = n ∧
      (vdqResult s m t n ((List.range (n * t.lanes)).map g)).bytes.flatten = (List.range (n * t.lanes)).flatMap fun j =>
        if (s.ctx.regs.getK m.k).getLsbD j then (leBytes (t.width / 8) (g j).1).map some
        else if m.z then List.replicate (t.width / 8) (some 0) else List.replicate (t.width / 8) none := by
  constructor
  · simp [vdqResult, plainRes, List.flatMap_map, ← List.map_eq_flatMap]
  · rw [← flatMap_range_mul]
    simp only [vdqResult, plainRes, List.flatMap_map, List.flatten_eq_flatMap, List.flatMap_assoc, List.flatMap_cons, List.flatMap_nil,
      List.append_nil, id]
    refine List.flatMap_congr fun i hi => ?_
    rw [slice_of_part t n g (List.mem_range.1 hi), List.map_map, maskedBytes_range]
    simp only [BitVec.getLsbD_ushiftRight, Function.comp_def]

theorem vdqResult_sides (s : State) (m : VMask) (t : Fmt) (n : Nat) (rs : List Elem) :
    (vdqResult s m t n rs).sides.flatten = List.replicate (16 * n) 0 := by
  have h : (vdqResult s m t n rs).sides = List.replicate n zeroSide := by
    simp [vdqResult, plainRes, List.flatMap_map, ← List.map_eq_flatMap]
  rw [h, mul_comm]
  exact List.flatten_replicate_replicate

theorem vdqResult_flags (s : State) (m : VMask) (t : Fmt) (n : Nat) (g : Nat → Elem) (b : Nat) :
    (vdqResult s m t n ((List.range (n * t.lanes)).map g)).flags.getLsbD b = true ↔
      ∃ j, j < n * t.lanes ∧ (s.ctx.regs.getK m.k).getLsbD j = true ∧ (g j).2.getLsbD b = true := by
  simp only [vdqResult]
  rw [getLsbD_foldl_or]
  refine (or_iff_right (by simp)).trans ?_
  simp only [List.mem_map, List.mem_range, exists_exists_and_eq_and]
  constructor
  · rintro ⟨i, hi, hb⟩
    rw [slice_of_part t n g hi] at hb
    obtain ⟨j, hj, hm, hb⟩ := (getLsbD_laneFlags_range _ _ _ _).1 hb
    refine ⟨i * t.lanes + j, ?_, by simpa using hm, hb⟩
    calc i * t.lanes + j < (i + 1) * t.lanes := by rw [Nat.succ_mul]; omega
      _ ≤ n * t.lanes := Nat.mul_le_mul_right _ hi
  · rintro ⟨j, hj, hm, hb⟩
    have hl : 0 < t.lanes := Nat.pos_of_ne_zero fun h => by simp [h] at hj
    have hi : j / t.lanes < n := (Nat.div_lt_iff_lt_mul hl).2 hj
    have hj' : j / t.lanes * t.lanes + j % t.lanes = j := Nat.div_add_mod' j t.lanes
    refine ⟨j / t.lanes, hi, ?_⟩
    rw [slice_of_part t n g hi]
    exact (getLsbD_laneFlags_range _ _ _ _).2 ⟨j % t.lanes, Nat.mod_lt _ hl, by simpa [hj'] using hm, by simpa [hj'] using hb⟩

theorem semVdq_reg {s : State} {a : BitVec 6} (m : VMask) (d : BitVec 6) (f : BitVec 4) (p : At) (hr : s.ready) (ha : vsrcOk s a)
    (hb : (vtag s a).isBlk = true) :
    semVdq m d a f s p =
      (let t := Fmt.ofCode f
       let n := (vtag s a).lanes / t.lanes
       let rs := (List.range (vtag s a).lanes).map fun j => t.rnd .rne (blkValue (vtag s a)
         (s.ctx.regBytes (s.ctx.vecAddr a.toNat) 256) (s.ctx.basin.sideAt (s.ctx.vecAddr a.toNat)) j)
       vecSlot s p d n [runSource s 1 a 0] [runRange s p 0 d n, vecRange s p 1 a 1]
         [checkDst s p m d n (fun _ => true) (some t), checkTags p Fmt.isBlk [runSource s 1 a 0] none]
         [dstStream s p d, srcStream s p 1 a] [] (vdqResult s m t n rs)) := by
  have htag : (runSource s 1 a 0).tag = some (vtag s a) := rfl
  simp only [semVdq, vecSrc_eq_runSource p 1 hr ha, htag, Option.getD_some, hb, if_true, maskOf_quiet p m.k hr]
  rfl

theorem run_covers {src t : Fmt} (hs : src.isBlk = true) (ht : t.isFlt = true) : src.lanes / t.lanes * t.lanes = src.lanes := by
  revert hs ht
  cases src <;> cases t <;> decide

theorem dequantiserCompletes : DequantiserCompletes := by
  intro s m d a f hr ha src t n hblk hflt hd hspace htags mask elem
  have hexec : exec (.vdq m d a f) s = issueOne s (.vdq m d a f) (semVdq m d a f) := rfl
  have hn : 0 < n := run_pos hflt hblk
  have hlanes : (List.range src.lanes).map elem = (List.range (n * t.lanes)).map elem := by rw [run_covers hblk hflt]
  refine ⟨(vdqResult s m t n ((List.range src.lanes).map elem)).flags, fun b => ?_, ?_⟩
  · rw [hlanes, vdqResult_flags, run_covers hblk hflt]
  · rw [hexec, issueOne_vec s _ _ d n _ _ _ _ _ _ hr (by omega) (semVdq_reg m d f _ hr ha hblk)
      (by simpa using runSource_quiet s 1 a 0) ?_ (by exact (by decide : 1 < 6))]
    · obtain ⟨hlen, hbytes⟩ := vdqResult_bytes s m t n elem
      rw [← hlanes, run_covers hblk hflt] at hbytes
      rw [← hlanes] at hlen
      rw [← hbytes]
      simp only [vdqResult_sides]
      rw [show 256 * n = 256 * (vdqResult s m t n ((List.range src.lanes).map elem)).bytes.length by rw [hlen]]
      rfl
    · have h60 : d.toNat < 60 := by omega
      have htag : checkTags (alone s (.vdq m d a f)) Fmt.isBlk [runSource s 1 a 0] none = none :=
        checkTags_of_tag _ hblk _ (List.forall_mem_singleton.2 rfl) none (.inl rfl)
      simp only [List.cons_append, List.nil_append, List.append_nil, List.forall_mem_cons]
      exact ⟨runRange_of_runOk _ _ hd hspace, vecRange_of_vregOk _ _ ha.1, checkDst_reg s _ m d n _ t h60 htags, htag,
        dstStream_reg _ _ _ h60, srcStream_reg _ _ _ _ ha.1.1, by simp⟩

/-- Settles O22: VCVT, VQMX, VQC4 and VDQ are slots of the common shape whose results are those of R165 to R168. -/
theorem conversionsComplete : Obligations.ConversionsComplete :=
  ⟨sameAndWideConversionsComplete, narrowingConversionsComplete, quantisersComplete, dequantiserCompletes⟩

end Sys2Proof.Conversions
end

section
/-! Rounding (R124, R126 to R128, R142): the magnitudes of a format's codes, the rounding of a real magnitude to them, and the model's
rounding of m · 2^e as a case of it. -/

namespace Sys2Proof.Numbers

open Sys2Proof Sys2Proof.Machine Sys2Proof.Claims

/-! ### The layout of a format -/

/-- The model's format `f` is the one of Table 8-1 that `l` lays out. -/
structure Describes (l : Layout) (f : FltFmt) : Prop where
  w : f.w = l.w
  fbits : f.fbits = l.fb
  bias : f.bias = l.bias
  maxCode : f.maxCode = l.largest
  infCode : f.infCode = l.inf
  nanCode : f.nanCode = l.nan
  wide : 2 ≤ l.w
  fraction : 1 ≤ l.fb
  normal : 2 ^ l.fb ≤ l.largest
  room : l.largest < 2 ^ (l.w - 1)
  above : ∀ i, l.inf = some i → l.largest < i ∧ i < 2 ^ (l.w - 1)

/-! ### Magnitudes in units of the smallest subnormal number -/

/-- The magnitude of a code in units of the smallest subnormal number. -/
def unitsOfCode (fb c : ℕ) : ℕ := if c / 2 ^ fb = 0 then c % 2 ^ fb else (2 ^ fb + c % 2 ^ fb) * 2 ^ (c / 2 ^ fb - 1)

theorem unitsOfCode_of_scale {fb k t : ℕ} (h : t < 2 ^ (fb + 1)) (hk : k = 0 ∨ 2 ^ fb ≤ t) :
    unitsOfCode fb (k * 2 ^ fb + t) = t * 2 ^ k := by
  have hp : 0 < 2 ^ fb := by positivity
  rw [pow_succ] at h
  by_cases ht : t < 2 ^ fb
  · obtain rfl : k = 0 := by omega
    simp [unitsOfCode, Nat.div_eq_of_lt ht, Nat.mod_eq_of_lt ht]
  · obtain ⟨r, rfl⟩ := Nat.exists_eq_add_of_le (not_lt.1 ht)
    have hr : r < 2 ^ fb := by omega
    have hq : (k * 2 ^ fb + (2 ^ fb + r)) / 2 ^ fb = k + 1 := by
      rw [show k * 2 ^ fb + (2 ^ fb + r) = r + (k + 1) * 2 ^ fb by ring, Nat.add_mul_div_right _ _ hp, Nat.div_eq_of_lt hr, zero_add]
    have hm : (k * 2 ^ fb + (2 ^ fb + r)) % 2 ^ fb = r := by
      rw [show k * 2 ^ fb + (2 ^ fb + r) = r + (k + 1) * 2 ^ fb by ring, Nat.add_mul_mod_self_right, Nat.mod_eq_of_lt hr]
    simp [unitsOfCode, hq, hm]

/-- The code after one of `t` units of 2^k is one of `t + 1` of them. -/
theorem unitsOfCode_succ_of_scale {fb k t : ℕ} (h : t < 2 ^ (fb + 1)) (hk : k = 0 ∨ 2 ^ fb ≤ t) :
    unitsOfCode fb (k * 2 ^ fb + t + 1) = (t + 1) * 2 ^ k := by
  by_cases ht : t + 1 < 2 ^ (fb + 1)
  · exact unitsOfCode_of_scale ht (hk.imp_right Nat.le_succ_of_le)
  · have he : t + 1 = 2 ^ fb + 2 ^ fb := by rw [pow_succ] at h ht; omega
    have hp : 0 < 2 ^ fb := by positivity
    rw [show k * 2 ^ fb + t + 1 = (k + 1) * 2 ^ fb + 2 ^ fb by rw [add_assoc, he]; ring,
      unitsOfCode_of_scale (by rw [pow_succ]; omega) (.inr le_rfl), he]
    ring

/-- Every code is some `t` units of a power of two, with all the bits of the fraction where the power is not the least. -/
theorem code_eq_scale (fb c : ℕ) : ∃ k t, c = k * 2 ^ fb + t ∧ t < 2 ^ (fb + 1) ∧ (k = 0 ∨ 2 ^ fb ≤ t) := by
  have hp : 0 < 2 ^ fb := by positivity
  have hmod := Nat.mod_lt c hp
  have hdiv := Nat.div_add_mod' c (2 ^ fb)
  obtain h0 | ⟨k, hk⟩ : c / 2 ^ fb = 0 ∨ ∃ k, c / 2 ^ fb = k + 1 := by
    cases c / 2 ^ fb with
    | zero => exact .inl rfl
    | succ k => exact .inr ⟨k, rfl⟩
  · exact ⟨0, c % 2 ^ fb, by rw [h0] at hdiv; omega, by rw [pow_succ]; omega, .inl rfl⟩
  · exact ⟨k, 2 ^ fb + c % 2 ^ fb, by rw [hk, Nat.succ_mul] at hdiv; omega, by rw [pow_succ]; omega, .inr (by omega)⟩

theorem unitsOfCode_strictMono (fb : ℕ) : StrictMono (unitsOfCode fb) := by
  refine strictMono_nat_of_lt_succ fun c => ?_
  obtain ⟨k, t, rfl, ht, hk⟩ := code_eq_scale fb c
  rw [unitsOfCode_of_scale ht hk, unitsOfCode_succ_of_scale ht hk]
  exact Nat.mul_lt_mul_of_pos_right (Nat.lt_succ_self t) (by positivity)

@[simp] theorem unitsOfCode_zero (fb : ℕ) : unitsOfCode fb 0 = 0 := by simp [unitsOfCode]

/-! ### Magnitudes as rational numbers -/

/-- The exponent of the smallest subnormal number. -/
def leastExp (l : Layout) : ℤ := 1 - (l.bias : ℤ) - l.fb

/-- The magnitude of a code, whether it is a code of the format or lies above them (R127). -/
def magnitude (l : Layout) (c : ℕ) : ℚ := unitsOfCode l.fb c * 2 ^ leastExp l

theorem magnitude_strictMono (l : Layout) : StrictMono (magnitude l) := fun a b h => by
  have := unitsOfCode_strictMono l.fb h
  exact mul_lt_mul_of_pos_right (by exact_mod_cast this) (by positivity)

@[simp] theorem magnitude_zero (l : Layout) : magnitude l 0 = 0 := by simp [magnitude]

theorem magnitude_nonneg (l : Layout) (c : ℕ) : 0 ≤ magnitude l c := by unfold magnitude; positivity

theorem magnitude_eq_zero {l : Layout} {c : ℕ} : magnitude l c = 0 ↔ c = 0 := by
  rw [← magnitude_zero l, (magnitude_strictMono l).injective.eq_iff]

/-- The magnitudes of a code of `t` units of 2^q, and of the code after it. -/
theorem magnitude_of_scale {l : Layout} {t : ℕ} {q : ℤ} (hq : leastExp l ≤ q) (h : t < 2 ^ (l.fb + 1))
    (hk : q = leastExp l ∨ 2 ^ l.fb ≤ t) :
    magnitude l ((q - leastExp l).toNat * 2 ^ l.fb + t) = t * 2 ^ q ∧
      magnitude l ((q - leastExp l).toNat * 2 ^ l.fb + t + 1) = (t + 1) * 2 ^ q := by
  have hk' : (q - leastExp l).toNat = 0 ∨ 2 ^ l.fb ≤ t := hk.imp_left fun h => by omega
  have hz : (2 : ℚ) ^ (q - leastExp l).toNat * 2 ^ leastExp l = 2 ^ q := by
    rw [← zpow_natCast, ← zpow_add₀ (by norm_num)]
    congr 1
    omega
  constructor
  · rw [magnitude, unitsOfCode_of_scale h hk', Nat.cast_mul, mul_assoc]
    push_cast
    rw [hz]
  · rw [magnitude, unitsOfCode_succ_of_scale h hk', Nat.cast_mul, mul_assoc]
    push_cast
    rw [hz]

/-- The value of an encoding is its magnitude with its sign (R124). -/
theorem val_eq (l : Layout) (v : ℕ) : l.val v = if l.negative v then -magnitude l (l.mag v) else magnitude l (l.mag v) := by
  have hp : (2 : ℚ) ^ l.fb ≠ 0 := by positivity
  have hm : (if l.mag v / 2 ^ l.fb = 0 then ((l.mag v % 2 ^ l.fb : ℕ) : ℚ) / 2 ^ l.fb * 2 ^ (1 - (l.bias : ℤ))
      else (1 + ((l.mag v % 2 ^ l.fb : ℕ) : ℚ) / 2 ^ l.fb) * 2 ^ (((l.mag v / 2 ^ l.fb : ℕ) : ℤ) - l.bias)) =
      magnitude l (l.mag v) := by
    rw [magnitude, unitsOfCode, leastExp]
    by_cases h : l.mag v / 2 ^ l.fb = 0
    · rw [if_pos h, if_pos h, zpow_sub₀ (by norm_num) _ (l.fb : ℤ), zpow_natCast]
      field_simp
    · obtain ⟨k, hk⟩ := Nat.exists_eq_succ_of_ne_zero h
      rw [if_neg h, if_neg h, hk, show (1 : ℤ) - l.bias - l.fb = ((k.succ : ℕ) : ℤ) - l.bias - l.fb - k by push_cast; ring,
        zpow_sub₀ (by norm_num) _ (k : ℤ), zpow_sub₀ (by norm_num) _ (l.fb : ℤ), zpow_natCast, zpow_natCast]
      push_cast
      field_simp
  rw [← hm]
  rfl

/-! ### Signs and encodings -/

section
variable {l : Layout} {f : FltFmt}

theorem signed_lt (h : 1 ≤ l.w) {neg : Bool} {c : ℕ} (hc : c < 2 ^ (l.w - 1)) : l.signed neg c < 2 ^ l.w := by
  have : 2 ^ l.w = 2 ^ (l.w - 1) + 2 ^ (l.w - 1) := by rw [← two_mul, ← pow_succ']; congr 1; omega
  rw [Layout.signed]
  split <;> omega

theorem mag_signed {neg : Bool} {c : ℕ} (hc : c < 2 ^ (l.w - 1)) : l.mag (l.signed neg c) = c := by
  rw [Layout.mag, Layout.signed]
  split <;> simp [Nat.mod_eq_of_lt hc]

theorem negative_signed {neg : Bool} {c : ℕ} (hc : c < 2 ^ (l.w - 1)) : l.negative (l.signed neg c) = neg := by
  have hp : 0 < 2 ^ (l.w - 1) := by positivity
  cases neg
  · simp [Layout.negative, Layout.signed, Nat.div_eq_of_lt hc]
  · simp [Layout.negative, Layout.signed, Nat.add_div_left _ hp, Nat.div_eq_of_lt hc]

/-- An encoding is its magnitude with its sign. -/
theorem signed_mag (h : 1 ≤ l.w) {v : ℕ} (hv : v < 2 ^ l.w) : l.signed (l.negative v) (l.mag v) = v := by
  have h2 : 2 ^ l.w = 2 ^ (l.w - 1) + 2 ^ (l.w - 1) := by rw [← two_mul, ← pow_succ']; congr 1; omega
  rw [Layout.signed, Layout.negative, Layout.mag]
  by_cases hlt : v < 2 ^ (l.w - 1)
  · simp [Nat.div_eq_of_lt hlt, Nat.mod_eq_of_lt hlt]
  · have hd : v / 2 ^ (l.w - 1) = 1 := Nat.div_eq_of_lt_le (by omega) (by omega)
    have hmod := Nat.div_add_mod v (2 ^ (l.w - 1))
    rw [hd, mul_one] at hmod
    simp [hd, hmod]

theorem mag_lt (l : Layout) (v : ℕ) : l.mag v < 2 ^ (l.w - 1) := Nat.mod_lt _ (by positivity)

namespace Describes

variable (h : Describes l f)
include h

theorem w_pos : 1 ≤ l.w := by have := h.wide; omega

theorem finite_signed {neg : Bool} {c : ℕ} (hc : c ≤ l.largest) : l.finite (l.signed neg c) := by
  have hlt : c < 2 ^ (l.w - 1) := lt_of_le_of_lt hc h.room
  exact ⟨signed_lt h.w_pos hlt, by rwa [mag_signed hlt]⟩

theorem val_signed {neg : Bool} {c : ℕ} (hc : c ≤ l.largest) :
    l.val (l.signed neg c) = if neg then -magnitude l c else magnitude l c := by
  have hlt : c < 2 ^ (l.w - 1) := lt_of_le_of_lt hc h.room
  rw [val_eq, mag_signed hlt, negative_signed hlt]

theorem signed_eq (neg : Bool) (c : ℕ) : f.signed neg c = l.signed neg c := by
  simp [FltFmt.signed, Layout.signed, h.w]

/-- The parity of an encoding is that of its magnitude code. -/
theorem signed_mod_two {neg : Bool} {c : ℕ} : l.signed neg c % 2 = c % 2 := by
  obtain ⟨k, hk⟩ : ∃ k, l.w - 1 = k + 1 := ⟨l.w - 2, by have := h.wide; omega⟩
  rw [Layout.signed]
  split
  · rw [hk, pow_succ]; omega
  · rfl

theorem top_eq : l.top = magnitude l l.largest := by
  rw [Layout.top, val_eq, Layout.mag, Nat.mod_eq_of_lt h.room, if_neg]
  simp [Layout.negative, Nat.div_eq_of_lt h.room]

/-- Above the largest finite magnitude the next one would lie a step of its exponent away. -/
theorem top_add_step : l.top + l.step = magnitude l (l.largest + 1) := by
  obtain ⟨k, t, hc, ht, hk⟩ := code_eq_scale l.fb l.largest
  have hp : 0 < 2 ^ l.fb := by positivity
  have hn := h.normal
  have htn : 2 ^ l.fb ≤ t := by
    rcases hk with rfl | hk
    · omega
    · exact hk
  have hdiv : l.largest / 2 ^ l.fb = k + 1 := by
    rw [hc]
    refine Nat.div_eq_of_lt_le ?_ ?_
    · rw [Nat.succ_mul]; omega
    · rw [pow_succ] at ht
      rw [Nat.succ_mul, Nat.succ_mul]; omega
  have hstep : l.step = 2 ^ k * 2 ^ leastExp l := by
    rw [Layout.step, hdiv, ← zpow_natCast, ← zpow_add₀ (by norm_num)]
    congr 1
    simp only [leastExp]
    push_cast
    ring
  rw [h.top_eq, hstep, magnitude, magnitude, hc, unitsOfCode_of_scale ht hk, unitsOfCode_succ_of_scale ht hk]
  push_cast
  ring

end Describes

end

/-! ### Rounding a real magnitude -/

/-- Whether a magnitude that lies the fraction `x` of a unit above `t` units goes up a unit (Table 8-2, R142). -/
def goesUp (mode : RMode) (neg : Bool) (t : ℕ) (x : ℝ) : Prop :=
  match mode with
  | .rne => 1 / 2 < x ∨ (x = 1 / 2 ∧ t % 2 = 1)
  | .rtz => False
  | .rdn => neg = true ∧ x ≠ 0
  | .rup => neg = false ∧ x ≠ 0
  | .sr z => ((z.toNat / 2 ^ 40 : ℕ) : ℤ) < ⌊x * 2 ^ 24⌋

/-- The exponent of the unit of the format at the magnitude `y`. -/
noncomputable def unitExp (l : Layout) (y : ℝ) : ℤ := max (Int.log 2 y) (1 - (l.bias : ℤ)) - l.fb

/-- The whole units in the magnitude `y`. -/
noncomputable def wholeUnits (l : Layout) (y : ℝ) : ℕ := ⌊y / 2 ^ unitExp l y⌋₊

/-- What the magnitude `y` has beyond its whole units. -/
noncomputable def restUnits (l : Layout) (y : ℝ) : ℝ := y / 2 ^ unitExp l y - wholeUnits l y

/-- The code of the whole units of `y`. -/
noncomputable def belowCode (l : Layout) (y : ℝ) : ℕ := (unitExp l y - leastExp l).toNat * 2 ^ l.fb + wholeUnits l y

/-- The magnitude that an overflow delivers (Table 8-3), under SR by what the generator chose. -/
def overflowCode (l : Layout) (mode : RMode) (neg up : Bool) : ℕ :=
  match mode with
  | .sr _ => if up then l.inf.getD l.largest else l.largest
  | m => l.delivered m neg

/-- A magnitude code with its sign and flags, `up` saying whether it goes up one from `c`, `exact` and `tiny` what the value was. -/
def codeWithFlags (l : Layout) (mode : RMode) (neg : Bool) (c : ℕ) (up exact tiny : Bool) : ℕ × Flags :=
  if l.largest < c + up.toNat then (l.signed neg (overflowCode l mode neg up), fOF ||| fNX)
  else (l.signed neg (c + up.toNat), if exact then 0 else if tiny then fUF ||| fNX else fNX)

open Classical in
/-- The rounding of a real number that is not 0, by its sign and magnitude. -/
noncomputable def roundReal (l : Layout) (mode : RMode) (neg : Bool) (y : ℝ) : ℕ × Flags :=
  codeWithFlags l mode neg (belowCode l y) (decide (goesUp mode neg (wholeUnits l y) (restUnits l y))) (decide (restUnits l y = 0))
    (decide (y < 2 ^ (1 - (l.bias : ℤ))))

/-! ### Where a magnitude lies between two codes -/

section
variable {l : Layout} {f : FltFmt} {y : ℝ}

theorem leastExp_le_unitExp (l : Layout) (y : ℝ) : leastExp l ≤ unitExp l y := by
  rw [leastExp, unitExp]
  exact sub_le_sub_right (le_max_right _ _) _

theorem units_nonneg (hy : 0 < y) : 0 ≤ y / 2 ^ unitExp l y := by positivity

theorem wholeUnits_le (hy : 0 < y) : (wholeUnits l y : ℝ) ≤ y / 2 ^ unitExp l y := Nat.floor_le (units_nonneg hy)

theorem lt_wholeUnits_succ (l : Layout) (y : ℝ) : y / 2 ^ unitExp l y < wholeUnits l y + 1 := Nat.lt_floor_add_one _

/-- The fraction takes all the whole units. -/
theorem wholeUnits_lt (l : Layout) (y : ℝ) : wholeUnits l y < 2 ^ (l.fb + 1) := by
  have hlog : y < 2 ^ (Int.log 2 y + 1) := Int.lt_zpow_succ_log_self (by norm_num) y
  have hexp : (2 : ℝ) ^ (Int.log 2 y + 1) ≤ 2 ^ (l.fb + 1 : ℕ) * 2 ^ unitExp l y := by
    rw [← zpow_natCast, ← zpow_add₀ (by norm_num)]
    refine zpow_le_zpow_right₀ (by norm_num) ?_
    have := le_max_left (Int.log 2 y) (1 - (l.bias : ℤ))
    rw [unitExp]; push_cast; linarith
  have : y / 2 ^ unitExp l y < ((2 ^ (l.fb + 1) : ℕ) : ℝ) := by
    rw [div_lt_iff₀ (by positivity)]
    push_cast
    exact lt_of_lt_of_le hlog hexp
  exact Nat.floor_lt' (by positivity) |>.2 this

/-- Above the subnormal numbers the whole units have all the bits of the fraction. -/
theorem unitExp_eq_or_le_wholeUnits (hy : 0 < y) : unitExp l y = leastExp l ∨ 2 ^ l.fb ≤ wholeUnits l y := by
  rcases le_total (Int.log 2 y) (1 - (l.bias : ℤ)) with hle | hle
  · left; rw [unitExp, max_eq_right hle, leastExp]
  · right
    refine Nat.le_floor ?_
    have hlog : (2 : ℝ) ^ Int.log 2 y ≤ y := Int.zpow_log_le_self (by norm_num) hy
    rw [unitExp, max_eq_left hle, le_div_iff₀ (by positivity)]
    push_cast
    rwa [← zpow_natCast, ← zpow_add₀ (by norm_num), add_sub_cancel]

theorem magnitude_belowCode (hy : 0 < y) : (magnitude l (belowCode l y) : ℝ) = wholeUnits l y * 2 ^ unitExp l y := by
  have := (magnitude_of_scale (leastExp_le_unitExp l y) (wholeUnits_lt l y) (unitExp_eq_or_le_wholeUnits hy)).1
  rw [belowCode, this]; push_cast; rfl

theorem magnitude_belowCode_succ (hy : 0 < y) :
    (magnitude l (belowCode l y + 1) : ℝ) = (wholeUnits l y + 1) * 2 ^ unitExp l y := by
  have := (magnitude_of_scale (leastExp_le_unitExp l y) (wholeUnits_lt l y) (unitExp_eq_or_le_wholeUnits hy)).2
  rw [belowCode, this]; push_cast; rfl

theorem eq_units (l : Layout) (y : ℝ) : y = (wholeUnits l y + restUnits l y) * 2 ^ unitExp l y := by
  rw [restUnits, add_sub_cancel, div_mul_cancel₀ _ (by positivity)]

theorem magnitude_belowCode_le (hy : 0 < y) : (magnitude l (belowCode l y) : ℝ) ≤ y := by
  rw [magnitude_belowCode hy]
  exact (le_div_iff₀ (by positivity)).1 (wholeUnits_le hy)

theorem lt_magnitude_belowCode_succ (hy : 0 < y) : y < magnitude l (belowCode l y + 1) := by
  rw [magnitude_belowCode_succ hy]
  exact (div_lt_iff₀ (by positivity)).1 (lt_wholeUnits_succ l y)

theorem restUnits_eq_zero_iff (hy : 0 < y) : restUnits l y = 0 ↔ (magnitude l (belowCode l y) : ℝ) = y := by
  rw [magnitude_belowCode hy]
  constructor
  · intro h
    conv_rhs => rw [eq_units l y, h, add_zero]
  · intro h
    rw [restUnits, sub_eq_zero, div_eq_iff (by positivity)]
    exact h.symm

theorem belowCode_mod_two (hfb : 1 ≤ l.fb) (y : ℝ) : belowCode l y % 2 = wholeUnits l y % 2 := by
  obtain ⟨k, hk⟩ := Nat.exists_eq_add_of_le hfb
  rw [belowCode, hk, add_comm 1 k, pow_succ, ← mul_assoc]
  omega

end

/-! ### The model's rounding of m · 2^e -/

section
variable {l : Layout} {f : FltFmt}

theorem log_natCast_mul_zpow {m : ℕ} (hm : m ≠ 0) (e : ℤ) : Int.log 2 ((m : ℝ) * 2 ^ e) = (m.log2 : ℤ) + e := by
  have hlo : (2 : ℝ) ^ m.log2 ≤ m := by exact_mod_cast Nat.log2_self_le hm
  have hhi : (m : ℝ) < 2 ^ (m.log2 + 1) := by exact_mod_cast Nat.lt_log2_self
  have hm' : (0 : ℝ) < m := by positivity
  apply le_antisymm
  · rw [← Int.lt_add_one_iff, ← Int.lt_zpow_iff_log_lt (by norm_num) (by positivity), Nat.cast_ofNat, add_right_comm,
      zpow_add₀ (by norm_num)]
    exact mul_lt_mul_of_pos_right (by exact_mod_cast hhi) (by positivity)
  · rw [← Int.zpow_le_iff_le_log (by norm_num) (by positivity), Nat.cast_ofNat, zpow_add₀ (by norm_num)]
    exact mul_le_mul_of_nonneg_right (by exact_mod_cast hlo) (by positivity)

/-- A power of two divided by another, as naturals. -/
theorem zpow_sub_eq_div (e q : ℤ) : (2 : ℝ) ^ (e - q) = 2 ^ (e - q).toNat / 2 ^ (q - e).toNat := by
  rw [← zpow_natCast, ← zpow_natCast, ← zpow_sub₀ (by norm_num)]
  congr 1
  omega

theorem restUnits_of_quotient {n k : ℕ} : ((n : ℝ) / (2 ^ k : ℕ) - (n / 2 ^ k : ℕ)) = ((n % 2 ^ k : ℕ) : ℝ) / (2 ^ k : ℕ) := by
  have h : (n : ℝ) = 2 ^ k * (n / 2 ^ k : ℕ) + (n % 2 ^ k : ℕ) := by exact_mod_cast (Nat.div_add_mod n (2 ^ k)).symm
  have hk : ((2 ^ k : ℕ) : ℝ) ≠ 0 := by positivity
  field_simp
  rw [h]; push_cast; ring

/-- The model's test for going up is that of the exact rest (R142). -/
theorem roundsUp_iff (mode : RMode) (neg : Bool) (t rem k : ℕ) :
    roundsUp mode neg t rem k = true ↔ goesUp mode neg t ((rem : ℝ) / (2 ^ k : ℕ)) := by
  have hk : (0 : ℝ) < ((2 ^ k : ℕ) : ℝ) := by positivity
  cases mode with
  | rne =>
    have hlt : (1 : ℝ) / 2 < rem / (2 ^ k : ℕ) ↔ 2 ^ k < 2 * rem := by
      rw [div_lt_div_iff₀ (by norm_num) hk]
      constructor <;> intro h
      · have : ((2 ^ k : ℕ) : ℝ) < ((2 * rem : ℕ) : ℝ) := by push_cast at h ⊢; linarith
        exact_mod_cast this
      · have : ((2 ^ k : ℕ) : ℝ) < ((2 * rem : ℕ) : ℝ) := by exact_mod_cast h
        push_cast at this ⊢; linarith
    have heq : (rem : ℝ) / (2 ^ k : ℕ) = 1 / 2 ↔ 2 ^ k = 2 * rem := by
      rw [div_eq_div_iff hk.ne' (by norm_num)]
      constructor <;> intro h
      · have : ((2 ^ k : ℕ) : ℝ) = ((2 * rem : ℕ) : ℝ) := by push_cast at h ⊢; linarith
        exact_mod_cast this
      · have : ((2 ^ k : ℕ) : ℝ) = ((2 * rem : ℕ) : ℝ) := by exact_mod_cast h
        push_cast at this ⊢; linarith
    simp only [roundsUp, goesUp, hlt, heq, Bool.or_eq_true, Bool.and_eq_true, decide_eq_true_eq, beq_iff_eq]
  | rtz => simp [roundsUp, goesUp]
  | rdn => simp [roundsUp, goesUp]
  | rup => simp [roundsUp, goesUp]
  | sr z =>
    have hfloor : ⌊(rem : ℝ) / (2 ^ k : ℕ) * 2 ^ 24⌋ = ((rem * 2 ^ 24 / 2 ^ k : ℕ) : ℤ) := by
      rw [div_mul_eq_mul_div, show (rem : ℝ) * 2 ^ 24 = ((rem * 2 ^ 24 : ℕ) : ℝ) by push_cast; norm_num,
        ← Int.natCast_floor_eq_floor (by positivity), Nat.floor_div_eq_div]
    simp only [roundsUp, goesUp, hfloor, decide_eq_true_eq, BitVec.toNat_ushiftRight, Nat.shiftRight_eq_div_pow]
    exact Int.ofNat_lt.symm

theorem Describes.overflow_eq (h : Describes l f) (mode : RMode) (neg up : Bool) :
    f.overflow mode neg up = overflowCode l mode neg up := by
  rw [FltFmt.overflow, h.infCode, h.maxCode]
  cases hi : l.inf with
  | none => cases mode <;> simp [overflowCode, Layout.delivered, hi]
  | some i => cases mode <;> simp [overflowCode, Layout.delivered, hi]

/-- The model rounds m · 2^e as the real number that it is. -/
theorem Describes.roundFin_eq (h : Describes l f) (mode : RMode) (neg : Bool) {m : ℕ} (hm : m ≠ 0) (e : ℤ) :
    f.roundFin mode neg m e = roundReal l mode neg (m * 2 ^ e) := by
  have hy : (0 : ℝ) < m * 2 ^ e := by positivity
  have hlog := log_natCast_mul_zpow hm e
  have hq : ((if (m.log2 : ℤ) + e < 1 - (f.bias : ℤ) then 1 - (f.bias : ℤ) else (m.log2 : ℤ) + e) - (l.fb : ℤ)) =
      unitExp l (m * 2 ^ e) := by
    rw [unitExp, hlog, h.bias, max_def]
    split <;> split <;> omega
  have hunits : (m : ℝ) * 2 ^ e / 2 ^ unitExp l (m * 2 ^ e) = ((m * 2 ^ (e - unitExp l (m * 2 ^ e)).toNat : ℕ) : ℝ) /
      ((2 ^ (unitExp l (m * 2 ^ e) - e).toNat : ℕ) : ℝ) := by
    rw [mul_div_assoc, ← zpow_sub₀ (by norm_num), zpow_sub_eq_div]
    push_cast
    rw [mul_div_assoc]
  have ht : wholeUnits l (m * 2 ^ e) = m * 2 ^ (e - unitExp l (m * 2 ^ e)).toNat / 2 ^ (unitExp l (m * 2 ^ e) - e).toNat := by
    rw [wholeUnits, hunits, Nat.floor_div_eq_div]
  have hrest : restUnits l (m * 2 ^ e) = ((m * 2 ^ (e - unitExp l (m * 2 ^ e)).toNat % 2 ^ (unitExp l (m * 2 ^ e) - e).toNat : ℕ) : ℝ) /
      ((2 ^ (unitExp l (m * 2 ^ e) - e).toNat : ℕ) : ℝ) := by
    rw [restUnits, ht, hunits, restUnits_of_quotient]
  have htiny : (m : ℝ) * 2 ^ e < 2 ^ (1 - (l.bias : ℤ)) ↔ (m.log2 : ℤ) + e < 1 - (f.bias : ℤ) := by
    rw [← hlog, h.bias, ← Int.lt_zpow_iff_log_lt (by norm_num) hy]; simp
  have hup := roundsUp_iff mode neg (wholeUnits l (m * 2 ^ e))
    (m * 2 ^ (e - unitExp l (m * 2 ^ e)).toNat % 2 ^ (unitExp l (m * 2 ^ e) - e).toNat) (unitExp l (m * 2 ^ e) - e).toNat
  rw [← hrest] at hup
  have hzero : restUnits l (m * 2 ^ e) = 0 ↔ m * 2 ^ (e - unitExp l (m * 2 ^ e)).toNat % 2 ^ (unitExp l (m * 2 ^ e) - e).toNat = 0 := by
    rw [hrest, div_eq_zero_iff, or_iff_left (by positivity), Nat.cast_eq_zero]
  have hleast : 1 - (f.bias : ℤ) - (l.fb : ℤ) = leastExp l := by rw [h.bias, leastExp]
  simp only [roundReal, codeWithFlags, belowCode]
  simp only [← hup, Bool.decide_eq_true, hzero, htiny, decide_eq_true_eq]
  simp only [FltFmt.roundFin, beq_iff_eq, hm, if_false, hq, ht, h.maxCode, h.signed_eq, h.overflow_eq, hleast, h.fbits]

end

end Sys2Proof.Numbers
end

section
/-! Correct rounding (R126 to R128, R142): the rounding of a real magnitude is the one that Tables 8-2 and 8-3 choose, with its flags. -/

namespace Sys2Proof.Numbers

open Sys2Proof Sys2Proof.Machine Sys2Proof.Claims

/-- A magnitude with its sign. -/
def withSign (neg : Bool) (y : ℝ) : ℝ := if neg then -y else y

@[simp] theorem abs_withSign (neg : Bool) (y : ℝ) : |withSign neg y| = |y| := by cases neg <;> simp [withSign]

theorem withSign_neg_iff (neg : Bool) {y : ℝ} (hy : 0 < y) : withSign neg y < 0 ↔ neg = true := by
  cases neg <;> simp [withSign, hy, hy.le]

theorem withSign_inj {neg : Bool} {x y : ℝ} : withSign neg x = withSign neg y ↔ x = y := by
  cases neg <;> simp [withSign]

section
variable {l : Layout} {f : FltFmt} {y : ℝ}

theorem val_cast (l : Layout) (v : ℕ) : ((l.val v : ℚ) : ℝ) = withSign (l.negative v) (magnitude l (l.mag v)) := by
  rw [val_eq, withSign]; split <;> simp

theorem abs_val (l : Layout) (v : ℕ) : |((l.val v : ℚ) : ℝ)| = magnitude l (l.mag v) := by
  rw [val_cast, abs_withSign, abs_of_nonneg (by exact_mod_cast magnitude_nonneg l _)]

theorem magnitude_lt_iff {a b : ℕ} : (magnitude l a : ℝ) < magnitude l b ↔ a < b := by
  exact_mod_cast (magnitude_strictMono l).lt_iff_lt

theorem magnitude_le_iff {a b : ℕ} : (magnitude l a : ℝ) ≤ magnitude l b ↔ a ≤ b := by
  exact_mod_cast (magnitude_strictMono l).le_iff_le

theorem magnitude_cast_nonneg (l : Layout) (c : ℕ) : (0 : ℝ) ≤ magnitude l c := by exact_mod_cast magnitude_nonneg l c

/-- The codes of magnitudes up to `y`. -/
theorem magnitude_le_real_iff (hy : 0 < y) {k : ℕ} : (magnitude l k : ℝ) ≤ y ↔ k ≤ belowCode l y := by
  constructor
  · intro h
    exact Nat.lt_succ_iff.1 (magnitude_lt_iff.1 (h.trans_lt (lt_magnitude_belowCode_succ hy)))
  · intro h
    exact (magnitude_le_iff.2 h).trans (magnitude_belowCode_le hy)

theorem real_lt_magnitude_iff (hy : 0 < y) {k : ℕ} : y < magnitude l k ↔ belowCode l y < k := by
  rw [← not_le, magnitude_le_real_iff hy, not_le]

/-! ### Going up, by the magnitudes of the two codes around -/

/-- The magnitude half way from the code below `y` to the one above it. -/
theorem middle_lt_iff (hy : 0 < y) : 1 / 2 < restUnits l y ↔ (magnitude l (belowCode l y) + magnitude l (belowCode l y + 1) : ℝ) < 2 * y := by
  have hq : (0 : ℝ) < 2 ^ unitExp l y := by positivity
  rw [magnitude_belowCode hy, magnitude_belowCode_succ hy]
  conv_rhs => rhs; rw [eq_units l y]
  rw [← add_mul, ← mul_assoc, mul_lt_mul_iff_left₀ hq]
  constructor <;> intro h <;> linarith

theorem middle_eq_iff (hy : 0 < y) : restUnits l y = 1 / 2 ↔ (magnitude l (belowCode l y) + magnitude l (belowCode l y + 1) : ℝ) = 2 * y := by
  have hq : (2 : ℝ) ^ unitExp l y ≠ 0 := by positivity
  rw [magnitude_belowCode hy, magnitude_belowCode_succ hy]
  conv_rhs => rhs; rw [eq_units l y]
  rw [← add_mul, ← mul_assoc, mul_left_inj' hq]
  constructor <;> intro h <;> linarith

/-- The code that the mode chooses for `y`, were there no largest one. -/
def IsRounded (l : Layout) (mode : RMode) (neg : Bool) (y : ℝ) (up : Bool) : Prop :=
  up = true ↔ goesUp mode neg (wholeUnits l y) (restUnits l y)

/-- To nearest even goes up beyond the middle, and at it from an odd code. -/
theorem isRounded_rne (hfb : 1 ≤ l.fb) (hy : 0 < y) {neg up : Bool} (hup : IsRounded l .rne neg y up) :
    up = true ↔ (magnitude l (belowCode l y) + magnitude l (belowCode l y + 1) : ℝ) < 2 * y ∨
      ((magnitude l (belowCode l y) + magnitude l (belowCode l y + 1) : ℝ) = 2 * y ∧ belowCode l y % 2 = 1) := by
  refine Iff.trans hup ?_
  rw [goesUp, middle_lt_iff hy, middle_eq_iff hy, belowCode_mod_two hfb]

/-- The directed modes go up from any code but an exact one, where they go away from zero. -/
theorem isRounded_directed (hy : 0 < y) {mode : RMode} {neg up away : Bool} (hm : (mode = .rdn ∧ away = neg) ∨ (mode = .rup ∧ away = !neg))
    (hup : IsRounded l mode neg y up) : up = true ↔ away = true ∧ (magnitude l (belowCode l y) : ℝ) ≠ y := by
  refine Iff.trans hup ?_
  obtain ⟨rfl, rfl⟩ | ⟨rfl, rfl⟩ := hm
  · rw [goesUp, ne_eq, restUnits_eq_zero_iff hy]
  · rw [goesUp, ne_eq, restUnits_eq_zero_iff hy, Bool.not_eq_true']

/-- Rounded away from zero, the code is the first whose magnitude is not below `y`. -/
theorem le_rounded_iff (hy : 0 < y) {up : Bool} (hup : up = true ↔ (magnitude l (belowCode l y) : ℝ) ≠ y) {k : ℕ} :
    y ≤ magnitude l k ↔ belowCode l y + up.toNat ≤ k := by
  by_cases he : (magnitude l (belowCode l y) : ℝ) = y
  · obtain rfl : up = false := by simpa [he] using hup
    nth_rewrite 1 [← he]
    rw [magnitude_le_iff, Bool.toNat_false, add_zero]
  · obtain rfl : up = true := hup.2 he
    constructor
    · intro h
      refine (real_lt_magnitude_iff hy).1 (lt_of_le_of_ne h fun hk => he ?_)
      have hle : k ≤ belowCode l y := (magnitude_le_real_iff hy).1 hk.ge
      exact le_antisymm (magnitude_belowCode_le hy) (hk.le.trans (magnitude_le_iff.2 hle))
    · exact fun h => ((real_lt_magnitude_iff hy).2 h).le

/-- Rounded to nearest even, no code is nearer, and where another is as near the code is even. -/
theorem nearest_code (hfb : 1 ≤ l.fb) (hy : 0 < y) {neg up : Bool} (hup : IsRounded l .rne neg y up) (k : ℕ) :
    |(magnitude l (belowCode l y + up.toNat) : ℝ) - y| ≤ |(magnitude l k : ℝ) - y| ∧
      (|(magnitude l (belowCode l y + up.toNat) : ℝ) - y| = |(magnitude l k : ℝ) - y| → k ≠ belowCode l y + up.toNat →
        (belowCode l y + up.toNat) % 2 = 0) := by
  have hlo : (magnitude l (belowCode l y) : ℝ) ≤ y := magnitude_belowCode_le hy
  have hhi : y < magnitude l (belowCode l y + 1) := lt_magnitude_belowCode_succ hy
  have hiff := isRounded_rne hfb hy hup
  have hk : (k ≤ belowCode l y ∧ (magnitude l k : ℝ) ≤ magnitude l (belowCode l y)) ∨
      (belowCode l y + 1 ≤ k ∧ (magnitude l (belowCode l y + 1) : ℝ) ≤ magnitude l k) := by
    rcases Nat.lt_or_ge (belowCode l y) k with h | h
    · exact .inr ⟨h, magnitude_le_iff.2 h⟩
    · exact .inl ⟨h, magnitude_le_iff.2 h⟩
  have hinj {a b : ℕ} (hab : (magnitude l a : ℝ) = magnitude l b) : a = b := (magnitude_strictMono l).injective (by exact_mod_cast hab)
  cases up with
  | false =>
    simp only [Bool.false_eq_true, false_iff, not_or, not_lt, not_and, Nat.mod_two_not_eq_one] at hiff
    obtain ⟨hmid, htie⟩ := hiff
    simp only [Bool.toNat_false, add_zero, abs_of_nonpos (sub_nonpos.2 hlo)]
    rcases hk with ⟨_, hk⟩ | ⟨_, hk⟩
    · rw [abs_of_nonpos (by linarith)]
      exact ⟨by linarith, fun he hne => absurd (hinj (by linarith)) hne⟩
    · rw [abs_of_nonneg (by linarith)]
      exact ⟨by linarith, fun he _ => htie (by linarith)⟩
  | true =>
    simp only [true_iff] at hiff
    have hmid : (magnitude l (belowCode l y) + magnitude l (belowCode l y + 1) : ℝ) ≤ 2 * y := hiff.elim le_of_lt fun h => h.1.le
    simp only [Bool.toNat_true, abs_of_pos (sub_pos.2 hhi)]
    rcases hk with ⟨_, hk⟩ | ⟨_, hk⟩
    · rw [abs_of_nonpos (by linarith)]
      refine ⟨by linarith, fun he _ => ?_⟩
      rcases hiff with h | h
      · linarith
      · omega
    · rw [abs_of_nonneg (by linarith)]
      exact ⟨by linarith, fun he hne => absurd (hinj (by linarith)) hne⟩

/-! ### Overflow (R127, R128) -/

/-- A value overflows where its rounding goes beyond the largest finite code. -/
theorem Describes.overflows_iff (h : Describes l f) {mode : RMode} (hm : mode ∈ plainModes) (hy : 0 < y) {neg up : Bool}
    (hup : IsRounded l mode neg y up) : l.overflows mode (withSign neg y) ↔ l.largest < belowCode l y + up.toNat := by
  have htop : (l.top : ℝ) = magnitude l l.largest := by rw [h.top_eq]
  have hnext : (l.top : ℝ) + l.step = magnitude l (l.largest + 1) := by exact_mod_cast congrArg (Rat.cast (K := ℝ)) h.top_add_step
  have habs : |withSign neg y| = y := by rw [abs_withSign, abs_of_pos hy]
  have htoward : (l.top : ℝ) + l.step ≤ y ↔ l.largest < belowCode l y := by rw [hnext, magnitude_le_real_iff hy]; rfl
  have hsteps : (0 : ℝ) ≤ l.top + l.step := by rw [hnext]; exact magnitude_cast_nonneg l _
  have htops : (0 : ℝ) ≤ l.top := by rw [htop]; exact magnitude_cast_nonneg l _
  have haway (hu : up = true ↔ (magnitude l (belowCode l y) : ℝ) ≠ y) : (l.top : ℝ) < y ↔ l.largest < belowCode l y + up.toNat := by
    rw [htop, ← not_le, le_rounded_iff hy hu, not_le]
  simp only [plainModes, List.mem_cons, List.not_mem_nil, or_false] at hm
  obtain rfl | rfl | rfl | rfl := hm
  · have hiff := isRounded_rne h.fraction hy hup
    have hlo : (magnitude l (belowCode l y) : ℝ) ≤ y := magnitude_belowCode_le hy
    have hhi : y < magnitude l (belowCode l y + 1) := lt_magnitude_belowCode_succ hy
    have hstep : (l.top : ℝ) < l.top + l.step := by rw [hnext, htop]; exact magnitude_lt_iff.2 (Nat.lt_succ_self _)
    simp only [Layout.overflows, habs]
    rcases lt_trichotomy l.largest (belowCode l y) with hc | hc | hc
    · have : (l.top : ℝ) + l.step ≤ y := htoward.2 hc
      exact iff_of_true (.inl (by linarith)) (by omega)
    · rw [← hc, ← hnext, ← htop] at hiff
      rw [← hc]
      have hadd : l.largest < l.largest + up.toNat ↔ up = true := by cases up <;> simp
      rw [hadd, hiff]
      refine or_congr ⟨fun h => by linarith, fun h => by linarith⟩ (and_congr_left' ⟨fun h => by linarith, fun h => by linarith⟩)
    · have hle : (magnitude l (belowCode l y + 1) : ℝ) ≤ l.top := by rw [htop]; exact magnitude_le_iff.2 hc
      refine iff_of_false (not_or.2 ⟨by linarith, fun h => by linarith [h.1]⟩) ?_
      have := Bool.toNat_le up
      omega
  · have : up = false := by simpa [IsRounded, goesUp] using hup
    simp [Layout.overflows, habs, htoward, this]
  · have hu := isRounded_directed hy (.inl ⟨rfl, rfl⟩) hup
    cases neg with
    | false =>
      obtain rfl : up = false := by simpa using hu
      simp only [Layout.overflows, withSign, Bool.false_eq_true, if_false, Bool.toNat_false, add_zero, htoward]
      exact or_iff_right (by linarith)
    | true =>
      simp only [Layout.overflows, withSign, if_true]
      rw [← haway (by simpa using hu), or_iff_left (by linarith), neg_lt_neg_iff]
  · have hu := isRounded_directed hy (.inr ⟨rfl, rfl⟩) hup
    cases neg with
    | false =>
      simp only [Layout.overflows, withSign, Bool.false_eq_true, if_false]
      rw [← haway (by simpa using hu), or_iff_left (by linarith)]
    | true =>
      obtain rfl : up = false := by simpa using hu
      simp only [Layout.overflows, withSign, if_true, Bool.toNat_false, add_zero]
      rw [or_iff_right (by linarith), neg_le_neg_iff, htoward]

/-! ### The finite case (Table 8-2) -/

/-- The distance of a finite encoding from a value is at least that of their magnitudes. -/
theorem abs_magnitude_sub_le (l : Layout) (v : ℕ) (neg : Bool) (hy : 0 < y) :
    |(magnitude l (l.mag v) : ℝ) - y| ≤ |((l.val v : ℚ) : ℝ) - withSign neg y| := by
  have := abs_abs_sub_abs_le ((l.val v : ℚ) : ℝ) (withSign neg y)
  rwa [abs_val, abs_withSign, abs_of_pos hy] at this

theorem abs_withSign_sub (neg : Bool) (x y : ℝ) : |withSign neg x - withSign neg y| = |x - y| := by
  cases neg
  · simp [withSign]
  · simp only [withSign, if_true]; rw [← abs_neg]; congr 1; ring

/-- Rounded to nearest even, no finite encoding is nearer, and where another value is as near the encoding is even. -/
theorem Describes.chosen_rne (h : Describes l f) (hy : 0 < y) {neg up : Bool} (hup : IsRounded l .rne neg y up)
    (hc : belowCode l y + up.toNat ≤ l.largest) :
    l.chosen .rne (withSign neg y) (l.signed neg (belowCode l y + up.toNat)) := by
  intro v hv
  have hval : ((l.val (l.signed neg (belowCode l y + up.toNat)) : ℚ) : ℝ) = withSign neg (magnitude l (belowCode l y + up.toNat)) := by
    rw [h.val_signed hc, withSign]; split <;> simp
  obtain ⟨hle, htie⟩ := nearest_code h.fraction hy hup (l.mag v)
  have hdist := abs_magnitude_sub_le l v neg hy
  rw [hval, abs_withSign_sub, h.signed_mod_two]
  refine ⟨hle.trans hdist, fun he hne => htie (le_antisymm hle (he ▸ hdist)) fun hk => ?_⟩
  -- the same magnitude as near from the other side of zero is zero
  have hvv := val_cast l v
  rw [hk] at hvv
  by_cases hs : l.negative v = neg
  · rw [hs, ← hval] at hvv
    exact hne (by exact_mod_cast hvv)
  · have hopp : ((l.val v : ℚ) : ℝ) = -withSign neg (magnitude l (belowCode l y + up.toNat)) := by
      rw [hvv]; revert hs; cases l.negative v <;> cases neg <;> simp [withSign]
    have hsum : |((l.val v : ℚ) : ℝ) - withSign neg y| = magnitude l (belowCode l y + up.toNat) + y := by
      have hpos : (0 : ℝ) ≤ magnitude l (belowCode l y + up.toNat) + y := add_nonneg (magnitude_cast_nonneg l _) hy.le
      rw [hopp, ← abs_of_nonneg hpos]
      cases neg
      · simp only [withSign, Bool.false_eq_true, if_false]; rw [← abs_neg]; congr 1; ring
      · simp only [withSign, if_true]; congr 1; ring
    have hzero : (magnitude l (belowCode l y + up.toNat) : ℝ) = 0 := by
      rw [hsum] at he
      have hnn := magnitude_cast_nonneg l (belowCode l y + up.toNat)
      rcases abs_cases ((magnitude l (belowCode l y + up.toNat) : ℝ) - y) with ⟨h1, _⟩ | ⟨h1, _⟩ <;> linarith
    refine hne ?_
    have h1 : ((l.val v : ℚ) : ℝ) = 0 := by rw [hopp, hzero]; cases neg <;> simp [withSign]
    have h2 : ((l.val (l.signed neg (belowCode l y + up.toNat)) : ℚ) : ℝ) = 0 := by
      rw [hval, hzero]; cases neg <;> simp [withSign]
    exact_mod_cast h1.trans h2.symm

/-- Rounded toward zero, the code is the last whose magnitude is not above `y`. -/
theorem Describes.chosen_rtz (h : Describes l f) (hy : 0 < y) (neg : Bool) (hc : belowCode l y ≤ l.largest) :
    l.chosen .rtz (withSign neg y) (l.signed neg (belowCode l y)) := by
  have hval : ((l.val (l.signed neg (belowCode l y)) : ℚ) : ℝ) = withSign neg (magnitude l (belowCode l y)) := by
    rw [h.val_signed hc, withSign]; split <;> simp
  have hnn := magnitude_cast_nonneg l (belowCode l y)
  simp only [Layout.chosen, hval, abs_withSign, abs_of_pos hy, abs_val, abs_of_nonneg hnn]
  refine ⟨magnitude_belowCode_le hy, ?_, fun v _ hv => magnitude_le_iff.2 ((magnitude_le_real_iff hy).1 hv)⟩
  cases neg
  · simpa [withSign] using mul_nonneg hnn hy.le
  · simpa [withSign] using mul_nonneg hnn hy.le

/-- Rounded down from a magnitude with a sign: toward zero for a positive one, away from it for a negative one. -/
theorem Describes.chosen_rdn (h : Describes l f) (hy : 0 < y) {neg up : Bool} (hup : IsRounded l .rdn neg y up)
    (hc : belowCode l y + up.toNat ≤ l.largest) :
    l.chosen .rdn (withSign neg y) (l.signed neg (belowCode l y + up.toNat)) := by
  have hu := isRounded_directed hy (.inl ⟨rfl, rfl⟩) hup
  have hval : ((l.val (l.signed neg (belowCode l y + up.toNat)) : ℚ) : ℝ) = withSign neg (magnitude l (belowCode l y + up.toNat)) := by
    rw [h.val_signed hc, withSign]; split <;> simp
  simp only [Layout.chosen, hval, val_cast]
  cases neg with
  | false =>
    obtain rfl : up = false := by simpa using hu
    refine ⟨magnitude_belowCode_le hy, fun v _ hv => ?_⟩
    cases hn : l.negative v
    · rw [hn] at hv
      exact magnitude_le_iff.2 ((magnitude_le_real_iff hy).1 hv)
    · simpa [withSign] using (neg_nonpos.2 (magnitude_cast_nonneg l (l.mag v))).trans (magnitude_cast_nonneg l _)
  | true =>
    have hu' : up = true ↔ (magnitude l (belowCode l y) : ℝ) ≠ y := by simpa using hu
    refine ⟨neg_le_neg ((le_rounded_iff hy hu').2 le_rfl), fun v _ hv => ?_⟩
    cases hn : l.negative v
    · rw [hn] at hv
      have := magnitude_cast_nonneg l (l.mag v)
      simp only [withSign, if_true, Bool.false_eq_true, if_false] at hv
      linarith
    · rw [hn] at hv
      exact neg_le_neg (magnitude_le_iff.2 ((le_rounded_iff hy hu').1 (neg_le_neg_iff.1 hv)))

/-- Rounded up from a magnitude with a sign. -/
theorem Describes.chosen_rup (h : Describes l f) (hy : 0 < y) {neg up : Bool} (hup : IsRounded l .rup neg y up)
    (hc : belowCode l y + up.toNat ≤ l.largest) :
    l.chosen .rup (withSign neg y) (l.signed neg (belowCode l y + up.toNat)) := by
  have hu := isRounded_directed hy (.inr ⟨rfl, rfl⟩) hup
  have hval : ((l.val (l.signed neg (belowCode l y + up.toNat)) : ℚ) : ℝ) = withSign neg (magnitude l (belowCode l y + up.toNat)) := by
    rw [h.val_signed hc, withSign]; split <;> simp
  simp only [Layout.chosen, hval, val_cast]
  cases neg with
  | false =>
    have hu' : up = true ↔ (magnitude l (belowCode l y) : ℝ) ≠ y := by simpa using hu
    refine ⟨(le_rounded_iff hy hu').2 le_rfl, fun v _ hv => ?_⟩
    cases hn : l.negative v
    · rw [hn] at hv
      exact magnitude_le_iff.2 ((le_rounded_iff hy hu').1 hv)
    · rw [hn] at hv
      have := magnitude_cast_nonneg l (l.mag v)
      simp only [withSign, if_true, Bool.false_eq_true, if_false] at hv
      linarith
  | true =>
    obtain rfl : up = false := by simpa using hu
    refine ⟨neg_le_neg (magnitude_belowCode_le hy), fun v _ hv => ?_⟩
    cases hn : l.negative v
    · simpa [withSign] using (neg_nonpos.2 (magnitude_cast_nonneg l _)).trans (magnitude_cast_nonneg l (l.mag v))
    · rw [hn] at hv
      exact neg_le_neg (magnitude_le_iff.2 ((magnitude_le_real_iff hy).1 (neg_le_neg_iff.1 hv)))

theorem Describes.chosen_rounded (h : Describes l f) {mode : RMode} (hm : mode ∈ plainModes) (hy : 0 < y) {neg up : Bool}
    (hup : IsRounded l mode neg y up) (hc : belowCode l y + up.toNat ≤ l.largest) :
    l.chosen mode (withSign neg y) (l.signed neg (belowCode l y + up.toNat)) := by
  simp only [plainModes, List.mem_cons, List.not_mem_nil, or_false] at hm
  obtain rfl | rfl | rfl | rfl := hm
  · exact h.chosen_rne hy hup hc
  · obtain rfl : up = false := by simpa [IsRounded, goesUp] using hup
    exact h.chosen_rtz hy neg hc
  · exact h.chosen_rdn hy hup hc
  · exact h.chosen_rup hy hup hc

/-! ### The rounding with its flags -/

theorem delivered_lt (h : Describes l f) (mode : RMode) (neg : Bool) : l.delivered mode neg < 2 ^ (l.w - 1) := by
  have hroom := h.room
  cases hi : l.inf with
  | none => simpa [Layout.delivered, hi] using hroom
  | some i =>
    have hinf := (h.above i hi).2
    cases mode <;> cases neg <;> simp [Layout.delivered, hi, hroom, hinf]

theorem overflowCode_of_plain {mode : RMode} (hm : mode ∈ plainModes) (neg up : Bool) :
    overflowCode l mode neg up = l.delivered mode neg := by
  simp only [plainModes, List.mem_cons, List.not_mem_nil, or_false] at hm
  obtain rfl | rfl | rfl | rfl := hm <;> rfl

/-- A magnitude goes up only from where it is not exact, and then its rounding is not exact either. -/
theorem magnitude_rounded_eq_iff (hy : 0 < y) {mode : RMode} {neg up : Bool} (hup : IsRounded l mode neg y up) :
    (magnitude l (belowCode l y + up.toNat) : ℝ) = y ↔ restUnits l y = 0 := by
  rw [restUnits_eq_zero_iff hy]
  have hexact : restUnits l y = 0 → up = false := by
    intro h0
    have : ¬goesUp mode neg (wholeUnits l y) (restUnits l y) := by
      rw [h0]
      cases mode with
      | sr z =>
        simp only [goesUp, zero_mul, Int.floor_zero, not_lt]
        exact Int.natCast_nonneg _
      | _ => simp [goesUp]
    simpa [hup.symm] using this
  cases up with
  | false => simp
  | true =>
    have hne : (magnitude l (belowCode l y) : ℝ) ≠ y := fun h => by simpa using hexact ((restUnits_eq_zero_iff hy).2 h)
    exact iff_of_false (lt_magnitude_belowCode_succ hy).ne' hne

open Classical in
/-- The rounding of a real magnitude is the one of R126 to R128, flags included. -/
theorem Describes.rounds_roundReal (h : Describes l f) {mode : RMode} (hm : mode ∈ plainModes) (neg : Bool) (hy : 0 < y) :
    l.rounds mode (withSign neg y) (roundReal l mode neg y) := by
  have hup : IsRounded l mode neg y (decide (goesUp mode neg (wholeUnits l y) (restUnits l y))) := decide_eq_true_iff
  rw [roundReal]
  generalize decide (goesUp mode neg (wholeUnits l y) (restUnits l y)) = up at hup
  have hneg := withSign_neg_iff neg hy
  rw [Layout.rounds, h.overflows_iff hm hy hup, codeWithFlags]
  constructor
  · intro ho
    have hlt := delivered_lt h mode neg
    simp only [ho, if_true, overflowCode_of_plain hm, negative_signed hlt, hneg]
    simp
  · intro ho
    have hc : belowCode l y + up.toNat ≤ l.largest := not_lt.1 ho
    have hval : ((l.val (l.signed neg (belowCode l y + up.toNat)) : ℚ) : ℝ) = withSign neg (magnitude l (belowCode l y + up.toNat)) := by
      rw [h.val_signed hc, withSign]; split <;> simp
    simp only [ho, if_false, hval, withSign_inj, ne_eq, magnitude_rounded_eq_iff hy hup, abs_withSign, abs_of_pos hy]
    refine ⟨h.finite_signed hc, ?_, h.chosen_rounded hm hy hup hc, fun h0 => by simp [h0], fun h0 => ⟨fun ht => by simp [h0, ht], fun ht => ?_⟩⟩
    · rw [hneg, negative_signed (lt_of_le_of_lt hc h.room)]
    · simp [h0, not_lt.2 ht]

end

end Sys2Proof.Numbers
end

section
/-! Stochastic rounding (R142), values known up to their last place (R158), and the exact values that the model computes with (R124, R125). -/

namespace Sys2Proof.Numbers

open Sys2Proof Sys2Proof.Machine Sys2Proof.Claims

/-! ### Stochastic rounding (R128, R142) -/

section
variable {l : Layout} {f : FltFmt}

/-- The whole units of a rational magnitude. -/
theorem wholeUnits_cast {x : ℚ} (hx : 0 < x) : ((wholeUnits l x : ℕ) : ℤ) = ⌊x / 2 ^ unitExp l x⌋ := by
  rw [wholeUnits, Int.natCast_floor_eq_floor (by positivity), ← Rat.floor_cast (α := ℝ)]
  push_cast
  rfl

theorem restUnits_cast {x : ℚ} (hx : 0 < x) : restUnits l x = ((x / 2 ^ unitExp l x - ⌊x / 2 ^ unitExp l x⌋ : ℚ) : ℝ) := by
  rw [restUnits, ← wholeUnits_cast hx]
  push_cast
  rfl

theorem goesUp_sr_iff {x : ℚ} (hx : 0 < x) (z : W64) (neg : Bool) (t : ℕ) : goesUp (.sr z) neg t (restUnits l x) ↔
    ((z.toNat / 2 ^ 40 : ℕ) : ℤ) < ⌊(x / 2 ^ unitExp l x - ⌊x / 2 ^ unitExp l x⌋) * 2 ^ 24⌋ := by
  have hfloor (q : ℚ) : ⌊(q : ℝ) * 2 ^ 24⌋ = ⌊q * 2 ^ 24⌋ := by
    rw [← Rat.floor_cast (α := ℝ) (q * 2 ^ 24)]
    push_cast
    rfl
  rw [goesUp, restUnits_cast hx, hfloor]

open Classical in
/-- The rounding of a rational magnitude under SR is the one of R142. -/
theorem Describes.stochastic_roundReal (h : Describes l f) (z : W64) (neg : Bool) {x : ℚ} (hx : 0 < x) :
    l.stochastic z (if neg then -x else x) (roundReal l (.sr z) neg x) := by
  have hxr : (0 : ℝ) < x := by exact_mod_cast hx
  have hup : IsRounded l (.sr z) neg x (decide (goesUp (.sr z) neg (wholeUnits l x) (restUnits l x))) := decide_eq_true_iff
  have habs : |if neg then -x else x| = x := by cases neg <;> simp [abs_of_pos hx]
  have hneg : (if neg then -x else x) < 0 ↔ neg = true := by cases neg <;> simp [hx, hx.le]
  rw [roundReal]
  generalize decide (goesUp (.sr z) neg (wholeUnits l x) (restUnits l x)) = up at hup
  have hup' := hup.trans (goesUp_sr_iff hx z neg _)
  have hwhole := wholeUnits_cast (l := l) hx
  have hlo : magnitude l (belowCode l x) = ⌊x / 2 ^ unitExp l x⌋ * 2 ^ unitExp l x := by
    rw [← hwhole, ← Rat.cast_inj (α := ℝ), magnitude_belowCode (l := l) hxr]
    push_cast
    rfl
  have hhi : magnitude l (belowCode l x + 1) = (⌊x / 2 ^ unitExp l x⌋ + 1) * 2 ^ unitExp l x := by
    rw [← hwhole, ← Rat.cast_inj (α := ℝ), magnitude_belowCode_succ (l := l) hxr]
    push_cast
    rfl
  have hexact : magnitude l (belowCode l x + up.toNat) = x ↔ restUnits l x = 0 := by
    rw [← magnitude_rounded_eq_iff hxr hup]; norm_cast
  refine ⟨Int.log 2 (x : ℝ), ?_, ?_, ?_⟩
  · rw [habs, ← Rat.cast_le (K := ℝ)]
    push_cast
    exact Int.zpow_log_le_self (b := 2) (by norm_num) hxr
  · rw [habs, ← Rat.cast_lt (K := ℝ)]
    push_cast
    exact Int.lt_zpow_succ_log_self (b := 2) (by norm_num) (x : ℝ)
  · rw [habs, hneg]
    have hq : max (Int.log 2 (x : ℝ)) (1 - (l.bias : ℤ)) - (l.fb : ℤ) = unitExp l x := rfl
    simp only [hq, ← hup']
    have hover : overflowCode l (.sr z) neg up < 2 ^ (l.w - 1) := by
      have hroom := h.room
      cases hi : l.inf with
      | none => cases up <;> simpa [overflowCode, hi] using hroom
      | some i => cases up <;> simp [overflowCode, hi, hroom, (h.above i hi).2]
    have htiny : (x : ℝ) < 2 ^ (1 - (l.bias : ℤ)) ↔ x < 2 ^ (1 - (l.bias : ℤ)) := by
      rw [← Rat.cast_lt (K := ℝ)]; push_cast; rfl
    rw [h.top_eq, codeWithFlags]
    refine ⟨?_, magnitude l (belowCode l x + up.toNat), fun hu => by rw [hu]; exact hhi, fun hu => ?_, fun hle => ?_, fun hlt => ?_⟩
    · split
      · rw [negative_signed hover]
      · rw [negative_signed (lt_of_le_of_lt (not_lt.1 ‹_›) h.room)]
    · rw [Bool.not_eq_true] at hu; rw [hu]; exact hlo
    · have hc : belowCode l x + up.toNat ≤ l.largest := (magnitude_strictMono l).le_iff_le.1 hle
      simp only [not_lt.2 hc, if_false, hexact, htiny, decide_eq_true_eq]
      refine ⟨h.finite_signed hc, ?_, trivial⟩
      rw [h.val_signed hc]
      cases neg <;> simp [abs_of_nonneg (magnitude_nonneg l _)]
    · have hc : l.largest < belowCode l x + up.toNat := (magnitude_strictMono l).lt_iff_lt.1 hlt
      simp only [hc, if_true, mag_signed hover, true_and]
      exact ⟨fun hu => by simp [overflowCode, hu], fun hu => by simp [overflowCode, hu]⟩

/-! ### Magnitudes known up to their last place (R158) -/

/-- What two magnitudes between the same neighbours `m` and `m + 1` in units of 2^e have in common, where `m` has a bit more than the
format. -/
theorem roundReal_of_between {m : ℕ} {e : ℤ} {a : ℝ} (neg : Bool) (hm : 2 ^ (l.fb + 1) ≤ m) (hlo : m * 2 ^ e < a)
    (hhi : a < (m + 1) * 2 ^ e) :
    roundReal l .rne neg a =
      (let q := max ((m.log2 : ℤ) + e) (1 - (l.bias : ℤ)) - l.fb
       let k := (q - e).toNat
       codeWithFlags l .rne neg ((q - leastExp l).toNat * 2 ^ l.fb + m / 2 ^ k) (decide (2 ^ (k - 1) ≤ m % 2 ^ k)) false
         (decide ((m.log2 : ℤ) + e < 1 - (l.bias : ℤ)))) := by
  have hm0 : m ≠ 0 := by have : 0 < 2 ^ (l.fb + 1) := by positivity
                         omega
  have hpow : (0 : ℝ) < 2 ^ e := by positivity
  have ha : 0 < a := lt_trans (by positivity) hlo
  have hlog : Int.log 2 a = (m.log2 : ℤ) + e := by
    apply le_antisymm
    · rw [← Int.lt_add_one_iff, ← Int.lt_zpow_iff_log_lt (by norm_num) ha, Nat.cast_ofNat, add_right_comm, zpow_add₀ (by norm_num)]
      refine hhi.trans_le (mul_le_mul_of_nonneg_right ?_ hpow.le)
      exact_mod_cast (Nat.lt_log2_self (n := m))
    · rw [← log_natCast_mul_zpow hm0 e]
      exact Int.log_mono_right (by positivity) hlo.le
  have hlog2 : l.fb + 1 ≤ m.log2 := (Nat.le_log2 hm0).2 hm
  set q := max ((m.log2 : ℤ) + e) (1 - (l.bias : ℤ)) - l.fb with hq
  have hqe : unitExp l a = q := by rw [unitExp, hlog]
  obtain ⟨k, hk⟩ : ∃ k : ℕ, (q - e).toNat = k + 1 := ⟨(q - e).toNat - 1, by
    have := le_max_left ((m.log2 : ℤ) + e) (1 - (l.bias : ℤ))
    omega⟩
  have hqk : q = e + ((k + 1 : ℕ) : ℤ) := by omega
  have hK : (0 : ℝ) < ((2 ^ (k + 1) : ℕ) : ℝ) := by positivity
  have hscale : a / 2 ^ q = a / 2 ^ e / ((2 ^ (k + 1) : ℕ) : ℝ) := by
    rw [hqk, zpow_add₀ (by norm_num), zpow_natCast, div_div]; push_cast; rfl
  have hlo' : (m : ℝ) < a / 2 ^ e := (lt_div_iff₀ hpow).2 hlo
  have hhi' : a / 2 ^ e < m + 1 := (div_lt_iff₀ hpow).2 hhi
  have hmod : (m : ℝ) = 2 ^ (k + 1) * (m / 2 ^ (k + 1) : ℕ) + (m % 2 ^ (k + 1) : ℕ) := by
    exact_mod_cast (Nat.div_add_mod m (2 ^ (k + 1))).symm
  have hltmod : ((m % 2 ^ (k + 1) : ℕ) : ℝ) + 1 ≤ 2 ^ (k + 1) := by exact_mod_cast Nat.mod_lt m (by positivity)
  have hwhole : wholeUnits l a = m / 2 ^ (k + 1) := by
    rw [wholeUnits, hqe, hscale, Nat.floor_eq_iff (by positivity)]
    constructor
    · rw [le_div_iff₀ hK]; push_cast
      have : (0 : ℝ) ≤ ((m % 2 ^ (k + 1) : ℕ) : ℝ) := by positivity
      linarith
    · rw [div_lt_iff₀ hK]; push_cast
      linarith
  have hrest : restUnits l a * 2 ^ (k + 1) = a / 2 ^ e - 2 ^ (k + 1) * (m / 2 ^ (k + 1) : ℕ) := by
    rw [restUnits, hwhole, hqe, hscale]
    push_cast
    field_simp
  have hrlo : ((m % 2 ^ (k + 1) : ℕ) : ℝ) < restUnits l a * 2 ^ (k + 1) := by rw [hrest]; linarith
  have hrhi : restUnits l a * 2 ^ (k + 1) < ((m % 2 ^ (k + 1) : ℕ) : ℝ) + 1 := by rw [hrest]; linarith
  have hpk : (0 : ℝ) < 2 ^ (k + 1) := by positivity
  have hzero : restUnits l a ≠ 0 := fun h => by
    rw [h, zero_mul] at hrlo
    exact absurd hrlo (not_lt.2 (by positivity))
  have hup : goesUp .rne neg (wholeUnits l a) (restUnits l a) ↔ 2 ^ k ≤ m % 2 ^ (k + 1) := by
    rw [goesUp]
    constructor
    · intro h
      have hhalf : 1 / 2 ≤ restUnits l a := h.elim le_of_lt fun h => h.1.ge
      have : (2 : ℝ) ^ k < ((m % 2 ^ (k + 1) : ℕ) : ℝ) + 1 := by
        refine lt_of_le_of_lt ?_ hrhi
        rw [pow_succ]
        nlinarith [pow_pos (show (0 : ℝ) < 2 by norm_num) k]
      exact Nat.lt_succ_iff.1 (by exact_mod_cast this)
    · intro h
      left
      have hr : (2 : ℝ) ^ k ≤ ((m % 2 ^ (k + 1) : ℕ) : ℝ) := by exact_mod_cast h
      have : (1 / 2 : ℝ) * 2 ^ (k + 1) < restUnits l a * 2 ^ (k + 1) := by
        refine lt_of_le_of_lt (le_trans (le_of_eq ?_) hr) hrlo
        rw [pow_succ]; ring
      exact lt_of_mul_lt_mul_right this hpk.le
  have htiny : a < 2 ^ (1 - (l.bias : ℤ)) ↔ (m.log2 : ℤ) + e < 1 - (l.bias : ℤ) := by
    rw [← hlog, ← Int.lt_zpow_iff_log_lt (by norm_num) ha]; simp
  simp only [roundReal, belowCode, hwhole, hqe, hk, Nat.add_sub_cancel, hzero, decide_false]
  rw [← hwhole]
  simp only [hup, htiny]

theorem Describes.roundFin_sticky (h : Describes l f) (neg : Bool) {m : ℕ} {e : ℤ} {y : ℝ} (hm : 2 ^ (l.fb + 1) ≤ m) (exact : Bool)
    (hy : if exact then y = m * 2 ^ e else m * 2 ^ e < y ∧ y < (m + 1) * 2 ^ e) :
    f.round .rne (stickyVal neg m e exact) = roundReal l .rne neg y := by
  have hm0 : m ≠ 0 := by have : 0 < 2 ^ (l.fb + 1) := by positivity
                         omega
  cases exact with
  | true =>
    simp only [if_true] at hy
    rw [hy]
    exact h.roundFin_eq .rne neg hm0 e
  | false =>
    simp only [Bool.false_eq_true, if_false] at hy
    have hquarter : ((4 * m + 1 : ℕ) : ℝ) * 2 ^ (e - 2) = (m + 1 / 4) * 2 ^ e := by
      rw [zpow_sub₀ (by norm_num)]; push_cast; ring
    have hpow : (0 : ℝ) < 2 ^ e := by positivity
    rw [roundReal_of_between neg hm hy.1 hy.2]
    refine (h.roundFin_eq .rne neg (Nat.succ_ne_zero _) (e - 2)).trans ?_
    rw [hquarter]
    exact roundReal_of_between neg hm (by nlinarith) (by nlinarith)

/-- A value known up to its last place rounds as the real number that it stands for. -/
theorem Describes.rounds_sticky (h : Describes l f) (neg : Bool) {m : ℕ} {e : ℤ} {y : ℝ} (hm : 2 ^ (l.fb + 1) ≤ m) (exact : Bool)
    (hy : if exact then y = m * 2 ^ e else m * 2 ^ e < y ∧ y < (m + 1) * 2 ^ e) :
    l.rounds .rne (withSign neg y) (f.round .rne (stickyVal neg m e exact)) := by
  rw [h.roundFin_sticky neg hm exact hy]
  refine h.rounds_roundReal (by simp [plainModes]) neg ?_
  have hpos : (0 : ℝ) < m * 2 ^ e := by
    have : 0 < m := lt_of_lt_of_le (by positivity) hm
    positivity
  cases exact with
  | true => simp only [if_true] at hy; rw [hy]; exact hpos
  | false => simp only [Bool.false_eq_true, if_false] at hy; exact hpos.trans hy.1

end

end Sys2Proof.Numbers
end

section
/-! Exact values and element arithmetic (R124 to R128, R154, R155): what the model's exact operations stand for, and sums, differences, products
and fused sums rounded once. -/

namespace Sys2Proof.Numbers

open Sys2Proof Sys2Proof.Machine Sys2Proof.Claims

/-! ### The rational number of a finite value -/

/-- The rational number (−1)^neg · m · 2^e. -/
def finRat (neg : Bool) (m : ℕ) (e : ℤ) : ℚ := if neg then -(m * 2 ^ e) else m * 2 ^ e

/-- `v` is the finite value of the rational number x. -/
def IsVal (v : FVal) (x : ℚ) : Prop := ∃ n m e, v = .fin n m e ∧ x = finRat n m e

theorem finRat_eq_zero {neg : Bool} {m : ℕ} {e : ℤ} : finRat neg m e = 0 ↔ m = 0 := by
  have : (2 : ℚ) ^ e ≠ 0 := by positivity
  cases neg <;> simp [finRat, this]

theorem isVal_fin (n : Bool) (m : ℕ) (e : ℤ) : IsVal (.fin n m e) (finRat n m e) := ⟨n, m, e, rfl, rfl⟩

theorem isVal_zero (n : Bool) (e : ℤ) : IsVal (.fin n 0 e) 0 := ⟨n, 0, e, rfl, by simp [finRat]⟩

theorem unitsOf_mul_zpow (n : Bool) (m : ℕ) {e q : ℤ} (h : q ≤ e) : (unitsOf n m e q : ℚ) * 2 ^ q = finRat n m e := by
  have hz : (2 : ℚ) ^ (e - q).toNat * 2 ^ q = 2 ^ e := by
    rw [← zpow_natCast, ← zpow_add₀ (by norm_num)]
    congr 1; omega
  rw [finRat, ← hz, unitsOf]
  cases n
  · simp [mul_assoc]
  · simp [mul_assoc]

theorem finOfInt_isVal (n : ℤ) (q : ℤ) (z : Bool) : IsVal (finOfInt n q z) (n * 2 ^ q) := by
  rw [finOfInt]
  by_cases h0 : n = 0
  · subst h0; simpa using isVal_zero z 0
  · rw [if_neg (by simpa using h0)]
    refine ⟨_, _, _, rfl, ?_⟩
    rw [finRat]
    by_cases hn : n < 0
    · have hc : ((n.natAbs : ℕ) : ℚ) = -(n : ℚ) := by rw [← Int.cast_natCast, Int.natCast_natAbs, abs_of_neg hn]; push_cast; rfl
      simp [hn, hc]
    · have hc : ((n.natAbs : ℕ) : ℚ) = (n : ℚ) := by
        rw [← Int.cast_natCast, Int.natCast_natAbs, abs_of_nonneg (not_lt.1 hn)]
      simp [hn, hc]

theorem valOfInt_isVal (n : ℤ) : IsVal (valOfInt n) n := by
  simpa [valOfInt] using finOfInt_isVal n 0 false

/-- The sum of two finite values is exact and raises nothing. -/
theorem addExact_isVal {x y : FVal} {a b : ℚ} (mode : RMode) (hx : IsVal x a) (hy : IsVal y b) :
    IsVal (addExact mode x y).1 (a + b) ∧ (addExact mode x y).2 = 0 := by
  obtain ⟨n, m, e, rfl, rfl⟩ := hx
  obtain ⟨n', m', e', rfl, rfl⟩ := hy
  refine ⟨?_, rfl⟩
  simp only [addExact]
  have hq : (if e < e' then e else e') ≤ e ∧ (if e < e' then e else e') ≤ e' := by split <;> omega
  rw [← unitsOf_mul_zpow n m hq.1, ← unitsOf_mul_zpow n' m' hq.2, ← add_mul, ← Int.cast_add]
  exact finOfInt_isVal _ _ _

/-- The sum of two finite values that cancel: a zero with the sign of IEEE 754. -/
theorem addExact_zero {n n' : Bool} {m m' : ℕ} {e e' : ℤ} (mode : RMode) (h : finRat n m e + finRat n' m' e' = 0) :
    (addExact mode (.fin n m e) (.fin n' m' e')).1 = .fin (if m = 0 ∧ n = n' then n else mode == .rdn) 0 0 := by
  have hmm : m = 0 → m' = 0 := fun h0 => by
    rw [finRat_eq_zero.2 h0, zero_add] at h
    exact finRat_eq_zero.1 h
  have hq : (if e < e' then e else e') ≤ e ∧ (if e < e' then e else e') ≤ e' := by split <;> omega
  have hsum : unitsOf n m e (if e < e' then e else e') + unitsOf n' m' e' (if e < e' then e else e') = 0 := by
    rw [← unitsOf_mul_zpow n m hq.1, ← unitsOf_mul_zpow n' m' hq.2, ← add_mul, mul_eq_zero,
      or_iff_left (by positivity), ← Int.cast_add, Int.cast_eq_zero] at h
    exact h
  simp only [addExact, hsum, finOfInt, beq_self_eq_true, if_true]
  by_cases h0 : m = 0
  · simp [h0, hmm h0]
  · simp [h0]

theorem negate_isVal {x : FVal} {a : ℚ} (hx : IsVal x a) : IsVal x.negate (-a) := by
  obtain ⟨n, m, e, rfl, rfl⟩ := hx
  exact ⟨!n, m, e, rfl, by cases n <;> simp [finRat]⟩

theorem mulExact_isVal {x y : FVal} {a b : ℚ} (hx : IsVal x a) (hy : IsVal y b) :
    IsVal (mulExact x y).1 (a * b) ∧ (mulExact x y).2 = 0 := by
  obtain ⟨n, m, e, rfl, rfl⟩ := hx
  obtain ⟨n', m', e', rfl, rfl⟩ := hy
  refine ⟨⟨n != n', m * m', e + e', rfl, ?_⟩, rfl⟩
  have hz : (2 : ℚ) ^ (e + e') = 2 ^ e * 2 ^ e' := zpow_add₀ (by norm_num) _ _
  cases n <;> cases n' <;> simp [finRat, hz] <;> ring

/-! ### Decoding (R124) -/

section
variable {l : Layout} {f : FltFmt}

theorem testBit_eq_negative (l : Layout) (v : ℕ) : v.testBit (l.w - 1) = l.negative v := by
  rw [Nat.testBit_eq_decide_div_mod_eq, Layout.negative]; rfl

/-- A finite encoding decodes to its sign and magnitude. -/
theorem Describes.decode_finite (h : Describes l f) {v : ℕ} (hv : l.finite v) :
    ∃ m e, f.decode v = .fin (l.negative v) m e ∧ (m = 0 ↔ l.mag v = 0) ∧ (m : ℚ) * 2 ^ e = magnitude l (l.mag v) := by
  have hle : l.mag v ≤ l.largest := hv.2
  have hmag (m : ℕ) (e : ℤ) (he : (m : ℚ) * 2 ^ e = magnitude l (l.mag v)) : m = 0 ↔ l.mag v = 0 := by
    rw [← magnitude_eq_zero (l := l) (c := l.mag v), ← he, mul_eq_zero, or_iff_left (by positivity), Nat.cast_eq_zero]
  rw [Layout.mag] at hle
  simp only [FltFmt.decode, h.w, h.fbits, h.bias, h.maxCode, testBit_eq_negative, hle, if_true, beq_iff_eq]
  by_cases h0 : v % 2 ^ (l.w - 1) / 2 ^ l.fb = 0
  · have he : ((v % 2 ^ (l.w - 1) % 2 ^ l.fb : ℕ) : ℚ) * 2 ^ (1 - (l.bias : ℤ) - l.fb) = magnitude l (l.mag v) := by
      rw [magnitude, unitsOfCode, Layout.mag, if_pos h0, leastExp]
    exact ⟨_, _, if_pos h0, hmag _ _ he, he⟩
  · obtain ⟨k, hk⟩ := Nat.exists_eq_succ_of_ne_zero h0
    have he : ((2 ^ l.fb + v % 2 ^ (l.w - 1) % 2 ^ l.fb : ℕ) : ℚ) * 2 ^ (((v % 2 ^ (l.w - 1) / 2 ^ l.fb : ℕ) : ℤ) - l.bias - l.fb) =
        magnitude l (l.mag v) := by
      rw [magnitude, unitsOfCode, Layout.mag, if_neg h0, leastExp, hk, Nat.cast_mul, mul_assoc, Nat.cast_pow, ← zpow_natCast,
        Nat.cast_ofNat, ← zpow_add₀ (by norm_num)]
      congr 2
      push_cast [Nat.succ_sub_one]
      ring
    exact ⟨_, _, if_neg h0, hmag _ _ he, he⟩

theorem val_eq_finRat {v m : ℕ} {e : ℤ} (he : (m : ℚ) * 2 ^ e = magnitude l (l.mag v)) : l.val v = finRat (l.negative v) m e := by
  rw [val_eq, ← he, finRat]

theorem Describes.decode_isVal (h : Describes l f) {v : ℕ} (hv : l.finite v) : IsVal (f.decode v) (l.val v) := by
  obtain ⟨m, e, hd, _, he⟩ := h.decode_finite hv
  exact ⟨_, _, _, hd, val_eq_finRat he⟩

theorem val_eq_zero {v : ℕ} : l.val v = 0 ↔ l.mag v = 0 := by
  rw [val_eq, ← magnitude_eq_zero (l := l)]
  split <;> simp

theorem Describes.decode_infinite (h : Describes l f) {v : ℕ} (hv : l.infinite v) : f.decode v = .inf (l.negative v) := by
  obtain ⟨hlt, hinf⟩ := hv
  have hgt : ¬l.mag v ≤ l.largest := not_le.2 (h.above _ hinf.symm).1
  rw [Layout.mag] at hinf hgt
  simp [FltFmt.decode, h.w, h.maxCode, h.infCode, testBit_eq_negative, hgt, hinf]

theorem Describes.decode_nan (h : Describes l f) {v : ℕ} (hv : l.isNan v) : f.decode v = .nan := by
  obtain ⟨hlt, hgt, hinf⟩ := hv
  have hgt : ¬l.mag v ≤ l.largest := not_le.2 hgt
  rw [Layout.mag] at hinf hgt
  simp [FltFmt.decode, h.w, h.maxCode, h.infCode, hgt, hinf]

/-! ### Rounding of exact values -/

theorem Describes.round_isVal (h : Describes l f) {mode : RMode} (hm : mode ∈ plainModes) {v : FVal} {x : ℚ} (hv : IsVal v x) (hx : x ≠ 0) :
    l.rounds mode ((x : ℚ) : ℝ) (f.round mode v) := by
  obtain ⟨n, m, e, rfl, rfl⟩ := hv
  have hm0 : m ≠ 0 := fun h0 => hx (finRat_eq_zero.2 h0)
  have hcast : ((finRat n m e : ℚ) : ℝ) = withSign n (m * 2 ^ e) := by rw [finRat, withSign]; split <;> push_cast <;> rfl
  rw [hcast, FltFmt.round, h.roundFin_eq mode n hm0 e]
  exact h.rounds_roundReal hm n (by positivity)

theorem Describes.stochastic_isVal (h : Describes l f) (z : W64) {v : FVal} {x : ℚ} (hv : IsVal v x) (hx : x ≠ 0) :
    l.stochastic z x (f.round (.sr z) v) := by
  obtain ⟨n, m, e, rfl, rfl⟩ := hv
  have hm0 : m ≠ 0 := fun h0 => hx (finRat_eq_zero.2 h0)
  have hcast : ((m * 2 ^ e : ℚ) : ℝ) = m * 2 ^ e := by push_cast; rfl
  rw [FltFmt.round, h.roundFin_eq _ n hm0 e, ← hcast, finRat]
  exact h.stochastic_roundReal z n (by positivity)

theorem Describes.roundFin_zero (h : Describes l f) (mode : RMode) (n : Bool) (e : ℤ) : f.round mode (.fin n 0 e) = (l.signed n 0, 0) := by
  simp [FltFmt.round, FltFmt.roundFin, h.signed_eq]

theorem Describes.round_zero (h : Describes l f) (mode : RMode) {v : FVal} (hv : IsVal v 0) : ∃ n, f.round mode v = (l.signed n 0, 0) := by
  obtain ⟨n, m, e, rfl, hx⟩ := hv
  obtain rfl := finRat_eq_zero.1 hx.symm
  exact ⟨n, h.roundFin_zero mode n e⟩

theorem Describes.round_nan (h : Describes l f) (mode : RMode) : f.round mode .nan = (l.nan, 0) := by simp [FltFmt.round, h.nanCode]

/-- An infinity rounds to its own code where the format has one. -/
theorem Describes.round_inf (h : Describes l f) (mode : RMode) {v : ℕ} (hv : l.infinite v) : f.round mode (.inf (l.negative v)) = (v, 0) := by
  have hinf : f.infCode = some (l.mag v) := by rw [h.infCode, hv.2]
  simp only [FltFmt.round, hinf, h.signed_eq, signed_mag h.w_pos hv.1]

end

/-! ### Sums and products of elements (R154, R155) -/

section
variable {l : Layout} {f : FltFmt} {x y d : FVal} {a b c : ℚ}

theorem add_of_isVal (f : FltFmt) (mode : RMode) (hx : IsVal x a) (hy : IsVal y b) : f.add mode x y = f.round mode (addExact mode x y).1 := by
  simp [FltFmt.add, (addExact_isVal mode hx hy).2]

theorem mul_of_isVal (f : FltFmt) (mode : RMode) (hx : IsVal x a) (hy : IsVal y b) : f.mul mode x y = f.round mode (mulExact x y).1 := by
  simp [FltFmt.mul, (mulExact_isVal hx hy).2]

theorem fma_of_isVal (f : FltFmt) (mode : RMode) (hd : IsVal d c) (hx : IsVal x a) (hy : IsVal y b) :
    f.fma mode d x y = f.round mode (addExact mode d (mulExact x y).1).1 := by
  have hp := mulExact_isVal hx hy
  simp [FltFmt.fma, hp.2, (addExact_isVal mode hd hp.1).2]

@[simp] theorem addExact_nan_left (mode : RMode) (y : FVal) : addExact mode .nan y = (.nan, 0) := rfl

@[simp] theorem addExact_nan_right (mode : RMode) (x : FVal) : addExact mode x .nan = (.nan, 0) := by cases x <;> rfl

@[simp] theorem mulExact_nan_left (y : FVal) : mulExact .nan y = (.nan, 0) := rfl

@[simp] theorem mulExact_nan_right (x : FVal) : mulExact x .nan = (.nan, 0) := by cases x <;> rfl

/-- A NaN operand gives the canonical NaN quietly. -/
theorem Describes.add_nan (h : Describes l f) (mode : RMode) (hn : x = .nan ∨ y = .nan) : f.add mode x y = (l.nan, 0) := by
  obtain rfl | rfl := hn <;> simp [FltFmt.add, h.round_nan]

theorem Describes.mul_nan (h : Describes l f) (mode : RMode) (hn : x = .nan ∨ y = .nan) : f.mul mode x y = (l.nan, 0) := by
  obtain rfl | rfl := hn <;> simp [FltFmt.mul, h.round_nan]

theorem Describes.fma_nan (h : Describes l f) (mode : RMode) (d : FVal) (hn : x = .nan ∨ y = .nan) : f.fma mode d x y = (l.nan, 0) := by
  obtain rfl | rfl := hn <;> simp [FltFmt.fma, h.round_nan]

/-- Two infinities add to the one that they are, or create a NaN. -/
theorem Describes.add_infinities (h : Describes l f) (mode : RMode) {v : ℕ} (hv : l.infinite v) (n : Bool) :
    f.add mode (.inf (l.negative v)) (.inf n) = if l.negative v = n then (v, 0) else (l.nan, fNV) := by
  by_cases hn : l.negative v = n
  · subst hn; simp [FltFmt.add, addExact, h.round_inf mode hv]
  · simp [FltFmt.add, addExact, hn, h.round_nan]

theorem Describes.add_inf_fin (h : Describes l f) (mode : RMode) {v : ℕ} (hv : l.infinite v) (n : Bool) (m : ℕ) (e : ℤ) :
    f.add mode (.inf (l.negative v)) (.fin n m e) = (v, 0) := by
  simp [FltFmt.add, addExact, h.round_inf mode hv]

/-- An infinity times zero creates a NaN. -/
theorem Describes.mul_inf_zero (h : Describes l f) (mode : RMode) (n n' : Bool) (e : ℤ) :
    f.mul mode (.inf n) (.fin n' 0 e) = (l.nan, fNV) := by
  simp [FltFmt.mul, mulExact, h.round_nan]

end

/-- The formats of Table 8-1 that stand alone in a lane, as the model lays them out. -/
theorem floatRows_describes : ∀ row ∈ floatRows, ∃ f, row.1.flt = some f ∧ Describes row.2 f := by
  simp only [floatRows, arithRows, List.cons_append, List.nil_append, List.forall_mem_cons]
  refine ⟨⟨fp32F, rfl, ?_⟩, ⟨bf16F, rfl, ?_⟩, ⟨fp16F, rfl, ?_⟩, ⟨e4m3F, rfl, ?_⟩, ⟨e5m2F, rfl, ?_⟩, by simp⟩ <;>
    constructor <;> simp [fp32F, bf16F, fp16F, e4m3F, e5m2F]

theorem arithRows_describes {row : Fmt × Layout} (hrow : row ∈ arithRows) : ∃ f, row.1.flt = some f ∧ Describes row.2 f :=
  floatRows_describes row (List.mem_append_left _ hrow)

theorem mxRows_describes : ∀ row ∈ mxRows, Describes row.2.1 row.1 := by
  simp only [mxRows, List.forall_mem_cons]
  refine ⟨?_, ?_, by simp⟩ <;> constructor <;> simp [e4m3F, e2m1F]

theorem byClass_of_flt {t : Fmt} {f : FltFmt} (h : t.flt = some f) (g : FltFmt → Elem) (int : Elem) : t.byClass g int = g f := by
  simp [Fmt.byClass, h]

theorem floatArithmeticRounds : FloatArithmeticRounds := by
  rintro ⟨t, l⟩ hrow mode hm d a b
  obtain ⟨f, hf, h⟩ := arithRows_describes hrow
  dsimp only at hf h ⊢
  have hadd : elemAdd t mode a b = f.add mode (f.decode a) (f.decode b) := byClass_of_flt hf _ _
  have hsub : elemSub t mode a b = f.add mode (f.decode a) (f.decode b).negate := byClass_of_flt hf _ _
  have hmul : elemMul t mode a b = f.mul mode (f.decode a) (f.decode b) := byClass_of_flt hf _ _
  have hfma : elemFma t mode d a b = f.fma mode (f.decode d) (f.decode a) (f.decode b) := byClass_of_flt hf _ _
  have hfms : elemFms t mode d a b = f.fma mode (f.decode d) (f.decode a).negate (f.decode b) := byClass_of_flt hf _ _
  rw [hadd, hsub, hmul, hfma, hfms]
  refine ⟨fun hd ha hb => ⟨?_, fun h0 => ?_, fun h0 => ?_⟩, fun ha hb hnan => ?_, fun ha hb => ?_, fun ha hb => ?_⟩
  · have vd := h.decode_isVal hd
    have va := h.decode_isVal ha
    have vb := h.decode_isVal hb
    have vn := negate_isVal vb
    have vp := (mulExact_isVal va vb).1
    have vq := (mulExact_isVal (negate_isVal va) vb).1
    rw [add_of_isVal f mode va vb, add_of_isVal f mode va vn, mul_of_isVal f mode va vb, fma_of_isVal f mode vd va vb,
      fma_of_isVal f mode vd (negate_isVal va) vb, sub_eq_add_neg, sub_eq_add_neg, ← neg_mul]
    simp only [List.forall_mem_cons]
    exact ⟨h.round_isVal hm (addExact_isVal mode va vb).1, h.round_isVal hm (addExact_isVal mode va vn).1, h.round_isVal hm vp,
      h.round_isVal hm (addExact_isVal mode vd vp).1, h.round_isVal hm (addExact_isVal mode vd vq).1, by simp⟩
  · obtain ⟨m, e, hda, hma, hea⟩ := h.decode_finite ha
    obtain ⟨m', e', hdb, _, heb⟩ := h.decode_finite hb
    have hsum : finRat (l.negative a) m e + finRat (l.negative b) m' e' = 0 := by rw [← val_eq_finRat hea, ← val_eq_finRat heb, h0]
    rw [add_of_isVal f mode (h.decode_isVal ha) (h.decode_isVal hb), hda, hdb, addExact_zero mode hsum, h.roundFin_zero]
    simp only [hma]
  · obtain ⟨m, e, hda, hma, _⟩ := h.decode_finite ha
    obtain ⟨m', e', hdb, hmb, _⟩ := h.decode_finite hb
    have hz : m * m' = 0 := by
      rw [mul_eq_zero, hma, hmb]
      exact (mul_eq_zero.1 h0).imp val_eq_zero.1 val_eq_zero.1
    rw [mul_of_isVal f mode (h.decode_isVal ha) (h.decode_isVal hb), hda, hdb]
    simp only [mulExact, hz, h.roundFin_zero]
  · have hd := hnan.imp h.decode_nan h.decode_nan
    have hd' : f.decode a = .nan ∨ (f.decode b).negate = .nan := hd.imp_right fun hb => by rw [hb]; rfl
    exact ⟨h.add_nan mode hd, h.add_nan mode hd', h.mul_nan mode hd, fun _ => h.fma_nan mode _ hd⟩
  · rw [h.decode_infinite ha, h.decode_infinite hb, FVal.negate, h.add_infinities mode ha, h.add_infinities mode ha]
    refine ⟨rfl, ?_⟩
    cases l.negative a <;> cases l.negative b <;> rfl
  · obtain ⟨m', e', hdb, hmb, _⟩ := h.decode_finite hb
    rw [h.decode_infinite ha, hdb, h.add_inf_fin mode ha]
    refine ⟨rfl, fun h0 => ?_⟩
    obtain rfl : m' = 0 := hmb.2 (val_eq_zero.1 h0)
    exact h.mul_inf_zero mode _ _ _

end Sys2Proof.Numbers
end

section
/-! Comparisons of floating-point elements, and integer elements (R125, R130, R154 to R157, R159, R166). -/

namespace Sys2Proof.Numbers

open Sys2Proof Sys2Proof.Machine Sys2Proof.Claims

/-! ### The order of two values (R159) -/

section
variable {l : Layout} {f : FltFmt} {a b : ℕ}

/-- The model's order of two finite values is that of the numbers, and of zeros that of their signs where it is asked for. -/
theorem lt_fin_iff (zeros : Bool) (n n' : Bool) (m m' : ℕ) (e e' : ℤ) : FVal.lt zeros (.fin n m e) (.fin n' m' e') = true ↔
    finRat n m e < finRat n' m' e' ∨ (zeros = true ∧ m = 0 ∧ m' = 0 ∧ n = true ∧ n' = false) := by
  have hq : (if e < e' then e else e') ≤ e ∧ (if e < e' then e else e') ≤ e' := by split <;> omega
  have hlt : finRat n m e < finRat n' m' e' ↔ unitsOf n m e (if e < e' then e else e') < unitsOf n' m' e' (if e < e' then e else e') := by
    rw [← unitsOf_mul_zpow n m hq.1, ← unitsOf_mul_zpow n' m' hq.2, mul_lt_mul_iff_left₀ (by positivity), Int.cast_lt]
  by_cases h0 : m = 0 ∧ m' = 0
  · obtain ⟨rfl, rfl⟩ := h0
    have : ¬finRat n 0 e < finRat n' 0 e' := by simp [finRat]
    simp [FVal.lt, this, and_assoc]
  · have h0' : ¬(zeros = true ∧ m = 0 ∧ m' = 0 ∧ n = true ∧ n' = false) := fun h => h0 ⟨h.2.1, h.2.2.1⟩
    rw [or_iff_left h0', hlt]
    have : (m == 0 && m' == 0) = false := by simpa using fun h h' => h0 ⟨h, h'⟩
    simp [FVal.lt, this]

theorem Describes.not_infinite_of_finite (h : Describes l f) (ha : l.finite a) : ¬l.infinite a := fun hi =>
  absurd ha.2 (not_le.2 (h.above _ hi.2.symm).1)

/-- Zeros of either sign, the first negative and the second positive. -/
def zerosInOrder (l : Layout) (a b : ℕ) : Prop := l.mag a = 0 ∧ l.mag b = 0 ∧ l.negative a = true ∧ l.negative b = false

/-- The model's order of two numbers is the one of R159, and of zeros that of their signs where it is asked for. -/
theorem Describes.lt_decode_iff (h : Describes l f) (zeros : Bool) (ha : l.number a) (hb : l.number b) :
    FVal.lt zeros (f.decode a) (f.decode b) = true ↔ l.below a b ∨ (zeros = true ∧ zerosInOrder l a b) := by
  have hmag {v : ℕ} (hv : l.infinite v) : l.mag v ≠ 0 := by
    have := (h.above _ hv.2.symm).1
    omega
  rw [Layout.below, zerosInOrder]
  rcases ha with ha | ha <;> rcases hb with hb | hb
  · obtain ⟨m, e, hda, hma, hea⟩ := h.decode_finite ha
    obtain ⟨m', e', hdb, hmb, heb⟩ := h.decode_finite hb
    rw [hda, hdb, lt_fin_iff, ← val_eq_finRat hea, ← val_eq_finRat heb, hma, hmb]
    simp [h.not_infinite_of_finite ha, h.not_infinite_of_finite hb, ha, hb]
  · obtain ⟨m, e, hda, _, _⟩ := h.decode_finite ha
    rw [hda, h.decode_infinite hb]
    have hnf : ¬l.finite b := fun hf => h.not_infinite_of_finite hf hb
    simp [FVal.lt, h.not_infinite_of_finite ha, hb, hnf, hmag hb]
  · obtain ⟨m, e, hdb, _, _⟩ := h.decode_finite hb
    rw [hdb, h.decode_infinite ha]
    have hnf : ¬l.finite a := fun hf => h.not_infinite_of_finite hf ha
    simp [FVal.lt, h.not_infinite_of_finite hb, ha, hnf, hmag ha]
  · rw [h.decode_infinite ha, h.decode_infinite hb]
    have hnf : ¬l.finite a := fun hf => h.not_infinite_of_finite hf ha
    simp only [FVal.lt, ha, hb, hnf, hmag ha]
    cases l.negative a <;> cases l.negative b <;> simp

theorem Describes.number_not_nan (h : Describes l f) (ha : l.number a) : (f.decode a).isNan = false := by
  rcases ha with ha | ha
  · obtain ⟨m, e, hd, _⟩ := h.decode_finite ha
    rw [hd]; rfl
  · rw [h.decode_infinite ha]; rfl

theorem Describes.below_asymm (h : Describes l f) (hab : l.below a b) : ¬l.below b a := by
  intro hba
  have hnf {v : ℕ} (hi : l.infinite v) : ¬l.finite v := fun hf => h.not_infinite_of_finite hf hi
  rcases hab with ⟨ha, hn, hnb⟩ | ⟨hb, hn, hna⟩ | ⟨ha, hb, hlt⟩
  · rcases hba with ⟨hb, hn', _⟩ | ⟨_, hn', _⟩ | ⟨_, hf, _⟩
    · exact hnb ⟨hb, hn'⟩
    · simp [hn] at hn'
    · exact hnf ha hf
  · rcases hba with ⟨_, hn', _⟩ | ⟨ha, hn', _⟩ | ⟨hf, _, _⟩
    · simp [hn] at hn'
    · exact hna ⟨ha, hn'⟩
    · exact hnf hb hf
  · rcases hba with ⟨hi, _⟩ | ⟨hi, _⟩ | ⟨_, _, hlt'⟩
    · exact h.not_infinite_of_finite hb hi
    · exact h.not_infinite_of_finite ha hi
    · exact lt_asymm hlt hlt'

theorem Describes.not_zeros_of_below (h : Describes l f) (hab : l.below a b ∨ l.below b a) : ¬zerosInOrder l a b := by
  rintro ⟨hza, hzb, hna, hnb⟩
  have hinf {v : ℕ} (hz : l.mag v = 0) : ¬l.infinite v := fun hi => by have := (h.above _ hi.2.symm).1; omega
  have hva : l.val a = 0 := val_eq_zero.2 hza
  have hvb : l.val b = 0 := val_eq_zero.2 hzb
  rcases hab with hab | hab <;> rcases hab with ⟨hi, _⟩ | ⟨hi, _⟩ | ⟨_, _, hlt⟩
  · exact hinf hza hi
  · exact hinf hzb hi
  · rw [hva, hvb] at hlt; exact lt_irrefl _ hlt
  · exact hinf hzb hi
  · exact hinf hza hi
  · rw [hva, hvb] at hlt; exact lt_irrefl _ hlt

theorem mag_eq_of_val_eq (hs : l.negative a = l.negative b) (hv : l.val a = l.val b) : l.mag a = l.mag b := by
  rw [val_eq, val_eq, hs] at hv
  refine (magnitude_strictMono l).injective ?_
  split at hv
  · exact neg_injective hv
  · exact hv

theorem mag_zero_of_val_eq (hs : l.negative a ≠ l.negative b) (hv : l.val a = l.val b) : l.mag a = 0 ∧ l.mag b = 0 := by
  have ha := magnitude_nonneg l (l.mag a)
  have hb := magnitude_nonneg l (l.mag b)
  rw [val_eq, val_eq] at hv
  rw [← magnitude_eq_zero (l := l), ← magnitude_eq_zero (l := l) (c := l.mag b)]
  cases hna : l.negative a <;> cases hnb : l.negative b <;> simp [hna, hnb] at hv hs <;> constructor <;> linarith

/-- Numbers neither of which is below the other are the same encoding, or zeros of opposite signs. -/
theorem Describes.eq_or_zeros (h : Describes l f) (ha : l.number a) (hb : l.number b) (hab : ¬l.below a b) (hba : ¬l.below b a) :
    a = b ∨ zerosInOrder l a b ∨ zerosInOrder l b a := by
  have hlt {v : ℕ} (hv : l.number v) : v < 2 ^ l.w := hv.elim (fun h => h.1) fun h => h.1
  have heq (hs : l.negative a = l.negative b) (hm : l.mag a = l.mag b) : a = b := by
    rw [← signed_mag h.w_pos (hlt ha), ← signed_mag h.w_pos (hlt hb), hs, hm]
  rcases ha with ha | ha <;> rcases hb with hb | hb
  · have hv : l.val a = l.val b := le_antisymm (not_lt.1 fun hlt => hba (.inr (.inr ⟨hb, ha, hlt⟩)))
      (not_lt.1 fun hlt => hab (.inr (.inr ⟨ha, hb, hlt⟩)))
    by_cases hs : l.negative a = l.negative b
    · exact .inl (heq hs (mag_eq_of_val_eq hs hv))
    · obtain ⟨hza, hzb⟩ := mag_zero_of_val_eq hs hv
      right
      cases hna : l.negative a <;> cases hnb : l.negative b <;> simp [hna, hnb] at hs
      · exact .inr ⟨hzb, hza, hnb, hna⟩
      · exact .inl ⟨hza, hzb, hna, hnb⟩
  · have hni := h.not_infinite_of_finite ha
    cases hn : l.negative b
    · exact absurd (.inr (.inl ⟨hb, hn, fun h' => hni h'.1⟩)) hab
    · exact absurd (.inl ⟨hb, hn, fun h' => hni h'.1⟩) hba
  · have hni := h.not_infinite_of_finite hb
    cases hn : l.negative a
    · exact absurd (.inr (.inl ⟨ha, hn, fun h' => hni h'.1⟩)) hba
    · exact absurd (.inl ⟨ha, hn, fun h' => hni h'.1⟩) hab
  · left
    refine heq ?_ (Option.some.inj (ha.2.trans hb.2.symm))
    cases hna : l.negative a <;> cases hnb : l.negative b
    · rfl
    · exact absurd (.inl ⟨hb, hnb, by simp [hna]⟩) hba
    · exact absurd (.inl ⟨ha, hna, by simp [hnb]⟩) hab
    · rfl

theorem Describes.xor_sign (h : Describes l f) (ha : a < 2 ^ l.w) : a ^^^ 2 ^ (l.w - 1) = l.signed (!l.negative a) (l.mag a) := by
  have hm := mag_lt l a
  have hbit {v : ℕ} (hv : v < 2 ^ (l.w - 1)) : 2 ^ (l.w - 1) + v = 2 ^ (l.w - 1) ^^^ v := by
    have := Nat.two_pow_add_eq_or_of_lt hv 1
    rw [mul_one] at this
    rw [this]
    refine Nat.eq_of_testBit_eq fun i => ?_
    by_cases hi : i = l.w - 1
    · subst hi; simp [Nat.testBit_lt_two_pow hv]
    · simp [Nat.testBit_two_pow_of_ne (Ne.symm hi)]
  conv_lhs => rw [← signed_mag h.w_pos ha]
  cases l.negative a
  · simp only [Layout.signed, Bool.false_eq_true, if_false, Bool.not_false, if_true, hbit hm, Nat.xor_comm]
  · simp only [Layout.signed, Bool.false_eq_true, if_false, Bool.not_true, if_true, hbit hm]
    rw [Nat.xor_comm, ← Nat.xor_assoc, Nat.xor_self, Nat.zero_xor]

end

section
variable {l : Layout} {f : FltFmt} {a b : ℕ}

/-- VMIN and VMAX of a pair of numbers, by which is below the other. -/
theorem Describes.fltPick_numbers (h : Describes l f) (ha : l.number a) (hb : l.number b) (larger : Bool) :
    (l.below a b → fltPick f larger a b = (if larger then b else a, 0)) ∧
    (l.below b a → fltPick f larger a b = (if larger then a else b, 0)) ∧
    (¬l.below a b → ¬l.below b a → fltPick f larger a b = (if l.negative a = larger then b else a, 0)) := by
  have hlt := h.lt_decode_iff true ha hb
  simp only [true_and] at hlt
  have hpick : fltPick f larger a b = if FVal.lt true (f.decode a) (f.decode b) then (if larger then b else a, 0)
      else (if larger then a else b, 0) := by
    simp [fltPick, h.number_not_nan ha, h.number_not_nan hb]
  refine ⟨fun hab => ?_, fun hba => ?_, fun hab hba => ?_⟩
  · rw [hpick, if_pos (hlt.2 (.inl hab))]
  · rw [hpick, if_neg fun hc => (hlt.1 hc).elim (h.below_asymm hba) (h.not_zeros_of_below (.inr hba))]
  · rw [hpick]
    rcases h.eq_or_zeros ha hb hab hba with rfl | hz | hz
    · simp
    · rw [if_pos (hlt.2 (.inr hz)), hz.2.2.1]
      cases larger <;> simp
    · have hno : ¬zerosInOrder l a b := fun h' => Bool.false_ne_true (hz.2.2.2.symm.trans h'.2.2.1)
      rw [if_neg fun hc => (hlt.1 hc).elim hab hno, hz.2.2.2]
      cases larger <;> simp

theorem Describes.fltPick_nan (h : Describes l f) (larger : Bool) (hn : l.isNan a ∨ l.isNan b) : fltPick f larger a b = (l.nan, 0) := by
  have : ((f.decode a).isNan || (f.decode b).isNan) = true := by
    rcases hn with hn | hn <;> simp [h.decode_nan hn, FVal.isNan]
  simp [fltPick, this, h.nanCode]

/-- VCMP of two floating-point elements that are no NaNs goes by the order of their values (Table 10-5). -/
theorem elemCmp_of_flt {t : Fmt} (hf : t.flt = some f) (hnan : ((f.decode a).isNan || (f.decode b).isNan) = false)
    (hasymm : FVal.lt false (f.decode a) (f.decode b) = true → ¬FVal.lt false (f.decode b) (f.decode a) = true) (c : ℕ) :
    elemCmp t c a b = true ↔
      cmpTable (FVal.lt false (f.decode a) (f.decode b) = true) (FVal.lt false (f.decode b) (f.decode a) = true) c := by
  simp only [elemCmp, hf, hnan]
  generalize FVal.lt false (f.decode a) (f.decode b) = lt at *
  generalize FVal.lt false (f.decode b) (f.decode a) = gt at *
  match c with
  | 0 | 1 | 2 | 3 | 4 | 5 | 6 => cases lt <;> cases gt <;> simp [cmpTable] at hasymm ⊢
  | c + 7 => simp [cmpTable]

/-- VCMP of two integer elements goes by the order of their values (Table 10-5). -/
theorem elemCmp_of_int {t : Fmt} (hf : t.flt = none) (c : ℕ) :
    elemCmp t c a b = true ↔ cmpTable (t.intVal a < t.intVal b) (t.intVal b < t.intVal a) c := by
  simp only [elemCmp, hf]
  match c with
  | 0 | 1 | 2 | 4 | 6 => simp [cmpTable]
  | 3 | 5 => simp [cmpTable]; omega
  | c + 7 => simp [cmpTable]

end

theorem floatsCompare : FloatsCompare := by
  rintro ⟨t, l⟩ hrow a b
  obtain ⟨f, hf, h⟩ := arithRows_describes hrow
  dsimp only at hf h ⊢
  have hmin : elemMin t a b = fltPick f false a b := byClass_of_flt hf _ _
  have hmax : elemMax t a b = fltPick f true a b := byClass_of_flt hf _ _
  have habs : elemAbs t a = if (f.decode a).isNan then (f.nanCode, 0) else (a % 2 ^ (f.w - 1), 0) := byClass_of_flt hf _ _
  have hneg : elemNeg t a = if (f.decode a).isNan then (f.nanCode, 0) else (a ^^^ 2 ^ (f.w - 1), 0) := byClass_of_flt hf _ _
  rw [hmin, hmax, habs, hneg]
  refine ⟨fun ha hb => ?_, fun ha => ?_, fun hn => ?_, fun _ _ hn => ?_⟩
  · obtain ⟨hmin1, hmin2, hmin3⟩ := h.fltPick_numbers ha hb false
    obtain ⟨hmax1, hmax2, hmax3⟩ := h.fltPick_numbers ha hb true
    refine ⟨fun hab => ⟨hmin1 hab, hmax1 hab⟩, fun hba => ⟨hmin2 hba, hmax2 hba⟩, fun hab hba => ⟨?_, hmax3 hab hba⟩, fun c _ => ?_⟩
    · rw [hmin3 hab hba]
      cases l.negative a <;> rfl
    · have hlt := h.lt_decode_iff false ha hb
      have hgt := h.lt_decode_iff false hb ha
      simp only [Bool.false_eq_true, false_and, or_false] at hlt hgt
      rw [← propext hlt, ← propext hgt]
      exact elemCmp_of_flt hf (by simp [h.number_not_nan ha, h.number_not_nan hb])
        (fun hc hc' => h.below_asymm (hlt.1 hc) (hgt.1 hc')) c
  · have hlt : a < 2 ^ l.w := ha.elim (fun h => h.1) fun h => h.1
    simp [h.number_not_nan ha, h.w, h.xor_sign hlt, Layout.mag]
  · simp [h.decode_nan hn, FVal.isNan, h.nanCode]
  · refine ⟨h.fltPick_nan false hn, h.fltPick_nan true hn, fun c _ => ?_⟩
    have hnan : ((f.decode a).isNan || (f.decode b).isNan) = true := by
      rcases hn with hn | hn <;> simp [h.decode_nan hn, FVal.isNan]
    have hltn : FVal.lt false (f.decode a) (f.decode b) = false := by
      rcases hn with hn | hn
      · rw [h.decode_nan hn]; rfl
      · rw [h.decode_nan hn]; cases f.decode a <;> rfl
    have hgtn : FVal.lt false (f.decode b) (f.decode a) = false := by
      rcases hn with hn | hn
      · rw [h.decode_nan hn]; cases f.decode b <;> rfl
      · rw [h.decode_nan hn]; rfl
    simp only [elemCmp, hf, hnan, hltn, hgtn]
    match c with
    | 0 | 1 | 2 | 3 | 4 | 5 | 6 => simp
    | c + 7 => simp

end Sys2Proof.Numbers
end

section
/-! Integer elements (R130, R154 to R157, R159, R166). -/

namespace Sys2Proof.Numbers

open Sys2Proof Sys2Proof.Machine Sys2Proof.Claims

/-- What the model's accessors of an integer format give, by its width and its sign (R130). -/
structure IsInt (t : Fmt) (w : ℕ) (sg : Bool) : Prop where
  flt : t.flt = none
  width : t.width = w
  pos : 1 ≤ w
  int : t.isInt = true
  unsigned : (t == .uint8) = !sg
  byte : sg = false → w = 8

theorem intRows_isInt {row : Fmt × ℕ × Bool} (h : row ∈ intRows) : IsInt row.1 row.2.1 row.2.2 := by
  simp only [intRows, List.mem_cons, List.not_mem_nil, or_false] at h
  rcases h with rfl | rfl | rfl | rfl <;> exact ⟨rfl, rfl, by decide, rfl, rfl, by decide⟩

/-! ### Values and encodings of integers -/

section
variable {w : ℕ} {sg : Bool}

theorem two_pow_width (h : 1 ≤ w) : (2 : ℤ) ^ w = 2 * 2 ^ (w - 1) := by
  rw [← pow_succ']; congr 1; omega

theorem sextInt_eq (w v : ℕ) (h : 1 ≤ w) : sextInt w v = intOf w true v := by
  have h2 := two_pow_width h
  rw [intOf, if_pos rfl, BitVec.toInt_eq_toNat_cond, BitVec.toNat_ofNat, sextInt]
  have : v % 2 ^ w < 2 ^ (w - 1) ↔ 2 * (v % 2 ^ w) < 2 ^ w := by zify; rw [h2]; omega
  simp only [this]

/-- The value of an element is congruent to its code. -/
theorem intOf_modEq (w : ℕ) (sg : Bool) (v : ℕ) : intOf w sg v ≡ v [ZMOD 2 ^ w] := by
  cases sg
  · exact Int.ModEq.refl _
  · rw [intOf, if_pos rfl, BitVec.toInt_ofNat']
    have := Int.bmod_emod (x := v) (m := 2 ^ w)
    rw [Int.ModEq]
    exact_mod_cast this

/-- The value of an element lies within the bounds of its format. -/
theorem intOf_bounds (h : 1 ≤ w) {v : ℕ} (hv : v < 2 ^ w) : (intBounds w sg).1 ≤ intOf w sg v ∧ intOf w sg v ≤ (intBounds w sg).2 := by
  cases sg
  · simp only [intBounds, intOf, Bool.false_eq_true, if_false]
    zify at hv
    omega
  · have h2 := two_pow_width h
    have hlo := BitVec.le_toInt (BitVec.ofNat w v)
    have hhi := BitVec.toInt_lt (x := BitVec.ofNat w v)
    simp only [intBounds, intOf, if_true]
    omega

theorem intBounds_width (h : 1 ≤ w) : (intBounds w sg).2 - (intBounds w sg).1 = 2 ^ w - 1 := by
  have h2 := two_pow_width h
  cases sg
  · simp [intBounds]
  · simp only [intBounds, if_true]
    omega

theorem intBounds_le (h : 1 ≤ w) : (intBounds w sg).1 ≤ (intBounds w sg).2 := by
  have h2 : (0 : ℤ) < 2 ^ w := by positivity
  have := intBounds_width (sg := sg) h
  omega

theorem wrapInt_lt (w : ℕ) (x : ℤ) : wrapInt w x < 2 ^ w := by
  have h2 : (0 : ℤ) < (2 ^ w : ℕ) := by positivity
  have := Int.emod_lt_of_pos x h2
  have := Int.emod_nonneg x h2.ne'
  rw [wrapInt]
  omega

theorem wrapInt_modEq (w : ℕ) (x : ℤ) : (wrapInt w x : ℤ) ≡ x [ZMOD 2 ^ w] := by
  have h2 : ((2 ^ w : ℕ) : ℤ) ≠ 0 := by positivity
  rw [wrapInt, Int.toNat_of_nonneg (Int.emod_nonneg x h2), Nat.cast_pow]
  exact Int.mod_modEq _ _

theorem wrapInt_of_modEq {x : ℤ} {n : ℕ} (h : x ≡ n [ZMOD 2 ^ w]) : wrapInt w x = n % 2 ^ w := by
  have h' : x % ((2 ^ w : ℕ) : ℤ) = n % ((2 ^ w : ℕ) : ℤ) := by exact_mod_cast h
  rw [wrapInt, h', ← Int.natCast_mod, Int.toNat_natCast]

/-- An integer within the bounds of a format is the value of its code there. -/
theorem intOf_wrapInt (h : 1 ≤ w) {x : ℤ} (hlo : (intBounds w sg).1 ≤ x) (hhi : x ≤ (intBounds w sg).2) :
    intOf w sg (wrapInt w x) = x := by
  obtain ⟨hlo', hhi'⟩ := intOf_bounds (sg := sg) h (wrapInt_lt w x)
  have hwidth := intBounds_width (sg := sg) h
  have hmod : intOf w sg (wrapInt w x) ≡ x [ZMOD 2 ^ w] := (intOf_modEq w sg _).trans (wrapInt_modEq w x)
  obtain ⟨k, hk⟩ := hmod.dvd
  have hp : (0 : ℤ) < 2 ^ w := by positivity
  have hk0 : k = 0 := by
    have h1 : 2 ^ w * k < 2 ^ w * 1 := by omega
    have h2 : 2 ^ w * (-1) < 2 ^ w * k := by omega
    have h1 := lt_of_mul_lt_mul_left h1 hp.le
    have h2 := lt_of_mul_lt_mul_left h2 hp.le
    omega
  rw [hk0] at hk
  omega

theorem clampInt_eq {lo hi : ℤ} (h : lo ≤ hi) (x : ℤ) : clampInt lo hi x = max lo (min hi x) := by
  rw [clampInt]
  split
  · omega
  · split <;> omega

/-- An integer clamped to the bounds of a format has the clamped value there. -/
theorem intOf_wrapInt_clampInt (h : 1 ≤ w) (x : ℤ) :
    intOf w sg (wrapInt w (clampInt (intBounds w sg).1 (intBounds w sg).2 x)) = max (intBounds w sg).1 (min (intBounds w sg).2 x) := by
  have hle := intBounds_le (sg := sg) h
  rw [clampInt_eq hle]
  exact intOf_wrapInt h (by omega) (by omega)

end

/-! ### The model's integer accessors -/

namespace IsInt

variable {t : Fmt} {w : ℕ} {sg : Bool} (h : IsInt t w sg)
include h

theorem intVal_eq {v : ℕ} (hv : v < 2 ^ w) : t.intVal v = intOf w sg v := by
  rw [Fmt.intVal, h.unsigned, h.width, sextInt_eq w v h.pos]
  cases sg
  · have hw : w = 8 := h.byte rfl
    subst hw
    have : v % 256 = v := Nat.mod_eq_of_lt hv
    simp only [intOf, this, Bool.not_false, if_true, Bool.false_eq_true, if_false]
  · rfl

theorem intLo_eq : t.intLo = (intBounds w sg).1 := by
  rw [Fmt.intLo, h.unsigned, h.width]
  cases sg <;> simp [intBounds]

theorem intHi_eq : t.intHi = (intBounds w sg).2 := by
  rw [Fmt.intHi, h.unsigned, h.width]
  cases sg
  · have hw : w = 8 := h.byte rfl
    subst hw
    rfl
  · simp [intBounds]

/-- An integer result is the code that is congruent to it. -/
theorem wrap_of_modEq {x : ℤ} {n : ℕ} (hx : x ≡ n [ZMOD 2 ^ w]) : t.wrap x = (n % 2 ^ w, 0) := by
  rw [Fmt.wrap, h.width, wrapInt_of_modEq hx]

theorem intVal_modEq {v : ℕ} (hv : v < 2 ^ w) : t.intVal v ≡ v [ZMOD 2 ^ w] := by
  rw [h.intVal_eq hv]
  exact intOf_modEq w sg v

theorem byClass_eq (g : FltFmt → Elem) (e : Elem) : t.byClass g e = e := by
  rw [Fmt.byClass, h.flt]

theorem wrap_eq (x : ℤ) : t.wrap x = ((x % 2 ^ w).toNat, 0) := by
  simp [Fmt.wrap, wrapInt, h.width]

end IsInt

/-- What stands above the code within 2^w is congruent to its negative. -/
theorem natCast_sub_modEq {w v : ℕ} (hv : v ≤ 2 ^ w) : ((2 ^ w - v : ℕ) : ℤ) ≡ -v [ZMOD 2 ^ w] := by
  rw [Int.modEq_iff_dvd]
  exact ⟨-1, by push_cast [hv]; ring⟩

theorem integerArithmeticWraps : IntegerArithmeticWraps := by
  rintro ⟨t, w, sg⟩ hrow mode d a b
  have h : IsInt t w sg := intRows_isInt hrow
  intro t' w' iv hd ha hb
  have hd' := h.intVal_modEq hd
  have ha' := h.intVal_modEq ha
  have hb' := h.intVal_modEq hb
  have hab : t.intVal a * t.intVal b ≡ (a * b : ℕ) [ZMOD 2 ^ w] := by
    rw [Nat.cast_mul]
    exact ha'.mul hb'
  refine ⟨?_, ?_, ?_, ?_, ?_, ?_⟩
  · refine (h.byClass_eq _ _).trans (h.wrap_of_modEq ?_)
    rw [Nat.cast_add]
    exact ha'.add hb'
  · refine (h.byClass_eq _ _).trans (h.wrap_of_modEq ?_)
    rw [Nat.cast_add, sub_eq_add_neg]
    exact ha'.add (hb'.neg.trans (natCast_sub_modEq hb.le).symm)
  · exact (h.byClass_eq _ _).trans (h.wrap_of_modEq hab)
  · refine (h.byClass_eq _ _).trans (h.wrap_of_modEq ?_)
    rw [Nat.cast_add]
    exact hd'.add hab
  · refine (h.byClass_eq _ _).trans (h.wrap_of_modEq ?_)
    have hmod : ((a * b % 2 ^ w : ℕ) : ℤ) ≡ (a * b : ℕ) [ZMOD 2 ^ w] := by
      rw [Int.natCast_mod, Nat.cast_pow]
      exact Int.mod_modEq _ _
    rw [Nat.cast_add, sub_eq_add_neg]
    exact hd'.add ((hab.trans hmod.symm).neg.trans (natCast_sub_modEq (Nat.mod_lt _ (by positivity)).le).symm)
  · refine ⟨wrapInt w (clampInt t.intLo t.intHi (t.intVal a + t.intVal b)), wrapInt_lt w _, ?_, ?_⟩
    · rw [← h.width]; rfl
    · rw [h.intLo_eq, h.intHi_eq, h.intVal_eq ha, h.intVal_eq hb]
      exact intOf_wrapInt_clampInt h.pos _

/-- VSAR of a signed element: a count of the width or more gives what a count of the width gives. -/
theorem IsInt.elemSar_signed {t : Fmt} {w : ℕ} (h : IsInt t w true) (hbits : (t == .bits) = false) {a : ℕ} (b : ℕ) :
    elemSar t a b = ((intOf w true a / 2 ^ min w b % 2 ^ w).toNat, 0) := by
  have hmin : (if w ≤ b then w else b) = min w b := by split <;> omega
  rw [elemSar, h.unsigned, hbits, h.width, hmin, h.wrap_eq, sextInt_eq w a h.pos]
  simp

/-- VCVT between integer formats clamps. -/
theorem elemCvt_integers {t t' : Fmt} {w w' : ℕ} {sg sg' : Bool} (h : IsInt t w sg) (h' : IsInt t' w' sg') (mode : RMode) {a : ℕ}
    (ha : a < 2 ^ w) : elemCvt t t' mode a = (wrapInt w' (clampInt (intBounds w' sg').1 (intBounds w' sg').2 (intOf w sg a)), 0) := by
  have hang : (t' == .ang16) = false := by
    have := h'.int
    cases t' <;> simp_all [Fmt.isInt]
  simp [elemCvt, hang, h.int, h'.int, h'.width, h'.intLo_eq, h'.intHi_eq, h.intVal_eq ha]

theorem integersCompareAndShift : IntegersCompareAndShift := by
  refine ⟨?_, ?_⟩
  · rintro ⟨t, w, sg⟩ hrow a b
    have h : IsInt t w sg := intRows_isInt hrow
    intro t' w' iv ha hb
    have hbits : (t == .bits) = false := by
      have := h.int
      cases t <;> simp_all [Fmt.isInt]
    have eva : t.intVal a = iv a := h.intVal_eq ha
    have evb : t.intVal b = iv b := h.intVal_eq hb
    have heq : iv a = iv b → a = b := fun he => by
      have hmod : (a : ℤ) ≡ b [ZMOD 2 ^ w] := ((intOf_modEq w sg a).symm.trans (by rw [show intOf w sg a = intOf w sg b from he])).trans (intOf_modEq w sg b)
      have := (Int.natCast_modEq_iff (n := 2 ^ w)).1 (by exact_mod_cast hmod)
      exact Nat.ModEq.eq_of_lt_of_lt this ha hb
    refine ⟨?_, ?_, ?_, ?_, fun c _ => ?_, ?_, ?_⟩
    · refine (h.byClass_eq _ _).trans ?_
      rw [eva, evb]
      rcases lt_trichotomy (iv a) (iv b) with hlt | he | hgt
      · rw [if_pos hlt, if_neg hlt.le.not_gt]
      · rw [heq he]; simp
      · rw [if_neg hgt.le.not_gt, if_pos hgt]
    · refine (h.byClass_eq _ _).trans ?_
      rw [eva, evb]
      split <;> rfl
    · refine (h.byClass_eq _ _).trans ?_
      have habs : (if t.intVal a < 0 then -t.intVal a else t.intVal a) = |iv a| := by
        rw [eva]
        split
        · rw [abs_of_neg ‹_›]
        · rw [abs_of_nonneg (not_lt.1 ‹_›)]
      rw [habs, h.wrap_eq]
    · refine (h.byClass_eq _ _).trans ?_
      rw [eva, h.wrap_eq]
    · rw [elemCmp_of_int h.flt, eva, evb]
    · intro hsg
      obtain rfl : sg = true := hsg
      exact h.elemSar_signed hbits b
    · rintro ⟨tt, w2, sg2⟩ htgt _ mode
      have h2 : IsInt tt w2 sg2 := intRows_isInt htgt
      exact ⟨_, wrapInt_lt w2 _, elemCvt_integers h h2 mode ha, intOf_wrapInt_clampInt h2.pos _⟩
  · intro t ht a b ha hb
    have hbyte : elemSar t a b = (if 8 ≤ b then 0 else a / 2 ^ b, 0) := by
      simp only [List.mem_cons, List.not_mem_nil, or_false] at ht
      rcases ht with rfl | rfl <;> rfl
    rw [hbyte]
    split
    · rw [Nat.div_eq_of_lt (lt_of_lt_of_le ha (Nat.pow_le_pow_right (by norm_num) ‹_› : 2 ^ 8 ≤ 2 ^ b))]
    · rfl

end Sys2Proof.Numbers
end

section
/-! Conversions of elements (R127 to R131, R138, R142, R166). -/

namespace Sys2Proof.Numbers

open Sys2Proof Sys2Proof.Machine Sys2Proof.Claims

/-! ### Rounding to an integer (R131) -/

section
variable {neg up : Bool} {t : ℕ} {z : ℚ}

/-- A number of `t` units and a rest, with its sign. -/
def unitsAndRest (neg : Bool) (t : ℕ) (z : ℚ) : ℚ := if neg then -(t + z) else t + z

/-- `t` units, one more where `up` says so, with a sign. -/
def roundedUnits (neg : Bool) (t : ℕ) (up : Bool) : ℤ := if neg then -((t + up.toNat : ℕ) : ℤ) else ((t + up.toNat : ℕ) : ℤ)

theorem roundedUnits_cast (neg : Bool) (t : ℕ) (up : Bool) : (roundedUnits neg t up : ℚ) = unitsAndRest neg t up.toNat := by
  rw [roundedUnits, unitsAndRest]
  cases neg <;> simp

theorem roundsToInt_rne (h0 : 0 ≤ z) (h1 : z < 1) (hup : up = true ↔ 1 / 2 < z ∨ (z = 1 / 2 ∧ t % 2 = 1)) :
    roundsToInt .rne (unitsAndRest neg t z) (roundedUnits neg t up) := by
  have hd : |(roundedUnits neg t up : ℚ) - unitsAndRest neg t z| = |(up.toNat : ℚ) - z| := by
    rw [roundedUnits_cast, unitsAndRest, unitsAndRest]
    cases neg
    · simp
    · rw [abs_sub_comm (up.toNat : ℚ)]
      simp only [if_true]
      congr 1
      ring
  have heven : roundedUnits neg t up % 2 = 0 ↔ (t + up.toNat) % 2 = 0 := by
    rw [roundedUnits]
    split <;> omega
  rw [roundsToInt, hd, heven]
  cases up
  · have hno : ¬(1 / 2 < z ∨ (z = 1 / 2 ∧ t % 2 = 1)) := fun h => Bool.false_ne_true (hup.2 h)
    simp only [Bool.toNat_false, Nat.cast_zero, zero_sub, abs_neg, abs_of_nonneg h0]
    refine ⟨not_lt.1 fun h => hno (.inl h), fun h => ?_⟩
    have : ¬t % 2 = 1 := fun h' => hno (.inr ⟨h, h'⟩)
    omega
  · have habs : |((true.toNat : ℕ) : ℚ) - z| = 1 - z := by
      simp only [Bool.toNat_true, Nat.cast_one]
      exact abs_of_pos (by linarith)
    rw [habs]
    rcases hup.1 rfl with hz | ⟨hz, hodd⟩
    · exact ⟨by linarith, fun he => by linarith⟩
    · simp only [Bool.toNat_true]
      exact ⟨by linarith, fun _ => by omega⟩

theorem roundsToInt_rtz (h0 : 0 ≤ z) (h1 : z < 1) : roundsToInt .rtz (unitsAndRest neg t z) (roundedUnits neg t false) := by
  have ht : (0 : ℚ) ≤ t := by positivity
  have habs : |(t : ℚ) + z| = t + z := abs_of_nonneg (by linarith)
  rw [roundsToInt, roundedUnits_cast, unitsAndRest, unitsAndRest]
  cases neg
  · simp only [Bool.toNat_false, Nat.cast_zero, add_zero, Bool.false_eq_true, if_false, Nat.abs_cast, habs]
    exact ⟨by linarith, by linarith, by positivity⟩
  · simp only [Bool.toNat_false, Nat.cast_zero, add_zero, if_true, abs_neg, Nat.abs_cast, habs, neg_mul_neg]
    exact ⟨by linarith, by linarith, by positivity⟩

theorem roundsToInt_rdn (h0 : 0 ≤ z) (h1 : z < 1) (hup : up = true ↔ neg = true ∧ z ≠ 0) :
    roundsToInt .rdn (unitsAndRest neg t z) (roundedUnits neg t up) := by
  rw [roundsToInt, roundedUnits_cast, unitsAndRest, unitsAndRest]
  cases neg
  · obtain rfl : up = false := by simpa using hup
    simp only [Bool.toNat_false, Nat.cast_zero, add_zero, Bool.false_eq_true, if_false]
    exact ⟨by linarith, by linarith⟩
  · cases up
    · have hz : z = 0 := by simpa using hup
      simp [hz]
    · have hz : 0 < z := lt_of_le_of_ne h0 (hup.1 rfl).2.symm
      simp only [Bool.toNat_true, Nat.cast_one, if_true]
      exact ⟨by linarith, by linarith⟩

theorem roundsToInt_rup (h0 : 0 ≤ z) (h1 : z < 1) (hup : up = true ↔ neg = false ∧ z ≠ 0) :
    roundsToInt .rup (unitsAndRest neg t z) (roundedUnits neg t up) := by
  rw [roundsToInt, roundedUnits_cast, unitsAndRest, unitsAndRest]
  cases neg
  · cases up
    · have hz : z = 0 := by simpa using hup
      simp [hz]
    · have hz : 0 < z := lt_of_le_of_ne h0 (hup.1 rfl).2.symm
      simp only [Bool.toNat_true, Nat.cast_one, Bool.false_eq_true, if_false]
      exact ⟨by linarith, by linarith⟩
  · obtain rfl : up = false := by simpa using hup
    simp only [Bool.toNat_false, Nat.cast_zero, add_zero, if_true]
    exact ⟨by linarith, by linarith⟩

theorem not_goesUp_zero (mode : RMode) (neg : Bool) (t : ℕ) : ¬goesUp mode neg t 0 := by
  cases mode <;> simp [goesUp]
  omega

/-- A number of `t` whole units and a rest rounds to `t` units or one more, as the mode says, and is exact where there is no rest. -/
theorem roundsToInt_of_goesUp {mode : RMode} (hm : mode ∈ plainModes) (h0 : 0 ≤ z) (h1 : z < 1)
    (hup : up = true ↔ goesUp mode neg t z) : roundsToInt mode (unitsAndRest neg t z) (roundedUnits neg t up) ∧
      (z = 0 ↔ (roundedUnits neg t up : ℚ) = unitsAndRest neg t z) := by
  constructor
  · simp only [plainModes, List.mem_cons, List.not_mem_nil, or_false] at hm
    rcases hm with rfl | rfl | rfl | rfl
    · have hhalf : (z : ℝ) = 1 / 2 ↔ z = 1 / 2 := by
        rw [show (1 / 2 : ℝ) = ((1 / 2 : ℚ) : ℝ) by norm_num, Rat.cast_inj]
      have hlt : (1 / 2 : ℝ) < z ↔ 1 / 2 < z := by
        rw [show (1 / 2 : ℝ) = ((1 / 2 : ℚ) : ℝ) by norm_num, Rat.cast_lt]
      rw [goesUp, hhalf, hlt] at hup
      exact roundsToInt_rne h0 h1 hup
    · obtain rfl : up = false := by simpa [goesUp] using hup
      exact roundsToInt_rtz h0 h1
    · rw [goesUp, Rat.cast_ne_zero] at hup
      exact roundsToInt_rdn h0 h1 hup
    · rw [goesUp, Rat.cast_ne_zero] at hup
      exact roundsToInt_rup h0 h1 hup
  · have hexact : (roundedUnits neg t up : ℚ) = unitsAndRest neg t z ↔ (up.toNat : ℚ) = z := by
      rw [roundedUnits_cast, unitsAndRest, unitsAndRest]
      cases neg <;> simp
    rw [hexact]
    cases up
    · simp [eq_comm]
    · have hz : z ≠ 0 := fun hz => not_goesUp_zero mode neg t (by simpa [hz] using hup.1 rfl)
      simp [hz, h1.ne']

end

/-- The model's rounding to an integer, and that it says whether the value is one. -/
theorem roundToInt_rounds {mode : RMode} (hm : mode ∈ plainModes) (neg : Bool) (m : ℕ) (e : ℤ) :
    roundsToInt mode (finRat neg m e) (roundToInt mode neg m e).1 ∧
      ((roundToInt mode neg m e).2 = false ↔ ((roundToInt mode neg m e).1 : ℚ) = finRat neg m e) := by
  set k := (-e).toNat with hk
  set n := m * 2 ^ e.toNat with hn
  have hp : (0 : ℚ) < ((2 ^ k : ℕ) : ℚ) := by positivity
  have hval : (m : ℚ) * 2 ^ e = (n / 2 ^ k : ℕ) + ((n % 2 ^ k : ℕ) : ℚ) / (2 ^ k : ℕ) := by
    have hdiv : ((n / 2 ^ k : ℕ) : ℚ) + ((n % 2 ^ k : ℕ) : ℚ) / (2 ^ k : ℕ) = n / (2 ^ k : ℕ) := by
      rw [eq_div_iff hp.ne', add_mul, div_mul_cancel₀ _ hp.ne']
      exact_mod_cast Nat.div_add_mod' n (2 ^ k)
    have hz : (2 : ℚ) ^ e = 2 ^ e.toNat / 2 ^ k := by
      rw [← zpow_natCast, ← zpow_natCast, ← zpow_sub₀ (by norm_num)]
      congr 1; omega
    rw [hdiv, hz, hn]
    push_cast
    ring
  have h0 : 0 ≤ ((n % 2 ^ k : ℕ) : ℚ) / (2 ^ k : ℕ) := by positivity
  have h1 : ((n % 2 ^ k : ℕ) : ℚ) / (2 ^ k : ℕ) < 1 := by
    rw [div_lt_one hp]
    exact_mod_cast Nat.mod_lt n (by positivity : 0 < 2 ^ k)
  have hx : finRat neg m e = unitsAndRest neg (n / 2 ^ k) (((n % 2 ^ k : ℕ) : ℚ) / (2 ^ k : ℕ)) := by rw [finRat, unitsAndRest, hval]
  have hup : roundsUp mode neg (n / 2 ^ k) (n % 2 ^ k) k = true ↔
      goesUp mode neg (n / 2 ^ k) ((((n % 2 ^ k : ℕ) : ℚ) / (2 ^ k : ℕ) : ℚ) : ℝ) := by
    rw [roundsUp_iff]; push_cast; rfl
  obtain ⟨hrounds, hexact⟩ := roundsToInt_of_goesUp hm h0 h1 hup
  have hdef : roundToInt mode neg m e = (roundedUnits neg (n / 2 ^ k) (roundsUp mode neg (n / 2 ^ k) (n % 2 ^ k) k), n % 2 ^ k != 0) := rfl
  rw [hdef, hx]
  refine ⟨hrounds, ?_⟩
  rw [← hexact, div_eq_zero_iff, or_iff_left hp.ne', Nat.cast_eq_zero]
  simp

/-! ### Values that a format holds exactly -/

section
variable {l : Layout} {f : FltFmt}

/-- A multiple of the unit at its magnitude is one of the format's values. -/
theorem restUnits_eq_zero_of_short {m : ℕ} (hm : m ≠ 0) (hlt : m < 2 ^ (l.fb + 1)) {e : ℤ} (he : leastExp l ≤ e) :
    restUnits l (m * 2 ^ e) = 0 := by
  have hlog : (m.log2 : ℤ) ≤ l.fb := by
    have := (Nat.log2_lt hm).2 hlt
    omega
  have hexp : unitExp l (m * 2 ^ e) ≤ e := by
    rw [unitExp, log_natCast_mul_zpow hm]
    rw [leastExp] at he
    rcases max_cases ((m.log2 : ℤ) + e) (1 - (l.bias : ℤ)) with ⟨h, _⟩ | ⟨h, _⟩ <;> rw [h] <;> omega
  have hunits : (m : ℝ) * 2 ^ e / 2 ^ unitExp l (m * 2 ^ e) = ((m * 2 ^ (e - unitExp l (m * 2 ^ e)).toNat : ℕ) : ℝ) := by
    rw [mul_div_assoc, ← zpow_sub₀ (by norm_num)]
    push_cast
    rw [← zpow_natCast]
    congr 2
    omega
  rw [restUnits, wholeUnits, hunits, Nat.floor_natCast, sub_self]

/-- A value that the format holds is delivered exactly, whatever the mode. -/
theorem Describes.roundFin_exact (h : Describes l f) (mode : RMode) (neg : Bool) {m : ℕ} (hm : m ≠ 0) (hlt : m < 2 ^ (l.fb + 1)) {e : ℤ}
    (he : leastExp l ≤ e) (htop : (m : ℚ) * 2 ^ e ≤ l.top) :
    ∃ c, f.roundFin mode neg m e = (l.signed neg c, 0) ∧ c ≤ l.largest ∧ magnitude l c = m * 2 ^ e := by
  have hy : (0 : ℝ) < m * 2 ^ e := by positivity
  have hrest := restUnits_eq_zero_of_short hm hlt he
  have hmag : magnitude l (belowCode l (m * 2 ^ e)) = m * 2 ^ e := by
    have := (restUnits_eq_zero_iff hy).1 hrest
    have h2 : ((magnitude l (belowCode l (m * 2 ^ e)) : ℚ) : ℝ) = ((m * 2 ^ e : ℚ) : ℝ) := by push_cast; exact this
    exact_mod_cast h2
  have hle : belowCode l (m * 2 ^ e) ≤ l.largest := by
    rw [h.top_eq, ← hmag, (magnitude_strictMono l).le_iff_le] at htop
    exact htop
  refine ⟨belowCode l (m * 2 ^ e), ?_, hle, hmag⟩
  rw [h.roundFin_eq mode neg hm e, roundReal, hrest]
  simp [codeWithFlags, not_goesUp_zero, not_lt.2 hle]

end

/-! ### VCVT by the classes of its formats (R166) -/

section
variable {t t' : Fmt} {f f' : FltFmt} {l l' : Layout} {w : ℕ} {sg : Bool}

theorem not_int_of_flt (h : t.flt = some f) : t.isInt = false ∧ (t == .ang16) = false := by
  cases t <;> simp_all [Fmt.flt, Fmt.isInt]

theorem IsInt.not_ang16 (h : IsInt t w sg) : (t == .ang16) = false := by
  have := h.int
  cases t <;> simp_all [Fmt.isInt]

theorem elemCvt_floats (h : t.flt = some f) (h' : t'.flt = some f') (mode : RMode) (v : ℕ) :
    elemCvt t t' mode v = f'.round mode (f.decode v) := by
  obtain ⟨hint, hang⟩ := not_int_of_flt h
  obtain ⟨hint', hang'⟩ := not_int_of_flt h'
  simp [elemCvt, hint, hang, hint', hang', Fmt.fval, Fmt.rnd, h, h']

theorem elemCvt_int_float (h : IsInt t w sg) (h' : t'.flt = some f') (mode : RMode) {v : ℕ} (hv : v < 2 ^ w) :
    elemCvt t t' mode v = f'.round mode (valOfInt (intOf w sg v)) := by
  obtain ⟨hint', hang'⟩ := not_int_of_flt h'
  simp [elemCvt, h.int, h.not_ang16, hint', hang', Fmt.rnd, h', h.intVal_eq hv]

theorem elemCvt_float_int (h : t.flt = some f) (h' : IsInt t' w sg) (mode : RMode) (v : ℕ) :
    elemCvt t t' mode v = t'.roundInt mode (f.decode v) := by
  obtain ⟨hint, hang⟩ := not_int_of_flt h
  simp [elemCvt, hint, hang, h'.int, h'.not_ang16, Fmt.fval, h]

/-- An infinity converts to the infinity of the target, or saturates there. -/
theorem Describes.round_infinity (h : Describes l f) (mode : RMode) (n : Bool) : f.round mode (.inf n) =
    l.inf.elim (l.signed n l.largest, fOF ||| fNX) fun i => (l.signed n i, 0) := by
  simp only [FltFmt.round, h.infCode, h.maxCode, h.signed_eq]
  cases l.inf <;> rfl

/-- A float converts to a float: the exact value rounded once. -/
theorem Describes.elemCvt_floats_rounds (h : Describes l f) (h' : Describes l' f') (hf : t.flt = some f) (hf' : t'.flt = some f') {mode : RMode}
    (hm : mode ∈ plainModes) (v : ℕ) :
    (l.finite v → l.val v ≠ 0 → l'.rounds mode ((l.val v : ℚ) : ℝ) (elemCvt t t' mode v)) ∧
    (l.finite v → l.val v = 0 → elemCvt t t' mode v = (l'.signed (l.negative v) 0, 0)) ∧
    (l.isNan v → elemCvt t t' mode v = (l'.nan, 0)) ∧
    (l.infinite v → elemCvt t t' mode v = f'.round mode (.inf (l.negative v))) := by
  rw [elemCvt_floats hf hf']
  refine ⟨fun hv hx => h'.round_isVal hm (h.decode_isVal hv) hx, fun hv hx => ?_, fun hn => ?_, fun hi => ?_⟩
  · obtain ⟨m, e, hd, hmz, _⟩ := h.decode_finite hv
    obtain rfl := hmz.2 (val_eq_zero.1 hx)
    rw [hd, h'.roundFin_zero]
  · rw [h.decode_nan hn, h'.round_nan]
  · rw [h.decode_infinite hi]

/-- The value of an integer converts to a float: rounded once, zero to +0. -/
theorem Describes.round_valOfInt (h : Describes l f) {mode : RMode} (hm : mode ∈ plainModes) (n : ℤ) :
    (n ≠ 0 → l.rounds mode (n : ℝ) (f.round mode (valOfInt n))) ∧ (n = 0 → f.round mode (valOfInt n) = (0, 0)) := by
  refine ⟨fun hn => ?_, fun hn => ?_⟩
  · have := h.round_isVal hm (valOfInt_isVal n) (by exact_mod_cast hn)
    rwa [Rat.cast_intCast] at this
  · subst hn
    exact h.roundFin_zero mode false 0

/-- A float converts to an integer format: rounded to an integer and clamped (R131, log entry 89). -/
theorem IsInt.roundInt_fin (h : IsInt t w sg) {mode : RMode} (hm : mode ∈ plainModes) (neg : Bool) (m : ℕ) (e : ℤ) :
    ∃ n : ℤ, roundsToInt mode (finRat neg m e) n ∧ (t.roundInt mode (.fin neg m e)).1 < 2 ^ w ∧
      intOf w sg (t.roundInt mode (.fin neg m e)).1 = max (intBounds w sg).1 (min (intBounds w sg).2 n) ∧
      (n < (intBounds w sg).1 ∨ (intBounds w sg).2 < n → (t.roundInt mode (.fin neg m e)).2 = fNV) ∧
      ((intBounds w sg).1 ≤ n → n ≤ (intBounds w sg).2 →
        ((n : ℚ) = finRat neg m e → (t.roundInt mode (.fin neg m e)).2 = 0) ∧
        ((n : ℚ) ≠ finRat neg m e → (t.roundInt mode (.fin neg m e)).2 = fNX)) := by
  obtain ⟨hr, hexact⟩ := roundToInt_rounds hm neg m e
  have hle := intBounds_le (sg := sg) h.pos
  refine ⟨_, hr, ?_⟩
  simp only [Fmt.roundInt, h.intLo_eq, h.intHi_eq, h.width]
  generalize (roundToInt mode neg m e).1 = n at *
  generalize (roundToInt mode neg m e).2 = inexact at *
  by_cases hlo : n < (intBounds w sg).1
  · rw [if_pos hlo, intOf_wrapInt h.pos le_rfl hle]
    exact ⟨wrapInt_lt w _, by omega, fun _ => rfl, fun h' => absurd hlo (not_lt.2 h')⟩
  · by_cases hhi : (intBounds w sg).2 < n
    · rw [if_neg hlo, if_pos hhi, intOf_wrapInt h.pos hle le_rfl]
      exact ⟨wrapInt_lt w _, by omega, fun _ => rfl, fun _ h' => absurd hhi (not_lt.2 h')⟩
    · rw [if_neg hlo, if_neg hhi, intOf_wrapInt h.pos (not_lt.1 hlo) (not_lt.1 hhi)]
      refine ⟨wrapInt_lt w _, by omega, fun h' => absurd h' (by omega), fun _ _ => ⟨fun he => ?_, fun he => ?_⟩⟩
      · simp [hexact.2 he]
      · have : inexact = true := by
          rw [← Bool.not_eq_false]
          exact fun h' => he (hexact.1 h')
        simp [this]

end

/-- fp32 to ang16: rounded to 1/65,536 of a turn and taken modulo a turn (R138). -/
theorem angOfVal_fin {mode : RMode} (hm : mode ∈ plainModes) (neg : Bool) (m : ℕ) (e : ℤ) :
    ∃ n : ℤ, roundsToInt mode (finRat neg m e * 65536) n ∧
      angOfVal mode (.fin neg m e) = ((n % 65536).toNat, if (n : ℚ) = finRat neg m e * 65536 then 0 else fNX) := by
  obtain ⟨hr, hexact⟩ := roundToInt_rounds hm neg m (e + 16)
  have hscale : finRat neg m (e + 16) = finRat neg m e * 65536 := by
    rw [finRat, finRat, zpow_add₀ (by norm_num)]
    split <;> norm_num <;> ring
  rw [hscale] at hr hexact
  refine ⟨_, hr, ?_⟩
  simp only [angOfVal, wrapInt]
  refine Prod.ext rfl ?_
  simp only [← hexact]
  cases (roundToInt mode neg m (e + 16)).2 <;> simp

/-- fp32's row of Table 8-1. -/
theorem arithRows_fp32 {row : Fmt × Layout} (hrow : row ∈ arithRows) (h : row.1 = .fp32) : Describes row.2 fp32F := by
  obtain ⟨f, hf, hd⟩ := arithRows_describes hrow
  rw [h] at hf
  obtain rfl : fp32F = f := Option.some.inj hf
  exact hd

section
variable {l : Layout} (h : Describes l fp32F)
include h

theorem one_le_top_fp32 : 1 ≤ l.top := by
  have hfb : l.fb = 23 := h.fbits.symm
  have hbias : l.bias = 127 := h.bias.symm
  have hlargest : l.largest = 0x7F7FFFFF := h.maxCode.symm
  have hone : magnitude l 0x3F800000 = 1 := by
    rw [magnitude, unitsOfCode, leastExp, hfb, hbias]
    norm_num
  rw [h.top_eq, ← hone]
  exact (magnitude_strictMono l).monotone (by rw [hlargest]; norm_num)

/-- An ang16 code as fp32 is the fraction of a turn that it stands for (R138). -/
theorem valOfAng_exact (mode : RMode) {v : ℕ} (hv : v < 65536) :
    ∃ z, fp32F.round mode (valOfAng v) = (z, 0) ∧ l.finite z ∧ l.val z = (v : ℚ) / 65536 := by
  by_cases h0 : v = 0
  · subst h0
    refine ⟨_, h.roundFin_zero mode false (-16), h.finite_signed (Nat.zero_le _), ?_⟩
    rw [h.val_signed (Nat.zero_le _)]
    simp
  · have hfb : l.fb = 23 := h.fbits.symm
    have hbias : l.bias = 127 := h.bias.symm
    have hscale : (v : ℚ) * 2 ^ (-16 : ℤ) = v / 65536 := by norm_num [div_eq_mul_inv]
    have htop : (v : ℚ) * 2 ^ (-16 : ℤ) ≤ l.top := by
      have hv' : (v : ℚ) ≤ 65536 := by exact_mod_cast hv.le
      have := one_le_top_fp32 h
      rw [hscale]
      linarith
    have hshort : v < 2 ^ (l.fb + 1) := by rw [hfb]; omega
    have hleast : leastExp l ≤ -16 := by rw [leastExp, hfb, hbias]; norm_num
    obtain ⟨c, hc, hle, hmag⟩ := h.roundFin_exact mode false h0 hshort hleast htop
    refine ⟨_, hc, h.finite_signed hle, ?_⟩
    rw [h.val_signed hle, hmag, hscale]
    rfl

end

theorem elemCvt_fp32_ang16 (mode : RMode) (v : ℕ) : elemCvt .fp32 .ang16 mode v = angOfVal mode (fp32F.decode v) := by
  simp [elemCvt, Fmt.isInt, Fmt.fval, Fmt.flt]

theorem elemCvt_ang16_fp32 (mode : RMode) (v : ℕ) : elemCvt .ang16 .fp32 mode v = fp32F.round mode (valOfAng v) := by
  simp [elemCvt, Fmt.isInt, Fmt.rnd, Fmt.flt]

theorem conversionsRound : ConversionsRound := by
  refine ⟨?_, ?_, ?_, ?_⟩
  · rintro ⟨t, l⟩ hrow ⟨t', l'⟩ hrow' _ mode hm v
    obtain ⟨f, hf, h⟩ := floatRows_describes _ hrow
    obtain ⟨f', hf', h'⟩ := floatRows_describes _ hrow'
    obtain ⟨hround, hzero, hnan, hinf⟩ := h.elemCvt_floats_rounds h' hf hf' hm v
    refine ⟨hround, hzero, hnan, fun hi => (hinf hi).trans ?_⟩
    rw [h'.round_infinity]
    dsimp only
    cases l'.inf <;> rfl
  · rintro ⟨t, w, sg⟩ hrow ⟨t', l'⟩ hrow' _ mode hm v hv
    have h : IsInt t w sg := intRows_isInt hrow
    obtain ⟨f', hf', h'⟩ := floatRows_describes _ hrow'
    intro n
    rw [elemCvt_int_float h hf' mode hv]
    exact h'.round_valOfInt hm n
  · rintro ⟨t, l⟩ hrow ⟨t', w, sg⟩ hrow' _ mode hm v
    obtain ⟨f, hf, h⟩ := floatRows_describes _ hrow
    have h' : IsInt t' w sg := intRows_isInt hrow'
    dsimp only at hf h ⊢
    rw [elemCvt_float_int hf h']
    refine ⟨fun hv => ?_, fun hn => ?_, fun hi => ?_⟩
    · obtain ⟨m, e, hd, _, hmag⟩ := h.decode_finite hv
      rw [hd, val_eq_finRat hmag]
      exact h'.roundInt_fin hm _ m e
    · rw [h.decode_nan hn]; rfl
    · have hle := intBounds_le (sg := sg) h'.pos
      rw [h.decode_infinite hi]
      simp only [Fmt.roundInt, h'.intLo_eq, h'.intHi_eq, h'.width]
      refine ⟨wrapInt_lt w _, intOf_wrapInt h'.pos ?_ ?_, trivial⟩ <;> split <;> omega
  · rintro ⟨t, l⟩ hrow ht mode hm v
    have h : Describes l fp32F := arithRows_fp32 hrow ht
    dsimp only
    rw [elemCvt_fp32_ang16, elemCvt_ang16_fp32]
    refine ⟨fun hv => ?_, fun hs => ?_, fun hv => valOfAng_exact h mode hv⟩
    · obtain ⟨m, e, hd, _, hmag⟩ := h.decode_finite hv
      rw [hd, val_eq_finRat hmag]
      exact angOfVal_fin hm _ m e
    · rcases hs with hn | hi
      · rw [h.decode_nan hn]; rfl
      · rw [h.decode_infinite hi]; rfl

theorem stochasticConversionsRound : StochasticConversionsRound := by
  rintro ⟨t', l'⟩ hrow' z
  obtain ⟨f', hf', h'⟩ := floatRows_describes _ hrow'
  refine ⟨?_, ?_⟩
  · rintro ⟨t, l⟩ hrow _ v
    obtain ⟨f, hf, h⟩ := floatRows_describes _ hrow
    dsimp only at hf h hf' h' ⊢
    rw [elemCvt_floats hf hf', elemCvt_floats hf hf']
    refine ⟨fun hv hx => h'.stochastic_isVal z (h.decode_isVal hv) hx, fun hs => ?_⟩
    rcases hs with hn | hi | ⟨hv, hx⟩
    · rw [h.decode_nan hn]; rfl
    · rw [h.decode_infinite hi]; rfl
    · obtain ⟨m, e, hd, hmz, _⟩ := h.decode_finite hv
      obtain rfl := hmz.2 (val_eq_zero.1 hx)
      rw [hd, h'.roundFin_zero, h'.roundFin_zero]
  · rintro ⟨t, w, sg⟩ hrow _ v hv n hn
    have h : IsInt t w sg := intRows_isInt hrow
    dsimp only at hf' h' ⊢
    rw [elemCvt_int_float h hf' _ hv]
    exact h'.stochastic_isVal z (valOfInt_isVal _) (by exact_mod_cast hn)

end Sys2Proof.Numbers
end

section
/-! Integer square roots, reciprocals and roots, and the exact cases of the exponential and the logarithm (R158, Table 10-4). -/

namespace Sys2Proof.Numbers

open Sys2Proof Sys2Proof.Machine Sys2Proof.Claims

/-! ### The integer square root -/

/-- Newton's step from at least the root does not fall below it. -/
theorem sqrt_le_newton {n r : ℕ} (hr : Nat.sqrt n ≤ r) : Nat.sqrt n ≤ (r + n / r) / 2 := by
  rcases Nat.eq_zero_or_pos r with rfl | hpos
  · omega
  · have hsq : Nat.sqrt n * Nat.sqrt n ≤ n := Nat.sqrt_le n
    have hdiv : 2 * Nat.sqrt n - r ≤ n / r := by
      rw [Nat.le_div_iff_mul_le hpos]
      refine le_trans ?_ hsq
      obtain ⟨d, rfl⟩ := Nat.exists_eq_add_of_le hr
      generalize Nat.sqrt n = s
      rcases le_total d s with h | h
      · obtain ⟨c, rfl⟩ := Nat.exists_eq_add_of_le h
        rw [show 2 * (d + c) - (d + c + d) = c by omega]
        nlinarith
      · rw [show 2 * s - (s + d) = 0 by omega]
        simp
    omega

/-- From above the root, Newton's step at least halves the distance. -/
theorem newton_le {n r : ℕ} (hr : Nat.sqrt n < r) : (r + n / r) / 2 ≤ (r + Nat.sqrt n) / 2 := by
  have hdiv : n / r ≤ Nat.sqrt n := by
    rw [← Nat.lt_succ_iff, Nat.div_lt_iff_lt_mul (by omega)]
    exact lt_of_lt_of_le (Nat.lt_succ_sqrt n) (Nat.mul_le_mul_left _ hr)
  omega

/-- Enough of Newton's steps from above reach the root. -/
theorem isqrtGo_eq_sqrt (n : ℕ) : ∀ {fuel r : ℕ}, Nat.sqrt n ≤ r → r - Nat.sqrt n < 2 ^ fuel → isqrtGo n fuel r = Nat.sqrt n
  | 0, r, hr, hd => by
    simp only [pow_zero] at hd
    rw [isqrtGo]
    omega
  | fuel + 1, r, hr, hd => by
    rw [isqrtGo]
    rw [pow_succ] at hd
    rcases hr.eq_or_lt with heq | hlt
    · have := sqrt_le_newton hr
      rw [if_neg (by omega)]
      exact heq.symm
    · have := newton_le hlt
      rw [if_pos (by omega)]
      exact isqrtGo_eq_sqrt n (sqrt_le_newton hr) (by omega)

/-- The model's integer square root is the square root rounded down. -/
theorem isqrt_eq_sqrt (n : ℕ) : isqrt n = Nat.sqrt n := by
  rw [isqrt]
  by_cases h0 : n = 0
  · subst h0; rfl
  · rw [if_neg (by simpa using h0)]
    have hlt : Nat.sqrt n < 2 ^ (n.log2 / 2 + 1) := by
      rw [Nat.sqrt_lt, ← pow_add]
      exact lt_of_lt_of_le Nat.lt_log2_self (Nat.pow_le_pow_right (by norm_num) (by omega))
    refine isqrtGo_eq_sqrt n hlt.le (lt_of_le_of_lt (Nat.sub_le _ _) ?_)
    exact Nat.pow_lt_pow_right (by norm_num) (by omega)

/-! ### Magnitudes known up to their last place -/

/-- `m` is `y` exactly, or `y` lies strictly between `m` and `m + 1`. -/
def Within (m : ℕ) (exact : Bool) (y : ℝ) : Prop := if exact then y = m else m < y ∧ y < m + 1

theorem within_div (a : ℕ) {b : ℕ} (hb : 0 < b) : Within (a / b) (a % b == 0) ((a : ℝ) / b) := by
  have hb' : (0 : ℝ) < b := by exact_mod_cast hb
  have hmod : (a : ℝ) = b * (a / b : ℕ) + (a % b : ℕ) := by exact_mod_cast (Nat.div_add_mod a b).symm
  rw [Within]
  by_cases h0 : a % b = 0
  · rw [if_pos (by simp [h0]), div_eq_iff hb'.ne', mul_comm]
    conv_lhs => rw [hmod, h0]
    simp
  · rw [if_neg (by simp [h0]), lt_div_iff₀ hb', div_lt_iff₀ hb']
    have hpos : (0 : ℝ) < (a % b : ℕ) := by exact_mod_cast Nat.pos_of_ne_zero h0
    have hlt : ((a % b : ℕ) : ℝ) < b := by exact_mod_cast Nat.mod_lt a hb
    constructor <;> nlinarith

/-- The root of y lies between the integer root of y rounded down and the next integer. -/
theorem within_sqrt {n : ℕ} {y : ℝ} (hlo : n ≤ y) (hhi : y < n + 1) {exact : Bool}
    (hexact : exact = true ↔ ((Nat.sqrt n * Nat.sqrt n : ℕ) : ℝ) = y) : Within (Nat.sqrt n) exact (Real.sqrt y) := by
  have hy : 0 ≤ y := le_trans (by positivity) hlo
  have hsq : ((Nat.sqrt n * Nat.sqrt n : ℕ) : ℝ) ≤ y := le_trans (by exact_mod_cast Nat.sqrt_le n) hlo
  have hsucc : y < ((Nat.sqrt n : ℝ) + 1) ^ 2 := by
    refine lt_of_lt_of_le hhi ?_
    rw [sq]
    exact_mod_cast Nat.lt_succ_sqrt n
  rw [Within]
  split
  · rw [← hexact.1 ‹_›, Nat.cast_mul, Real.sqrt_mul_self (by positivity)]
  · constructor
    · rw [Real.lt_sqrt (by positivity), sq]
      exact lt_of_le_of_ne (by exact_mod_cast hsq) fun h => ‹¬exact = true› (hexact.2 (by exact_mod_cast h))
    · rw [Real.sqrt_lt hy (by positivity)]
      exact hsucc

section
variable {l : Layout} {f : FltFmt}

/-- A value within the last place of `m`, in units of 2^e, rounds as the real number that it is. -/
theorem Describes.rounds_within (h : Describes l f) (neg : Bool) {m : ℕ} {e : ℤ} {y z : ℝ} (hm : 2 ^ (l.fb + 1) ≤ m) {exact : Bool}
    (hy : Within m exact y) (hz : z = y * 2 ^ e) : l.rounds .rne (withSign neg z) (f.round .rne (stickyVal neg m e exact)) := by
  have hpow : (0 : ℝ) < 2 ^ e := by positivity
  refine h.rounds_sticky neg hm exact ?_
  rw [Within] at hy
  rw [hz]
  split
  · rw [if_pos ‹_›] at hy
    rw [hy]
  · rw [if_neg ‹_›] at hy
    exact ⟨mul_lt_mul_of_pos_right hy.1 hpow, mul_lt_mul_of_pos_right hy.2 hpow⟩

/-- R158: a reciprocal is 1/x correctly rounded. -/
theorem Describes.rounds_rcpVal (h : Describes l f) (hfb : l.fb ≤ 62) (neg : Bool) {m : ℕ} (hm : m ≠ 0) (e : ℤ) :
    ∃ v, rcpVal (.fin neg m e) = (v, 0) ∧ l.rounds .rne (withSign neg (1 / (m * 2 ^ e))) (f.round .rne v) := by
  obtain ⟨k, hk⟩ : ∃ k, k = m.log2 + 64 := ⟨_, rfl⟩
  have hdef : rcpVal (.fin neg m e) = (stickyVal neg (2 ^ k / m) (-e - (k : ℤ)) (2 ^ k % m == 0), 0) := by
    simp [rcpVal, hm, hk]
  refine ⟨_, hdef, h.rounds_within neg ?_ (within_div (2 ^ k) (Nat.pos_of_ne_zero hm)) ?_⟩
  · rw [Nat.le_div_iff_mul_le (Nat.pos_of_ne_zero hm)]
    calc 2 ^ (l.fb + 1) * m ≤ 2 ^ (l.fb + 1) * 2 ^ (m.log2 + 1) := Nat.mul_le_mul_left _ Nat.lt_log2_self.le
      _ ≤ 2 ^ k := by
        rw [← pow_add]
        exact Nat.pow_le_pow_right (by norm_num) (by omega)
  · rw [zpow_sub₀ (by norm_num), zpow_neg, zpow_natCast]
    have hm' : (m : ℝ) ≠ 0 := by exact_mod_cast hm
    push_cast
    field_simp

/-! ### Square roots -/

theorem evenExp_spec {m : ℕ} (hm : m ≠ 0) (e : ℤ) :
    (evenExp m e).1 ≠ 0 ∧ ((evenExp m e).1 : ℝ) * 2 ^ (2 * ((evenExp m e).2 / 2)) = m * 2 ^ e := by
  rw [evenExp]
  split
  · have he : 2 * (e / 2) = e := by
      have : e % 2 = 0 := eq_of_beq ‹_›
      omega
    exact ⟨hm, by rw [he]⟩
  · have he : 2 * ((e - 1) / 2) = e - 1 := by
      have : ¬e % 2 = 0 := fun he => ‹¬_› (beq_iff_eq.2 he)
      omega
    refine ⟨by simpa using hm, ?_⟩
    rw [he, zpow_sub₀ (by norm_num)]
    push_cast
    ring

theorem sqrt_mul_two_zpow {y : ℝ} (hy : 0 ≤ y) (k : ℤ) : Real.sqrt (y * 2 ^ (2 * k)) = Real.sqrt y * 2 ^ k := by
  rw [Real.sqrt_mul hy, mul_comm 2 k, zpow_mul, zpow_ofNat, Real.sqrt_sq (by positivity)]

/-- A number with at least twice the bits has a root with all of them. -/
theorem two_pow_le_sqrt {k n : ℕ} (h : 2 ^ (2 * k) ≤ n) : 2 ^ k ≤ Nat.sqrt n := by
  rw [Nat.le_sqrt, ← pow_add, ← two_mul]
  exact h

/-- R158: a square root is √x correctly rounded. -/
theorem Describes.rounds_sqrtVal (h : Describes l f) (hfb : l.fb ≤ 62) {m : ℕ} (hm : m ≠ 0) (e : ℤ) :
    ∃ v, sqrtVal (.fin false m e) = (v, 0) ∧ l.rounds .rne (Real.sqrt (m * 2 ^ e)) (f.round .rne v) := by
  obtain ⟨hp, hval⟩ := evenExp_spec hm e
  set p := evenExp m e with hpdef
  have hdef : sqrtVal (.fin false m e) = (stickyVal false (Nat.sqrt (p.1 * 2 ^ 128)) (p.2 / 2 - 64)
      (Nat.sqrt (p.1 * 2 ^ 128) * Nat.sqrt (p.1 * 2 ^ 128) == p.1 * 2 ^ 128), 0) := by
    rw [← isqrt_eq_sqrt]
    simp [sqrtVal, hm, hpdef]
  have hwithin := within_sqrt (n := p.1 * 2 ^ 128) (y := ((p.1 * 2 ^ 128 : ℕ) : ℝ)) le_rfl (lt_add_one _)
    (exact := Nat.sqrt (p.1 * 2 ^ 128) * Nat.sqrt (p.1 * 2 ^ 128) == p.1 * 2 ^ 128) (by rw [Nat.cast_inj, beq_iff_eq])
  refine ⟨_, hdef, h.rounds_within false ?_ hwithin ?_⟩
  · refine le_trans (Nat.pow_le_pow_right (by norm_num) (by omega : l.fb + 1 ≤ 64)) (two_pow_le_sqrt ?_)
    exact Nat.le_mul_of_pos_left _ (Nat.pos_of_ne_zero hp)
  · rw [← hval, sqrt_mul_two_zpow (by positivity)]
    have h128 : ((p.1 * 2 ^ 128 : ℕ) : ℝ) = (p.1 : ℝ) * 2 ^ (2 * (64 : ℤ)) := by norm_num
    rw [h128, sqrt_mul_two_zpow (by positivity), mul_assoc, ← zpow_add₀ (by norm_num)]
    congr 2
    omega

/-- R158: a reciprocal square root is 1/√x correctly rounded. -/
theorem Describes.rounds_rsqVal (h : Describes l f) (hfb : l.fb ≤ 62) {m : ℕ} (hm : m ≠ 0) (e : ℤ) :
    ∃ v, rsqVal (.fin false m e) = (v, 0) ∧ l.rounds .rne (1 / Real.sqrt (m * 2 ^ e)) (f.round .rne v) := by
  obtain ⟨hp, hval⟩ := evenExp_spec hm e
  set p := evenExp m e with hpdef
  set j := p.1.log2 + 64 with hj
  have hp0 : 0 < p.1 := Nat.pos_of_ne_zero hp
  have hp0' : (0 : ℝ) < p.1 := by exact_mod_cast hp0
  have hdef : rsqVal (.fin false m e) = (stickyVal false (Nat.sqrt (2 ^ (2 * j) / p.1)) (-(p.2 / 2) - ((2 * j / 2 : ℕ) : ℤ))
      (Nat.sqrt (2 ^ (2 * j) / p.1) * Nat.sqrt (2 ^ (2 * j) / p.1) * p.1 == 2 ^ (2 * j)), 0) := by
    rw [← isqrt_eq_sqrt]
    simp [rsqVal, hm, hpdef, hj]
  have hlo : ((2 ^ (2 * j) / p.1 : ℕ) : ℝ) ≤ ((2 ^ (2 * j) : ℕ) : ℝ) / p.1 := Nat.cast_div_le
  have hhi : ((2 ^ (2 * j) : ℕ) : ℝ) / p.1 < ((2 ^ (2 * j) / p.1 : ℕ) : ℝ) + 1 := by
    rw [div_lt_iff₀ hp0']
    exact_mod_cast Nat.lt_mul_of_div_lt (Nat.lt_succ_self (2 ^ (2 * j) / p.1)) hp0
  have hwithin := within_sqrt hlo hhi
    (exact := Nat.sqrt (2 ^ (2 * j) / p.1) * Nat.sqrt (2 ^ (2 * j) / p.1) * p.1 == 2 ^ (2 * j)) (by
      rw [eq_div_iff hp0'.ne', beq_iff_eq]
      exact_mod_cast Iff.rfl)
  refine ⟨_, hdef, h.rounds_within false ?_ hwithin ?_⟩
  · refine le_trans (Nat.pow_le_pow_right (by norm_num) (by omega : l.fb + 1 ≤ 63)) (two_pow_le_sqrt ?_)
    rw [Nat.le_div_iff_mul_le hp0]
    calc 2 ^ (2 * 63) * p.1 ≤ 2 ^ (2 * 63) * 2 ^ (p.1.log2 + 1) := Nat.mul_le_mul_left _ Nat.lt_log2_self.le
      _ ≤ 2 ^ (2 * j) := by
        rw [← pow_add]
        exact Nat.pow_le_pow_right (by norm_num) (by omega)
  · have hsq : ((2 ^ (2 * j) : ℕ) : ℝ) / p.1 = 1 / (p.1 : ℝ) * 2 ^ (2 * (j : ℤ)) := by
      rw [mul_comm 2 (j : ℤ), zpow_mul, zpow_natCast, zpow_ofNat]
      push_cast
      ring
    rw [← hval, sqrt_mul_two_zpow hp0'.le, hsq, sqrt_mul_two_zpow (by positivity), Real.sqrt_div (by norm_num), Real.sqrt_one,
      show 2 * j / 2 = j by omega, zpow_sub₀ (by norm_num), zpow_neg]
    have hr : Real.sqrt p.1 ≠ 0 := (Real.sqrt_pos.2 hp0').ne'
    field_simp

/-! ### Values beyond a format (R127) -/

/-- To nearest, what lies below half of the smallest magnitude gives zero. -/
theorem roundReal_rne_tiny {y : ℝ} (hy : 0 < y) (hlt : y < 2 ^ (leastExp l - 1)) (neg : Bool) :
    roundReal l .rne neg y = (l.signed neg 0, fUF ||| fNX) := by
  have hlog : Int.log 2 y < leastExp l - 1 := (Int.lt_zpow_iff_log_lt (by norm_num) hy).1 (by exact_mod_cast hlt)
  have hexp : unitExp l y = leastExp l := by
    rw [leastExp] at hlog
    rw [unitExp, max_eq_right (by omega), leastExp]
  have hhalf : y / 2 ^ unitExp l y < 1 / 2 := by
    rw [hexp, div_lt_iff₀ (by positivity)]
    rw [zpow_sub₀ (by norm_num)] at hlt
    linarith
  have hwhole : wholeUnits l y = 0 := Nat.floor_eq_zero.2 (by linarith)
  have hrest : restUnits l y = y / 2 ^ unitExp l y := by rw [restUnits, hwhole, Nat.cast_zero, sub_zero]
  have hpos : 0 < restUnits l y := by rw [hrest]; positivity
  have htiny : y < 2 ^ (1 - (l.bias : ℤ)) :=
    hlt.trans (zpow_lt_zpow_right₀ (by norm_num) (by rw [leastExp]; omega))
  have hup : ¬goesUp .rne neg (wholeUnits l y) (restUnits l y) := by
    rw [← hrest] at hhalf
    rintro (h | ⟨h, _⟩) <;> linarith
  have hcode : belowCode l y = 0 := by simp [belowCode, hwhole, hexp]
  rw [roundReal, hcode]
  simp [codeWithFlags, hup, hpos.ne', htiny]

/-- To nearest, all magnitudes that lie a step above the largest overflow alike. -/
theorem roundReal_rne_huge {y : ℝ} (hpos : 0 < y) (hy : ((magnitude l (l.largest + 1) : ℚ) : ℝ) ≤ y) (neg : Bool) :
    roundReal l .rne neg y = (l.signed neg (l.delivered .rne neg), fOF ||| fNX) := by
  have hcode : l.largest < belowCode l y := (magnitude_le_real_iff hpos).1 hy
  rw [roundReal, codeWithFlags, if_pos (by omega)]
  rfl

end

end Sys2Proof.Numbers
end

section
/-! The exponential of an integer, the logarithm of a power of two, and Table 10-4 as a whole (R128, R158). -/

namespace Sys2Proof.Numbers

open Sys2Proof Sys2Proof.Machine Sys2Proof.Claims

section
variable {l : Layout} {f : FltFmt}

/-! ### The exact cases -/

/-- A power of two rounds as the real number that it is. -/
theorem Describes.round_two_zpow (h : Describes l f) (n : ℤ) : f.round .rne (.fin false 1 n) = roundReal l .rne false (2 ^ n) := by
  have := h.roundFin_eq .rne false one_ne_zero n
  rwa [Nat.cast_one, one_mul] at this

/-- Beyond the magnitude 2^12 the exponential of an integer is beyond the format. -/
theorem Describes.round_two_zpow_clamped (h : Describes l f) (htop : magnitude l (l.largest + 1) ≤ 2 ^ (4096 : ℤ))
    (hleast : -4096 < leastExp l - 1) {n : ℤ} (hn : 4096 ≤ |n|) :
    f.round .rne (.fin false 1 (if n < 0 then -4096 else 4096)) = roundReal l .rne false (2 ^ n) := by
  rw [h.round_two_zpow]
  rw [le_abs] at hn
  have hpow {a b : ℤ} (hab : a ≤ b) : (2 : ℝ) ^ a ≤ 2 ^ b := zpow_le_zpow_right₀ (by norm_num) hab
  have hlt {a b : ℤ} (hab : a < b) : (2 : ℝ) ^ a < 2 ^ b := zpow_lt_zpow_right₀ (by norm_num) hab
  split
  · have hn' : n ≤ -4096 := by omega
    rw [roundReal_rne_tiny (by positivity) (hlt hleast), roundReal_rne_tiny (by positivity) (hlt (by omega))]
  · have hn' : 4096 ≤ n := by omega
    have htop' : ((magnitude l (l.largest + 1) : ℚ) : ℝ) ≤ 2 ^ (4096 : ℤ) := by
      have : ((magnitude l (l.largest + 1) : ℚ) : ℝ) ≤ (((2 : ℚ) ^ (4096 : ℤ) : ℚ) : ℝ) := by exact_mod_cast htop
      rwa [Rat.cast_zpow, Rat.cast_ofNat] at this
    rw [roundReal_rne_huge (by positivity) htop', roundReal_rne_huge (by positivity) (htop'.trans (hpow hn'))]

/-- The exponent of a finite value that is an integer. -/
theorem expOf_eq_log {neg : Bool} {m : ℕ} {e n : ℤ} (hm : m ≠ 0) (hn : finRat neg m e = n) : expOf m e = (n.natAbs.log2 : ℤ) := by
  have hy : (m : ℝ) * 2 ^ e = (n.natAbs : ℕ) := by
    have habs : |finRat neg m e| = (m : ℚ) * 2 ^ e := by
      rw [finRat]
      split
      · rw [abs_neg, abs_of_nonneg (by positivity)]
      · rw [abs_of_nonneg (by positivity)]
    rw [hn, ← Int.cast_abs, Int.abs_eq_natAbs, Int.cast_natCast] at habs
    have : (((n.natAbs : ℕ) : ℚ) : ℝ) = ((m * 2 ^ e : ℚ) : ℝ) := by rw [habs]
    push_cast at this
    exact this.symm
  have hn0 : n.natAbs ≠ 0 := by
    intro h0
    rw [h0, Nat.cast_zero] at hy
    have : (0 : ℝ) < m * 2 ^ e := by positivity
    exact this.ne' hy
  have hlog := log_natCast_mul_zpow hm e
  have hlog' := log_natCast_mul_zpow hn0 0
  rw [zpow_zero, mul_one, add_zero] at hlog'
  rw [expOf, ← hlog, hy, hlog']

theorem finRat_neg_iff {neg : Bool} {m : ℕ} {e : ℤ} (hm : m ≠ 0) : finRat neg m e < 0 ↔ neg = true := by
  have : (0 : ℚ) < m * 2 ^ e := by positivity
  cases neg
  · simp [finRat, this.le]
  · simp [finRat, this]

/-- The model's exponential of an integer: a power of two, clamped beyond all formats. -/
theorem exp2Val_of_int {neg : Bool} {m : ℕ} {e n : ℤ} (hm : m ≠ 0) (hn : finRat neg m e = n) :
    exp2Val (.fin neg m e) = (.fin false 1 (if 4096 ≤ |n| then (if n < 0 then -4096 else 4096) else n), 0) := by
  have hlog := expOf_eq_log hm hn
  have hn0 : n.natAbs ≠ 0 := fun h0 => hm (finRat_eq_zero.1 (by rw [hn, Int.natAbs_eq_zero.1 h0, Int.cast_zero]))
  have hneg : neg = true ↔ n < 0 := by
    rw [← finRat_neg_iff (e := e) hm, hn]
    exact Int.cast_lt_zero
  have hbig : 12 ≤ expOf m e ↔ 4096 ≤ |n| := by
    rw [hlog, Int.abs_eq_natAbs]
    have := Nat.le_log2 hn0 (k := 12)
    omega
  rw [exp2Val, if_neg (by simpa using hm)]
  by_cases h12 : 12 ≤ expOf m e
  · rw [if_pos h12, if_pos (hbig.1 h12)]
    simp only [hneg]
  · rw [if_neg h12, if_neg fun h => h12 (hbig.2 h), if_neg (by rw [hlog]; omega)]
    have hunits : unitsOf neg m e (if e < 0 then e else 0) = n * ((2 ^ (-e).toNat : ℕ) : ℤ) := by
      have hq := unitsOf_mul_zpow neg m (show (if e < 0 then e else 0) ≤ e by split <;> omega)
      rw [hn] at hq
      have hz : (2 : ℚ) ^ (-e).toNat * 2 ^ (if e < 0 then e else 0) = 1 := by
        rw [← zpow_natCast, ← zpow_add₀ (by norm_num), show ((-e).toNat : ℤ) + (if e < 0 then e else 0) = 0 by split <;> omega, zpow_zero]
      have hp : (2 : ℚ) ^ (if e < 0 then e else 0) ≠ 0 := by positivity
      have : (unitsOf neg m e (if e < 0 then e else 0) : ℚ) = ((n * ((2 ^ (-e).toNat : ℕ) : ℤ) : ℤ) : ℚ) := by
        rw [← mul_left_inj' hp, hq]
        push_cast
        rw [mul_assoc, hz, mul_one]
      exact_mod_cast this
    have hp : ((2 ^ (-e).toNat : ℕ) : ℤ) ≠ 0 := by positivity
    simp only [hunits, Int.mul_emod_left, Int.mul_ediv_cancel _ hp]
    rfl

/-- R158: the exponential of an integer is the power of two rounded. -/
theorem Describes.rounds_exp2Val (h : Describes l f) (htop : magnitude l (l.largest + 1) ≤ 2 ^ (4096 : ℤ)) (hleast : -4096 < leastExp l - 1)
    {neg : Bool} {m : ℕ} {e n : ℤ} (hn : finRat neg m e = n) :
    ∃ v, exp2Val (.fin neg m e) = (v, 0) ∧ l.rounds .rne ((2 : ℝ) ^ n) (f.round .rne v) := by
  have hr := h.rounds_roundReal (mode := .rne) (by simp [plainModes]) false (show (0 : ℝ) < 2 ^ n by positivity)
  rw [withSign, if_neg (by simp)] at hr
  by_cases hm : m = 0
  · subst hm
    have hn0 : n = 0 := by
      rw [finRat_eq_zero.2 rfl] at hn
      exact_mod_cast hn.symm
    subst hn0
    refine ⟨.fin false 1 0, by simp [exp2Val], ?_⟩
    rw [h.round_two_zpow]
    exact hr
  · refine ⟨_, exp2Val_of_int hm hn, ?_⟩
    by_cases hbig : 4096 ≤ |n|
    · rw [if_pos hbig, h.round_two_zpow_clamped htop hleast hbig]
      exact hr
    · rw [if_neg hbig, h.round_two_zpow]
      exact hr

/-- R158: the logarithm of a power of two is its exponent. -/
theorem log2Val_of_two_zpow {neg : Bool} {m : ℕ} {e n : ℤ} (hn : finRat neg m e = 2 ^ n) :
    log2Val (.fin neg m e) = (valOfInt n, 0) := by
  have hpos : 0 < finRat neg m e := by rw [hn]; positivity
  have hm : m ≠ 0 := fun h0 => hpos.ne' (finRat_eq_zero.2 h0)
  have hneg : neg = false := by
    rw [← Bool.not_eq_true, ← finRat_neg_iff (e := e) hm]
    exact not_lt.2 hpos.le
  subst hneg
  have hmz : (m : ℚ) = 2 ^ (n - e) := by
    rw [finRat, if_neg (by simp)] at hn
    rw [zpow_sub₀ (by norm_num), ← hn, mul_div_cancel_right₀ _ (by positivity)]
  have hle : 0 ≤ n - e := by
    by_contra hlt
    have h1 : (1 : ℚ) ≤ m := by exact_mod_cast Nat.one_le_iff_ne_zero.2 hm
    have h2 : (2 : ℚ) ^ (n - e) < 1 := zpow_lt_one_of_neg₀ (by norm_num) (not_le.1 hlt)
    linarith
  obtain ⟨k, hk⟩ := Int.eq_ofNat_of_zero_le hle
  have hmk : m = 2 ^ k := by
    rw [hk, zpow_natCast] at hmz
    exact_mod_cast hmz
  have hlog : m.log2 = k := by rw [hmk, Nat.log2_two_pow]
  rw [log2Val, if_neg (by simpa using hm), if_neg (by simp), hlog, if_pos (by simpa using hmk)]
  rw [show (k : ℤ) + e = n by omega]

/-! ### Table 10-4 by formats -/

/-- A transcendental is its value rounded to nearest, with the flag of a special case. -/
theorem elemTransc_eq {t : Fmt} (hf : t.flt = some f) {g : FVal → FVal × Flags} {v : ℕ} {w : FVal} {fl : Flags} (hg : g (f.decode v) = (w, fl)) :
    elemTransc g t v = ((f.round .rne w).1, (f.round .rne w).2 ||| fl) := by
  simp [elemTransc, Fmt.fval, Fmt.rnd, hf, hg]

theorem elemTransc_exact {t : Fmt} (hf : t.flt = some f) {g : FVal → FVal × Flags} {v : ℕ} {w : FVal} (hg : g (f.decode v) = (w, 0)) :
    elemTransc g t v = f.round .rne w := by
  rw [elemTransc_eq hf hg]
  simp

/-- What the formats of class FLT have for Table 10-4. -/
theorem arithRows_bounds {row : Fmt × Layout} (hrow : row ∈ arithRows) : row.2.fb ≤ 62 ∧ (∃ i, row.2.inf = some i) ∧
    magnitude row.2 (row.2.largest + 1) ≤ 2 ^ (4096 : ℤ) ∧ -4096 < leastExp row.2 - 1 := by
  have hbig : (2 : ℚ) ^ (128 : ℤ) ≤ 2 ^ (4096 : ℤ) := zpow_le_zpow_right₀ (by norm_num) (by norm_num)
  have hrows : row.2.fb ≤ 62 ∧ (∃ i, row.2.inf = some i) ∧ magnitude row.2 (row.2.largest + 1) ≤ 2 ^ (128 : ℤ) ∧
      -4096 < leastExp row.2 - 1 := by
    simp only [arithRows, List.mem_cons, List.not_mem_nil, or_false] at hrow
    rcases hrow with rfl | rfl | rfl <;>
      exact ⟨by norm_num, ⟨_, rfl⟩, by norm_num [magnitude, unitsOfCode, leastExp], by norm_num [leastExp]⟩
  obtain ⟨hfb, hinf, htop, hleast⟩ := hrows
  exact ⟨hfb, hinf, htop.trans hbig, hleast⟩

end

theorem transcendentalsRound : TranscendentalsRound := by
  rintro ⟨t, l⟩ hrow v
  obtain ⟨f, hf, h⟩ := arithRows_describes hrow
  obtain ⟨hfb, ⟨i, hi⟩, htop, hleast⟩ := arithRows_bounds hrow
  dsimp only at hf h hfb hi htop hleast ⊢
  refine ⟨fun hv => ?_, fun hn g hg => ?_⟩
  · obtain ⟨m, e, hd, hmz, hmag⟩ := h.decode_finite hv
    have hval : l.val v = finRat (l.negative v) m e := val_eq_finRat hmag
    have hx : ((l.val v : ℚ) : ℝ) = withSign (l.negative v) (m * 2 ^ e) := by
      rw [hval, finRat, withSign]; split <;> push_cast <;> rfl
    have hm0 : l.val v ≠ 0 → m ≠ 0 := fun h0 hm => h0 (by rw [hval, finRat_eq_zero.2 hm])
    have hpos : 0 < l.val v → l.negative v = false := fun h0 => by
      rw [← Bool.not_eq_true, ← finRat_neg_iff (e := e) (hm0 h0.ne'), ← hval]
      exact not_lt.2 h0.le
    refine ⟨fun h0 => ?_, fun h0 => ?_, fun h0 => ?_, fun h0 => ?_, fun n hn => ?_, fun n hn0 hn => ?_⟩
    · obtain ⟨w, hw, hr⟩ := h.rounds_rcpVal hfb (l.negative v) (hm0 h0) e
      rw [elemTransc_exact hf (by rw [hd, hw])]
      have hsign : 1 / ((l.val v : ℚ) : ℝ) = withSign (l.negative v) (1 / (m * 2 ^ e)) := by
        rw [hx, withSign, withSign]
        split
        · rw [one_div, one_div, inv_neg]
        · rfl
      rwa [hsign]
    · have hz : m = 0 := hmz.2 (val_eq_zero.1 h0)
      subst hz
      have hroot : l.signed (l.negative v) 0 = v := by
        have := signed_mag h.w_pos hv.1
        rwa [val_eq_zero.1 h0] at this
      have hinf (n : Bool) : f.round .rne (.inf n) = (l.signed n i, 0) := by rw [h.round_infinity, hi]; rfl
      have hg {g : FVal → FVal × Flags} {n : Bool} (hg : g (.fin (l.negative v) 0 e) = (.inf n, fDZ)) :
          l.inf.map (fun i => (l.signed n i, fDZ)) = some (elemTransc g t v) := by
        rw [elemTransc_eq hf (by rw [hd, hg]), hinf, hi]
        simp
      refine ⟨hg rfl, ?_, hg rfl, hg rfl⟩
      rw [elemTransc_exact hf (w := .fin (l.negative v) 0 0) (by rw [hd]; rfl), h.roundFin_zero, hroot]
    · have hneg := hpos h0
      rw [hneg] at hd hx
      rw [hx, withSign, if_neg (by simp)]
      obtain ⟨w, hw, hr⟩ := h.rounds_sqrtVal hfb (hm0 h0.ne') e
      obtain ⟨w', hw', hr'⟩ := h.rounds_rsqVal hfb (hm0 h0.ne') e
      rw [elemTransc_exact hf (by rw [hd, hw]), elemTransc_exact hf (by rw [hd, hw'])]
      exact ⟨hr, hr'⟩
    · have hm := hm0 h0.ne
      have hneg : l.negative v = true := (finRat_neg_iff (e := e) hm).1 (by rwa [← hval])
      rw [hneg] at hd
      have hg {g : FVal → FVal × Flags} (hg : g (.fin true m e) = (.nan, fNV)) : elemTransc g t v = (l.nan, fNV) := by
        rw [elemTransc_eq hf (by rw [hd, hg]), h.round_nan]
        simp
      exact ⟨hg (by simp [sqrtVal, hm]), hg (by simp [rsqVal, hm]), hg (by simp [log2Val, hm])⟩
    · obtain ⟨w, hw, hr⟩ := h.rounds_exp2Val htop hleast (hval.symm.trans hn)
      rw [elemTransc_exact hf (by rw [hd, hw])]
      exact hr
    · rw [elemTransc_exact hf (by rw [hd, log2Val_of_two_zpow (hval.symm.trans hn)])]
      exact (h.round_valOfInt (by simp [plainModes]) n).1 hn0
  · have hnan : g (f.decode v) = (.nan, 0) := by
      rw [h.decode_nan hn]
      simp only [List.mem_cons, List.not_mem_nil, or_false] at hg
      rcases hg with rfl | rfl | rfl | rfl | rfl <;> rfl
    rw [elemTransc_exact hf hnan, h.round_nan]

end Sys2Proof.Numbers
end

section
/-! MX blocks (R133): the largest magnitude of a block, its scale, and its elements. -/

namespace Sys2Proof.Numbers

open Sys2Proof Sys2Proof.Machine Sys2Proof.Claims

/-! ### The largest magnitude -/

/-- The rational number of a magnitude m · 2^e. -/
def magRat (x : ℕ × ℤ) : ℚ := x.1 * 2 ^ x.2

theorem magRat_eq_zero {x : ℕ × ℤ} : magRat x = 0 ↔ x.1 = 0 := by
  have : (2 : ℚ) ^ x.2 ≠ 0 := by positivity
  simp [magRat, this]

theorem abs_finRat (n : Bool) (m : ℕ) (e : ℤ) : |finRat n m e| = magRat (m, e) := by
  have : (0 : ℚ) ≤ m * 2 ^ e := by positivity
  cases n <;> simp [finRat, magRat, abs_of_nonneg this]

/-- The model's larger magnitude is the one of the larger number. -/
theorem magMax_eq (x y : ℕ × ℤ) : magMax x y = if magRat x < magRat y then y else x := by
  set q := if x.2 < y.2 then x.2 else y.2 with hq
  have hqx : q ≤ x.2 := by rw [hq]; split <;> omega
  have hqy : q ≤ y.2 := by rw [hq]; split <;> omega
  have hunits {z : ℕ × ℤ} (hz : q ≤ z.2) : magRat z = ((z.1 * 2 ^ (z.2 - q).toNat : ℕ) : ℚ) * 2 ^ q := by
    rw [magRat]
    push_cast
    rw [mul_assoc, ← zpow_natCast, ← zpow_add₀ (by norm_num)]
    congr 2
    omega
  have hlt : magRat x < magRat y ↔ x.1 * 2 ^ (x.2 - q).toNat < y.1 * 2 ^ (y.2 - q).toNat := by
    rw [hunits hqx, hunits hqy, mul_lt_mul_iff_left₀ (by positivity), Nat.cast_lt]
  simp only [hlt]
  rfl

/-- The magnitude of a finite value. -/
def magOf (x : FVal) : ℕ × ℤ :=
  match x with
  | .nan => (0, 0)
  | .inf _ => (0, 0)
  | .fin _ m e => (m, e)

/-- The fold of the model over finite values keeps the larger magnitude. -/
theorem foldl_magMax {acc r : ℕ × ℤ} : ∀ {xs : List FVal}, (∀ x ∈ xs, x.isSpecial = false) →
    r = xs.foldl (fun acc x => magMax acc (magOf x)) acc →
    magRat acc ≤ magRat r ∧ (∀ x ∈ xs, magRat (magOf x) ≤ magRat r) ∧ (r = acc ∨ ∃ x ∈ xs, r = magOf x)
  | [], _, hr => by subst hr; simp
  | x :: xs, hfin, hr => by
    rw [List.foldl_cons] at hr
    obtain ⟨hacc, hall, hmem⟩ := foldl_magMax (fun y hy => hfin y (List.mem_cons_of_mem _ hy)) hr
    have hmax : magRat acc ≤ magRat (magMax acc (magOf x)) ∧ magRat (magOf x) ≤ magRat (magMax acc (magOf x)) := by
      rw [magMax_eq]
      split
      · exact ⟨le_of_lt ‹_›, le_rfl⟩
      · exact ⟨le_rfl, not_lt.1 ‹_›⟩
    refine ⟨hmax.1.trans hacc, fun y hy => ?_, ?_⟩
    · rcases List.mem_cons.1 hy with rfl | hy
      · exact hmax.2.trans hacc
      · exact hall y hy
    · rcases hmem with rfl | ⟨y, hy, he⟩
      · rw [magMax_eq]
        split
        · exact .inr ⟨x, List.mem_cons_self, rfl⟩
        · exact .inl rfl
      · exact .inr ⟨y, List.mem_cons_of_mem _ hy, he⟩

theorem maxMag_eq_foldl {xs : List FVal} (h : ∀ x ∈ xs, x.isSpecial = false) :
    maxMag xs = xs.foldl (fun acc x => magMax acc (magOf x)) (0, 0) := by
  rw [maxMag]
  refine List.foldl_ext _ _ _ fun acc x hx => ?_
  cases x with
  | nan => exact absurd (h _ hx) (by simp [FVal.isSpecial])
  | inf n => exact absurd (h _ hx) (by simp [FVal.isSpecial])
  | fin n m e => rfl

/-- The largest magnitude of finite values bounds them all, and is one of theirs or 0. -/
theorem maxMag_spec {xs : List FVal} (h : ∀ x ∈ xs, x.isSpecial = false) :
    (∀ x ∈ xs, magRat (magOf x) ≤ magRat (maxMag xs)) ∧ (maxMag xs = (0, 0) ∨ ∃ x ∈ xs, maxMag xs = magOf x) := by
  rw [maxMag_eq_foldl h]
  exact (foldl_magMax h rfl).2

/-! ### The block -/

/-- An element of an MX block: the scaled value rounded. -/
def mxElem (f : FltFmt) (e : ℤ) (x : FVal) : ℕ × Flags :=
  match x with
  | .nan => (0, 0)
  | .inf _ => (0, 0)
  | .fin n m ee => f.roundFin .rne n m (ee - (e - 127))

/-- The exponent that the scale of a block stands for. -/
def mxScale (emax : ℤ) (xs : List FVal) : ℤ := clampInt 0 254 (expOf (maxMag xs).1 (maxMag xs).2 - emax + 127)

section
variable {f : FltFmt} {emax : ℤ} {xs : List FVal}

theorem mxQuant_special (h : xs.any FVal.isSpecial = true) : mxQuant f emax (fun _ => .rne) xs = ⟨0xFF, xs.map fun _ => 0, 0⟩ := by
  rw [mxQuant, if_pos h]

theorem mxQuant_zero (h : xs.any FVal.isSpecial = false) (h0 : (maxMag xs).1 = 0) :
    mxQuant f emax (fun _ => .rne) xs = ⟨0, xs.map fun _ => 0, 0⟩ := by
  rw [mxQuant, if_neg (by simp [h]), if_pos (by simp [h0])]

theorem mxQuant_finite (h : xs.any FVal.isSpecial = false) (h0 : (maxMag xs).1 ≠ 0) :
    mxQuant f emax (fun _ => .rne) xs = ⟨(mxScale emax xs).toNat, (xs.map (mxElem f (mxScale emax xs))).map Prod.fst,
      (xs.map (mxElem f (mxScale emax xs))).foldl (fun acc r => acc ||| mxFlags r.2) 0⟩ := by
  have helems : xs.zipIdx.map (mxElem f (mxScale emax xs) ∘ Prod.fst) = xs.map (mxElem f (mxScale emax xs)) := by
    rw [← List.map_map, List.zipIdx_map_fst]
  rw [← helems, mxQuant, if_neg (by simp [h]), if_neg (by simpa using h0)]
  rfl

end

section
variable {l L : Layout} {f F : FltFmt} {t : Fmt}

theorem Describes.finite_not_special (h : Describes L F) {v : ℕ} (hv : L.finite v) : (F.decode v).isSpecial = false := by
  obtain ⟨m, e, hd, _⟩ := h.decode_finite hv
  rw [hd]; rfl

theorem Describes.magRat_magOf (h : Describes L F) {v : ℕ} (hv : L.finite v) : magRat (magOf (F.decode v)) = |L.val v| := by
  obtain ⟨m, e, hd, _, hmag⟩ := h.decode_finite hv
  rw [hd, val_eq_finRat hmag, abs_finRat]
  rfl

/-- An element of a block is its scaled value rounded to nearest even. -/
theorem Describes.mxElem_rounds (h : Describes l f) (H : Describes L F) {v : ℕ} (hv : L.finite v) (e : ℤ) :
    (L.val v / 2 ^ (e - 127) = 0 → mxElem f e (F.decode v) = (l.signed (L.negative v) 0, 0)) ∧
    (L.val v / 2 ^ (e - 127) ≠ 0 → l.rounds .rne ((L.val v / 2 ^ (e - 127) : ℚ) : ℝ) (mxElem f e (F.decode v))) := by
  obtain ⟨m, ee, hd, hmz, hmag⟩ := H.decode_finite hv
  have helem : mxElem f e (F.decode v) = f.round .rne (.fin (L.negative v) m (ee - (e - 127))) := by rw [hd]; rfl
  have hval : L.val v / 2 ^ (e - 127) = finRat (L.negative v) m (ee - (e - 127)) := by
    rw [val_eq_finRat hmag, finRat, finRat, zpow_sub₀ (by norm_num) ee]
    split <;> ring
  rw [helem, hval]
  refine ⟨fun h0 => ?_, fun h0 => h.round_isVal (by simp [plainModes]) (isVal_fin _ _ _) h0⟩
  obtain rfl := finRat_eq_zero.1 h0
  exact h.roundFin_zero _ _ _

/-- The exponent of a magnitude that is not 0. -/
theorem two_zpow_expOf_le {x : ℕ × ℤ} (h : x.1 ≠ 0) : (2 : ℚ) ^ expOf x.1 x.2 ≤ magRat x ∧ magRat x < 2 ^ (expOf x.1 x.2 + 1) := by
  have hlo : (2 : ℚ) ^ x.1.log2 ≤ x.1 := by exact_mod_cast Nat.log2_self_le h
  have hhi : (x.1 : ℚ) < 2 ^ (x.1.log2 + 1) := by exact_mod_cast Nat.lt_log2_self
  have hp : (0 : ℚ) < 2 ^ x.2 := by positivity
  rw [expOf, magRat, add_right_comm, zpow_add₀ (by norm_num), zpow_add₀ (by norm_num) _ x.2]
  exact ⟨mul_le_mul_of_nonneg_right (by exact_mod_cast hlo) hp.le, mul_lt_mul_of_pos_right (by exact_mod_cast hhi) hp⟩

theorem map_fval (hf : t.flt = some F) (vs : List ℕ) : vs.map t.fval = vs.map F.decode := by
  simp [Fmt.fval, hf]

section
variable (H : Describes L F) {vs : List ℕ}
include H

theorem Describes.any_special_of_finite (hfin : ∀ v ∈ vs, L.finite v) : (vs.map F.decode).any FVal.isSpecial = false := by
  simp only [List.any_map, List.any_eq_false, Function.comp_apply, Bool.not_eq_true]
  exact fun v hv => H.finite_not_special (hfin v hv)

theorem Describes.any_special_of_special {v : ℕ} (hv : v ∈ vs) (hs : L.isNan v ∨ L.infinite v) :
    (vs.map F.decode).any FVal.isSpecial = true := by
  rw [List.any_map, List.any_eq_true]
  refine ⟨v, hv, ?_⟩
  rcases hs with hn | hi
  · simp [H.decode_nan hn, FVal.isSpecial]
  · simp [H.decode_infinite hi, FVal.isSpecial]

/-- The largest magnitude of a block of finite elements: it bounds them all, and is one of theirs or 0. -/
theorem Describes.maxMag_decode (hfin : ∀ v ∈ vs, L.finite v) :
    (∀ v ∈ vs, |L.val v| ≤ magRat (maxMag (vs.map F.decode))) ∧
      ((maxMag (vs.map F.decode)).1 = 0 ∨ ∃ v ∈ vs, magRat (maxMag (vs.map F.decode)) = |L.val v|) := by
  have hspecial : ∀ x ∈ vs.map F.decode, x.isSpecial = false := fun x hx => by
    obtain ⟨v, hv, rfl⟩ := List.mem_map.1 hx
    exact H.finite_not_special (hfin v hv)
  obtain ⟨hle, hmem⟩ := maxMag_spec hspecial
  refine ⟨fun v hv => ?_, hmem.imp (fun h0 => by rw [h0]) fun ⟨x, hx, he⟩ => ?_⟩
  · rw [← H.magRat_magOf (hfin v hv)]
    exact hle _ (List.mem_map_of_mem hv)
  · obtain ⟨v, hv, rfl⟩ := List.mem_map.1 hx
    exact ⟨v, hv, by rw [he, H.magRat_magOf (hfin v hv)]⟩

end

/-- R133: a block of finite values that are not all zero. -/
theorem Describes.mxQuant_rounds (H : Describes L F) (f : FltFmt) (emax : ℤ) {vs : List ℕ} (hfin : ∀ v ∈ vs, L.finite v)
    (hne : ∃ v ∈ vs, L.val v ≠ 0) :
    ∃ (a : ℕ) (n : ℤ), a ∈ vs ∧ (∀ v ∈ vs, |L.val v| ≤ |L.val a|) ∧ 2 ^ n ≤ |L.val a| ∧ |L.val a| < 2 ^ (n + 1) ∧
      ∃ (e : ℤ) (rs : List (ℕ × Flags)), e = max 0 (min 254 (n - emax + 127)) ∧ rs = vs.map (fun v => mxElem f e (F.decode v)) ∧
        mxQuant f emax (fun _ => .rne) (vs.map F.decode) = ⟨e.toNat, rs.map Prod.fst, rs.foldl (fun acc r => acc ||| mxFlags r.2) 0⟩ := by
  obtain ⟨hle, hmem⟩ := H.maxMag_decode hfin
  obtain ⟨v, hv, hv0⟩ := hne
  have hpos : 0 < magRat (maxMag (vs.map F.decode)) := lt_of_lt_of_le (abs_pos.2 hv0) (hle v hv)
  have hmax : (maxMag (vs.map F.decode)).1 ≠ 0 := fun h0 => hpos.ne' (magRat_eq_zero.2 h0)
  obtain ⟨a, ha, hmag⟩ := hmem.resolve_left hmax
  obtain ⟨hlo, hhi⟩ := two_zpow_expOf_le hmax
  rw [hmag] at hle hlo hhi
  refine ⟨a, _, ha, hle, hlo, hhi, mxScale emax (vs.map F.decode), _, clampInt_eq (by norm_num) _, rfl, ?_⟩
  rw [mxQuant_finite (H.any_special_of_finite hfin) hmax]
  have hmap : vs.map (fun v => mxElem f (mxScale emax (vs.map F.decode)) (F.decode v)) =
      (vs.map F.decode).map (mxElem f (mxScale emax (vs.map F.decode))) := by rw [List.map_map]; rfl
  rw [hmap]

end

theorem mxBlocksRound : MxBlocksRound := by
  rintro ⟨f, l, emax⟩ hrow ⟨t, L⟩ hfp vs hlen
  have h : Describes l f := mxRows_describes _ hrow
  obtain ⟨F, hF, H⟩ := arithRows_describes hfp
  dsimp only at hF H ⊢
  rw [map_fval hF]
  refine ⟨fun hfin hne => ?_, fun hzero => ?_, fun ⟨v, hv, hs⟩ => ?_⟩
  · obtain ⟨a, n, ha, hle, hlo, hhi, e, rs, he, hrs, hq⟩ := H.mxQuant_rounds f emax hfin hne
    have he0 : ((e.toNat : ℕ) : ℤ) = e := Int.toNat_of_nonneg (by omega)
    rw [hq]
    refine ⟨a, n, ha, hle, hlo, hhi, he0.trans he, by simp [hrs, hlen], rs.map Prod.snd, by simp [hrs, hlen], fun b => ?_, ?_⟩
    · rw [Conversions.getLsbD_foldl_or]
      simp only [BitVec.ofNat_eq_ofNat, BitVec.getLsbD_zero, Bool.false_eq_true, false_or, List.mem_map, exists_exists_and_eq_and]
      rfl
    · intro i v z fl hvi hzi hfi
      dsimp only at hzi ⊢
      rw [he0]
      have hv : v ∈ vs := List.mem_of_getElem? hvi
      have hri : rs[i]? = some (mxElem f e (F.decode v)) := by simp [hrs, hvi]
      rw [List.getElem?_map, hri] at hzi hfi
      have hz : (z, fl) = mxElem f e (F.decode v) := by
        rw [← Option.some.inj hzi, ← Option.some.inj hfi]
      obtain ⟨hzero, hround⟩ := h.mxElem_rounds H (hfin v hv) e
      rw [← hz] at hzero hround
      exact ⟨fun h0 => Prod.mk.inj (hzero h0), hround⟩
  · have hfin : ∀ v ∈ vs, L.finite v := fun v hv => (hzero v hv).1
    have hmax : (maxMag (vs.map F.decode)).1 = 0 := by
      refine (H.maxMag_decode hfin).2.elim id fun ⟨v, hv, hmag⟩ => magRat_eq_zero.1 ?_
      rw [hmag, (hzero v hv).2, abs_zero]
    rw [mxQuant_zero (H.any_special_of_finite hfin) hmax, List.map_map, ← hlen]
    exact congrArg (fun es => MxBlock.mk 0 es 0) List.map_const'
  · rw [mxQuant_special (H.any_special_of_special hv hs), List.map_map, ← hlen]
    exact ⟨rfl, List.map_const'⟩

end Sys2Proof.Numbers
end

section
/-! The worked values of the rules (R128, R129, R134, R137, R158, R166), and the element operations as a whole. -/

namespace Sys2Proof.Numbers

open Sys2Proof Sys2Proof.Machine Sys2Proof.Claims

/-- R128: the sum of 1 and 2^−24 under two modes. -/
theorem worked_sums : elemAdd .fp32 .rne 0x3F800000 0x33800000 = (0x3F800000, fNX) ∧
    elemAdd .fp32 .rup 0x3F800000 0x33800000 = (0x3F800001, fNX) := by decide

/-- R128, R129, R166: conversions between floating-point formats. -/
theorem worked_float_conversions : elemCvt .fp32 .bf16 .rne 0x3F818000 = (0x3F82, fNX) ∧
    elemCvt .fp32 .fp16 .rne 0x477FF000 = (0x7C00, fOF ||| fNX) ∧ elemCvt .fp32 .fp16 .rtz 0x477FF000 = (0x7BFF, fNX) ∧
    elemCvt .fp16 .e4m3 .rne 0x5FD0 = (0x7E, fOF ||| fNX) ∧ elemCvt .fp16 .e5m2 .rne 0x5FD0 = (0x60, fNX) ∧
    elemCvt .fp32 .fp16 .rne 0x4788B800 = (0x7C00, fOF ||| fNX) ∧ elemCvt .bf16 .e4m3 .rne 0x3F81 = (0x38, fNX) ∧
    elemCvt .e4m3 .bf16 .rne 0xFF = (0x7FC0, 0) := by decide

/-- R131, R138, R166: conversions into integers and angles. -/
theorem worked_int_conversions : elemCvt .fp32 .int16 .rne 0xC06CCCCD = (0xFFFC, fNX) ∧ elemCvt .fp32 .int32 .rup 0x7FC00000 = (0, fNV) ∧
    elemCvt .fp32 .ang16 .rne 0x3E99999A = (0x4CCD, fNX) ∧ elemCvt .fp32 .ang16 .rtz 0x3FA00000 = (0x4000, 0) ∧
    elemCvt .int16 .uint8 .rne 0xFFFB = (0, 0) := by decide

/-- R158: transcendentals. -/
theorem worked_transcendentals : elemTransc rcpVal .fp16 1 = (0x7C00, fOF ||| fNX) ∧ elemTransc exp2Val .fp32 0xC3158000 = (1, fUF ||| fNX) ∧
    elemTransc rsqVal .fp32 0x40000000 = (0x3F3504F3, fNX) := by decide

/-- R134: the worked MX block. -/
theorem worked_mx_block :
    let q := mxQuant e2m1F 2 (fun _ => .rne) ([0x41500000, 0x40A00000, 0xBF333333].map Fmt.fp32.fval ++
      List.replicate 29 (Fmt.fp32.fval 0))
    q.scale = 0x80 ∧ q.elems.take 4 = [7, 4, 9, 0] ∧ q.flags &&& fNX = fNX := by decide +kernel

/-- R137: the worked QC4 super-block. -/
theorem worked_qc_block :
    let q := qcQuant (([0x40000000, 0xBF800000].map Fmt.fp32.fval ++ List.replicate 62 (Fmt.fp32.fval 0)) ++
      ([0x3F000000, 0x3E800000].map Fmt.fp32.fval ++ List.replicate 62 (Fmt.fp32.fval 0)) ++ List.replicate 128 (Fmt.fp32.fval 0))
    q.super = 0x40000000 ∧ q.scales = [255, 64, 0, 0] ∧ q.codes.take 4 = [15, 2, 8, 8] ∧ (q.codes.drop 64).take 3 = [15, 13, 8] ∧
      q.codes.drop 128 = List.replicate 128 8 ∧ q.flags = fNX := by decide +kernel

theorem workedValuesHold : WorkedValuesHold := by
  obtain ⟨hsum, hsumUp⟩ := worked_sums
  obtain ⟨hbf16, hfp16, hfp16z, he4m3, he5m2, hover, hsmall, hnan⟩ := worked_float_conversions
  obtain ⟨hint16, hint32, hang, hturn, hbyte⟩ := worked_int_conversions
  obtain ⟨hrcp, hexp, hrsq⟩ := worked_transcendentals
  refine ⟨?_, worked_mx_block, worked_qc_block⟩
  simp only [List.forall_mem_cons, List.not_mem_nil, false_imp_iff, implies_true, and_true]
  exact ⟨hsum, hsumUp, hbf16, hfp16, hfp16z, he4m3, he5m2, hover, hint16, hint32, hang, hturn, hsmall, hbyte, hnan, hrcp, hexp, hrsq⟩

/-- Settles O23: each operation gives the exact value of its operands, which the rounding of a real number to the codes of the format
delivers with its flags. -/
theorem elementsFollowTheFormats : Obligations.ElementsFollowTheFormats :=
  ⟨floatArithmeticRounds, floatsCompare, integerArithmeticWraps, integersCompareAndShift, conversionsRound, stochasticConversionsRound,
    transcendentalsRound, mxBlocksRound, workedValuesHold⟩

end Sys2Proof.Numbers
end

section
/-! fp32 values rounded to nearest (R126, R139, R191): the exact operations of the cascade as real numbers. -/

namespace Sys2Proof.Rotations

open Sys2Proof Sys2Proof.Machine Sys2Proof.Claims Sys2Proof.Numbers

/-! ### RNE32 of an exact value -/

theorem single_describes : Describes single fp32F := by
  constructor <;> simp [single, fp32F]

/-- RNE32 of an exact value is the nearest fp32 value, a zero of either sign for zero. -/
theorem nearest_of_isVal {v : FVal} {x : ℚ} (hv : IsVal v x) : nearest ((x : ℚ) : ℝ) (fp32F.round .rne v) := by
  refine ⟨fun hx => single_describes.round_isVal (by simp [plainModes]) hv (by exact_mod_cast hx), fun hx => ?_⟩
  obtain rfl : x = 0 := by exact_mod_cast hx
  obtain ⟨n, hr⟩ := single_describes.round_zero .rne hv
  rw [hr]
  refine ⟨single_describes.finite_signed (Nat.zero_le _), ?_, rfl⟩
  rw [single_describes.val_signed (Nat.zero_le _)]
  simp

theorem rne32_exact (v : FVal) : rne32 (v, 0) = fp32F.round .rne v := by simp [rne32]

theorem nearest_rne32 {v : FVal} {x : ℚ} {y : ℝ} (hv : IsVal v x) (hy : y = x) : nearest y (rne32 (v, 0)) := by
  rw [rne32_exact, hy]
  exact nearest_of_isVal hv

theorem val32_isVal {x : ℕ} (h : single.finite x) : IsVal (val32 x) (single.val x) := single_describes.decode_isVal h

theorem coef_isVal (n : ℤ) : IsVal (coef n) (n / 2 ^ 18) := by
  have := finOfInt_isVal n (-18) false
  rwa [show (2 : ℚ) ^ (-18 : ℤ) = (2 ^ 18)⁻¹ by norm_num, ← div_eq_mul_inv] at this

theorem isVal_isZero {v : FVal} {x : ℚ} (h : IsVal v x) : v.isZero = true ↔ x = 0 := by
  obtain ⟨n, m, e, rfl, rfl⟩ := h
  rw [finRat_eq_zero]
  simp [FVal.isZero]

/-- A sum of exact values that carry no flags. -/
theorem addFl_isVal {x y : FVal} {a b : ℚ} (hx : IsVal x a) (hy : IsVal y b) : ∃ v, addFl (x, 0) (y, 0) = (v, 0) ∧ IsVal v (a + b) := by
  obtain ⟨hsum, hflags⟩ := addExact_isVal .rne hx hy
  exact ⟨_, by simp [addFl, hflags], hsum⟩

theorem mulExact_eq_of_isVal {x y : FVal} {a b : ℚ} (hx : IsVal x a) (hy : IsVal y b) : ∃ v, mulExact x y = (v, 0) ∧ IsVal v (a * b) := by
  obtain ⟨hprod, hflags⟩ := mulExact_isVal hx hy
  exact ⟨_, Prod.ext rfl hflags, hprod⟩

/-- Products and sums of fp32 values, rounded. -/
theorem nearest_mul {x y : FVal} {a b : ℚ} (hx : IsVal x a) (hy : IsVal y b) : nearest ((a : ℝ) * b) (fp32F.mul .rne x y) := by
  rw [mul_of_isVal _ _ hx hy, ← Rat.cast_mul]
  exact nearest_of_isVal (mulExact_isVal hx hy).1

theorem nearest_add {x y : FVal} {a b : ℚ} (hx : IsVal x a) (hy : IsVal y b) : nearest ((a : ℝ) + b) (fp32F.add .rne x y) := by
  rw [add_of_isVal _ _ hx hy, ← Rat.cast_add]
  exact nearest_of_isVal (addExact_isVal _ hx hy).1

/-! ### A pair rotated (R191, R203, R204) -/

section
variable {c s : FVal} {cr sr : ℚ} {a b : ℕ}

/-- The sum of two products is rounded once, whether or not a term of a zero coefficient is left out. -/
theorem nearest_lin32 (skip : Bool) (hc : IsVal c cr) (hs : IsVal s sr) (ha : single.finite a) (hb : single.finite b) :
    nearest (cr * of32 a + sr * of32 b) (lin32 skip c a s b) := by
  obtain ⟨p, hp, hpv⟩ := mulExact_eq_of_isVal hc (val32_isVal ha)
  obtain ⟨q, hq, hqv⟩ := mulExact_eq_of_isVal hs (val32_isVal hb)
  obtain ⟨v, hv, hvv⟩ := addFl_isVal hpv hqv
  simp only [lin32, hp, hq, hv]
  split
  · have hs0 : sr = 0 := (isVal_isZero hs).1 (by simp_all)
    exact nearest_rne32 hpv (by rw [hs0]; simp [of32])
  · split
    · have hc0 : cr = 0 := (isVal_isZero hc).1 (by simp_all)
      exact nearest_rne32 hqv (by rw [hc0]; simp [of32])
    · exact nearest_rne32 hvv (by simp [of32])

/-- R191, R204: each of the two sums of a rotated pair is rounded once. -/
theorem nearest_rotPair (skip : Bool) (hc : IsVal c cr) (hs : IsVal s sr) (ha : single.finite a) (hb : single.finite b) :
    ∃ f g, (rotPair skip c s a b).2.2 = f ||| g ∧ nearest (cr * of32 a + sr * of32 b) ((rotPair skip c s a b).1, f) ∧
      nearest (cr * of32 b - sr * of32 a) ((rotPair skip c s a b).2.1, g) := by
  refine ⟨_, _, rfl, nearest_lin32 skip hc hs ha hb, ?_⟩
  have h := nearest_lin32 skip (negate_isVal hs) hc ha hb
  rwa [Rat.cast_neg, show -(sr : ℝ) * of32 a + cr * of32 b = cr * of32 b - sr * of32 a by ring] at h

end

/-! ### Lanes written pair by pair -/

/-- The two lanes of a pair. -/
def lanesOf (p : (ℕ × ℕ) × ℕ) : List ℕ := [p.1.1, p.1.2]

section
variable {st : StagePairs}

/-- Pairs that share a lane are the same pair. -/
theorem pair_unique (h : stageLanes st) {p q : (ℕ × ℕ) × ℕ} (hp : p ∈ st) (hq : q ∈ st) {l : ℕ} (hl : l ∈ lanesOf p)
    (hl' : l ∈ lanesOf q) : p = q := by
  by_contra hne
  have : Std.Symm (Function.onFun List.Disjoint lanesOf) := ⟨fun _ _ hd => List.Disjoint.symm hd⟩
  have hdisj : st.Pairwise (Function.onFun List.Disjoint lanesOf) := (List.nodup_flatMap.1 h.1).2
  exact hdisj.forall hp hq hne hl hl'

theorem pair_ne (h : stageLanes st) {p : (ℕ × ℕ) × ℕ} (hp : p ∈ st) : p.1.1 ≠ p.1.2 := by
  have := (List.nodup_flatMap.1 h.1).1 p hp
  simpa using this

/-- Entries of a list written pair by pair: `f` and `g` give what a pair writes to its lanes from what stands there. -/
def writePairs {α : Type} (z : α) (f g : (ℕ × ℕ) × ℕ → α → α → α) (st : StagePairs) (xs : List α) : List α :=
  st.foldl (fun acc p => (acc.set p.1.1 (f p (acc.getD p.1.1 z) (acc.getD p.1.2 z))).set p.1.2
    (g p (acc.getD p.1.1 z) (acc.getD p.1.2 z))) xs

variable {α : Type} {z : α} {f g : (ℕ × ℕ) × ℕ → α → α → α}

theorem getD_set_pair (xs : List α) (a b : α) {i j l : ℕ} (hi : i < xs.length) (hj : j < xs.length) :
    ((xs.set i a).set j b).getD l z = if l = j then b else if l = i then a else xs.getD l z := by
  simp only [List.getD_eq_getElem?_getD, List.getElem?_set, List.length_set, hi, hj, if_true]
  simp only [eq_comm (a := j), eq_comm (a := i)]
  split
  · rfl
  · split <;> rfl

theorem writePairs_cons (p : (ℕ × ℕ) × ℕ) (st : StagePairs) (xs : List α) :
    writePairs z f g (p :: st) xs = writePairs z f g st ((xs.set p.1.1 (f p (xs.getD p.1.1 z) (xs.getD p.1.2 z))).set p.1.2
      (g p (xs.getD p.1.1 z) (xs.getD p.1.2 z))) := rfl

@[simp] theorem writePairs_length (st : StagePairs) (xs : List α) : (writePairs z f g st xs).length = xs.length := by
  induction st generalizing xs with
  | nil => rfl
  | cons p st ih => rw [writePairs_cons, ih, List.length_set, List.length_set]

theorem stageLanes_of_cons {p : (ℕ × ℕ) × ℕ} (h : stageLanes (p :: st)) : stageLanes st :=
  ⟨(List.nodup_append.1 h.1).2.1, fun q hq => h.2 q (List.mem_cons_of_mem _ hq)⟩

/-- A lane of no pair stands. -/
theorem writePairs_other (h : stageLanes st) {xs : List α} (hlen : xs.length = 128) {l : ℕ} (hl : ∀ p ∈ st, l ∉ lanesOf p) :
    (writePairs z f g st xs).getD l z = xs.getD l z := by
  induction st generalizing xs with
  | nil => rfl
  | cons p st ih =>
    obtain ⟨hi, hj⟩ := h.2 p List.mem_cons_self
    have hp := hl p List.mem_cons_self
    simp only [lanesOf, List.mem_cons, List.not_mem_nil, or_false, not_or] at hp
    rw [writePairs_cons, ih (stageLanes_of_cons h) (by simpa using hlen) fun q hq => hl q (List.mem_cons_of_mem _ hq),
      getD_set_pair _ _ _ (by omega) (by omega), if_neg hp.2, if_neg hp.1]

/-- The lanes of a pair hold what it gives from what stood there. -/
theorem writePairs_pair (h : stageLanes st) {xs : List α} (hlen : xs.length = 128) {p : (ℕ × ℕ) × ℕ} (hp : p ∈ st) :
    (writePairs z f g st xs).getD p.1.1 z = f p (xs.getD p.1.1 z) (xs.getD p.1.2 z) ∧
      (writePairs z f g st xs).getD p.1.2 z = g p (xs.getD p.1.1 z) (xs.getD p.1.2 z) := by
  induction st generalizing xs with
  | nil => exact absurd hp (List.not_mem_nil)
  | cons q st ih =>
    obtain ⟨hi, hj⟩ := h.2 q List.mem_cons_self
    have hother {l : ℕ} (hl : l ∈ lanesOf q) : ∀ r ∈ st, l ∉ lanesOf r := fun r hr hl' => by
      have hdisj := (List.nodup_append.1 h.1).2.2
      exact hdisj l hl l (List.mem_flatMap.2 ⟨r, hr, hl'⟩) rfl
    rw [writePairs_cons]
    rcases List.mem_cons.1 hp with rfl | hp'
    · have hne := pair_ne h List.mem_cons_self
      rw [writePairs_other (stageLanes_of_cons h) (by simpa using hlen) (hother (by simp [lanesOf])),
        writePairs_other (stageLanes_of_cons h) (by simpa using hlen) (hother (by simp [lanesOf])),
        getD_set_pair _ _ _ (by omega) (by omega), getD_set_pair _ _ _ (by omega) (by omega), if_neg hne, if_pos rfl, if_pos rfl]
      exact ⟨rfl, rfl⟩
    · have hneq {l : ℕ} (hl : l ∈ lanesOf p) : l ≠ q.1.1 ∧ l ≠ q.1.2 := by
        have : ∀ k ∈ lanesOf q, l ≠ k := fun k hk hlk => hother hk p hp' (hlk ▸ hl)
        exact ⟨this _ (by simp [lanesOf]), this _ (by simp [lanesOf])⟩
      obtain ⟨h11, h12⟩ := hneq (l := p.1.1) (by simp [lanesOf])
      obtain ⟨h21, h22⟩ := hneq (l := p.1.2) (by simp [lanesOf])
      have := ih (stageLanes_of_cons h) (xs := (xs.set q.1.1 (f q (xs.getD q.1.1 z) (xs.getD q.1.2 z))).set q.1.2
        (g q (xs.getD q.1.1 z) (xs.getD q.1.2 z))) (by simpa using hlen) hp'
      rwa [getD_set_pair _ _ _ (by omega) (by omega), getD_set_pair _ _ _ (by omega) (by omega), if_neg h12, if_neg h11, if_neg h22,
        if_neg h21] at this

end

/-- A fold over pairs of accumulators that do not see each other. -/
theorem foldl_prod_mk {α β γ : Type} (f : β → α → β) (g : γ → α → γ) (xs : List α) (b : β) (c : γ) :
    xs.foldl (fun acc x => (f acc.1 x, g acc.2 x)) (b, c) = (xs.foldl f b, xs.foldl g c) := by
  induction xs generalizing b c with
  | nil => rfl
  | cons x xs ih => exact ih _ _

end Sys2Proof.Rotations
end

section
/-! Stages of rotations, sweep angles and the pairs of a stage (R139, R191, R192, R200, R203, R204). -/

namespace Sys2Proof.Rotations

open Sys2Proof Sys2Proof.Machine Sys2Proof.Claims Sys2Proof.Numbers

/-! ### What a pair of a stage writes -/

/-- The coefficient of a stage's sines: ROTI's as they are, ROTP's negated (R203, R204). -/
def stageSin (inverse : Bool) (code : ℕ) : ℤ := if inverse then (cosSin code).2 else -(cosSin code).2

/-- What a stage gives the first lane of a pair. -/
def firstLane (inverse : Bool) (p : (ℕ × ℕ) × ℕ) (a b : ℕ) : Elem := lin32 true (coef (cosSin p.2).1) a (coef (stageSin inverse p.2)) b

/-- What a stage gives the second lane of a pair. -/
def secondLane (inverse : Bool) (p : (ℕ × ℕ) × ℕ) (a b : ℕ) : Elem :=
  lin32 true (coef (stageSin inverse p.2)).negate a (coef (cosSin p.2).1) b

section
variable {inverse : Bool} {p : (ℕ × ℕ) × ℕ} {a b : ℕ}

theorem nearest_firstLane (ha : single.finite a) (hb : single.finite b) :
    nearest (cosOf p.2 * of32 a + (if inverse then sinOf p.2 else -sinOf p.2) * of32 b) (firstLane inverse p a b) := by
  have h := nearest_lin32 true (coef_isVal (cosSin p.2).1) (coef_isVal (stageSin inverse p.2)) ha hb
  have hs : (((stageSin inverse p.2 : ℤ) / 2 ^ 18 : ℚ) : ℝ) = if inverse then sinOf p.2 else -sinOf p.2 := by
    rw [stageSin, sinOf]
    split
    · rfl
    · push_cast; ring
  rw [hs] at h
  exact h

theorem nearest_secondLane (ha : single.finite a) (hb : single.finite b) :
    nearest (cosOf p.2 * of32 b - (if inverse then sinOf p.2 else -sinOf p.2) * of32 a) (secondLane inverse p a b) := by
  have h := nearest_lin32 true (negate_isVal (coef_isVal (stageSin inverse p.2))) (coef_isVal (cosSin p.2).1) ha hb
  have hs : ((-((stageSin inverse p.2 : ℤ) / 2 ^ 18) : ℚ) : ℝ) = -(if inverse then sinOf p.2 else -sinOf p.2) := by
    rw [stageSin, sinOf]
    split
    · push_cast; ring
    · push_cast; ring
  rw [hs, neg_mul, neg_add_eq_sub] at h
  exact h

end

/-- A stage writes its pairs from the lanes before it, and gathers their flags. -/
theorem stageStep_eq (inverse : Bool) (st : StagePairs) (xs : List ℕ) : stageStep inverse st xs =
    (writePairs 0 (fun p _ _ => (firstLane inverse p (xs.getD p.1.1 0) (xs.getD p.1.2 0)).1)
        (fun p _ _ => (secondLane inverse p (xs.getD p.1.1 0) (xs.getD p.1.2 0)).1) st xs,
      st.foldl (fun acc p => acc ||| ((firstLane inverse p (xs.getD p.1.1 0) (xs.getD p.1.2 0)).2 |||
        (secondLane inverse p (xs.getD p.1.1 0) (xs.getD p.1.2 0)).2)) 0) :=
  foldl_prod_mk (fun (acc : List ℕ) (p : (ℕ × ℕ) × ℕ) => (acc.set p.1.1 (firstLane inverse p (xs.getD p.1.1 0) (xs.getD p.1.2 0)).1).set p.1.2
      (secondLane inverse p (xs.getD p.1.1 0) (xs.getD p.1.2 0)).1)
    (fun acc p => acc ||| ((firstLane inverse p (xs.getD p.1.1 0) (xs.getD p.1.2 0)).2 |||
      (secondLane inverse p (xs.getD p.1.1 0) (xs.getD p.1.2 0)).2)) st xs 0

theorem stageStep_length (inverse : Bool) (st : StagePairs) (xs : List ℕ) : (stageStep inverse st xs).1.length = xs.length := by
  rw [stageStep_eq, writePairs_length]

/-! ### The flags of a lane -/

section
variable {st : StagePairs} {f g : (ℕ × ℕ) × ℕ → Flags}

/-- The flags of a lane: those of the pair that writes it. -/
def laneFlag (f g : (ℕ × ℕ) × ℕ → Flags) (st : StagePairs) (l : ℕ) : Flags :=
  (st.find? fun p => decide (l ∈ lanesOf p)).elim 0 fun p => if l = p.1.1 then f p else g p

theorem find_pair (h : stageLanes st) {p : (ℕ × ℕ) × ℕ} (hp : p ∈ st) {l : ℕ} (hl : l ∈ lanesOf p) :
    (st.find? fun p => decide (l ∈ lanesOf p)) = some p := by
  cases hf : st.find? fun p => decide (l ∈ lanesOf p) with
  | none => exact absurd hl (by simpa using List.find?_eq_none.1 hf p hp)
  | some q =>
    have hq : l ∈ lanesOf q := by simpa using List.find?_some hf
    rw [pair_unique h hp (List.mem_of_find?_eq_some hf) hl hq]

theorem laneFlag_fst (h : stageLanes st) {p : (ℕ × ℕ) × ℕ} (hp : p ∈ st) : laneFlag f g st p.1.1 = f p := by
  rw [laneFlag, find_pair h hp (by simp [lanesOf])]
  simp

theorem laneFlag_snd (h : stageLanes st) {p : (ℕ × ℕ) × ℕ} (hp : p ∈ st) : laneFlag f g st p.1.2 = g p := by
  rw [laneFlag, find_pair h hp (by simp [lanesOf])]
  simp [(pair_ne h hp).symm]

theorem laneFlag_other {l : ℕ} (hl : ∀ p ∈ st, l ∉ lanesOf p) : laneFlag f g st l = 0 := by
  rw [laneFlag, List.find?_eq_none.2 (by simpa using hl)]
  rfl

/-- The flags of all pairs are those of all lanes. -/
theorem getLsbD_foldl_pairs (h : stageLanes st) (b : ℕ) : (st.foldl (fun acc p => acc ||| (f p ||| g p)) 0).getLsbD b = true ↔
    ∃ l, l < 128 ∧ (laneFlag f g st l).getLsbD b = true := by
  rw [Conversions.getLsbD_foldl_or]
  simp only [BitVec.ofNat_eq_ofNat, BitVec.getLsbD_zero, Bool.false_eq_true, false_or, BitVec.getLsbD_or, Bool.or_eq_true]
  constructor
  · rintro ⟨p, hp, hf | hg⟩
    · exact ⟨p.1.1, (h.2 p hp).1, by rwa [laneFlag_fst h hp]⟩
    · exact ⟨p.1.2, (h.2 p hp).2, by rwa [laneFlag_snd h hp]⟩
  · rintro ⟨l, _, hl⟩
    by_cases hex : ∃ p ∈ st, l ∈ lanesOf p
    · obtain ⟨p, hp, hlp⟩ := hex
      simp only [lanesOf, List.mem_cons, List.not_mem_nil, or_false] at hlp
      rcases hlp with rfl | rfl
      · exact ⟨p, hp, .inl (by rwa [laneFlag_fst h hp] at hl)⟩
      · exact ⟨p, hp, .inr (by rwa [laneFlag_snd h hp] at hl)⟩
    · rw [laneFlag_other fun p hp hlp => hex ⟨p, hp, hlp⟩] at hl
      simp at hl

end

theorem getD_mem {α : Type} {xs : List α} {l : ℕ} (h : l < xs.length) (z : α) : xs.getD l z ∈ xs := by
  rw [List.getD_eq_getElem?_getD, List.getElem?_eq_getElem h]
  exact List.getElem_mem h

theorem not_mem_lanesOf {p : (ℕ × ℕ) × ℕ} {l : ℕ} : l ∉ lanesOf p ↔ p.1.1 ≠ l ∧ p.1.2 ≠ l := by
  simp [lanesOf, eq_comm]

/-- R203, R204: a stage rotates each of its pairs, and leaves the other lanes. -/
theorem stageStep_rounds (inverse : Bool) {st : StagePairs} {xs : List ℕ} (h : stageLanes st) (hlen : xs.length = 128)
    (hfin : ∀ x ∈ xs, single.finite x) : ∃ fl : ℕ → Flags, (stageStep inverse st xs).1.length = 128 ∧
      (∀ b, (stageStep inverse st xs).2.getLsbD b = true ↔ ∃ l, l < 128 ∧ (fl l).getLsbD b = true) ∧
      (∀ p ∈ st, nearest (cosOf p.2 * of32 (xs.getD p.1.1 0) + (if inverse then sinOf p.2 else -sinOf p.2) * of32 (xs.getD p.1.2 0))
          ((stageStep inverse st xs).1.getD p.1.1 0, fl p.1.1) ∧
        nearest (cosOf p.2 * of32 (xs.getD p.1.2 0) - (if inverse then sinOf p.2 else -sinOf p.2) * of32 (xs.getD p.1.1 0))
          ((stageStep inverse st xs).1.getD p.1.2 0, fl p.1.2)) ∧
      ∀ l, l < 128 → (∀ p ∈ st, p.1.1 ≠ l ∧ p.1.2 ≠ l) → (stageStep inverse st xs).1.getD l 0 = xs.getD l 0 ∧ fl l = 0 := by
  refine ⟨laneFlag (fun p => (firstLane inverse p (xs.getD p.1.1 0) (xs.getD p.1.2 0)).2)
    (fun p => (secondLane inverse p (xs.getD p.1.1 0) (xs.getD p.1.2 0)).2) st, ?_, fun b => ?_, fun p hp => ?_, fun l _ hl => ?_⟩
  · rw [stageStep_length, hlen]
  · rw [stageStep_eq]
    exact getLsbD_foldl_pairs h b
  · obtain ⟨hfst, hsnd⟩ := h.2 p hp
    have ha := hfin _ (getD_mem (hlen ▸ hfst) 0)
    have hb := hfin _ (getD_mem (hlen ▸ hsnd) 0)
    obtain ⟨h1, h2⟩ := writePairs_pair (z := 0) (f := fun p _ _ => (firstLane inverse p (xs.getD p.1.1 0) (xs.getD p.1.2 0)).1)
      (g := fun p _ _ => (secondLane inverse p (xs.getD p.1.1 0) (xs.getD p.1.2 0)).1) h hlen hp
    rw [stageStep_eq, h1, h2, laneFlag_fst h hp, laneFlag_snd h hp]
    exact ⟨nearest_firstLane ha hb, nearest_secondLane ha hb⟩
  · have hl' : ∀ p ∈ st, l ∉ lanesOf p := fun p hp => not_mem_lanesOf.2 (hl p hp)
    rw [stageStep_eq, writePairs_other h hlen hl', laneFlag_other hl']
    exact ⟨rfl, rfl⟩

/-! ### The identity angle -/

section
variable {l : Layout} {f : FltFmt}

/-- Equal magnitudes round alike. -/
theorem roundFin_congr (h : Describes l f) (mode : RMode) (n : Bool) {m m' : ℕ} {e e' : ℤ} (hv : (m : ℚ) * 2 ^ e = m' * 2 ^ e') :
    f.roundFin mode n m e = f.roundFin mode n m' e' := by
  have hzero : m = 0 ↔ m' = 0 := by
    rw [← finRat_eq_zero (neg := false) (e := e), ← finRat_eq_zero (neg := false) (e := e'), finRat, finRat]
    simp only [Bool.false_eq_true, if_false, hv]
  by_cases hm : m = 0
  · rw [hm, hzero.1 hm]
    exact (h.roundFin_zero mode n e).trans (h.roundFin_zero mode n e').symm
  · have hreal : (m : ℝ) * 2 ^ e = m' * 2 ^ e' := by
      have : ((m * 2 ^ e : ℚ) : ℝ) = ((m' * 2 ^ e' : ℚ) : ℝ) := by rw [hv]
      push_cast at this
      exact this
    rw [h.roundFin_eq mode n hm e, h.roundFin_eq mode n (fun h' => hm (hzero.2 h')) e', hreal]

/-- The decoded magnitude is one that the format holds. -/
theorem decode_short (h : Describes l f) {v m : ℕ} {n : Bool} {e : ℤ} (hd : f.decode v = .fin n m e) (hv : l.finite v) :
    m < 2 ^ (l.fb + 1) ∧ leastExp l ≤ e := by
  have hle : l.mag v ≤ l.largest := hv.2
  have hp : 0 < 2 ^ l.fb := by positivity
  have hmod := Nat.mod_lt (v % 2 ^ (l.w - 1)) hp
  rw [Layout.mag] at hle
  simp only [FltFmt.decode, h.w, h.fbits, h.bias, h.maxCode, hle, if_true, beq_iff_eq] at hd
  rw [leastExp, pow_succ]
  by_cases h0 : v % 2 ^ (l.w - 1) / 2 ^ l.fb = 0
  · rw [if_pos h0] at hd
    obtain ⟨_, rfl, rfl⟩ := FVal.fin.inj hd
    exact ⟨by omega, le_rfl⟩
  · obtain ⟨k, hk⟩ := Nat.exists_eq_succ_of_ne_zero h0
    rw [if_neg h0, hk] at hd
    obtain ⟨_, rfl, rfl⟩ := FVal.fin.inj hd
    exact ⟨by omega, by push_cast; omega⟩

/-- A finite encoding rounds to itself. -/
theorem round_decode (h : Describes l f) (mode : RMode) {v : ℕ} (hv : l.finite v) : f.round mode (f.decode v) = (v, 0) := by
  obtain ⟨m, e, hd, hmz, hmag⟩ := h.decode_finite hv
  obtain ⟨hm, he⟩ := decode_short h hd hv
  have hback := signed_mag h.w_pos hv.1
  rw [hd]
  by_cases h0 : m = 0
  · subst h0
    rw [h.roundFin_zero, ← hmz.1 rfl, hback]
  · have htop : (m : ℚ) * 2 ^ e ≤ l.top := by
      rw [hmag, h.top_eq]
      exact (magnitude_strictMono l).monotone hv.2
    obtain ⟨c, hc, _, hcmag⟩ := h.roundFin_exact mode (l.negative v) h0 hm he htop
    rw [hmag] at hcmag
    refine hc.trans ?_
    rw [(magnitude_strictMono l).injective hcmag, hback]

end

/-- A lane times 1.0, rounded, is the lane, and the canonical NaN for a NaN. -/
theorem rne32_one_mul (x : ℕ) : (single.number x → (rne32 (mulExact (coef (2 ^ 18)) (val32 x))).1 = x) ∧
    (single.isNan x → (rne32 (mulExact (coef (2 ^ 18)) (val32 x))).1 = single.nan) := by
  have hone : coef (2 ^ 18) = .fin false (2 ^ 18) (-18) := rfl
  rw [hone]
  refine ⟨?_, fun hn => ?_⟩
  · rintro (hf | hi)
    · obtain ⟨m, e, hd, _, _⟩ := single_describes.decode_finite hf
      have hround := round_decode single_describes .rne hf
      have hv : ((2 ^ 18 * m : ℕ) : ℚ) * 2 ^ (-18 + e) = m * 2 ^ e := by
        rw [zpow_add₀ (by norm_num)]
        push_cast
        norm_num
        ring
      rw [val32, hd, mulExact, rne32_exact, FltFmt.round, Bool.false_bne, roundFin_congr single_describes .rne _ hv]
      rw [hd] at hround
      exact congrArg Prod.fst hround
    · have hround := single_describes.round_inf .rne hi
      rw [val32, single_describes.decode_infinite hi, mulExact, if_neg (by simp), rne32_exact, Bool.false_bne, hround]
  · rw [val32, single_describes.decode_nan hn, mulExact_nan_right, rne32_exact, single_describes.round_nan]

/-- R203: an identity angle passes each lane of its pair whatever the other holds. -/
theorem stageStep_identity (inverse : Bool) {a b : ℕ} {xs : List ℕ} (ha : a < 128) (hb : b < 128) (hab : a ≠ b) (hlen : xs.length = 128)
    {l : ℕ} (hl : l = a ∨ l = b) :
    (stageStep inverse [((a, b), 0)] xs).1.getD l 0 = (rne32 (mulExact (coef (2 ^ 18)) (val32 (xs.getD l 0)))).1 := by
  have hst : stageLanes [((a, b), 0)] := ⟨by simp [hab], by simp [ha, hb]⟩
  have hcos : cosSin 0 = (2 ^ 18, 0) := by decide
  have hsin : coef (stageSin inverse 0) = .fin false 0 0 := by
    rw [stageSin, hcos]
    cases inverse <;> rfl
  have hone : coef 262144 = .fin false 262144 (-18) := rfl
  obtain ⟨h1, h2⟩ := writePairs_pair (z := 0) (f := fun p _ _ => (firstLane inverse p (xs.getD p.1.1 0) (xs.getD p.1.2 0)).1)
    (g := fun p _ _ => (secondLane inverse p (xs.getD p.1.1 0) (xs.getD p.1.2 0)).1) hst hlen (p := ((a, b), 0)) List.mem_cons_self
  rw [stageStep_eq]
  rcases hl with rfl | rfl
  · rw [h1]
    simp [firstLane, lin32, hcos, hsin, FVal.isZero]
  · rw [h2]
    simp [secondLane, lin32, hcos, hsin, hone, FVal.isZero, FVal.negate]

end Sys2Proof.Rotations
end

section
/-! Angles of a sweep, coefficients of codes, and the pairs of a stage (R139, R191, R200). -/

namespace Sys2Proof.Rotations

open Sys2Proof Sys2Proof.Machine Sys2Proof.Claims Sys2Proof.Numbers

/-! ### hypot and quotients (R191) -/

theorem val32_fin {x : ℕ} (h : single.finite x) : ∃ n m e, val32 x = .fin n m e ∧ single.val x = finRat n m e ∧ m < 2 ^ 24 := by
  obtain ⟨m, e, hd, _, hmag⟩ := single_describes.decode_finite h
  exact ⟨_, _, _, hd, val_eq_finRat hmag, (decode_short single_describes hd h).1⟩

theorem cast_finRat (n : Bool) (m : ℕ) (e : ℤ) : ((finRat n m e : ℚ) : ℝ) = withSign n (m * 2 ^ e) := by
  rw [finRat, withSign]
  split <;> push_cast <;> rfl

theorem withSign_sq (n : Bool) (y : ℝ) : withSign n y ^ 2 = y ^ 2 := by
  cases n <;> simp [withSign]

/-- A magnitude in units of a smaller power of two. -/
theorem natCast_mul_zpow_eq (m : ℕ) {e q : ℤ} (h : q ≤ e) : (m : ℝ) * 2 ^ e = ((m * 2 ^ (e - q).toNat : ℕ) : ℝ) * 2 ^ q := by
  push_cast
  rw [mul_assoc, ← zpow_natCast, ← zpow_add₀ (by norm_num)]
  congr 2
  omega

theorem single_fb : single.fb + 1 = 24 := rfl

/-- R191: hypot is the root of the sum of squares, correctly rounded. -/
theorem rounds_hypot32 {a b : ℕ} (ha : single.finite a) (hb : single.finite b) (h0 : ¬(of32 a = 0 ∧ of32 b = 0)) :
    single.rounds .rne (Real.sqrt (of32 a ^ 2 + of32 b ^ 2)) (hypot32 a b) := by
  obtain ⟨n, m, e, hva, hra, _⟩ := val32_fin ha
  obtain ⟨n', m', e', hvb, hrb, _⟩ := val32_fin hb
  obtain ⟨q, hq⟩ : ∃ q, q = if e < e' then e else e' := ⟨_, rfl⟩
  have hqe : q ≤ e ∧ q ≤ e' := by rw [hq]; split <;> omega
  set x := m * 2 ^ (e - q).toNat with hx
  set y := m' * 2 ^ (e' - q).toNat with hy
  have hsum : of32 a ^ 2 + of32 b ^ 2 = ((x * x + y * y : ℕ) : ℝ) * 2 ^ (2 * q) := by
    rw [of32, of32, hra, hrb, cast_finRat, cast_finRat, withSign_sq, withSign_sq, natCast_mul_zpow_eq m hqe.1,
      natCast_mul_zpow_eq m' hqe.2, ← hx, ← hy, mul_comm 2 q, zpow_mul, zpow_ofNat]
    push_cast
    ring
  have hpos : 0 < x * x + y * y := by
    rw [Nat.pos_iff_ne_zero]
    intro hz
    rw [hz, Nat.cast_zero, zero_mul] at hsum
    exact h0 ⟨by nlinarith [sq_nonneg (of32 a), sq_nonneg (of32 b)], by nlinarith [sq_nonneg (of32 a), sq_nonneg (of32 b)]⟩
  have hdef : hypot32 a b = rne32 (stickyVal false (Nat.sqrt ((x * x + y * y) * 2 ^ 64)) (q - 32)
      (Nat.sqrt ((x * x + y * y) * 2 ^ 64) * Nat.sqrt ((x * x + y * y) * 2 ^ 64) == (x * x + y * y) * 2 ^ 64), 0) := by
    rw [hypot32, hva, hvb, ← isqrt_eq_sqrt]
    simp only [← hq, ← hx, ← hy]
  have hwithin := within_sqrt (n := (x * x + y * y) * 2 ^ 64) (y := (((x * x + y * y) * 2 ^ 64 : ℕ) : ℝ)) le_rfl (lt_add_one _)
    (exact := Nat.sqrt ((x * x + y * y) * 2 ^ 64) * Nat.sqrt ((x * x + y * y) * 2 ^ 64) == (x * x + y * y) * 2 ^ 64)
    (by rw [Nat.cast_inj, beq_iff_eq])
  rw [hdef, rne32_exact]
  refine single_describes.rounds_within false ?_ hwithin ?_
  · rw [single_fb]
    exact le_trans (Nat.pow_le_pow_right (by norm_num) (by norm_num : 24 ≤ 32)) (two_pow_le_sqrt (Nat.le_mul_of_pos_left _ hpos))
  · have h64 : (((x * x + y * y) * 2 ^ 64 : ℕ) : ℝ) = ((x * x + y * y : ℕ) : ℝ) * 2 ^ (2 * (32 : ℤ)) := by
      rw [Nat.cast_mul]
      norm_num
    rw [hsum, sqrt_mul_two_zpow (by positivity), h64, sqrt_mul_two_zpow (by positivity), mul_assoc (Real.sqrt _), ← zpow_add₀ (by norm_num)]
    congr 2
    omega

theorem withSign_div (n n' : Bool) (x y : ℝ) : withSign n x / withSign n' y = withSign (n != n') (x / y) := by
  cases n <;> cases n' <;> simp [withSign, neg_div, div_neg]

/-- R191: a quotient of finite values is correctly rounded. -/
theorem nearest_div32 {x y : ℕ} (hx : single.finite x) (hy : single.finite y) (h0 : of32 y ≠ 0) :
    nearest (of32 x / of32 y) (div32 x y) := by
  obtain ⟨n, m, e, hvx, hrx, _⟩ := val32_fin hx
  obtain ⟨n', m', e', hvy, hry, hshort⟩ := val32_fin hy
  have hquot : of32 x / of32 y = withSign (n != n') (m * 2 ^ e / (m' * 2 ^ e')) := by
    rw [of32, of32, hrx, hry, cast_finRat, cast_finRat, withSign_div]
  have hm' : m' ≠ 0 := fun hz => h0 (by rw [of32, hry, hz]; simp [finRat])
  by_cases hm : m = 0
  · have hdef : div32 x y = rne32 (.fin (n != n') 0 0, 0) := by simp [div32, hvx, hvy, hm, hm']
    rw [hdef, hquot, hm]
    exact nearest_rne32 (isVal_zero _ _) (by simp [withSign])
  · have hdef : div32 x y = rne32 (stickyVal (n != n') (m * 2 ^ 64 / m') (e - e' - 64) (m * 2 ^ 64 % m' == 0), 0) := by
      simp [div32, hvx, hvy, hm, hm']
    have hround : single.rounds .rne (of32 x / of32 y) (div32 x y) := by
      rw [hdef, rne32_exact, hquot]
      refine single_describes.rounds_within _ ?_ (within_div (m * 2 ^ 64) (Nat.pos_of_ne_zero hm')) ?_
      · rw [single_fb, Nat.le_div_iff_mul_le (Nat.pos_of_ne_zero hm')]
        have : 0 < m := Nat.pos_of_ne_zero hm
        omega
      · rw [zpow_sub₀ (by norm_num), zpow_sub₀ (by norm_num)]
        have : (m' : ℝ) ≠ 0 := by exact_mod_cast hm'
        push_cast
        field_simp
        norm_num
    refine ⟨fun _ => hround, fun hz => ?_⟩
    exact absurd (div_eq_zero_iff.1 hz) (by
      rintro (hz | hz)
      · rw [of32, hrx, Rat.cast_eq_zero, finRat_eq_zero] at hz
        exact hm hz
      · exact h0 hz)

/-- What lies at or above the smallest magnitude does not round to a zero. -/
theorem rounds_ne_zero {y : ℝ} {r : ℕ × Flags} (hy : ((magnitude single 1 : ℚ) : ℝ) ≤ y) (hr : single.rounds .rne y r)
    (hfin : single.finite r.1) : of32 r.1 ≠ 0 := by
  have hone : (0 : ℝ) < ((magnitude single 1 : ℚ) : ℝ) := by
    have := (magnitude_strictMono single) Nat.zero_lt_one
    rw [magnitude_zero] at this
    exact_mod_cast this
  by_cases hover : single.overflows .rne y
  · have hmag : r.1 = single.signed _ _ := congrArg Prod.fst (hr.1 hover).1
    have hlarge : single.mag r.1 = 0x7F800000 := by
      rw [hmag, mag_signed (delivered_lt single_describes .rne _)]
      rfl
    exact absurd hfin.2 (by rw [hlarge]; decide)
  · obtain ⟨_, _, hchosen, _⟩ := hr.2 hover
    intro hz
    have hone' : single.finite (single.signed false 1) := single_describes.finite_signed (by decide)
    have hval : ((single.val (single.signed false 1) : ℚ) : ℝ) = ((magnitude single 1 : ℚ) : ℝ) := by
      rw [single_describes.val_signed (by decide)]
      rfl
    have hle := (hchosen _ hone').1
    rw [show ((single.val r.1 : ℚ) : ℝ) = 0 from hz, hval, zero_sub, abs_neg, abs_of_pos (hone.trans_le hy),
      abs_of_nonpos (by linarith)] at hle
    linarith

theorem magnitude_one_le {a : ℕ} (h : of32 a ≠ 0) : ((magnitude single 1 : ℚ) : ℝ) ≤ |of32 a| := by
  rw [of32, abs_val, magnitude_le_iff]
  have hne : single.mag a ≠ 0 := fun hz => h (by rw [of32, val_eq_zero.2 hz, Rat.cast_zero])
  omega

theorem hypot32_ne_zero {a b : ℕ} (ha : single.finite a) (hb : single.finite b) (h0 : ¬(of32 a = 0 ∧ of32 b = 0))
    (hfin : single.finite (hypot32 a b).1) : of32 (hypot32 a b).1 ≠ 0 := by
  refine rounds_ne_zero ?_ (rounds_hypot32 ha hb h0) hfin
  by_cases hza : of32 a = 0
  · have hzb : of32 b ≠ 0 := fun h => h0 ⟨hza, h⟩
    refine (magnitude_one_le hzb).trans (Real.abs_le_sqrt ?_)
    nlinarith [sq_nonneg (of32 a)]
  · refine (magnitude_one_le hza).trans (Real.abs_le_sqrt ?_)
    nlinarith [sq_nonneg (of32 b)]

/-- A finite value over an infinity is a zero. -/
theorem nearest_div32_infinite {x y : ℕ} (hx : single.finite x) (hy : single.infinite y) : nearest 0 (div32 x y) := by
  obtain ⟨n, m, e, hvx, _, _⟩ := val32_fin hx
  have hvy : val32 y = .inf (single.negative y) := single_describes.decode_infinite hy
  have hdef : div32 x y = rne32 (.fin (n != single.negative y) 0 0, 0) := by simp [div32, hvx, hvy]
  rw [hdef]
  exact nearest_rne32 (isVal_zero _ _) (by simp)

theorem val32_isZero {x : ℕ} (h : single.finite x) : (val32 x).isZero = true ↔ of32 x = 0 := by
  rw [isVal_isZero (val32_isVal h), of32, Rat.cast_eq_zero]

/-- R191: the angle of a pair of finite values. -/
theorem triAngle_rounds {a b : ℕ} (ha : single.finite a) (hb : single.finite b) :
    (of32 a = 0 → of32 b = 0 → triAngle a b = (0x3F800000, 0, none, 0)) ∧
    (¬(of32 a = 0 ∧ of32 b = 0) → ∃ h c s fh fc fs, triAngle a b = (c, s, some h, fh ||| fc ||| fs) ∧
      single.rounds .rne (Real.sqrt (of32 a ^ 2 + of32 b ^ 2)) (h, fh) ∧
      (single.finite h → nearest (of32 a / of32 h) (c, fc) ∧ nearest (of32 b / of32 h) (s, fs)) ∧
      (single.infinite h → nearest 0 (c, fc) ∧ nearest 0 (s, fs))) := by
  have hz : ((val32 a).isZero && (val32 b).isZero) = true ↔ of32 a = 0 ∧ of32 b = 0 := by
    rw [Bool.and_eq_true, val32_isZero ha, val32_isZero hb]
  refine ⟨fun hza hzb => ?_, fun h0 => ⟨(hypot32 a b).1, (div32 a (hypot32 a b).1).1, (div32 b (hypot32 a b).1).1, (hypot32 a b).2,
    (div32 a (hypot32 a b).1).2, (div32 b (hypot32 a b).1).2, ?_, rounds_hypot32 ha hb h0, fun hf => ?_, fun hi => ?_⟩⟩
  · rw [triAngle, if_pos (hz.2 ⟨hza, hzb⟩)]
    rfl
  · rw [triAngle, if_neg fun h => h0 (hz.1 h)]
  · have hne := hypot32_ne_zero ha hb h0 hf
    exact ⟨nearest_div32 ha hf hne, nearest_div32 hb hf hne⟩
  · exact ⟨nearest_div32_infinite ha hi, nearest_div32_infinite hb hi⟩

/-! ### Infinities and NaNs -/

theorem code_kinds {x : ℕ} (hx : x < 2 ^ 32) : single.finite x ∨ single.infinite x ∨ single.isNan x := by
  by_cases hle : single.mag x ≤ single.largest
  · exact .inl ⟨hx, hle⟩
  · by_cases hi : some (single.mag x) = single.inf
    · exact .inr (.inl ⟨hx, hi⟩)
    · exact .inr (.inr ⟨hx, not_le.1 hle, hi⟩)

theorem triAngle_infinite {a b : ℕ} (h : single.infinite a ∨ single.infinite b) : (triAngle a b).2.2.1 = some 0x7F800000 := by
  have hinf {x : ℕ} (hx : single.infinite x) : val32 x = .inf (single.negative x) := single_describes.decode_infinite hx
  have hzero : ((val32 a).isZero && (val32 b).isZero) = false := by
    rcases h with h | h <;> simp [hinf h, FVal.isZero]
  have hhypot : (hypot32 a b).1 = 0x7F800000 := by
    rcases h with h | h
    · simp [hypot32, hinf h]
    · rw [hypot32, hinf h]
      cases val32 a <;> rfl
  rw [triAngle, if_neg (by simp [hzero])]
  exact congrArg some hhypot

theorem triAngle_nan {a b : ℕ} (ha : a < 2 ^ 32) (hb : b < 2 ^ 32) (hia : ¬single.infinite a) (hib : ¬single.infinite b)
    (h : single.isNan a ∨ single.isNan b) : triAngle a b = (single.nan, single.nan, some single.nan, 0) := by
  have hkind {x : ℕ} (hx : x < 2 ^ 32) (hi : ¬single.infinite x) : val32 x = .nan ∨ ∃ n m e, val32 x = .fin n m e := by
    rcases code_kinds hx with hf | hi' | hn
    · obtain ⟨n, m, e, hv, _⟩ := val32_fin hf
      exact .inr ⟨n, m, e, hv⟩
    · exact absurd hi' hi
    · exact .inl (single_describes.decode_nan hn)
  have hnan : val32 a = .nan ∨ val32 b = .nan := h.imp single_describes.decode_nan single_describes.decode_nan
  have hcode : val32 single.nan = .nan := rfl
  have hquot (x : ℕ) : div32 x single.nan = (single.nan, 0) := by
    rw [div32, hcode]
    cases val32 x <;> rfl
  have hhypot : hypot32 a b = (single.nan, 0) := by
    rw [hypot32]
    rcases hkind ha hia with hva | ⟨n, m, e, hva⟩ <;> rcases hkind hb hib with hvb | ⟨n', m', e', hvb⟩ <;> rw [hva, hvb]
    · rfl
    · rfl
    · rfl
    · rw [hva, hvb] at hnan
      simp at hnan
  have hzero : ((val32 a).isZero && (val32 b).isZero) = false := by
    rcases hnan with h | h <;> simp [h, FVal.isZero]
  rw [triAngle, if_neg (by simp [hzero]), hhypot]
  dsimp only
  rw [hquot, hquot]
  rfl

/-! ### Cosines and sines (R139) -/

/-- The angles of the first quadrant mirrored at its middle swap cosine and sine. -/
theorem quadrant_mirror {r : ℕ} (h0 : 0 < r) (h : r < 16384) : quadrant (16384 - r) = ((quadrant r).2, (quadrant r).1) := by
  have hmid : octant 8192 = (185364, 185364) := by decide
  rw [quadrant, quadrant]
  rcases lt_trichotomy r 8192 with hlt | rfl | hgt
  · rw [if_neg (by omega), if_pos hlt.le, show 16384 - (16384 - r) = r by omega]
  · norm_num [hmid]
  · rw [if_pos (by omega), if_neg (by omega)]

/-- Cosine and sine `k` quarter turns after those of the first quadrant. -/
def quarterTurns (k : ℕ) (p : ℕ × ℕ) : ℤ × ℤ :=
  match k with
  | 0 => (p.1, p.2)
  | 1 => (-p.2, p.1)
  | 2 => (-p.1, -p.2)
  | _ => (p.2, -p.1)

/-- A code by its quadrant. -/
theorem cosSin_quadrant {k r : ℕ} (hk : k < 4) (hr : r < 16384) : cosSin (16384 * k + r) = quarterTurns k (quadrant r) := by
  have hmod : (16384 * k + r) % 16384 = r := by omega
  have hdiv : (16384 * k + r) / 16384 % 4 = k := by omega
  rw [cosSin, hmod, hdiv]
  interval_cases k <;> rfl

/-- R139: negating an angle keeps its cosine and negates its sine. -/
theorem cosSin_negCode {code : ℕ} (h : code < 65536) : cosSin (negCode code) = ((cosSin code).1, -(cosSin code).2) := by
  obtain ⟨k, r, hk, hr, rfl⟩ : ∃ k r, k < 4 ∧ r < 16384 ∧ code = 16384 * k + r :=
    ⟨code / 16384, code % 16384, by omega, by omega, by omega⟩
  have hzero : quadrant 0 = (2 ^ 18, 0) := by decide
  rw [cosSin_quadrant hk hr]
  by_cases hr0 : r = 0
  · subst hr0
    have hneg : negCode (16384 * k + 0) = 16384 * ((4 - k) % 4) + 0 := by rw [negCode]; omega
    rw [hneg, cosSin_quadrant (Nat.mod_lt _ (by norm_num)) (by norm_num), hzero]
    interval_cases k <;> rfl
  · have hneg : negCode (16384 * k + r) = 16384 * (3 - k) + (16384 - r) := by rw [negCode]; omega
    rw [hneg, cosSin_quadrant (by omega) (by omega), quadrant_mirror (by omega) hr]
    interval_cases k <;> simp [quarterTurns]

/-! ### The pairs of a stage (R200) -/

/-- R200: butterfly pattern k pairs the lanes that differ in bit k. -/
theorem butterfly_eq {k : ℕ} (hk : k < 7) : butterfly k =
    (List.range 64).map fun p => (p / 2 ^ k * 2 ^ (k + 1) + p % 2 ^ k, p / 2 ^ k * 2 ^ (k + 1) + p % 2 ^ k + 2 ^ k) := by
  interval_cases k <;> decide

theorem butterfly_lane {k : ℕ} (hk : k < 7) {p : ℕ} (hp : p < 64) :
    let a := p / 2 ^ k * 2 ^ (k + 1) + p % 2 ^ k
    a < 128 ∧ a / 2 ^ k % 2 = 0 ∧ a / 2 ^ (k + 1) * 2 ^ k + a % 2 ^ k = p := by
  interval_cases k <;> norm_num <;> omega

/-- R200: the lanes and the code of each pair of a stage. -/
theorem stageOf_pair (k : Cascade) (plane : Bool) (st : ℕ) {p : ℕ} (hp : p < 64) :
    let pl := if plane then k.plane1 else k.plane0
    let sel := (pl.sels.extractLsb' (5 * st) 5).toNat
    ∃ a b, (stageOf k plane st)[p]? = some ((a, b), (pl.codes.extractLsb' (16 * (64 * st + p)) 16).toNat) ∧
      (sel < 7 → a < 128 ∧ a / 2 ^ sel % 2 = 0 ∧ a / 2 ^ (sel + 1) * 2 ^ sel + a % 2 ^ sel = p ∧ b = a + 2 ^ sel) ∧
      (7 ≤ sel → ∃ img, k.patterns[sel - 7]? = some img ∧ a = (img.extractLsb' (16 * p) 8).toNat ∧
        b = (img.extractLsb' (16 * p + 8) 8).toNat) := by
  intro pl sel
  have hsel : sel < 32 := (pl.sels.extractLsb' (5 * st) 5).isLt
  have hget {ps : List (ℕ × ℕ)} {x : ℕ × ℕ} (hps : patternPairs k sel = ps) (hx : ps[p]? = some x) :
      (stageOf k plane st)[p]? = some (x, (pl.codes.extractLsb' (16 * (64 * st + p)) 16).toNat) := by
    have hst : stageOf k plane st = (patternPairs k sel).zipIdx.map
        fun q => (q.1, (pl.codes.extractLsb' (16 * (64 * st + q.2)) 16).toNat) := rfl
    rw [hst, hps]
    simp [hx]
  have hmap (g : ℕ → ℕ × ℕ) : ((List.range 64).map g)[p]? = some (g p) := by simp [hp]
  by_cases h7 : sel < 7
  · obtain ⟨hlt, heven, hp'⟩ := butterfly_lane h7 hp
    have hpairs : patternPairs k sel = _ := (if_pos h7).trans (butterfly_eq h7)
    exact ⟨_, _, hget hpairs (hmap _), fun _ => ⟨hlt, heven, hp', rfl⟩, fun h => absurd h7 (not_lt.2 h)⟩
  · have hlen : sel - 7 < 25 := by omega
    have himg : k.patterns.toArray.getD (sel - 7) pattern0 = k.patterns[sel - 7] := by simp [hlen]
    have hpairs : patternPairs k sel = imagePairs k.patterns[sel - 7] := by rw [patternPairs, if_neg h7, himg]
    exact ⟨_, _, hget hpairs (hmap _), fun h => absurd h h7, fun _ => ⟨k.patterns[sel - 7], by simp [hlen], rfl, rfl⟩⟩

theorem rotationsRound : RotationsRound := by
  refine ⟨fun c s a b hc hs ha hb => ?_, fun inverse st xs hst hlen hfin => ?_, fun inverse a b xs ha hb hab hlen l hl => ?_,
    fun a b ha hb => triAngle_rounds ha hb, fun a b ha hb => ⟨triAngle_infinite, fun hia hib hn => triAngle_nan ha hb hia hib hn⟩,
    fun code h => cosSin_negCode h, by decide, by decide, fun k plane st p _ hp => stageOf_pair k plane st hp⟩
  · exact nearest_rotPair false (val32_isVal hc) (val32_isVal hs) ha hb
  · exact stageStep_rounds inverse hst hlen hfin
  · rw [stageStep_identity inverse ha hb hab hlen hl]
    exact rne32_one_mul _

end Sys2Proof.Rotations
end

section
/-! Drift vectors and gradients (R205, R206). -/

namespace Sys2Proof.Rotations

open Sys2Proof Sys2Proof.Machine Sys2Proof.Claims Sys2Proof.Numbers

/-! ### Drift (R205) -/

/-- A lane of the drift times the drift of a code, rounded. -/
def driftLane (p : (ℕ × ℕ) × ℕ) (x : ℕ) : ℕ := (fp32F.mul .rne (val32 x) (val32 (driftQ p.2))).1

/-- A further stage multiplies the lanes of its pairs. -/
theorem driftOf_append (sts : List StagePairs) (st : StagePairs) :
    driftOf (sts ++ [st]) = writePairs 0 (fun p a _ => driftLane p a) (fun p _ b => driftLane p b) st (driftOf sts) := by
  rw [driftOf, List.foldl_append]
  rfl

theorem driftOf_length (sts : List StagePairs) : (driftOf sts).length = 128 := by
  induction sts using List.reverseRecOn with
  | nil => rfl
  | append_singleton sts st ih => rw [driftOf_append, writePairs_length, ih]

/-- R205: the drift of a code is c² + s², rounded. -/
theorem nearest_driftQ (code : ℕ) : ∃ f, nearest (cosOf code ^ 2 + sinOf code ^ 2) (driftQ code, f) := by
  have hval := finOfInt_isVal ((cosSin code).1 * (cosSin code).1 + (cosSin code).2 * (cosSin code).2) (-36) false
  refine ⟨_, nearest_rne32 hval ?_⟩
  rw [cosOf, sinOf]
  push_cast
  rw [show (2 : ℝ) ^ (-36 : ℤ) = (2 ^ 18)⁻¹ * (2 ^ 18)⁻¹ by norm_num]
  ring

theorem driftOf_rounds (sts : List StagePairs) {st : StagePairs} (h : stageLanes st) :
    (∀ p ∈ st, ∀ l, l = p.1.1 ∨ l = p.1.2 → single.finite ((driftOf sts).getD l 0) → ∃ q f g,
      nearest (cosOf p.2 ^ 2 + sinOf p.2 ^ 2) (q, f) ∧
        (single.finite q → nearest (of32 ((driftOf sts).getD l 0) * of32 q) ((driftOf (sts ++ [st])).getD l 0, g))) ∧
    ∀ l, (∀ p ∈ st, p.1.1 ≠ l ∧ p.1.2 ≠ l) → (driftOf (sts ++ [st])).getD l 0 = (driftOf sts).getD l 0 := by
  rw [driftOf_append]
  refine ⟨fun p hp l hl hfin => ?_, fun l hl => ?_⟩
  · obtain ⟨f, hq⟩ := nearest_driftQ p.2
    obtain ⟨h1, h2⟩ := writePairs_pair (z := 0) (f := fun p a _ => driftLane p a) (g := fun p _ b => driftLane p b) h
      (driftOf_length sts) hp
    refine ⟨driftQ p.2, f, (fp32F.mul .rne (val32 ((driftOf sts).getD l 0)) (val32 (driftQ p.2))).2, hq, fun hqfin => ?_⟩
    have hlane : (writePairs 0 (fun p a _ => driftLane p a) (fun p _ b => driftLane p b) st (driftOf sts)).getD l 0 =
        driftLane p ((driftOf sts).getD l 0) := by
      rcases hl with rfl | rfl
      · exact h1
      · exact h2
    rw [hlane]
    exact nearest_mul (val32_isVal hfin) (val32_isVal hqfin)
  · exact writePairs_other h (driftOf_length sts) fun p hp => not_mem_lanesOf.2 (hl p hp)

theorem driftRounds : DriftRounds :=
  ⟨rfl, fun sts _ h => driftOf_rounds sts h, by decide +kernel⟩

/-! ### Flags gathered in a fold -/

theorem among_iff {f fl : Flags} : among f fl ↔ ∀ b, f.getLsbD b = true → fl.getLsbD b = true := by
  rw [among]
  constructor
  · intro h b hb
    rw [← h, BitVec.getLsbD_or, hb, Bool.true_or]
  · intro h
    refine BitVec.eq_of_getLsbD_eq fun b _ => ?_
    rw [BitVec.getLsbD_or]
    cases hb : f.getLsbD b
    · rfl
    · rw [h b hb]; rfl

theorem among_trans {a b c : Flags} (hab : among a b) (hbc : among b c) : among a c :=
  among_iff.2 fun n hn => among_iff.1 hbc n (among_iff.1 hab n hn)

theorem among_or_left (a b : Flags) : among a (a ||| b) := among_iff.2 fun n hn => by simp [hn]

theorem among_or_right (a b : Flags) : among b (a ||| b) := among_iff.2 fun n hn => by simp [hn]

theorem among_foldl {α : Type} {f : α → Flags} {xs : List α} {x : α} (hx : x ∈ xs) (z : Flags) :
    among (f x) (xs.foldl (fun acc x => acc ||| f x) z) :=
  among_iff.2 fun b hb => (Conversions.getLsbD_foldl_or f xs z b).2 (.inr ⟨x, hx, hb⟩)

/-! ### Gradients (R206) -/

/-- The rounded difference of products of a pair. -/
def gradProduct (y g : List ℕ) (p : (ℕ × ℕ) × ℕ) : Elem :=
  rne32 (addFl (mulExact (val32 (y.getD p.1.1 0)) (val32 (g.getD p.1.2 0))) (mulExact (val32 (y.getD p.1.2 0)).negate (val32 (g.getD p.1.1 0))))

/-- The gradient entry of a pair with its product added. -/
def gradEntry (y g grad : List ℕ) (q : ((ℕ × ℕ) × ℕ) × ℕ) : Elem :=
  fp32F.add .rne (val32 (grad.getD q.2 0)) (val32 (gradProduct y g q.1).1)

/-- The lanes of a pair turned back. -/
def turnBack (xs : List ℕ) (p : (ℕ × ℕ) × ℕ) : Elem × Elem :=
  (firstLane true p (xs.getD p.1.1 0) (xs.getD p.1.2 0), secondLane true p (xs.getD p.1.1 0) (xs.getD p.1.2 0))

/-- The flags of a pair of a backward stage. -/
def gradFlags (y g grad : List ℕ) (q : ((ℕ × ℕ) × ℕ) × ℕ) : Flags :=
  (gradProduct y g q.1).2 ||| (gradEntry y g grad q).2 ||| ((turnBack y q.1).1.2 ||| (turnBack y q.1).2.2) |||
    ((turnBack g q.1).1.2 ||| (turnBack g q.1).2.2)

theorem foldl_zipIdx_fst {α β : Type} (f : β → α → β) (xs : List α) (b : β) :
    xs.zipIdx.foldl (fun acc q => f acc q.1) b = xs.foldl f b := by
  conv_rhs => rw [← List.zipIdx_map_fst 0 xs, List.foldl_map]

/-- A backward stage writes the lanes of both vectors pair by pair, and the gradient entries in order. -/
theorem gradStep_eq (st : StagePairs) (y g grad : List ℕ) : gradStep st y g grad =
    (writePairs 0 (fun p _ _ => (turnBack y p).1.1) (fun p _ _ => (turnBack y p).2.1) st y,
      writePairs 0 (fun p _ _ => (turnBack g p).1.1) (fun p _ _ => (turnBack g p).2.1) st g,
      st.zipIdx.foldl (fun acc q => acc.set q.2 (gradEntry y g grad q).1) grad,
      st.zipIdx.foldl (fun acc q => acc ||| gradFlags y g grad q) 0) := by
  have hvec (xs : List ℕ) : st.zipIdx.foldl (fun (acc : List ℕ) q => (acc.set q.1.1.1 (turnBack xs q.1).1.1).set q.1.1.2 (turnBack xs q.1).2.1) xs =
      writePairs 0 (fun p _ _ => (turnBack xs p).1.1) (fun p _ _ => (turnBack xs p).2.1) st xs :=
    foldl_zipIdx_fst (fun (acc : List ℕ) p => (acc.set p.1.1 (turnBack xs p).1.1).set p.1.2 (turnBack xs p).2.1) st xs
  rw [← hvec, ← hvec, ← foldl_prod_mk, ← foldl_prod_mk, ← foldl_prod_mk]
  refine List.foldl_ext _ _ _ fun acc q _ => ?_
  have hflags : acc.2.2.2 ||| gradFlags y g grad q = acc.2.2.2 ||| (gradProduct y g q.1).2 ||| (gradEntry y g grad q).2 |||
      ((turnBack y q.1).1.2 ||| (turnBack y q.1).2.2) ||| ((turnBack g q.1).1.2 ||| (turnBack g q.1).2.2) := by
    simp only [gradFlags, BitVec.or_assoc]
  rw [hflags]
  rfl

/-- Entries of a list set in the order of another list. -/
theorem getD_foldl_set {α : Type} (n : α × ℕ → ℕ) : ∀ {st : List α} {k : ℕ} {grad : List ℕ}, k + st.length ≤ grad.length →
    ((st.zipIdx k).foldl (fun acc q => acc.set q.2 (n q)) grad).length = grad.length ∧
      (∀ i, i < k → ((st.zipIdx k).foldl (fun acc q => acc.set q.2 (n q)) grad).getD i 0 = grad.getD i 0) ∧
      ∀ i p, st[i]? = some p → ((st.zipIdx k).foldl (fun acc q => acc.set q.2 (n q)) grad).getD (k + i) 0 = n (p, k + i)
  | [], k, grad, _ => by simp
  | x :: st, k, grad, hlen => by
    rw [List.length_cons] at hlen
    rw [List.zipIdx_cons, List.foldl_cons]
    obtain ⟨hl, hbefore, hat⟩ := getD_foldl_set n (st := st) (k := k + 1) (grad := grad.set k (n (x, k))) (by rw [List.length_set]; omega)
    have hset (i : ℕ) : (grad.set k (n (x, k))).getD i 0 = if i = k then n (x, k) else grad.getD i 0 := by
      simp only [List.getD_eq_getElem?_getD, List.getElem?_set, show k < grad.length by omega, if_true, eq_comm (a := k)]
      split <;> rfl
    refine ⟨hl.trans (List.length_set ..), fun i hi => ?_, fun i p hp => ?_⟩
    · rw [hbefore i (by omega), hset, if_neg (by omega)]
    · cases i with
      | zero =>
        obtain rfl : x = p := Option.some.inj hp
        exact (hbefore k (by omega)).trans ((hset k).trans (if_pos rfl))
      | succ i =>
        have := hat i p hp
        rwa [show k + 1 + i = k + (i + 1) by omega] at this

theorem nearest_gradProduct {y g : List ℕ} {p : (ℕ × ℕ) × ℕ} (hya : single.finite (y.getD p.1.1 0)) (hyb : single.finite (y.getD p.1.2 0))
    (hga : single.finite (g.getD p.1.1 0)) (hgb : single.finite (g.getD p.1.2 0)) :
    nearest (of32 (y.getD p.1.1 0) * of32 (g.getD p.1.2 0) - of32 (y.getD p.1.2 0) * of32 (g.getD p.1.1 0)) (gradProduct y g p) := by
  obtain ⟨u, hu, huv⟩ := mulExact_eq_of_isVal (val32_isVal hya) (val32_isVal hgb)
  obtain ⟨v, hv, hvv⟩ := mulExact_eq_of_isVal (negate_isVal (val32_isVal hyb)) (val32_isVal hga)
  obtain ⟨w, hw, hwv⟩ := addFl_isVal huv hvv
  rw [gradProduct, hu, hv, hw]
  refine nearest_rne32 hwv ?_
  simp only [of32]
  push_cast
  ring

theorem nearest_turnBack {xs : List ℕ} {p : (ℕ × ℕ) × ℕ} (ha : single.finite (xs.getD p.1.1 0)) (hb : single.finite (xs.getD p.1.2 0)) :
    nearest (cosOf p.2 * of32 (xs.getD p.1.1 0) + sinOf p.2 * of32 (xs.getD p.1.2 0)) (turnBack xs p).1 ∧
      nearest (cosOf p.2 * of32 (xs.getD p.1.2 0) - sinOf p.2 * of32 (xs.getD p.1.1 0)) (turnBack xs p).2 :=
  ⟨nearest_firstLane (inverse := true) ha hb, nearest_secondLane (inverse := true) ha hb⟩

theorem gradientsRound : GradientsRound := by
  intro st y g grad hst hy hg hlen hfin
  have hy' {l : ℕ} (hl : l < 128) : single.finite (y.getD l 0) :=
    hfin _ (List.mem_append_left _ (List.mem_append_left _ (getD_mem (hy ▸ hl) 0)))
  have hg' {l : ℕ} (hl : l < 128) : single.finite (g.getD l 0) :=
    hfin _ (List.mem_append_left _ (List.mem_append_right _ (getD_mem (hg ▸ hl) 0)))
  rw [gradStep_eq]
  obtain ⟨hgl, _, hat⟩ := getD_foldl_set (fun q => (gradEntry y g grad q).1) (st := st) (k := 0) (grad := grad) (by omega)
  refine ⟨by simp [hy], by simp [hg], hgl, fun i p hi => ?_⟩
  have hp : p ∈ st := List.mem_of_getElem? hi
  obtain ⟨ha, hb⟩ := hst.2 p hp
  have hil : i < grad.length := lt_of_lt_of_le (List.getElem?_eq_some_iff.1 hi).1 hlen
  have hq : (p, i) ∈ st.zipIdx := List.mem_zipIdx_iff_getElem?.2 hi
  have hflags : among (gradFlags y g grad (p, i)) (st.zipIdx.foldl (fun acc q => acc ||| gradFlags y g grad q) 0) := among_foldl hq 0
  have hall (b : ℕ) := among_iff.1 hflags b
  simp only [gradFlags, BitVec.getLsbD_or, Bool.or_eq_true] at hall
  obtain ⟨hy1, hy2⟩ := writePairs_pair (z := 0) (f := fun p _ _ => (turnBack y p).1.1) (g := fun p _ _ => (turnBack y p).2.1) hst hy hp
  obtain ⟨hg1, hg2⟩ := writePairs_pair (z := 0) (f := fun p _ _ => (turnBack g p).1.1) (g := fun p _ _ => (turnBack g p).2.1) hst hg hp
  obtain ⟨hny1, hny2⟩ := nearest_turnBack (hy' ha) (hy' hb)
  obtain ⟨hng1, hng2⟩ := nearest_turnBack (hg' ha) (hg' hb)
  refine ⟨⟨(gradProduct y g p).1, ⟨_, nearest_gradProduct (hy' ha) (hy' hb) (hg' ha) (hg' hb), among_iff.2 fun b h => hall b (by tauto)⟩,
    fun hm => ?_⟩, ?_, ?_, ?_, ?_⟩
  · have hentry := hat i p hi
    rw [Nat.zero_add] at hentry
    rw [hentry]
    exact ⟨_, nearest_add (val32_isVal (hfin _ (List.mem_append_right _ (getD_mem hil 0)))) (val32_isVal hm),
      among_iff.2 fun b h => hall b (by tauto)⟩
  · rw [hy1]; exact ⟨_, hny1, among_iff.2 fun b h => hall b (by tauto)⟩
  · rw [hy2]; exact ⟨_, hny2, among_iff.2 fun b h => hall b (by tauto)⟩
  · rw [hg1]; exact ⟨_, hng1, among_iff.2 fun b h => hall b (by tauto)⟩
  · rw [hg2]; exact ⟨_, hng2, among_iff.2 fun b h => hall b (by tauto)⟩

end Sys2Proof.Rotations
end

section
/-! Elements of runs of bytes, and the tail (R123, R207). -/

namespace Sys2Proof.Rotations

open Sys2Proof Sys2Proof.Machine Sys2Proof.Claims Sys2Proof.Numbers

/-! ### Numbers and their bytes -/

theorem ofLe_cons (b : Byte) (bs : List Byte) : ofLe (b :: bs) = b.toNat + 256 * ofLe bs := rfl

theorem ofLe_append (xs ys : List Byte) : ofLe (xs ++ ys) = ofLe xs + 256 ^ xs.length * ofLe ys := by
  induction xs with
  | nil => simp [ofLe]
  | cons b xs ih => rw [List.cons_append, ofLe_cons, ofLe_cons, ih, List.length_cons, pow_succ]; ring

theorem leBytes_succ (n v : ℕ) : leBytes (n + 1) v = BitVec.ofNat 8 v :: leBytes n (v / 256) := by
  rw [leBytes, List.range_succ_eq_map, List.map_cons, List.map_map, leBytes]
  congr 1
  · simp
  · refine List.map_congr_left fun i _ => ?_
    rw [Function.comp_apply, Nat.div_div_eq_div_mul, show 8 * (i + 1) = 8 + 8 * i by ring, pow_add, show 2 ^ 8 = 256 by rfl]

/-- The bytes of a number make it again. -/
theorem ofLe_leBytes (n v : ℕ) : ofLe (leBytes n v) = v % 256 ^ n := by
  induction n generalizing v with
  | zero => simp [leBytes, ofLe, Nat.mod_one]
  | succ n ih => rw [leBytes_succ, ofLe_cons, ih, BitVec.toNat_ofNat, show 2 ^ 8 = 256 by rfl, pow_succ', Nat.mod_mul]

theorem ofLe_lt (bs : List Byte) : ofLe bs < 256 ^ bs.length := by
  induction bs with
  | nil => simp [ofLe]
  | cons b bs ih =>
    have := b.isLt
    rw [ofLe_cons, List.length_cons, pow_succ]
    omega

/-- Elements of whole bytes, one after the other. -/
theorem codeAt_flatMap {c : ℕ} (hc : c ≤ 4) {xs : List ℕ} {k x : ℕ} (hx : xs[k]? = some x) :
    codeAt (8 * c) (xs.flatMap (leBytes c)) k = x % 2 ^ (8 * c) := by
  have hdrop (ys : List ℕ) : ∀ k, (ys.flatMap (leBytes c)).drop (k * c) = (ys.drop k).flatMap (leBytes c) := by
    induction ys with
    | nil => simp
    | cons y ys ih =>
      intro k
      cases k with
      | zero => simp
      | succ k =>
        rw [List.flatMap_cons, List.drop_succ_cons, ← ih k, List.drop_append, Conversions.leBytes_length,
          List.drop_of_length_le (by rw [Conversions.leBytes_length, Nat.succ_mul]; omega), List.nil_append,
          show (k + 1) * c - c = k * c by rw [Nat.succ_mul]; omega]
  obtain ⟨hk, rfl⟩ := List.getElem?_eq_some_iff.1 hx
  have htake : sliceOf (xs.flatMap (leBytes c)) (k * c) 4 = leBytes c xs[k] ++ ((xs.drop (k + 1)).flatMap (leBytes c)).take (4 - c) := by
    rw [sliceOf, hdrop, List.drop_eq_getElem_cons hk, List.flatMap_cons, List.take_append, Conversions.leBytes_length,
      List.take_of_length_le (by rw [Conversions.leBytes_length]; exact hc)]
  have hpow : 2 ^ (8 * c) = 256 ^ c := pow_mul 2 8 c
  have hstart : k * (8 * c) / 8 = k * c := by rw [show k * (8 * c) = k * c * 8 by ring, Nat.mul_div_cancel _ (by norm_num)]
  have hbit : k * (8 * c) % 8 = 0 := by rw [show k * (8 * c) = k * c * 8 by ring, Nat.mul_mod_left]
  rw [codeAt, hstart, hbit, htake, ofLe_append, ofLe_leBytes, Conversions.leBytes_length, hpow, pow_zero, Nat.div_one,
    Nat.add_mul_mod_self_left, Nat.mod_mod]

/-- The elements of a run of 8, 16 or 32 bits each. -/
theorem codeAt_bytesOf {w : ℕ} (hw : w = 8 ∨ w = 16 ∨ w = 32) {xs : List ℕ} {k x : ℕ} (hx : xs[k]? = some x) :
    codeAt w (bytesOf w xs) k = x % 2 ^ w := by
  rcases hw with rfl | rfl | rfl
  · exact codeAt_flatMap (c := 1) (by norm_num) hx
  · exact codeAt_flatMap (c := 2) (by norm_num) hx
  · exact codeAt_flatMap (c := 4) (by norm_num) hx

/-! ### SCALE and BIAS (R207) -/

section
variable {t : TailCfg} {l d x : ℕ}

/-- R207: g over the root of a positive d, correctly rounded. -/
theorem nearest_scaleBy {g : ℕ} (hg : single.finite g) (hd : single.finite d) (hpos : 0 < of32 d) :
    nearest (of32 g / Real.sqrt (of32 d)) (scaleBy g d) := by
  obtain ⟨n, m, e, hvg, hrg, _⟩ := val32_fin hg
  obtain ⟨n', md, ed, hvd, hrd, hshort⟩ := val32_fin hd
  have hmd : md ≠ 0 := fun hz => hpos.ne' (by rw [of32, hrd, finRat_eq_zero.2 hz, Rat.cast_zero])
  have hmd' : (0 : ℝ) < md := by exact_mod_cast Nat.pos_of_ne_zero hmd
  have hdval : of32 d = md * 2 ^ ed := by
    have hn' : n' = false := by
      rw [← Bool.not_eq_true, ← withSign_neg_iff n' (show (0 : ℝ) < md * 2 ^ ed by positivity), ← cast_finRat, ← hrd]
      exact not_lt.2 hpos.le
    rw [of32, hrd, cast_finRat, hn']
    rfl
  have hquot : of32 g / Real.sqrt (of32 d) = withSign n (m * 2 ^ e / Real.sqrt (md * 2 ^ ed)) := by
    rw [hdval, of32, hrg, cast_finRat, withSign, withSign]
    split
    · rw [neg_div]
    · rfl
  by_cases hm : m = 0
  · have hdef : scaleBy g d = rne32 (.fin n 0 0, 0) := by simp [scaleBy, hvg, hvd, hm]
    rw [hdef, hquot, hm]
    exact nearest_rne32 (isVal_zero _ _) (by simp [withSign])
  · obtain ⟨sh, hsh⟩ : ∃ sh : ℤ, sh = if (2 * e - ed) % 2 == 0 then 200 else 201 := ⟨_, rfl⟩
    obtain ⟨k, hk, hk200⟩ : ∃ k : ℕ, sh = k ∧ 200 ≤ k := ⟨sh.toNat, by rw [hsh]; split <;> rfl, by rw [hsh]; split <;> simp⟩
    have heven : 2 * ((2 * e - ed - sh) / 2) = 2 * e - ed - sh := by
      have : (2 * e - ed - sh) % 2 = 0 := by
        rw [hsh]
        split
        · have : (2 * e - ed) % 2 = 0 := eq_of_beq ‹_›
          omega
        · have : ¬(2 * e - ed) % 2 = 0 := fun he => ‹¬_› (beq_iff_eq.2 he)
          omega
      omega
    set num := m * m * 2 ^ k with hnum
    have hdef : scaleBy g d = rne32 (stickyVal n (Nat.sqrt (num / md)) ((2 * e - ed - sh) / 2)
        (Nat.sqrt (num / md) * Nat.sqrt (num / md) == num / md && num % md == 0), 0) := by
      rw [scaleBy, hvg, hvd, ← isqrt_eq_sqrt]
      dsimp only
      rw [if_neg (by simpa using hm), ← hsh, hk, Int.toNat_natCast, ← hnum]
    have hlo : ((num / md : ℕ) : ℝ) ≤ (num : ℝ) / md := Nat.cast_div_le
    have hhi : (num : ℝ) / md < ((num / md : ℕ) : ℝ) + 1 := by
      rw [div_lt_iff₀ hmd']
      exact_mod_cast Nat.lt_mul_of_div_lt (Nat.lt_succ_self (num / md)) (Nat.pos_of_ne_zero hmd)
    have hwithin := within_sqrt hlo hhi (exact := Nat.sqrt (num / md) * Nat.sqrt (num / md) == num / md && num % md == 0) (by
      rw [eq_div_iff hmd'.ne', Bool.and_eq_true, beq_iff_eq, beq_iff_eq]
      have hdm := Nat.div_add_mod' num md
      constructor
      · rintro ⟨hr, hz⟩
        rw [hr]
        rw [hz, add_zero] at hdm
        exact_mod_cast hdm
      · intro hr
        have hr' : Nat.sqrt (num / md) * Nat.sqrt (num / md) * md = num := by exact_mod_cast hr
        exact ⟨(Nat.div_eq_of_eq_mul_left (Nat.pos_of_ne_zero hmd) hr'.symm).symm, by rw [← hr', Nat.mul_mod_left]⟩)
    have hround : single.rounds .rne (of32 g / Real.sqrt (of32 d)) (scaleBy g d) := by
      rw [hdef, rne32_exact, hquot]
      refine single_describes.rounds_within n ?_ hwithin ?_
      · rw [single_fb]
        refine two_pow_le_sqrt ?_
        rw [Nat.le_div_iff_mul_le (Nat.pos_of_ne_zero hmd)]
        calc 2 ^ (2 * 24) * md ≤ 2 ^ (2 * 24) * 2 ^ 24 := Nat.mul_le_mul_left _ hshort.le
          _ ≤ 1 * 2 ^ k := by
            rw [← pow_add, one_mul]
            exact Nat.pow_le_pow_right (by norm_num) (by omega)
          _ ≤ num := Nat.mul_le_mul_right _ (Nat.mul_pos (Nat.pos_of_ne_zero hm) (Nat.pos_of_ne_zero hm))
      · have hsq : (m * 2 ^ e / Real.sqrt (md * 2 ^ ed) : ℝ) = Real.sqrt ((m * 2 ^ e) ^ 2 / (md * 2 ^ ed)) := by
          rw [Real.sqrt_div (by positivity), Real.sqrt_sq (by positivity)]
        rw [hsq, ← sqrt_mul_two_zpow (by positivity), heven]
        congr 1
        rw [hnum, zpow_sub₀ (by norm_num), zpow_sub₀ (by norm_num), hk, zpow_natCast, mul_comm 2 e, zpow_mul, zpow_ofNat]
        push_cast
        field_simp
    refine ⟨fun _ => hround, fun hz => absurd hz ?_⟩
    have : (0 : ℝ) < m * 2 ^ e / Real.sqrt (md * 2 ^ ed) := div_pos (by positivity) (Real.sqrt_pos.2 (by positivity))
    rw [hquot]
    intro hz
    have habs := abs_withSign n (m * 2 ^ e / Real.sqrt (md * 2 ^ ed))
    rw [hz, abs_zero, abs_of_pos this] at habs
    exact this.ne habs

theorem tailScale_off (hs : t.en.getLsbD 0 = false) (hn : t.en.getLsbD 1 = false) : tailScale t l d x = (x, 0) := by
  simp only [tailScale, hs, hn, Bool.not_false, Bool.and_self, if_true]

theorem tailScale_scale (hs : t.en.getLsbD 0 = true) (hn : t.en.getLsbD 1 = false) :
    tailScale t l d x = fp32F.mul .rne (val32 x) (val32 (word32 t.g l)) := by
  simp only [tailScale, hs, hn, Bool.not_true, Bool.false_and, Bool.false_eq_true, if_false, if_true, BitVec.ofNat_eq_ofNat, BitVec.or_zero]

/-- The gain of a lane: g, or 1.0 where SCALE is off. -/
def gainOf (t : TailCfg) (l : ℕ) : ℕ := if t.en.getLsbD 0 then word32 t.g l else 0x3F800000

theorem tailScale_norm (hn : t.en.getLsbD 1 = true) : tailScale t l d x =
    ((fp32F.mul .rne (val32 x) (val32 (scaleBy (gainOf t l) d).1)).1,
      (fp32F.mul .rne (val32 x) (val32 (scaleBy (gainOf t l) d).1)).2 ||| (scaleBy (gainOf t l) d).2) := by
  simp only [tailScale, hn, gainOf, one32, Bool.not_true, Bool.and_false, Bool.false_eq_true, if_false, if_true]

/-! ### ACT (R207) -/

/-- The segment of an index value is its floor, clamped. -/
theorem segmentOf_of_isVal {v : FVal} {y : ℚ} (hv : IsVal v y) : ((segmentOf v : ℕ) : ℤ) = max 0 (min 255 ⌊y⌋) := by
  obtain ⟨n, m, e, rfl, rfl⟩ := hv
  rw [segmentOf]
  cases n
  · have hfloor : ⌊finRat false m e⌋ = ((if e < 0 then m / 2 ^ (-e).toNat else m * 2 ^ e.toNat : ℕ) : ℤ) := by
      rw [finRat, if_neg (by simp)]
      split
      · have hz : (m : ℚ) * 2 ^ e = (m : ℚ) / ((2 ^ (-e).toNat : ℕ) : ℚ) := by
          rw [div_eq_mul_inv, Nat.cast_pow, ← zpow_natCast, ← zpow_neg]
          congr 2
          omega
        rw [hz, ← Int.natCast_floor_eq_floor (by positivity), Nat.floor_div_eq_div]
      · have hz : (m : ℚ) * 2 ^ e = ((m * 2 ^ e.toNat : ℕ) : ℚ) := by
          push_cast
          rw [← zpow_natCast]
          congr 2
          omega
        rw [hz, Int.floor_natCast]
    rw [hfloor]
    simp only [Bool.false_eq_true, if_false]
    generalize (if e < 0 then m / 2 ^ (-e).toNat else m * 2 ^ e.toNat) = k
    split <;> omega
  · have hle : finRat true m e ≤ 0 := by
      rw [finRat, if_pos rfl]
      exact neg_nonpos.2 (by positivity)
    have := Int.floor_le_iff.2 (show finRat true m e < ((0 : ℤ) : ℚ) + 1 by push_cast; linarith)
    simp only [if_true, Nat.cast_zero]
    omega

theorem isVal_not_nan {v : FVal} {y : ℚ} (h : IsVal v y) : v.isNan = false ∧ v.isSpecial = false := by
  obtain ⟨n, m, e, rfl, _⟩ := h
  exact ⟨rfl, rfl⟩

/-- R207: the activation of a finite element goes by the segment that its place in the table falls in. -/
theorem nearest_tailAct (hen : t.en.getLsbD 3 = true) (hx : single.finite x) (hlo : single.finite (word32 t.act 0))
    (hstep : single.finite (word32 t.act 1)) (hinv : single.finite (word32 t.act 2)) {i : ℤ}
    (hi : i = max 0 (min 255 ⌊(single.val x - single.val (word32 t.act 0)) * single.val (word32 t.act 2)⌋))
    (hy0 : single.finite (word32 t.act (4 + 2 * i.toNat))) (hslope : single.finite (word32 t.act (5 + 2 * i.toNat))) :
    nearest (of32 (word32 t.act (4 + 2 * i.toNat)) + of32 (word32 t.act (5 + 2 * i.toNat)) *
      (of32 x - of32 (word32 t.act 0) - i * of32 (word32 t.act 1))) (tailAct t x) := by
  obtain ⟨hnan, hspecial⟩ := isVal_not_nan (val32_isVal hx)
  obtain ⟨hdiff, hdiffFl⟩ := addExact_isVal .rne (val32_isVal hx) (negate_isVal (val32_isVal hlo))
  rw [← sub_eq_add_neg] at hdiff
  obtain ⟨hindex, _⟩ := mulExact_isVal hdiff (val32_isVal hinv)
  have hseg : segmentOf (mulExact (addExact .rne (val32 x) (val32 (word32 t.act 0)).negate).1 (val32 (word32 t.act 2))).1 = i.toNat := by
    have := segmentOf_of_isVal hindex
    omega
  have hicast : ((i.toNat : ℕ) : ℤ) = i := by omega
  obtain ⟨off, hoff, hoffv⟩ := mulExact_eq_of_isVal (valOfInt_isVal i) (val32_isVal hstep)
  obtain ⟨arg, harg, hargv⟩ := addFl_isVal hdiff (negate_isVal hoffv)
  obtain ⟨term, hterm, htermv⟩ := mulExact_eq_of_isVal (val32_isVal hslope) hargv
  obtain ⟨sum, hsum, hsumv⟩ := addFl_isVal (val32_isVal hy0) htermv
  have hdiffEq : addExact .rne (val32 x) (val32 (word32 t.act 0)).negate = ((addExact .rne (val32 x) (val32 (word32 t.act 0)).negate).1, 0) :=
    Prod.ext rfl hdiffFl
  have hargEq : addFl (addExact .rne (val32 x) (val32 (word32 t.act 0)).negate) (off.negate, 0) = (arg, 0) := by rw [hdiffEq]; exact harg
  have hflags : (0 : Flags) ||| 0 = 0 := rfl
  simp only [tailAct, hen, Bool.not_true, Bool.false_eq_true, if_false, hnan, (isVal_not_nan hindex).1, hseg, hspecial, hicast, hoff,
    hargEq, hterm, hflags, hsum]
  split
  · have hzero : of32 (word32 t.act (5 + 2 * i.toNat)) = 0 := (val32_isZero hslope).1 ‹_›
    exact nearest_rne32 (val32_isVal hy0) (by rw [hzero, zero_mul, add_zero]; rfl)
  · refine nearest_rne32 hsumv ?_
    simp only [of32]
    push_cast
    ring

/-! ### QNT (R207, R209) -/

/-- A quantised run of elements of a floating-point format that is not fp32. -/
theorem tailQuant_eq {f : FltFmt} (hen : t.en.getLsbD 4 = true) (hflt : t.qfmt.flt = some f) (hne : t.qfmt ≠ .fp32) (mode : ℕ → RMode)
    (xs : List ℕ) : tailQuant t mode xs =
      (bytesOf t.qfmt.width ((xs.zipIdx.map fun x => f.round (if t.qsr then mode x.2 else .rne) (val32 x.1)).map Prod.fst), [],
        (xs.zipIdx.map fun x => f.round (if t.qsr then mode x.2 else .rne) (val32 x.1)).foldl (fun acc r => acc ||| r.2) 0) := by
  have hblk : (t.qfmt == .mxfp8 || t.qfmt == .mxfp4) = false := by cases h : t.qfmt <;> simp_all [Fmt.flt]
  have hfp : (t.qfmt == .fp32) = false := by simpa using hne
  simp only [tailQuant, TailCfg.out, hen, if_true, hblk, Bool.false_eq_true, if_false, hfp, Fmt.rnd, hflt]

end

/-- The rows of Table 8-1 beside fp32 have elements of one or two bytes. -/
theorem floatRows_width : ∀ row ∈ floatRows, row.1.width = row.2.w ∧ (row.2.w = 8 ∨ row.2.w = 16 ∨ row.2.w = 32) := by decide

theorem overflowCode_lt {l : Layout} {f : FltFmt} (h : Describes l f) (mode : RMode) (neg up : Bool) :
    overflowCode l mode neg up < 2 ^ (l.w - 1) := by
  cases mode with
  | sr z =>
    have hinf : l.inf.getD l.largest < 2 ^ (l.w - 1) := by
      cases hi : l.inf with
      | none => exact h.room
      | some i => exact (h.above i hi).2
    rw [overflowCode]
    split
    · exact hinf
    · exact h.room
  | rne => exact delivered_lt h _ _
  | rtz => exact delivered_lt h _ _
  | rdn => exact delivered_lt h _ _
  | rup => exact delivered_lt h _ _

/-- What a finite value rounds to is a code of the format. -/
theorem round_fin_lt {l : Layout} {f : FltFmt} (h : Describes l f) (mode : RMode) (n : Bool) (m : ℕ) (e : ℤ) :
    (f.round mode (.fin n m e)).1 < 2 ^ l.w := by
  by_cases hm : m = 0
  · rw [hm, h.roundFin_zero]
    exact signed_lt h.w_pos (by positivity)
  · rw [FltFmt.round, h.roundFin_eq mode n hm e, roundReal, codeWithFlags]
    split
    · exact signed_lt h.w_pos (overflowCode_lt h _ _ _)
    · exact signed_lt h.w_pos (lt_of_le_of_lt (not_lt.1 ‹_›) h.room)

theorem tailRounds : TailRounds := by
  refine ⟨fun t l d x hx => ⟨tailScale_off, ?_, ?_, ?_, ?_, ?_, ?_⟩, fun t x hn hen => ?_, fun t l d x => rfl, ?_⟩
  · intro hs hn hg
    rw [tailScale_scale hs hn]
    rw [if_pos hs] at hg ⊢
    exact nearest_mul (val32_isVal hx) (val32_isVal hg)
  · intro hn hg hd hpos
    rw [tailScale_norm hn]
    exact ⟨_, _, _, nearest_scaleBy hg hd hpos, fun hf => ⟨nearest_mul (val32_isVal hx) (val32_isVal hf), rfl⟩⟩
  · intro hen
    simp only [tailBias, hen, Bool.false_eq_true, if_false]
  · intro hen hb
    have hdef : tailBias t l x = fp32F.add .rne (val32 x) (val32 (word32 t.b l)) := by simp only [tailBias, hen, if_true]
    rw [hdef]
    exact nearest_add (val32_isVal hx) (val32_isVal hb)
  · intro hen
    simp only [tailAct, hen, Bool.not_false, if_true]
  · intro hen hlo hstep hinv i y0 slope hy0 hslope
    exact nearest_tailAct hen hx hlo hstep hinv rfl hy0 hslope
  · have hnan : val32 x = .nan := single_describes.decode_nan hn
    simp only [tailAct, hen, hnan, Bool.not_true, Bool.false_eq_true, if_false]
    rfl
  · rintro ⟨fmt, L⟩ hrow hne t mode xs k x hen hq hk hx
    obtain ⟨f, hf, h⟩ := floatRows_describes _ hrow
    obtain ⟨hwidth, hw⟩ := floatRows_width _ hrow
    dsimp only at hne hq hf h hwidth hw ⊢
    subst hq
    rw [tailQuant_eq hen hf hne]
    obtain ⟨n, m, e, hv, hval, _⟩ := val32_fin hx
    have hmem : (x, k) ∈ xs.zipIdx := List.mem_zipIdx_iff_getElem?.2 hk
    have hget : ((xs.zipIdx.map fun x => f.round (if t.qsr then mode x.2 else .rne) (val32 x.1)).map Prod.fst)[k]? =
        some (f.round (if t.qsr then mode k else .rne) (val32 x)).1 := by simp [hk]
    have hlt : (f.round (if t.qsr then mode k else .rne) (val32 x)).1 < 2 ^ L.w := by rw [hv]; exact round_fin_lt h _ _ _ _
    have hcode := codeAt_bytesOf hw hget
    rw [Nat.mod_eq_of_lt hlt] at hcode
    dsimp only
    rw [hwidth, hcode]
    refine ⟨fun h0 => ?_, fun w h0 hsr => ?_⟩
    · have hneg : n = single.negative x := by
        have hd := single_describes.decode_finite hx
        obtain ⟨m', e', hd, _⟩ := hd
        rw [val32, hd] at hv
        exact (FVal.fin.inj hv).1.symm
      have hm : m = 0 := by
        rw [of32, hval, Rat.cast_eq_zero] at h0
        exact finRat_eq_zero.1 h0
      rw [hv, hm, h.roundFin_zero, hneg]
    · have hne : single.val x ≠ 0 := fun hz => h0 (by rw [of32, hz, Rat.cast_zero])
      refine ⟨(f.round (if t.qsr then mode k else .rne) (val32 x)).2, ?_, fun hq => ?_, fun hq => ?_⟩
      · exact among_foldl (f := Prod.snd) (List.mem_map_of_mem (f := fun x => f.round (if t.qsr then mode x.2 else .rne) (val32 x.1)) hmem) 0
      · rw [if_neg (by simp [hq])]
        exact h.round_isVal (by simp [plainModes]) (val32_isVal hx) hne
      · rw [if_pos hq, hsr hq]
        exact h.stochastic_isVal w (val32_isVal hx) hne

end Sys2Proof.Rotations
end

section
/-! Groups of product mode (R122, R143 to R147): the exact sum of a group, the aligned sum of an FP8 group, and NaNs and infinities. -/

namespace Sys2Proof.Products

open Sys2Proof Sys2Proof.Machine Sys2Proof.Claims Sys2Proof.Numbers Sys2Proof.Rotations

/-! ### Groups of finite products -/

/-- The sign, magnitude and exponent of a finite product. -/
abbrev Term := Bool × ℕ × ℤ

/-- The value of a term. -/
def Term.val (x : Term) : FVal := .fin x.1 x.2.1 x.2.2

/-- The number of a term. -/
def Term.rat (x : Term) : ℚ := finRat x.1 x.2.1 x.2.2

theorem minExp_terms (xs : List Term) :
    minExp (xs.map Term.val) = xs.foldl (fun acc x => if x.2.1 != 0 && x.2.2 < acc then x.2.2 else acc) 0 := by
  rw [minExp, List.foldl_map]
  rfl

theorem minExp_fold_le (xs : List Term) : ∀ z : ℤ, xs.foldl (fun acc x => if x.2.1 != 0 && x.2.2 < acc then x.2.2 else acc) z ≤ z ∧
    ∀ x ∈ xs, x.2.1 ≠ 0 → xs.foldl (fun acc x => if x.2.1 != 0 && x.2.2 < acc then x.2.2 else acc) z ≤ x.2.2 := by
  induction xs with
  | nil => simp
  | cons x xs ih =>
    intro z
    obtain ⟨hz, hall⟩ := ih (if x.2.1 != 0 && x.2.2 < z then x.2.2 else z)
    have hle : (if x.2.1 != 0 && x.2.2 < z then x.2.2 else z) ≤ z ∧ (x.2.1 ≠ 0 → (if x.2.1 != 0 && x.2.2 < z then x.2.2 else z) ≤ x.2.2) := by
      by_cases h0 : x.2.1 = 0
      · simp [h0]
      · by_cases hlt : x.2.2 < z
        · simp [h0, hlt, hlt.le]
        · simp [hlt, not_lt.1 hlt]
    rw [List.foldl_cons]
    refine ⟨hz.trans hle.1, fun y hy h0 => ?_⟩
    rcases List.mem_cons.1 hy with rfl | hy
    · exact hz.trans (hle.2 h0)
    · exact hall y hy h0

/-- The least exponent bounds those of the nonzero terms. -/
theorem minExp_le {xs : List Term} {x : Term} (hx : x ∈ xs) (h0 : x.2.1 ≠ 0) : minExp (xs.map Term.val) ≤ x.2.2 := by
  rw [minExp_terms]
  exact (minExp_fold_le xs 0).2 x hx h0

theorem foldl_add_eq_sum {α : Type} (f : α → ℤ) (xs : List α) (z : ℤ) : xs.foldl (fun acc x => acc + f x) z = z + (xs.map f).sum := by
  induction xs generalizing z with
  | nil => simp
  | cons x xs ih => rw [List.foldl_cons, ih, List.map_cons, List.sum_cons, add_assoc]

/-- The sum in units of an exponent that bounds theirs is exact. -/
theorem sumUnits_terms {xs : List Term} {q : ℤ} (hq : ∀ x ∈ xs, x.2.1 ≠ 0 → q ≤ x.2.2) :
    (sumUnits q (xs.map Term.val) : ℚ) * 2 ^ q = (xs.map Term.rat).sum := by
  have hsum : sumUnits q (xs.map Term.val) = (xs.map fun x => unitsOf x.1 x.2.1 x.2.2 q).sum := by
    rw [← zero_add (xs.map _).sum, ← foldl_add_eq_sum, sumUnits, List.foldl_map]
    rfl
  rw [hsum]
  clear hsum
  induction xs with
  | nil => simp
  | cons x xs ih =>
    have hx : (unitsOf x.1 x.2.1 x.2.2 q : ℚ) * 2 ^ q = x.rat := by
      by_cases h0 : x.2.1 = 0
      · rw [Term.rat, finRat_eq_zero.2 h0, unitsOf, h0]
        simp
      · exact unitsOf_mul_zpow _ _ (hq x List.mem_cons_self h0)
    rw [List.map_cons, List.sum_cons, List.map_cons, List.sum_cons, ← ih fun y hy => hq y (List.mem_cons_of_mem _ hy), ← hx]
    push_cast
    ring

/-! ### The aligned sum of an FP8 group (R146) -/

theorem maxExp_fold (xs : List Term) : ∀ z : ℤ,
    let r := xs.foldl (fun acc x => if x.2.1 != 0 && acc < expOf x.2.1 x.2.2 then expOf x.2.1 x.2.2 else acc) z
    z ≤ r ∧ (∀ x ∈ xs, x.2.1 ≠ 0 → expOf x.2.1 x.2.2 ≤ r) ∧ (r = z ∨ ∃ x ∈ xs, x.2.1 ≠ 0 ∧ r = expOf x.2.1 x.2.2) := by
  induction xs with
  | nil => simp
  | cons x xs ih =>
    intro z
    obtain ⟨hz, hall, hmem⟩ := ih (if x.2.1 != 0 && z < expOf x.2.1 x.2.2 then expOf x.2.1 x.2.2 else z)
    have hstep : z ≤ (if x.2.1 != 0 && z < expOf x.2.1 x.2.2 then expOf x.2.1 x.2.2 else z) ∧
        (x.2.1 ≠ 0 → expOf x.2.1 x.2.2 ≤ (if x.2.1 != 0 && z < expOf x.2.1 x.2.2 then expOf x.2.1 x.2.2 else z)) ∧
        ((if x.2.1 != 0 && z < expOf x.2.1 x.2.2 then expOf x.2.1 x.2.2 else z) = z ∨
          x.2.1 ≠ 0 ∧ (if x.2.1 != 0 && z < expOf x.2.1 x.2.2 then expOf x.2.1 x.2.2 else z) = expOf x.2.1 x.2.2) := by
      by_cases h0 : x.2.1 = 0
      · simp [h0]
      · by_cases hlt : z < expOf x.2.1 x.2.2
        · simp [h0, hlt, hlt.le]
        · simp [hlt, not_lt.1 hlt]
    obtain ⟨hle, hx, hor⟩ := hstep
    rw [List.foldl_cons]
    refine ⟨hle.trans hz, fun y hy h0 => ?_, ?_⟩
    · rcases List.mem_cons.1 hy with rfl | hy
      · exact (hx h0).trans hz
      · exact hall y hy h0
    · rcases hmem with h | ⟨y, hy, h0, h⟩
      · rcases hor with hor | ⟨h0, hor⟩
        · exact .inl (h.trans hor)
        · exact .inr ⟨x, List.mem_cons_self, h0, h.trans hor⟩
      · exact .inr ⟨y, List.mem_cons_of_mem _ hy, h0, h⟩

theorem Term.abs_rat (x : Term) : |x.rat| = x.2.1 * 2 ^ x.2.2 := abs_finRat _ _ _

theorem Term.rat_ne_zero {x : Term} : x.rat ≠ 0 ↔ x.2.1 ≠ 0 := finRat_eq_zero.not

/-- The exponent of a nonzero term. -/
theorem expOf_iff {x : Term} (h0 : x.2.1 ≠ 0) (e : ℤ) : e ≤ expOf x.2.1 x.2.2 ↔ 2 ^ e ≤ |x.rat| := by
  obtain ⟨hlo, hhi⟩ := two_zpow_expOf_le (x := (x.2.1, x.2.2)) h0
  have habs : magRat (x.2.1, x.2.2) = |x.rat| := (abs_finRat _ _ _).symm
  rw [habs] at hlo hhi
  constructor
  · exact fun h => le_trans (zpow_le_zpow_right₀ (by norm_num) h) hlo
  · intro h
    have hlt := (zpow_lt_zpow_iff_right₀ (by norm_num : (1 : ℚ) < 2)).1 (lt_of_le_of_lt h hhi)
    exact Int.lt_add_one_iff.1 hlt

/-- The largest exponent of a group is that of its largest term. -/
theorem maxExpOf_terms {xs : List Term} {e : ℤ} (hlow : -1000000 ≤ e) (hex : ∃ x ∈ xs, 2 ^ e ≤ |x.rat|)
    (hall : ∀ x ∈ xs, |x.rat| < 2 ^ (e + 1)) : maxExpOf (xs.map Term.val) = e := by
  have hdef : maxExpOf (xs.map Term.val) =
      xs.foldl (fun acc x => if x.2.1 != 0 && acc < expOf x.2.1 x.2.2 then expOf x.2.1 x.2.2 else acc) (-1000000) := by
    rw [maxExpOf, List.foldl_map]
    rfl
  obtain ⟨_, hle, hmem⟩ := maxExp_fold xs (-1000000)
  rw [← hdef] at hle hmem
  apply le_antisymm
  · rcases hmem with h | ⟨x, hx, h0, h⟩
    · rw [h]; exact hlow
    · rw [h, ← Int.lt_add_one_iff, ← not_le, expOf_iff h0, not_le]
      exact hall x hx
  · obtain ⟨x, hx, hxe⟩ := hex
    have h0 : x.2.1 ≠ 0 := by
      rw [← Term.rat_ne_zero]
      intro hz
      rw [hz, abs_zero] at hxe
      exact absurd hxe (not_le.2 (by positivity))
    exact ((expOf_iff h0 e).2 hxe).trans (hle x hx h0)

/-- The whole units of 2^(emax − 18) in a term. -/
def unitsIn (emax : ℤ) (x : Term) : ℕ :=
  if x.2.2 + 18 - emax < 0 then x.2.1 / 2 ^ (-(x.2.2 + 18 - emax)).toNat else x.2.1 * 2 ^ (x.2.2 + 18 - emax).toNat

/-- Whether a term has bits below 2^(emax − 18). -/
def bitsLost (emax : ℤ) (x : Term) : Bool := x.2.2 + 18 - emax < 0 && x.2.1 % 2 ^ (-(x.2.2 + 18 - emax)).toNat != 0

theorem scaled_rat (emax : ℤ) (x : Term) : |x.rat| * 2 ^ (18 - emax) = x.2.1 * 2 ^ (x.2.2 + 18 - emax) := by
  rw [Term.abs_rat, mul_assoc, ← zpow_add₀ (by norm_num)]
  congr 2
  ring

theorem unitsIn_eq_floor (emax : ℤ) (x : Term) : ((unitsIn emax x : ℕ) : ℤ) = ⌊|x.rat| * 2 ^ (18 - emax)⌋ := by
  rw [scaled_rat, unitsIn]
  split
  · have hz : (x.2.1 : ℚ) * 2 ^ (x.2.2 + 18 - emax) = (x.2.1 : ℚ) / ((2 ^ (-(x.2.2 + 18 - emax)).toNat : ℕ) : ℚ) := by
      rw [div_eq_mul_inv, Nat.cast_pow, ← zpow_natCast, Nat.cast_ofNat, ← zpow_neg]
      congr 2
      omega
    rw [hz, ← Int.natCast_floor_eq_floor (by positivity), Nat.floor_div_eq_div]
  · have hz : (x.2.1 : ℚ) * 2 ^ (x.2.2 + 18 - emax) = ((x.2.1 * 2 ^ (x.2.2 + 18 - emax).toNat : ℕ) : ℚ) := by
      push_cast
      rw [← zpow_natCast]
      congr 2
      omega
    rw [hz, Int.floor_natCast]

theorem bitsLost_iff (emax : ℤ) (x : Term) : bitsLost emax x = true ↔ ((unitsIn emax x : ℕ) : ℚ) ≠ |x.rat| * 2 ^ (18 - emax) := by
  rw [scaled_rat, unitsIn, bitsLost]
  split
  · have hp : (0 : ℚ) < ((2 ^ (-(x.2.2 + 18 - emax)).toNat : ℕ) : ℚ) := by positivity
    have hz : (x.2.1 : ℚ) * 2 ^ (x.2.2 + 18 - emax) = (x.2.1 : ℚ) / ((2 ^ (-(x.2.2 + 18 - emax)).toNat : ℕ) : ℚ) := by
      rw [div_eq_mul_inv, Nat.cast_pow, ← zpow_natCast, Nat.cast_ofNat, ← zpow_neg]
      congr 2
      omega
    rw [hz, ne_eq, eq_div_iff hp.ne']
    have hdm := Nat.div_add_mod' x.2.1 (2 ^ (-(x.2.2 + 18 - emax)).toNat)
    have hiff : ((x.2.1 / 2 ^ (-(x.2.2 + 18 - emax)).toNat : ℕ) : ℚ) * ((2 ^ (-(x.2.2 + 18 - emax)).toNat : ℕ) : ℚ) = (x.2.1 : ℚ) ↔
        x.2.1 % 2 ^ (-(x.2.2 + 18 - emax)).toNat = 0 := by
      constructor
      · intro h
        have h' : x.2.1 / 2 ^ (-(x.2.2 + 18 - emax)).toNat * 2 ^ (-(x.2.2 + 18 - emax)).toNat = x.2.1 := by exact_mod_cast h
        omega
      · intro h
        rw [h, add_zero] at hdm
        exact_mod_cast hdm
    rw [hiff]
    simp [*]
  · have hz : (x.2.1 : ℚ) * 2 ^ (x.2.2 + 18 - emax) = ((x.2.1 * 2 ^ (x.2.2 + 18 - emax).toNat : ℕ) : ℚ) := by
      push_cast
      rw [← zpow_natCast]
      congr 2
      omega
    rw [hz]
    simp [*]

/-- The aligned sum of an FP8 group, and whether a term lost bits. -/
theorem fp8Field_terms (emax : ℤ) (xs : List Term) : fp8Field emax (xs.map Term.val) =
    ((xs.map fun x => if x.1 then -((unitsIn emax x : ℕ) : ℤ) else ((unitsIn emax x : ℕ) : ℤ)).sum, xs.any (bitsLost emax)) := by
  have hany (b : Bool) : xs.foldl (fun acc x => acc || bitsLost emax x) b = (b || xs.any (bitsLost emax)) := by
    induction xs generalizing b with
    | nil => simp
    | cons x xs ih => rw [List.foldl_cons, ih, List.any_cons, Bool.or_assoc]
  have hdef : fp8Field emax (xs.map Term.val) = (xs.foldl (fun acc x => acc +
      if x.1 then -((unitsIn emax x : ℕ) : ℤ) else ((unitsIn emax x : ℕ) : ℤ)) 0, xs.foldl (fun acc x => acc || bitsLost emax x) false) := by
    rw [fp8Field, List.foldl_map, ← foldl_prod_mk]
    rfl
  rw [hdef, foldl_add_eq_sum, hany]
  simp

/-- The sign of a term's units. -/
theorem signed_units (emax : ℤ) (x : Term) : (if x.1 then -((unitsIn emax x : ℕ) : ℤ) else ((unitsIn emax x : ℕ) : ℤ)) =
    if x.rat < 0 then -⌊|x.rat| * 2 ^ (18 - emax)⌋ else ⌊|x.rat| * 2 ^ (18 - emax)⌋ := by
  rw [← unitsIn_eq_floor]
  by_cases h0 : x.2.1 = 0
  · have : unitsIn emax x = 0 := by simp [unitsIn, h0]
    simp [this]
  · have hneg : x.rat < 0 ↔ x.1 = true := finRat_neg_iff h0
    simp only [hneg]

/-! ### A group added (R144 to R147) -/

theorem terms_contains {xs : List Term} : (xs.map fun x => (x.val, (0 : Flags))).contains (FVal.nan, (0 : Flags)) = false ∧
    (xs.map Term.val).contains FVal.nan = false ∧ ∀ n, (xs.map Term.val).contains (FVal.inf n) = false := by
  refine ⟨?_, ?_, fun n => ?_⟩ <;> simp [Term.val]

/-- R144 to R147: a group of finite products. -/
theorem addGroup_adds (fp8 : Bool) (sc : ℤ) {acc : ℕ} (hacc : single.finite acc) {xs : List Term}
    (hlow : ∀ x ∈ xs, x.2.1 ≠ 0 → -999999 ≤ expOf x.2.1 x.2.2) :
    groupAdds fp8 sc acc (xs.map Term.rat) (addGroup fp8 (some sc) acc (xs.map fun x => (x.val, 0))) := by
  obtain ⟨hnan, hnan', hinf⟩ := terms_contains (xs := xs)
  have hfst : (xs.map fun x => (x.val, (0 : Flags))).map Prod.fst = xs.map Term.val := by rw [List.map_map]; rfl
  have hexact := sumUnits_terms (xs := xs) (q := minExp (xs.map Term.val)) fun x hx h0 => minExp_le hx h0
  set q := minExp (xs.map Term.val) with hq
  set p := sumUnits q (xs.map Term.val) with hp
  have hzero : (xs.map Term.rat).sum = 0 ↔ p = 0 := by
    rw [← hexact, mul_eq_zero, or_iff_left (by positivity), Int.cast_eq_zero]
  have hdef : addGroup fp8 (some sc) acc (xs.map fun x => (x.val, 0)) = if p = 0 then (acc, 0)
      else if fp8 then
        ((fp32F.add .rne (val32 acc) (finOfInt (fp8Field (maxExpOf (xs.map Term.val)) (xs.map Term.val)).1
            (maxExpOf (xs.map Term.val) - 18) false)).1,
          if (fp8Field (maxExpOf (xs.map Term.val)) (xs.map Term.val)).2 then
            (fp32F.add .rne (val32 acc) (finOfInt (fp8Field (maxExpOf (xs.map Term.val)) (xs.map Term.val)).1
              (maxExpOf (xs.map Term.val) - 18) false)).2 ||| fNX
          else (fp32F.add .rne (val32 acc) (finOfInt (fp8Field (maxExpOf (xs.map Term.val)) (xs.map Term.val)).1
            (maxExpOf (xs.map Term.val) - 18) false)).2)
      else fp32F.add .rne (val32 acc) (finOfInt p (q + sc) false) := by
    simp only [addGroup, hnan, hfst, hnan', hinf, Bool.false_and, Bool.false_or, Bool.false_eq_true, if_false, beq_iff_eq, ← hq, ← hp]
  rw [hdef]
  refine ⟨fun h0 => by rw [if_pos (hzero.1 h0)], fun h0 hfp => ?_, fun h0 hfp e hex hall => ?_⟩
  · rw [if_neg (hzero.not.1 h0), if_neg (by simp [hfp])]
    have hval : (p : ℚ) * 2 ^ (q + sc) = (xs.map Term.rat).sum * 2 ^ sc := by
      rw [zpow_add₀ (by norm_num), ← mul_assoc, hexact]
    rw [← hval]
    exact nearest_add (val32_isVal hacc) (finOfInt_isVal _ _ _)
  · obtain ⟨t, ht, hte⟩ := hex
    obtain ⟨x, hx, rfl⟩ := List.mem_map.1 ht
    have hex' : ∃ x ∈ xs, 2 ^ e ≤ |x.rat| := ⟨x, hx, hte⟩
    have hall' : ∀ x ∈ xs, |x.rat| < 2 ^ (e + 1) := fun x hx => hall _ (List.mem_map_of_mem hx)
    have he : -1000000 ≤ e := by
      obtain ⟨x, hx, hxe⟩ := hex'
      have hx0 : x.2.1 ≠ 0 := by
        rw [← Term.rat_ne_zero]
        intro hz
        rw [hz, abs_zero] at hxe
        exact absurd hxe (not_le.2 (by positivity))
      have hlt := hall' x hx
      rw [← not_le, ← expOf_iff hx0] at hlt
      have := hlow x hx hx0
      omega
    rw [if_neg (hzero.not.1 h0), if_pos hfp, maxExpOf_terms he hex' hall', fp8Field_terms]
    have hfield : (xs.map fun x => if x.1 then -((unitsIn e x : ℕ) : ℤ) else ((unitsIn e x : ℕ) : ℤ)).sum =
        ((xs.map Term.rat).map fun t => if t < 0 then -⌊|t| * 2 ^ (18 - e)⌋ else ⌊|t| * 2 ^ (18 - e)⌋).sum := by
      rw [List.map_map]
      exact congrArg List.sum (List.map_congr_left fun x _ => signed_units e x)
    have hlost : xs.any (bitsLost e) = true ↔ ∃ t ∈ xs.map Term.rat, ((⌊|t| * 2 ^ (18 - e)⌋ : ℤ) : ℚ) ≠ |t| * 2 ^ (18 - e) := by
      have hx (x : Term) : bitsLost e x = true ↔ ((⌊|x.rat| * 2 ^ (18 - e)⌋ : ℤ) : ℚ) ≠ |x.rat| * 2 ^ (18 - e) := by
        rw [bitsLost_iff, ← unitsIn_eq_floor, Int.cast_natCast]
      simp only [List.any_eq_true, List.mem_map, hx, exists_exists_and_eq_and]
    refine ⟨(fp32F.add .rne (val32 acc) (finOfInt (xs.map fun x => if x.1 then -((unitsIn e x : ℕ) : ℤ) else
      ((unitsIn e x : ℕ) : ℤ)).sum (e - 18) false)).2, ?_, fun hno => ?_, fun hyes => ?_⟩
    · dsimp only
      rw [← hfield]
      exact nearest_add (val32_isVal hacc) (finOfInt_isVal _ _ _)
    · have : xs.any (bitsLost e) = false := by
        rw [← Bool.not_eq_true, hlost]
        rintro ⟨t, ht, hne⟩
        exact hne (hno t ht)
      simp [this]
    · simp [hlost.2 hyes]

end Sys2Proof.Products
end

section
/-! Output elements of a product (R122, R143, R144, R147, R227). -/

namespace Sys2Proof.Products

open Sys2Proof Sys2Proof.Machine Sys2Proof.Claims Sys2Proof.Numbers Sys2Proof.Rotations

/-! ### NaNs and infinities of a group (R144) -/

section
variable {fp8 : Bool} {sc : ℤ} {acc : ℕ} {ps : List Prod32}

theorem contains_val_iff {v : FVal} : (ps.map Prod.fst).contains v = true ↔ ∃ p ∈ ps, p.1 = v := by
  rw [List.contains_iff_mem, List.mem_map]

theorem addGroup_given (h : (FVal.nan, (0 : Flags)) ∈ ps) : addGroup fp8 (some sc) acc ps = (single.nan, 0) := by
  simp only [addGroup, List.contains_iff_mem.2 h, if_true]
  rfl

theorem addGroup_made (h : (∃ p ∈ ps, p.1 = .nan ∧ p.2 ≠ 0) ∨ ((∃ p ∈ ps, p.1 = .inf false) ∧ ∃ p ∈ ps, p.1 = .inf true))
    (hg : (FVal.nan, (0 : Flags)) ∉ ps) : addGroup fp8 (some sc) acc ps = (single.nan, fNV) := by
  have hcond : ((ps.map Prod.fst).contains .nan || ((ps.map Prod.fst).contains (.inf false) && (ps.map Prod.fst).contains (.inf true))) = true := by
    rcases h with ⟨p, hp, hn, _⟩ | ⟨hpos, hneg⟩
    · rw [contains_val_iff.2 ⟨p, hp, hn⟩]; rfl
    · rw [contains_val_iff.2 hpos, contains_val_iff.2 hneg]; simp
  have hno : ps.contains (FVal.nan, (0 : Flags)) = false := by simpa using hg
  simp only [addGroup, hno, hcond, Bool.false_eq_true, if_false, if_true]
  rfl

theorem addGroup_infinite (hm : ¬((∃ p ∈ ps, p.1 = .nan ∧ p.2 ≠ 0) ∨ ((∃ p ∈ ps, p.1 = .inf false) ∧ ∃ p ∈ ps, p.1 = .inf true)))
    (hg : (FVal.nan, (0 : Flags)) ∉ ps) {neg : Bool} (hi : ∃ p ∈ ps, p.1 = .inf neg) (hacc : single.finite acc) :
    addGroup fp8 (some sc) acc ps = (single.signed neg 0x7F800000, 0) := by
  have hno : ps.contains (FVal.nan, (0 : Flags)) = false := by simpa using hg
  have hnan : (ps.map Prod.fst).contains FVal.nan = false := by
    rw [← Bool.not_eq_true, contains_val_iff]
    rintro ⟨p, hp, hn⟩
    by_cases h0 : p.2 = 0
    · exact hg (by rw [← hn, ← h0]; exact hp)
    · exact hm (.inl ⟨p, hp, hn, h0⟩)
  have hother : (ps.map Prod.fst).contains (.inf !neg) = false := by
    rw [← Bool.not_eq_true, contains_val_iff]
    intro h
    cases neg
    · exact hm (.inr ⟨hi, h⟩)
    · exact hm (.inr ⟨h, hi⟩)
  obtain ⟨n, m, e, hv, _⟩ := val32_fin hacc
  have hadd (k : Bool) : fp32F.add .rne (val32 acc) (.inf k) = (single.signed k 0x7F800000, 0) := by
    rw [hv, FltFmt.add, addExact]
    dsimp only
    rw [single_describes.round_infinity, show single.inf = some 0x7F800000 by rfl, Option.elim_some]
    exact Prod.ext rfl (BitVec.or_zero)
  have hthis := contains_val_iff.2 hi
  simp only [addGroup, hno, hnan, Bool.false_eq_true, if_false]
  cases neg <;> simp only [Bool.not_false, Bool.not_true] at hother <;>
    simp only [hthis, hother, Bool.or_false, Bool.or_true, Bool.and_true, Bool.and_false, Bool.false_eq_true, if_true,
      if_false, hadd]

end

/-! ### A fold of groups -/

/-- The accumulator after each of a row of groups, with the flags of the last. -/
def groupAccs (add : ℕ → ℕ → Elem) (acc : ℕ) : ℕ → Elem
  | 0 => (acc, 0)
  | q + 1 => add q (groupAccs add acc q).1

/-- Groups added in order: the last accumulator, and the flags of all. -/
theorem foldl_groups (add : ℕ → ℕ → Elem) (acc n : ℕ) :
    let r := (List.range n).foldl (fun (r : Elem) q => ((add q r.1).1, r.2 ||| (add q r.1).2)) (acc, 0)
    r.1 = (groupAccs add acc n).1 ∧ ∀ b, r.2.getLsbD b = true ↔ ∃ q, q < n ∧ (groupAccs add acc (q + 1)).2.getLsbD b = true := by
  induction n with
  | zero => exact ⟨rfl, by simp⟩
  | succ n ih =>
    obtain ⟨hacc, hfl⟩ := ih
    rw [List.range_succ, List.foldl_append]
    refine ⟨by simp only [List.foldl_cons, List.foldl_nil, hacc]; rfl, fun b => ?_⟩
    simp only [List.foldl_cons, List.foldl_nil, hacc, BitVec.getLsbD_or, Bool.or_eq_true, hfl]
    constructor
    · rintro (⟨q, hq, h⟩ | h)
      · exact ⟨q, by omega, h⟩
      · exact ⟨n, by omega, h⟩
    · rintro ⟨q, hq, h⟩
      rcases Nat.lt_succ_iff_lt_or_eq.1 hq with hlt | rfl
      · exact .inl ⟨q, hlt, h⟩
      · exact .inr h

/-! ### Operands of a product (R122, R143, R147) -/

/-- What the model reads of an operand in a format of product mode. -/
structure ReadsAs (f : Fmt) (l : Layout) (size : ℕ) (F : FltFmt) : Prop where
  describes : Describes l F
  width : f.width = l.w
  elem : ∀ (x : ProdSrc), x.fmt = f → ∀ k i j, x.elem k i j =
    F.decode (bitsAt (ofLe (sliceOf x.bytes ((i * k + j) * f.width / 8) 2)) ((i * k + j) * f.width % 8) f.width)
  narrow : l.w = 4 ∨ l.w = 8 ∨ l.w = 16
  least : -200 ≤ leastExp l
  group : groupSize f = size
  fp8 : (f == .e4m3 || f == .e5m2) = (size == 16)
  blk : f.isBlk = (size == 32)
  pos : 0 < size
  blocks : size = 32 → f.lanes / 32 = 64 / l.w

theorem prodRows_readsAs {row : Fmt × Layout × ℕ} (hrow : row ∈ prodRows) : ∃ F, ReadsAs row.1 row.2.1 row.2.2 F := by
  simp only [prodRows, List.mem_cons, List.not_mem_nil, or_false] at hrow
  have hbf16 : Describes ⟨16, 7, 127, 0x7F7F, some 0x7F80, 0x7FC0⟩ bf16F := by constructor <;> simp [bf16F]
  have he4m3 : Describes ⟨8, 3, 7, 0x7E, none, 0x7F⟩ e4m3F := by constructor <;> simp [e4m3F]
  have he5m2 : Describes ⟨8, 2, 15, 0x7B, some 0x7C, 0x7E⟩ e5m2F := by constructor <;> simp [e5m2F]
  have he2m1 : Describes ⟨4, 1, 1, 7, none, 0⟩ e2m1F := by constructor <;> simp [e2m1F]
  rcases hrow with rfl | rfl | rfl | rfl | rfl
  · exact ⟨bf16F, hbf16, rfl, fun x hx k i j => by simp only [ProdSrc.elem, hx]; rfl, by decide, by decide, rfl, rfl, rfl, by decide, by decide⟩
  · exact ⟨e4m3F, he4m3, rfl, fun x hx k i j => by simp only [ProdSrc.elem, hx]; rfl, by decide, by decide, rfl, rfl, rfl, by decide, by decide⟩
  · exact ⟨e5m2F, he5m2, rfl, fun x hx k i j => by simp only [ProdSrc.elem, hx]; rfl, by decide, by decide, rfl, rfl, rfl, by decide, by decide⟩
  · exact ⟨e4m3F, he4m3, rfl, fun x hx k i j => by simp only [ProdSrc.elem, hx], by decide, by decide, rfl, rfl, rfl, by decide, by decide⟩
  · exact ⟨e2m1F, he2m1, rfl, fun x hx k i j => by simp only [ProdSrc.elem, hx], by decide, by decide, rfl, rfl, rfl, by decide, by decide⟩

/-- Two bytes hold a narrow element as well as four do. -/
theorem bitsAt_eq_codeAt {w : ℕ} (hw : w = 4 ∨ w = 8 ∨ w = 16) (bs : List Byte) (n : ℕ) :
    bitsAt (ofLe (sliceOf bs (n * w / 8) 2)) (n * w % 8) w = codeAt w bs n := by
  rw [bitsAt, codeAt]
  have htake (cs : List Byte) : ∃ r, ofLe (cs.take 4) = ofLe (cs.take 2) + 65536 * r := by
    by_cases hlen : 2 ≤ cs.length
    · refine ⟨ofLe ((cs.drop 2).take 2), ?_⟩
      have h2 : (cs.take 2).length = 2 := by rw [List.length_take]; omega
      have hsplit : cs.take 4 = cs.take 2 ++ (cs.drop 2).take 2 := by rw [← List.take_add]
      rw [hsplit, ofLe_append, h2]
      norm_num
    · refine ⟨0, ?_⟩
      rw [List.take_of_length_le (by omega), List.take_of_length_le (by omega)]
      rfl
  obtain ⟨r, hr⟩ := htake (bs.drop (n * w / 8))
  rw [sliceOf, sliceOf, hr]
  generalize ofLe ((bs.drop (n * w / 8)).take 2) = x
  rcases hw with rfl | rfl | rfl
  · rcases Nat.even_or_odd n with ⟨c, rfl⟩ | ⟨c, rfl⟩
    · rw [show (c + c) * 4 % 8 = 0 by omega]
      omega
    · rw [show (2 * c + 1) * 4 % 8 = 4 by omega]
      omega
  · rw [show n * 8 % 8 = 0 by omega]
    omega
  · rw [show n * 16 % 8 = 0 by omega]
    omega

/-- The term of a finite value. -/
def termOf (v : FVal) : Term :=
  match v with
  | .nan => (false, 0, 0)
  | .inf _ => (false, 0, 0)
  | .fin n m e => (n, m, e)

section
variable {la lb : Layout} {fa fb : FltFmt}

/-- A product of finite elements is a finite term of their exact product, and not too small. -/
theorem mulExact_term (ha : Describes la fa) (hb : Describes lb fb) (hla : -200 ≤ leastExp la) (hlb : -200 ≤ leastExp lb) {x y : ℕ}
    (hx : la.finite x) (hy : lb.finite y) :
    mulExact (fa.decode x) (fb.decode y) = ((termOf (mulExact (fa.decode x) (fb.decode y)).1).val, 0) ∧
      (termOf (mulExact (fa.decode x) (fb.decode y)).1).rat = la.val x * lb.val y ∧
      -999999 ≤ expOf (termOf (mulExact (fa.decode x) (fb.decode y)).1).2.1 (termOf (mulExact (fa.decode x) (fb.decode y)).1).2.2 := by
  obtain ⟨m, e, hdx, _, hmx⟩ := ha.decode_finite hx
  obtain ⟨m', e', hdy, _, hmy⟩ := hb.decode_finite hy
  have he := (decode_short ha hdx hx).2
  have he' := (decode_short hb hdy hy).2
  rw [hdx, hdy]
  refine ⟨rfl, ?_, ?_⟩
  · rw [val_eq_finRat hmx, val_eq_finRat hmy]
    simp only [mulExact, termOf, Term.rat, finRat]
    rw [zpow_add₀ (by norm_num)]
    push_cast
    cases la.negative x <;> cases lb.negative y <;> simp <;> ring
  · simp only [mulExact, termOf, expOf]
    omega

end

theorem on_iff (x : ProdSrc) (k i j : ℕ) : x.on k i j = true ↔
    ∀ bs, x.bits = some bs → (bs.getD ((i * k + j) / 8) 0).getLsbD ((i * k + j) % 8) = true := by
  rw [ProdSrc.on]
  cases x.bits <;> simp

/-- A group's rule does not see the order of its terms. -/
theorem groupAdds_perm {fp8 : Bool} {sc : ℤ} {acc : ℕ} {ts ts' : List ℚ} (h : ts.Perm ts') {r : ℕ × Flags} (hr : groupAdds fp8 sc acc ts r) :
    groupAdds fp8 sc acc ts' r := by
  have hsum := h.sum_eq
  have hmem (t : ℚ) : t ∈ ts ↔ t ∈ ts' := h.mem_iff
  have hfield (e : ℤ) : (ts.map fun t => if t < 0 then -⌊|t| * 2 ^ (18 - e)⌋ else ⌊|t| * 2 ^ (18 - e)⌋).sum =
      (ts'.map fun t => if t < 0 then -⌊|t| * 2 ^ (18 - e)⌋ else ⌊|t| * 2 ^ (18 - e)⌋).sum := (h.map _).sum_eq
  simp only [groupAdds, hsum, hmem, hfield] at hr ⊢
  exact hr

/-- The terms of group `q` of an output element that take part. -/
def groupKs (a b : ProdSrc) (k i j g q : ℕ) : List ℕ :=
  ((List.range g).map fun x => g * q + x).filter fun x => x < k && a.on k i x && b.on k j x

theorem groupKs_nodup (a b : ProdSrc) (k i j g q : ℕ) : (groupKs a b k i j g q).Nodup :=
  ((List.nodup_range).map fun x y h => by simpa using h).filter _

theorem mem_groupKs {a b : ProdSrc} {k i j g q x : ℕ} : x ∈ groupKs a b k i j g q ↔
    g * q ≤ x ∧ x < g * (q + 1) ∧ x < k ∧ a.on k i x = true ∧ b.on k j x = true := by
  simp only [groupKs, List.mem_filter, List.mem_map, List.mem_range, Bool.and_eq_true, decide_eq_true_eq, and_assoc]
  constructor
  · rintro ⟨⟨y, hy, rfl⟩, h⟩
    exact ⟨by omega, by rw [Nat.mul_succ]; omega, h⟩
  · rintro ⟨hlo, hhi, h⟩
    rw [Nat.mul_succ] at hhi
    exact ⟨⟨x - g * q, by omega, by omega⟩, h⟩

/-- The scale of group `q`: none where a block's scale is a NaN (R147). -/
def groupScale (a b : ProdSrc) (k i j g q : ℕ) : Option ℤ :=
  if a.fmt.isBlk then
    if a.scale k i (g * q) == 255 || b.scale k j (g * q) == 255 then none else some ((a.scale k i (g * q) : ℤ) + b.scale k j (g * q) - 254)
  else some 0

/-- Group `q` of an output element. -/
def elemGroup (a b : ProdSrc) (k i j q acc : ℕ) : Elem :=
  addGroup (a.fmt == .e4m3 || a.fmt == .e5m2) (groupScale a b k i j (groupSize a.fmt) q) acc
    ((groupKs a b k i j (groupSize a.fmt) q).map fun x => mulExact (a.elem k i x) (b.elem k j x))

theorem prodElem_eq (a b : ProdSrc) (k i j acc : ℕ) : prodElem a b k i j acc =
    (List.range ((k + groupSize a.fmt - 1) / groupSize a.fmt)).foldl
      (fun (r : Elem) q => ((elemGroup a b k i j q r.1).1, r.2 ||| (elemGroup a b k i j q r.1).2)) (acc, 0) := rfl

theorem groupsRound : GroupsRound := by
  refine ⟨?_, fun fp8 sc acc ps => ⟨rfl, fun hg _ => addGroup_given hg, fun hm hg => addGroup_made hm hg,
    fun neg hm hg hi hacc => addGroup_infinite hm hg hi hacc⟩⟩
  rintro ⟨fa, la, size⟩ hra ⟨fb, lb, size'⟩ hrb hsize a b k i j acc hfa hfb _ hacc
  obtain ⟨A, hA⟩ := prodRows_readsAs hra
  obtain ⟨B, hB⟩ := prodRows_readsAs hrb
  dsimp only at hA hB hsize hfa hfb ⊢
  subst hsize
  intro hfin hscale
  have hea (x : ℕ) : a.elem k i x = A.decode (codeAt la.w a.bytes (i * k + x)) := by
    rw [hA.elem a hfa, hA.width, bitsAt_eq_codeAt hA.narrow]
  have heb (x : ℕ) : b.elem k j x = B.decode (codeAt lb.w b.bytes (j * k + x)) := by
    rw [hB.elem b hfb, hB.width, bitsAt_eq_codeAt hB.narrow]
  have hgroup : groupSize a.fmt = size := by rw [hfa, hA.group]
  obtain ⟨hlast, hflags⟩ := foldl_groups (elemGroup a b k i j) acc ((k + size - 1) / size)
  rw [prodElem_eq, hgroup]
  refine ⟨groupAccs (elemGroup a b k i j) acc, rfl, hlast, hflags, fun q hq hqacc ks hnd hks => ?_⟩
  have hq' : size * q < k := by
    have h1 := (Nat.lt_div_iff_mul_lt hA.pos).1 hq
    have := hA.pos
    have h2 : size * q = q * size := Nat.mul_comm _ _
    omega
  have hperm : (groupKs a b k i j size q).Perm ks := by
    refine (List.perm_ext_iff_of_nodup (groupKs_nodup a b k i j size q) hnd).2 fun x => ?_
    rw [mem_groupKs, hks, on_iff, on_iff]
  have hterm {x : ℕ} (hx : x ∈ groupKs a b k i j size q) := by
    obtain ⟨_, _, hxk, hona, honb⟩ := mem_groupKs.1 hx
    obtain ⟨hfa, hfb⟩ := hfin x hxk ((on_iff _ _ _ _).1 hona) ((on_iff _ _ _ _).1 honb)
    exact mulExact_term hA.describes hB.describes hA.least hB.least hfa hfb
  have hsc : groupScale a b k i j size q = some (if size = 32 then
      (((a.sides.getD ((i * k + 32 * q) / 32 / (64 / la.w) * 16 + (i * k + 32 * q) / 32 % (64 / la.w)) 0).toNat : ℤ) +
        (b.sides.getD ((j * k + 32 * q) / 32 / (64 / lb.w) * 16 + (j * k + 32 * q) / 32 % (64 / lb.w)) 0).toNat - 254) else 0) := by
    rw [groupScale, hfa, hA.blk]
    by_cases h32 : size = 32
    · subst h32
      obtain ⟨hca, hcb⟩ := hscale rfl q hq'
      simp only [ProdSrc.scale, hfa, hfb, hA.blocks rfl, hB.blocks rfl, beq_self_eq_true, if_true]
      rw [if_neg (by simp only [Bool.or_eq_true, beq_iff_eq, not_or]; exact ⟨hca, hcb⟩)]
    · simp [h32]
  have hps : ((groupKs a b k i j size q).map fun x => mulExact (a.elem k i x) (b.elem k j x)) =
      ((groupKs a b k i j size q).map fun x => termOf (mulExact (a.elem k i x) (b.elem k j x)).1).map fun x => (x.val, 0) := by
    rw [List.map_map]
    refine List.map_congr_left fun x hx => ?_
    simp only [Function.comp_apply, hea, heb]
    exact (hterm hx).1
  have hts : ((groupKs a b k i j size q).map fun x => termOf (mulExact (a.elem k i x) (b.elem k j x)).1).map Term.rat =
      (groupKs a b k i j size q).map fun x => la.val (codeAt la.w a.bytes (i * k + x)) * lb.val (codeAt lb.w b.bytes (j * k + x)) := by
    rw [List.map_map]
    refine List.map_congr_left fun x hx => ?_
    simp only [Function.comp_apply, hea, heb]
    exact (hterm hx).2.1
  refine groupAdds_perm (hperm.map _) ?_
  rw [← hts, groupAccs, elemGroup, hgroup, hsc, hfa, hA.fp8, hps]
  refine addGroup_adds _ _ hqacc fun t ht _ => ?_
  obtain ⟨x, hx, rfl⟩ := List.mem_map.1 ht
  rw [hea, heb]
  exact (hterm hx).2.2

end Sys2Proof.Products
end

section
/-! What an instruction of the cascade that goes on leaves alone, and what its end writes (R128, R153, R216, R264). -/

namespace Sys2Proof.CascadeRuns

open Sys2Proof Sys2Proof.Machine Sys2Proof.Claims

/-! ### What the writes of a unit keep -/

/-- What the work of an instruction under way keeps: all that `aroundTiles` names, the tokens and the started instructions. -/
structure Kept (s t : State) : Prop where
  around : aroundTiles s t
  wants : t.ctx.eng.wants = s.ctx.eng.wants
  started : t.ctx.eng.started = s.ctx.eng.started
  tokens : t.ctx.eng.tokens = s.ctx.eng.tokens

theorem aroundTiles_trans {s t u : State} (h : aroundTiles s t) (h' : aroundTiles t u) : aroundTiles s u := by
  obtain ⟨hr, hc, ht, ha, hg, hm, hs, hn, hd, hh⟩ := h
  obtain ⟨hr', hc', ht', ha', hg', hm', hs', hn', hd', hh'⟩ := h'
  refine ⟨hr'.trans hr, ?_, ht'.trans ht, ha'.trans ha, hg'.trans hg, hm'.trans hm, hs'.trans hs, hn'.trans hn, hd'.trans hd, hh'.trans hh⟩
  rw [hc', hc]

theorem Kept.refl (s : State) : Kept s s := ⟨⟨rfl, rfl, rfl, rfl, rfl, rfl, rfl, rfl, rfl, rfl⟩, rfl, rfl, rfl⟩

theorem Kept.trans {s t u : State} (h : Kept s t) (h' : Kept t u) : Kept s u :=
  ⟨aroundTiles_trans h.around h'.around, h'.wants.trans h.wants, h'.started.trans h.started, h'.tokens.trans h.tokens⟩

theorem noteWrote_eq (e : Engines) (id : Nat) (reg : Bool) (a : Nat) (bs : List (Option Byte)) :
    ∃ w, e.noteWrote id reg a bs = { e with wrote := w } := by
  unfold Engines.noteWrote
  split <;> exact ⟨_, rfl⟩

theorem heal_eq (b : Basin) (space a : Nat) (bs : List (Option Byte)) : ∃ x, b.heal space a bs = { b with bad := x } := by
  unfold Basin.heal
  split <;> exact ⟨_, rfl⟩

/-- What a write by an instruction under which no slot has written does to the register space. -/
theorem engWrite_reg (s : State) {o : EngOp} (hc : o.clob = []) (a : Nat) (bs : List (Option Byte)) :
    ∃ w use dirty bad, engWrite s o true a bs =
      { s with ctx := { s.ctx with
          basin := { s.ctx.basin with reg := s.ctx.basin.reg.write a bs, inUse := use, dirty := dirty, bad := bad }
          eng := { s.ctx.eng with wrote := w } } } := by
  obtain ⟨w, hw⟩ := noteWrote_eq (s.ctx.putReg a bs).eng o.id true a bs
  obtain ⟨x, hx⟩ := heal_eq (s.ctx.basin.touch 0 a bs) 0 a bs
  refine ⟨w, (s.ctx.basin.touch 0 a bs).inUse, (s.ctx.basin.touch 0 a bs).dirty, x, ?_⟩
  simp only [engWrite, hc, List.isEmpty_nil, if_true, hw]
  simp only [Ctx.putReg, hx]
  rfl

/-- What it does to the scratchpad. -/
theorem engWrite_spad (s : State) {o : EngOp} (hc : o.clob = []) (a : Nat) (bs : List (Option Byte)) :
    ∃ w ports use dirty bad, engWrite s o false a bs =
      { s with ctx := { s.ctx with
          basin := { s.ctx.basin with spad := s.ctx.basin.spad.write a bs, inUse := use, dirty := dirty, bad := bad }
          eng := { s.ctx.eng with wrote := w, ports := ports } } } := by
  obtain ⟨w, hw⟩ := noteWrote_eq (s.ctx.putSpad a bs).eng o.id false a bs
  obtain ⟨x, hx⟩ := heal_eq (s.ctx.basin.touch s.ctx.spadBlock a bs) 2 a bs
  refine ⟨w, (s.ctx.putSpad a bs).eng.ports, (s.ctx.basin.touch s.ctx.spadBlock a bs).inUse,
    (s.ctx.basin.touch s.ctx.spadBlock a bs).dirty, x, ?_⟩
  simp only [engWrite, hc, List.isEmpty_nil, if_true, hw, Bool.false_eq_true, if_false]
  simp only [Ctx.putSpad, Ctx.storeSpad, hx]
  rfl

section
variable (s : State) {o : EngOp} (hc : o.clob = []) (a : Nat) (bs : List (Option Byte))
include hc

theorem kept_engWrite (reg : Bool) : Kept s (engWrite s o reg a bs) := by
  cases reg with
  | true =>
    obtain ⟨w, use, dirty, bad, h⟩ := engWrite_reg s hc a bs
    rw [h]
    exact ⟨⟨rfl, rfl, rfl, rfl, rfl, rfl, rfl, rfl, rfl, rfl⟩, rfl, rfl, rfl⟩
  | false =>
    obtain ⟨w, ports, use, dirty, bad, h⟩ := engWrite_spad s hc a bs
    rw [h]
    exact ⟨⟨rfl, rfl, rfl, rfl, rfl, rfl, rfl, rfl, rfl, rfl⟩, rfl, rfl, rfl⟩

theorem engWrite_reg_reg : (engWrite s o true a bs).ctx.basin.reg = s.ctx.basin.reg.write a bs := by
  obtain ⟨w, use, dirty, bad, h⟩ := engWrite_reg s hc a bs
  rw [h]

theorem engWrite_reg_spad : (engWrite s o true a bs).ctx.basin.spad = s.ctx.basin.spad := by
  obtain ⟨w, use, dirty, bad, h⟩ := engWrite_reg s hc a bs
  rw [h]

theorem engWrite_spad_reg : (engWrite s o false a bs).ctx.basin.reg = s.ctx.basin.reg := by
  obtain ⟨w, ports, use, dirty, bad, h⟩ := engWrite_spad s hc a bs
  rw [h]

theorem engWrite_spad_spad : (engWrite s o false a bs).ctx.basin.spad = s.ctx.basin.spad.write a bs := by
  obtain ⟨w, ports, use, dirty, bad, h⟩ := engWrite_spad s hc a bs
  rw [h]

theorem engWrite_side (reg : Bool) : (engWrite s o reg a bs).ctx.basin.side = s.ctx.basin.side := by
  cases reg with
  | true => obtain ⟨w, use, dirty, bad, h⟩ := engWrite_reg s hc a bs; rw [h]
  | false => obtain ⟨w, ports, use, dirty, bad, h⟩ := engWrite_spad s hc a bs; rw [h]

theorem engWrite_epochAt (reg : Bool) (k : Nat) : (engWrite s o reg a bs).ctx.basin.epochAt k = s.ctx.basin.epochAt k := by
  cases reg with
  | true => obtain ⟨w, use, dirty, bad, h⟩ := engWrite_reg s hc a bs; rw [h]; rfl
  | false => obtain ⟨w, ports, use, dirty, bad, h⟩ := engWrite_spad s hc a bs; rw [h]; rfl

theorem engWrite_casc (reg : Bool) : (engWrite s o reg a bs).ctx.casc = s.ctx.casc := by
  cases reg with
  | true => obtain ⟨w, use, dirty, bad, h⟩ := engWrite_reg s hc a bs; rw [h]
  | false => obtain ⟨w, ports, use, dirty, bad, h⟩ := engWrite_spad s hc a bs; rw [h]

theorem engWrite_ctl (reg : Bool) : (engWrite s o reg a bs).ctx.ctl = s.ctx.ctl := by
  cases reg with
  | true => obtain ⟨w, use, dirty, bad, h⟩ := engWrite_reg s hc a bs; rw [h]
  | false => obtain ⟨w, ports, use, dirty, bad, h⟩ := engWrite_spad s hc a bs; rw [h]

end

theorem kept_raise (s : State) (f : Flags) : Kept s (s.raise f) :=
  ⟨⟨rfl, rfl, rfl, rfl, rfl, rfl, rfl, rfl, rfl, rfl⟩, rfl, rfl, rfl⟩

@[simp] theorem raise_casc (s : State) (f : Flags) : (s.raise f).ctx.casc = s.ctx.casc := rfl

@[simp] theorem raise_basin (s : State) (f : Flags) : (s.raise f).ctx.basin = s.ctx.basin := rfl

theorem raise_fflags (s : State) (f : Flags) : (s.raise f).ctx.ctl.fflags = s.ctx.ctl.fflags ||| ((0 : BitVec 59) ++ f) := rfl

theorem kept_setCasc (s : State) (f : Cascade → Cascade) : Kept s (s.setCasc f) :=
  ⟨⟨rfl, rfl, rfl, rfl, rfl, rfl, rfl, rfl, rfl, rfl⟩, rfl, rfl, rfl⟩

/-- Scale bytes leave all of the basin alone but the sidebands. -/
theorem putScales_eq (s : State) (a : Nat) (f : Fmt) (blk : Nat) (bs : List Byte) :
    ∃ side use dirty, putScales s a f blk bs =
      { s with ctx := { s.ctx with basin := { s.ctx.basin with side := side, inUse := use, dirty := dirty } } } := by
  have fold (xs : List (Byte × Nat)) : ∀ b : Basin, ∃ side use dirty, xs.foldl (fun (b : Basin) x =>
      { (b.mark (256 * (a / 256 + (blk + x.2) / (f.lanes / 32)))) with
        side := b.side.writeAll ((a / 256 + (blk + x.2) / (f.lanes / 32)) * 16 + (blk + x.2) % (f.lanes / 32)) [x.1] }) b =
      { b with side := side, inUse := use, dirty := dirty } := by
    induction xs with
    | nil => exact fun b => ⟨_, _, _, rfl⟩
    | cons x xs ih =>
      intro b
      obtain ⟨side, use, dirty, h⟩ := ih { (b.mark (256 * (a / 256 + (blk + x.2) / (f.lanes / 32)))) with
        side := b.side.writeAll ((a / 256 + (blk + x.2) / (f.lanes / 32)) * 16 + (blk + x.2) % (f.lanes / 32)) [x.1] }
      exact ⟨side, use, dirty, h⟩
  obtain ⟨side, use, dirty, h⟩ := fold bs.zipIdx s.ctx.basin
  exact ⟨side, use, dirty, by rw [putScales, h]⟩

theorem putScales_nil (s : State) (a : Nat) (f : Fmt) (blk : Nat) : putScales s a f blk [] = s := rfl

theorem kept_putScales (s : State) (a : Nat) (f : Fmt) (blk : Nat) (bs : List Byte) : Kept s (putScales s a f blk bs) := by
  obtain ⟨side, use, dirty, h⟩ := putScales_eq s a f blk bs
  rw [h]
  exact ⟨⟨rfl, rfl, rfl, rfl, rfl, rfl, rfl, rfl, rfl, rfl⟩, rfl, rfl, rfl⟩

/-! ### The end of an instruction -/

/-- A token's end: it is done where its count is the one that the instruction produces. -/
theorem token_finishToken (c : Ctx) (p : Option (Nat × Nat)) (status : W64) {k : Nat} (hk : k < 16) :
    (c.finishToken p status).token k =
      if p = some (k, (c.token k).inst) then ⟨(c.token k).inst, true, status⟩ else c.token k := by
  cases p with
  | none => rfl
  | some x =>
    obtain ⟨n, i⟩ := x
    simp only [Ctx.finishToken]
    by_cases hn : n = k
    · subst hn
      by_cases hi : (c.token n).inst = i
      · subst hi
        simp [Ctx.token, Ctx.setToken, hk]
      · rw [if_neg fun h => hi (Prod.mk.inj (Option.some.inj h)).2.symm]
        split
        · exact absurd (beq_iff_eq.1 ‹_›) hi
        · rfl
    · have hset (c : Ctx) (t : Token) : (c.setToken n t).token k = c.token k := by simp [Ctx.token, Ctx.setToken, hn]
      have hne : ¬(some (n, i) = some (k, (c.token k).inst)) := by simp [hn]
      rw [if_neg hne]
      split
      · rw [hset]; rfl
      · rfl

/-- The end of a token changes tokens and what withdrawn instructions produce. -/
theorem finishToken_eq (c : Ctx) (p : Option (Nat × Nat)) (status : W64) :
    ∃ tokens gone, c.finishToken p status = { c with eng := { c.eng with tokens := tokens, withdrawn := gone } } := by
  cases p with
  | none => exact ⟨_, _, rfl⟩
  | some x =>
    simp only [Ctx.finishToken]
    split <;> exact ⟨_, _, rfl⟩

section
variable {s u : State} {o : EngOp} {idx : Nat} {status : W64}

/-- An instruction that holds no entry and owes no result ends. -/
theorem complete_eq (hh : o.held = []) (hp : o.alsoProd = []) (hb : o.sbId = none) :
    complete u o status none = { u with ctx := Ctx.finishToken { u.ctx with eng := u.ctx.eng.dropStarted o.id } o.prod status } := by
  simp only [complete, hh, hp, hb]
  rfl

/-- Its end leaves the rest as its work has left it. -/
theorem complete_kept (hk : Kept s u) (hh : o.held = []) (hp : o.alsoProd = []) (hb : o.sbId = none) :
    let t := complete u o status none
    ended s t o.id ∧ tokenDone s t o status ∧ aroundTiles s t ∧ t.ctx.basin = u.ctx.basin ∧ t.ctx.casc = u.ctx.casc ∧
      t.ctx.ctl = u.ctx.ctl ∧ t.ctx.eng.wants = s.ctx.eng.wants := by
  have htok (k : Nat) : u.ctx.token k = s.ctx.token k := by rw [Ctx.token, hk.tokens]; rfl
  have hdone : tokenDone s (complete u o status none) o status := by
    intro k hlt
    rw [complete_eq hh hp hb, ← htok k]
    exact token_finishToken _ _ _ hlt
  obtain ⟨tokens, gone, h⟩ := finishToken_eq { u.ctx with eng := u.ctx.eng.dropStarted o.id } o.prod status
  have heq := complete_eq (u := u) (status := status) hh hp hb
  rw [h] at heq
  refine ⟨?_, hdone, ?_, ?_, ?_, ?_, ?_⟩
  · rw [heq, ended, ← hk.started]; rfl
  · exact aroundTiles_trans hk.around (by rw [heq]; exact ⟨rfl, rfl, rfl, rfl, rfl, rfl, rfl, rfl, rfl, rfl⟩)
  all_goals rw [heq]
  exact hk.wants

/-- TOKEN_DONE of an instruction under way runs it on where that asks for no page and fires no record. -/
theorem happens_tokenDone (hu : underWay s idx o) (n : Nat) (hw : (engineRun true n s o).ctx.eng.wants = none)
    (hs : (engineRun true n s o).sched = s.sched) : happens (.tokenDone idx n) s (engineRun true n s o) := by
  obtain ⟨hmode, hwants, hat, hheld, halso, hdue⟩ := hu
  have hlt : idx < s.ctx.eng.started.length := (List.getElem?_eq_some_iff.1 hat).1
  have hstep : engineStep s idx n = engineRun true n s o := by
    simp only [engineStep, onStarted, hlt, if_true, enginesRun, hmode, hat, Bool.false_and, Bool.or_false, Bool.false_eq_true, if_false,
      Bool.not_false, Bool.or_self, pauseWanted]
    rw [hw]
  have hdue' : noneDue (engineRun true n s o) := by rw [noneDue, hs]; exact hdue
  show Host.Outcome.next (fireWaiting (engineStep s idx n)).tick = _
  rw [hstep, ScalarControl.fireWaiting_noneDue hdue']

end

end Sys2Proof.CascadeRuns
end

section
/-! Bytes and words of a space as a unit reads and writes them (R11, R41, R123). -/

namespace Sys2Proof.CascadeRuns

open Sys2Proof Sys2Proof.Machine Sys2Proof.Claims Sys2Proof.Rotations

/-! ### Runs of bytes, address by address -/

theorem pick_getElem? {m : Mem} (hw : Mem.wf m = true) {n a : Nat} (ha : ∀ c ∈ m, a ≤ c.1) {i : Nat} (hi : i < n) :
    (Mem.pick n a m)[i]? = some (m.get (a + i)) := by
  induction n generalizing a m i with
  | zero => omega
  | succ n ih =>
    match m with
    | [] =>
      cases i with
      | zero => rfl
      | succ i => exact (ih hw (by simp) (by omega : i < n)).trans (by simp [Mem.get])
    | (k, v) :: rest =>
      obtain ⟨hlt, hwr⟩ := (Mem.wf_cons k v rest).1 hw
      have hka : a ≤ k := ha (k, v) (by simp)
      by_cases hk : k = a
      · subst hk
        cases i with
        | zero => simp [Mem.pick, Mem.get]
        | succ i =>
          have hrest : ∀ c ∈ rest, k + 1 ≤ c.1 := hlt
          simp only [Mem.pick, beq_self_eq_true, if_true, List.getElem?_cons_succ, ih hwr hrest (by omega : i < n), Mem.get]
          rw [if_neg (by simp), show k + 1 + i = k + (i + 1) by omega]
      · have hall : ∀ c ∈ (k, v) :: rest, a + 1 ≤ c.1 := by
          rintro c (_ | ⟨_, hc⟩)
          · show a + 1 ≤ k; omega
          · have := hlt c hc; omega
        have hka' : (k == a) = false := by simpa using hk
        cases i with
        | zero =>
          rw [Mem.get_none_of_lt _ _ (fun c hc => by have := hall c hc; omega)]
          simp [Mem.pick, hka']
        | succ i =>
          simp only [Mem.pick, hka', Bool.false_eq_true, if_false, List.getElem?_cons_succ, ih hw hall (by omega : i < n)]
          rw [show a + 1 + i = a + (i + 1) by omega]

theorem read_getElem? {m : Mem} (hw : Mem.wf m = true) (a : Nat) {n i : Nat} (hi : i < n) :
    (m.read a n)[i]? = some (m.get (a + i)) := by
  induction m with
  | nil => exact pick_getElem? hw (by simp) hi
  | cons c rest ih =>
    obtain ⟨k, v⟩ := c
    obtain ⟨hlt, hwr⟩ := (Mem.wf_cons k v rest).1 hw
    simp only [Mem.read]
    split
    · rw [ih hwr, Mem.get, if_neg (by simp; omega)]
    · refine pick_getElem? hw ?_ hi
      rintro c (_ | ⟨_, hc⟩)
      · show a ≤ k; omega
      · have := hlt c hc; omega

/-- The byte of a space at an address. -/
def byteAt (b : Basin) (m : Mem) (space block x : Nat) : Byte :=
  (m.get x).getD (Config.unwritten (8 * b.epochAt (block + x / 4096) + space) x)

section
variable {b : Basin} {m : Mem} {space block : Nat}

theorem bytes_eq_map (hw : Mem.wf m = true) (a n : Nat) :
    b.bytes m space block a n = (List.range n).map fun i => byteAt b m space block (a + i) := by
  apply List.ext_getElem?
  intro i
  by_cases hi : i < n
  · simp [Basin.bytes, List.getElem?_zipIdx, read_getElem? hw a hi, hi, byteAt]
  · rw [List.getElem?_eq_none (by rw [Basin.bytes_length]; omega), List.getElem?_eq_none (by simp; omega)]

theorem sliceOf_bytes (hw : Mem.wf m = true) (a : Nat) {n k c : Nat} (h : k + c ≤ n) :
    sliceOf (b.bytes m space block a n) k c = b.bytes m space block (a + k) c := by
  rw [bytes_eq_map hw, bytes_eq_map hw, Conversions.sliceOf_map_range _ h]
  simp only [Nat.add_assoc]

end

/-! ### Words of a run of bytes -/

theorem lanes32_eq (bs : List Byte) : lanes32 bs = (List.range (bs.length / 4)).map fun k => ofLe (sliceOf bs (4 * k) 4) := by
  induction bs using lanes32.induct with
  | case1 a b c d rest ih =>
    rw [lanes32, ih, List.length_cons, List.length_cons, List.length_cons, List.length_cons,
      show (rest.length + 1 + 1 + 1 + 1) / 4 = rest.length / 4 + 1 by omega, List.range_succ_eq_map, List.map_cons, List.map_map]
    congr 1
    simp [sliceOf, ofLe]; ring
  | case2 bs h =>
    have hlt : bs.length < 4 := by
      rcases bs with _ | ⟨a, _ | ⟨b, _ | ⟨c, _ | ⟨d, rest⟩⟩⟩⟩
      · simp
      · simp
      · simp
      · simp
      · exact absurd rfl (h a b c d rest)
    rw [Nat.div_eq_of_lt hlt]
    unfold lanes32
    split
    · simp at hlt; omega
    · rfl

/-- Words laid out one after the other stand at their places. -/
theorem word_bytesOf {xs : List Nat} {k x : Nat} (hx : xs[k]? = some x) (hlt : x < 2 ^ 32) : ofLe (sliceOf (bytesOf 32 xs) (4 * k) 4) = x := by
  have h := codeAt_bytesOf (w := 32) (by simp) hx
  rw [codeAt, show k * 32 / 8 = 4 * k by omega, show k * 32 % 8 = 0 by omega, pow_zero, Nat.div_one, Nat.mod_eq_of_lt hlt] at h
  rwa [Nat.mod_eq_of_lt] at h
  calc ofLe (sliceOf (bytesOf 32 xs) (4 * k) 4) < 256 ^ (sliceOf (bytesOf 32 xs) (4 * k) 4).length := ofLe_lt _
    _ ≤ 256 ^ 4 := Nat.pow_le_pow_right (by norm_num) (by simp [sliceOf])
    _ = 2 ^ 32 := by norm_num

theorem bytesOf32_length (xs : List Nat) : (bytesOf 32 xs).length = 4 * xs.length := by
  show (xs.flatMap (leBytes 4)).length = _
  simp [List.length_flatMap, Nat.mul_comm]

theorem ofLe_four_lt {bs : List Byte} (h : bs.length = 4) : ofLe bs < 2 ^ 32 := by
  have := ofLe_lt bs
  rwa [h] at this

/-! ### The register space before and after a write -/

/-- The word of the register space at an address. -/
def wordAt (s : State) (a : Nat) : Nat := ofLe (s.ctx.regBytes a 4)

theorem wordAt_lt (s : State) (a : Nat) : wordAt s a < 2 ^ 32 := ofLe_four_lt (Basin.bytes_length _ _ _ _ _ _)

theorem lanes32_regBytes {s : State} (hw : Mem.wf s.ctx.basin.reg = true) (a n : Nat) :
    lanes32 (s.ctx.regBytes a (4 * n)) = (List.range n).map fun k => wordAt s (a + 4 * k) := by
  rw [lanes32_eq, Ctx.regBytes, Basin.bytes_length, show 4 * n / 4 = n by omega]
  refine List.map_congr_left fun k hk => ?_
  rw [sliceOf_bytes hw a (by have := List.mem_range.1 hk; omega)]
  rfl

theorem laidAt_map_some {a x : Nat} (bs : List Byte) :
    laidAt a (bs.map some) x = if a ≤ x ∧ x < a + bs.length then some (bs.getD (x - a) 0) else none := by
  unfold laidAt
  by_cases h : a ≤ x
  · by_cases hx : x < a + bs.length
    · rw [if_pos h, if_pos ⟨h, hx⟩]
      simp [List.getD_eq_getElem?_getD, show x - a < bs.length by omega]
    · rw [if_pos h, if_neg fun hc => hx hc.2]
      simp [List.getD_eq_getElem?_getD, List.getElem?_eq_none (show bs.length ≤ x - a by omega)]
  · rw [if_neg h, if_neg fun hc => h hc.1]

section
variable {s t : State} {a : Nat} {bs : List Byte}

/-- A state whose register space is another's with bytes written at an address. -/
structure Wrote (s t : State) (a : Nat) (bs : List Byte) : Prop where
  wf : Mem.wf s.ctx.basin.reg = true
  reg : t.ctx.basin.reg = s.ctx.basin.reg.write a (bs.map some)
  epochs : ∀ k, t.ctx.basin.epochAt k = s.ctx.basin.epochAt k

theorem Wrote.wf' (h : Wrote s t a bs) : Mem.wf t.ctx.basin.reg = true := by rw [h.reg]; exact Mem.write_wf _ _ _ h.wf

theorem Wrote.get (h : Wrote s t a bs) (x : Nat) : Mem.get t.ctx.basin.reg x =
    if a ≤ x ∧ x < a + bs.length then some (bs.getD (x - a) 0) else Mem.get s.ctx.basin.reg x := by
  rw [h.reg, (Mem.write_spec _ _ _ h.wf).2.2, laidAt_map_some]
  split <;> simp

theorem Wrote.regBytes_in (h : Wrote s t a bs) {k n : Nat} (hk : k + n ≤ bs.length) : t.ctx.regBytes (a + k) n = sliceOf bs k n := by
  rw [Ctx.regBytes, bytes_eq_map h.wf']
  apply List.ext_getElem?
  intro i
  by_cases hi : i < n
  · have hlt : k + i < bs.length := by omega
    simp only [List.getElem?_map, List.getElem?_range hi, Option.map_some, byteAt, h.get, sliceOf, List.getElem?_take_of_lt hi,
      List.getElem?_drop]
    rw [if_pos ⟨by omega, by omega⟩, show a + k + i - a = k + i by omega]
    simp [List.getD_eq_getElem?_getD, hlt]
  · rw [List.getElem?_eq_none (by simp; omega), List.getElem?_eq_none (by simp [sliceOf]; omega)]

theorem Wrote.regBytes_out (h : Wrote s t a bs) {x n : Nat} (hx : x + n ≤ a ∨ a + bs.length ≤ x) :
    t.ctx.regBytes x n = s.ctx.regBytes x n := by
  rw [Ctx.regBytes, Ctx.regBytes, bytes_eq_map h.wf', bytes_eq_map h.wf]
  refine List.map_congr_left fun i hi => ?_
  have := List.mem_range.1 hi
  rw [byteAt, byteAt, h.get, h.epochs, if_neg (by omega)]

/-- Words laid down read as themselves. -/
theorem Wrote.wordAt_in {xs : List Nat} (h : Wrote s t a (bytesOf 32 xs)) {k x : Nat} (hx : xs[k]? = some x) (hlt : x < 2 ^ 32) :
    wordAt t (a + 4 * k) = x := by
  have hk := (List.getElem?_eq_some_iff.1 hx).1
  rw [wordAt, h.regBytes_in (by rw [bytesOf32_length]; omega), word_bytesOf hx hlt]

theorem Wrote.wordAt_out (h : Wrote s t a bs) {x : Nat} (hx : x + 4 ≤ a ∨ a + bs.length ≤ x) : wordAt t x = wordAt s x := by
  rw [wordAt, h.regBytes_out hx, wordAt]

end

/-- An instruction under which no slot has written lays bytes down. -/
theorem wrote_engWrite {s : State} {o : EngOp} (hc : o.clob = []) (hw : Mem.wf s.ctx.basin.reg = true) (a : Nat) (bs : List Byte) :
    Wrote s (engWrite s o true a (bs.map some)) a bs :=
  ⟨hw, engWrite_reg_reg s hc a _, engWrite_epochAt s hc a _ true⟩

theorem engRead_reg {s : State} {o : EngOp} (hc : o.clob = []) (site a n : Nat) : engRead s o true site a n = s.ctx.regBytes a n := by
  simp [engRead, hc]

theorem engRead_spad {s : State} {o : EngOp} (hc : o.clob = []) (site a n : Nat) : engRead s o false site a n = s.ctx.spadBytes a n := by
  simp [engRead, hc]

end Sys2Proof.CascadeRuns
end

section
/-! A unit of an interruptible instruction, and the rotations of TRI and GROT (R191 to R193, R216, R223). -/

namespace Sys2Proof.CascadeRuns

open Sys2Proof Sys2Proof.Machine Sys2Proof.Claims Sys2Proof.Rotations

/-! ### One unit, and the end after the last -/

theorem engineRun_sweep {s : State} {o : EngOp} (he : o.eng = 0) (hi : isSweep o = true) (acks : Bool) (n : Nat) :
    engineRun acks n s o = runSweep n s o := by
  unfold isSweep at hi
  split at hi
  · simp only [engineRun, cascRun, *, beq_self_eq_true, if_true]
  · simp only [engineRun, cascRun, *, beq_self_eq_true, if_true]
  · simp only [engineRun, cascRun, *, beq_self_eq_true, if_true]
  · simp only [engineRun, cascRun, *, beq_self_eq_true, if_true]
  · simp only [engineRun, cascRun, *, beq_self_eq_true, if_true]
  · exact absurd hi (by simp)

theorem kept_passEnd (s : State) {o : EngOp} (hc : o.clob = []) : Kept s (passEnd s o) := by
  unfold passEnd
  exact (kept_engWrite s hc _ _ true).trans (kept_setCasc _ _)

theorem kept_sweepEnd (s : State) {o : EngOp} (hc : o.clob = []) : Kept s (sweepEnd s o) := by
  unfold sweepEnd
  split
  · exact kept_passEnd s hc
  · exact kept_passEnd s hc
  · exact kept_setCasc s _
  · exact Kept.refl s

/-- An instruction one unit on. -/
def onward (o : EngOp) : EngOp := { o with pos := o.pos + 1 }

/-- The state after a unit, and after the end that follows the last. -/
def unitResult (s : State) (o : EngOp) : State :=
  if cascUnits o ≤ o.pos + 1 then sweepEnd (sweepUnit s o) (onward o) else sweepUnit s o

theorem unitResult_last {s : State} {o : EngOp} (h : o.pos + 1 = cascUnits o) :
    unitResult s o = sweepEnd (sweepUnit s o) (onward o) := if_pos h.ge

theorem unitResult_more {s : State} {o : EngOp} (h : o.pos + 1 < cascUnits o) : unitResult s o = sweepUnit s o := if_neg (by omega)

theorem unit_runs {s : State} {o : EngOp} {idx : Nat} (hu : underWay s idx o) (he : o.eng = 0) (hb : o.sbId = none) (hc : o.clob = [])
    (hi : isSweep o = true) (hpos : o.pos < cascUnits o) (hbad : unitBad s o = false) (hk : Kept s (sweepUnit s o)) :
    ∃ t, happens (.tokenDone idx 1) s t ∧ unitMade s t o (cascUnits o) ∧ aroundTiles s t ∧ t.ctx.basin = (unitResult s o).ctx.basin ∧
      t.ctx.casc = (unitResult s o).ctx.casc ∧ t.ctx.ctl = (unitResult s o).ctx.ctl := by
  have hwants := hu.2.1
  obtain ⟨-, -, -, hheld, halso, -⟩ := id hu
  have hrun : engineRun true 1 s o = settle (sweepUnit s o) (onward o) := by
    rw [engineRun_sweep he hi, runSweep, if_neg (by omega), hbad]
    rfl
  have hunits : cascUnits (onward o) = cascUnits o := rfl
  have hplace : (onward o).pos = o.pos + 1 := rfl
  have hhap := happens_tokenDone hu 1
  rw [hrun] at hhap
  refine ⟨settle (sweepUnit s o) (onward o), ?_⟩
  by_cases hlast : o.pos + 1 = cascUnits o
  · have hset : settle (sweepUnit s o) (onward o) = complete (unitResult s o) (onward o) 0 none := by
      rw [settle, hunits, hplace, if_pos hlast.ge, unitResult_last hlast]
    have hk' : Kept s (unitResult s o) := by
      rw [unitResult_last hlast]
      exact hk.trans (kept_sweepEnd _ hc)
    obtain ⟨hend, htok, har, hbas, hcas, hctl, hw⟩ := complete_kept (o := onward o) (status := 0) hk' hheld halso hb
    rw [hset] at hhap ⊢
    exact ⟨hhap (hw.trans hwants) har.2.2.2.2.2.2.1, ⟨fun h => absurd hlast h.ne, fun _ => ⟨hend, htok⟩⟩, har, hbas, hcas, hctl⟩
  · have hset : settle (sweepUnit s o) (onward o) =
        { sweepUnit s o with ctx := { (sweepUnit s o).ctx with eng := (sweepUnit s o).ctx.eng.setStarted (onward o) } } := by
      rw [settle, hunits, hplace, if_neg (by omega)]
    rw [hset] at hhap ⊢
    rw [unitResult_more (by omega)]
    have har := hk.around
    refine ⟨hhap (hk.wants.trans hwants) har.2.2.2.2.2.2.1, ⟨fun _ => ⟨hk.tokens, ?_⟩, fun h => absurd h hlast⟩, har, rfl, rfl, rfl⟩
    simp only [Engines.setStarted, hk.started, beq_iff_eq, onward]

end Sys2Proof.CascadeRuns
end

section
/-! The rotations of TRI and GROT (R191 to R193, R223). -/

namespace Sys2Proof.CascadeRuns

open Sys2Proof Sys2Proof.Machine Sys2Proof.Claims Sys2Proof.Numbers Sys2Proof.Rotations

/-! ### Codes of fp32 -/

theorem rne32_lt (x : FVal × Flags) : (rne32 x).1 < 2 ^ 32 := by
  obtain ⟨v, f⟩ := x
  cases v with
  | nan => exact (by norm_num : 0x7FC00000 < 2 ^ 32)
  | inf neg => exact signed_lt single_describes.w_pos (by norm_num [single] : 0x7F800000 < 2 ^ (single.w - 1))
  | fin n m e => exact round_fin_lt single_describes .rne n m e

theorem lin32_lt (skip : Bool) (c : FVal) (x : ℕ) (s : FVal) (y : ℕ) : (lin32 skip c x s y).1 < 2 ^ 32 := by
  unfold lin32
  dsimp only
  split
  · exact rne32_lt _
  · split
    · exact rne32_lt _
    · exact rne32_lt _

theorem hypot32_lt (a b : ℕ) : (hypot32 a b).1 < 2 ^ 32 := by
  unfold hypot32
  split
  · norm_num
  · norm_num
  · exact (by norm_num : 0x7FC00000 < 2 ^ 32)
  · exact (by norm_num : 0x7FC00000 < 2 ^ 32)
  · exact rne32_lt _

theorem div32_lt (a b : ℕ) : (div32 a b).1 < 2 ^ 32 := by
  have hnan : fp32F.nanCode < 2 ^ 32 := by decide
  unfold div32
  split
  · exact hnan
  · exact hnan
  · exact hnan
  · exact rne32_lt _
  · exact rne32_lt _
  · split
    · split
      · exact hnan
      · exact rne32_lt _
    · split
      · exact rne32_lt _
      · exact rne32_lt _

theorem val32_isZero_iff {x : ℕ} (hx : x < 2 ^ 32) : (val32 x).isZero = true ↔ isZero32 x := by
  have hmag : x = 0 ∨ x = 0x80000000 ↔ x % 2 ^ 31 = 0 := by omega
  rw [isZero32, hmag, val32, FltFmt.decode, show fp32F.w - 1 = 31 by rfl, show fp32F.fbits = 23 by rfl,
    show fp32F.maxCode = 0x7F7FFFFF by rfl]
  split
  · split
    · next h =>
      have := Nat.div_add_mod (x % 2 ^ 31) (2 ^ 23)
      rw [beq_iff_eq.1 h] at this
      simp only [FVal.isZero, beq_iff_eq]
      omega
    · next h =>
      have hne : x % 2 ^ 31 / 2 ^ 23 ≠ 0 := fun h' => h (beq_iff_eq.2 h')
      have hpos : x % 2 ^ 31 ≠ 0 := fun h' => hne (by rw [h']; rfl)
      simp only [FVal.isZero, beq_iff_eq]
      omega
  · next h =>
    have hne : x % 2 ^ 31 ≠ 0 := by omega
    split <;> simp only [FVal.isZero, Bool.false_eq_true, hne]

/-- R191: a pair of zeros has no hypot. -/
theorem triAngle_zeros {a b : ℕ} (ha : a < 2 ^ 32) (hb : b < 2 ^ 32) (h : isZero32 a ∧ isZero32 b) : triAngle a b = (one32, 0, none, 0) := by
  rw [triAngle, if_pos (by rw [Bool.and_eq_true, val32_isZero_iff ha, val32_isZero_iff hb]; exact h)]

theorem triAngle_turns {a b : ℕ} (ha : a < 2 ^ 32) (hb : b < 2 ^ 32) (h : ¬(isZero32 a ∧ isZero32 b)) :
    (triAngle a b).2.2.1 = some (hypot32 a b).1 := by
  rw [triAngle, if_neg (by rw [Bool.and_eq_true, val32_isZero_iff ha, val32_isZero_iff hb]; exact h)]

theorem triAngle_lt (a b : ℕ) : (triAngle a b).1 < 2 ^ 32 ∧ (triAngle a b).2.1 < 2 ^ 32 := by
  unfold triAngle
  split
  · exact ⟨by decide, by norm_num⟩
  · exact ⟨div32_lt _ _, div32_lt _ _⟩

/-! ### The order of the rotations -/

theorem sweepOf_eq (w : W64) : sweepOf w = sweepOrder (sweepM w) (sweepN w) := by
  have hmin : (if sweepN w < sweepM w - 1 then sweepN w else sweepM w - 1) = min (sweepN w) (sweepM w - 1) := by split <;> omega
  rw [sweepOf, sweepSeq, sweepOrder, hmin]

theorem or64_pos_le {n : ℕ} (h : n < 64) : 0 < or64 n ∧ or64 n ≤ 64 := by
  unfold or64
  split
  · exact ⟨by norm_num, le_rfl⟩
  · next h' =>
    have : n ≠ 0 := fun hn => h' (beq_iff_eq.2 hn)
    omega

theorem sweepN_le (w : W64) : sweepN w ≤ 64 := (or64_pos_le (Nat.mod_lt _ (by norm_num))).2

theorem sweepW_le (w : W64) : sweepW w ≤ 64 := (or64_pos_le (Nat.mod_lt _ (by norm_num))).2

theorem mem_sweepOrder {m n j i : ℕ} (h : (j, i) ∈ sweepOrder m n) : 0 < i ∧ j < n := by
  obtain ⟨j', hj, hk⟩ := List.mem_flatMap.1 h
  obtain ⟨k, hin, heq⟩ := List.mem_map.1 hk
  obtain ⟨rfl, rfl⟩ := Prod.mk.inj heq
  have := List.mem_range.1 hj
  have := List.mem_range.1 hin
  omega

/-! ### Two rows of a tile -/

section
variable {s t : State} {o : EngOp}

theorem regBytes_congr (hr : t.ctx.basin.reg = s.ctx.basin.reg) (he : ∀ k, t.ctx.basin.epochAt k = s.ctx.basin.epochAt k) (a n : ℕ) :
    t.ctx.regBytes a n = s.ctx.regBytes a n := by
  simp only [Ctx.regBytes, Basin.bytes, hr, he]

theorem tileWord_congr (hr : t.ctx.basin.reg = s.ctx.basin.reg) (he : ∀ k, t.ctx.basin.epochAt k = s.ctx.basin.epochAt k) (a i k : ℕ) :
    Claims.tileWord t a i k = Claims.tileWord s a i k := by
  rw [Claims.tileWord, Claims.tileWord, regBytes_congr hr he]

theorem tileWord_eq (s : State) (a i k : ℕ) : Claims.tileWord s a i k = wordAt s (a + 256 * i + 4 * k) := rfl

theorem tileWord_lt (s : State) (a i k : ℕ) : Claims.tileWord s a i k < 2 ^ 32 := wordAt_lt s _

/-- A row as a unit reads it. -/
theorem sweepRow_eq (hc : o.clob = []) (hw : Mem.wf s.ctx.basin.reg = true) (site i : ℕ) :
    sweepRow s o site i = (List.range 64).map fun k => Claims.tileWord s o.daddr i k := by
  rw [sweepRow, engRead_reg hc]
  exact lanes32_regBytes hw (o.daddr + 256 * i) 64

/-- Columns `lo` on of rows i - 1 and i written. -/
def putRows (s : State) (o : EngOp) (i lo : ℕ) (xs ys : List ℕ) : State := putCols (putCols s o (i - 1) lo xs) o i lo ys

/-- What has been done to columns `lo` to `hi - 1` of rows i - 1 and i of a tile, and to nothing else. -/
structure RowsPut (s t : State) (a i lo : ℕ) (xs ys : List ℕ) : Prop where
  upper : ∀ k x, xs[k]? = some x → Claims.tileWord t a (i - 1) (lo + k) = x
  lower : ∀ k y, ys[k]? = some y → Claims.tileWord t a i (lo + k) = y
  only : rowsOnly s t a i lo (lo + xs.length)
  side : t.ctx.basin.side = s.ctx.basin.side
  spad : t.ctx.basin.spad = s.ctx.basin.spad
  casc : t.ctx.casc = s.ctx.casc
  ctl : t.ctx.ctl = s.ctx.ctl
  kept : Kept s t

theorem rowsPut_putRows (hc : o.clob = []) (hw : Mem.wf s.ctx.basin.reg = true) {i lo : ℕ} (hi : 0 < i) {xs ys : List ℕ}
    (hlen : ys.length = xs.length) (hfit : lo + xs.length ≤ 64) (hx : ∀ x ∈ xs, x < 2 ^ 32) (hy : ∀ y ∈ ys, y < 2 ^ 32) :
    RowsPut s (putRows s o i lo xs ys) o.daddr i lo xs ys := by
  have h1 : Wrote s (putCols s o (i - 1) lo xs) (o.daddr + 256 * (i - 1) + 4 * lo) (bytesOf 32 xs) := wrote_engWrite hc hw _ _
  have h2 : Wrote (putCols s o (i - 1) lo xs) (putRows s o i lo xs ys) (o.daddr + 256 * i + 4 * lo) (bytesOf 32 ys) :=
    wrote_engWrite hc h1.wf' _ _
  refine ⟨fun k x hk => ?_, fun k y hk => ?_, fun q hq => ?_, ?_, ?_, ?_, ?_, (kept_engWrite s hc _ _ true).trans (kept_engWrite _ hc _ _ true)⟩
  · have hlt := (List.getElem?_eq_some_iff.1 hk).1
    rw [tileWord_eq, h2.wordAt_out (by omega), show o.daddr + 256 * (i - 1) + 4 * (lo + k) = o.daddr + 256 * (i - 1) + 4 * lo + 4 * k by ring]
    exact h1.wordAt_in hk (hx x (List.mem_of_getElem? hk))
  · rw [tileWord_eq, show o.daddr + 256 * i + 4 * (lo + k) = o.daddr + 256 * i + 4 * lo + 4 * k by ring]
    exact h2.wordAt_in hk (hy y (List.mem_of_getElem? hk))
  · have hout (r : ℕ) (hr : r = i - 1 ∨ r = i) : ¬(o.daddr + 256 * r + 4 * lo ≤ q ∧ q < o.daddr + 256 * r + 4 * lo + 4 * xs.length) := by
      intro hin
      have := hq r (lo + (q - (o.daddr + 256 * r + 4 * lo)) / 4) hr (by omega) (by omega)
      omega
    have hup := hout (i - 1) (.inl rfl)
    have hlo := hout i (.inr rfl)
    rw [h2.get, bytesOf32_length, hlen, if_neg hlo, h1.get, bytesOf32_length, if_neg hup]
  · exact (engWrite_side _ hc _ _ true).trans (engWrite_side _ hc _ _ true)
  · exact (engWrite_reg_spad _ hc _ _).trans (engWrite_reg_spad _ hc _ _)
  · exact (engWrite_casc _ hc _ _ true).trans (engWrite_casc _ hc _ _ true)
  · exact (engWrite_ctl _ hc _ _ true).trans (engWrite_ctl _ hc _ _ true)

end

/-- The columns of a rotation, place by place. -/
theorem rotRows_map (c s : ℕ) (f g : ℕ → ℕ) (n : ℕ) :
    rotRows c s ((List.range n).map f) ((List.range n).map g) =
      ((List.range n).map fun k => (rotPair false (val32 c) (val32 s) (f k) (g k)).1,
        (List.range n).map fun k => (rotPair false (val32 c) (val32 s) (f k) (g k)).2.1,
        (List.range n).foldl (fun acc k => acc ||| (rotPair false (val32 c) (val32 s) (f k) (g k)).2.2) 0) := by
  simp only [rotRows, List.zipWith_map, List.zipWith_self, List.map_map, List.foldl_map]
  rfl

theorem raises_of_raise {s t : State} {fl : Flags} (h : t.ctx.ctl.fflags = s.ctx.ctl.fflags ||| ((0 : BitVec 59) ++ fl)) {fs : List Flags}
    (hf : ∀ f ∈ fs, among f fl) : raises s t fs := ⟨fl, h, hf⟩

end Sys2Proof.CascadeRuns
end

section
/-! The sweeps act (R189 to R193, R223). -/

namespace Sys2Proof.CascadeRuns

open Sys2Proof Sys2Proof.Machine Sys2Proof.Claims Sys2Proof.Rotations

theorem laidOver_write {m : Mem} (hw : Mem.wf m = true) (a : ℕ) (bs : List (Option Byte)) : laidOver (m.write a bs) m a bs := by
  intro x
  rw [(Mem.write_spec m a bs hw).2.2, laidAt]
  split
  · rfl
  · rw [Option.none_or]

/-! ### What a rotation computes -/

/-- Column `k` of rows i - 1 and i, rotated by `c` and `s'`. -/
def turnOf (s : State) (a i c s' k : ℕ) : ℕ × ℕ × Flags :=
  rotPair false (val32 c) (val32 s') (Claims.tileWord s a (i - 1) k) (Claims.tileWord s a i k)

/-- The flags of `n` columns from `lo` on. -/
def turnFlags (s : State) (a i c s' lo n : ℕ) : Flags :=
  (List.range n).foldl (fun acc k => acc ||| (turnOf s a i c s' (lo + k)).2.2) 0

theorem turnOf_lt (s : State) (a i c s' k : ℕ) : (turnOf s a i c s' k).1 < 2 ^ 32 ∧ (turnOf s a i c s' k).2.1 < 2 ^ 32 :=
  ⟨lin32_lt _ _ _ _ _, lin32_lt _ _ _ _ _⟩

theorem among_turnFlags (s : State) (a i c s' lo : ℕ) {n k : ℕ} (hk : k < n) :
    among (turnOf s a i c s' (lo + k)).2.2 (turnFlags s a i c s' lo n) :=
  among_foldl (f := fun k => (turnOf s a i c s' (lo + k)).2.2) (List.mem_range.2 hk) 0

/-- The upper and the lower row of `n` columns from `lo` on. -/
def turnedUp (s : State) (a i c s' lo n : ℕ) : List ℕ := (List.range n).map fun k => (turnOf s a i c s' (lo + k)).1

def turnedLow (s : State) (a i c s' lo n : ℕ) : List ℕ := (List.range n).map fun k => (turnOf s a i c s' (lo + k)).2.1

theorem mem_turnedUp {s : State} {a i c s' lo n x : ℕ} (h : x ∈ turnedUp s a i c s' lo n) : x < 2 ^ 32 := by
  obtain ⟨k, -, rfl⟩ := List.mem_map.1 h
  exact (turnOf_lt s a i c s' _).1

theorem mem_turnedLow {s : State} {a i c s' lo n x : ℕ} (h : x ∈ turnedLow s a i c s' lo n) : x < 2 ^ 32 := by
  obtain ⟨k, -, rfl⟩ := List.mem_map.1 h
  exact (turnOf_lt s a i c s' _).2

theorem rotRows_rows (s : State) (a i c s' : ℕ) {lo n : ℕ} (h : lo + n ≤ 64) :
    rotRows c s' (sliceOf ((List.range 64).map fun k => Claims.tileWord s a (i - 1) k) lo n)
      (sliceOf ((List.range 64).map fun k => Claims.tileWord s a i k) lo n) =
      (turnedUp s a i c s' lo n, turnedLow s a i c s' lo n, turnFlags s a i c s' lo n) := by
  rw [Conversions.sliceOf_map_range _ h, Conversions.sliceOf_map_range _ h, rotRows_map]
  rfl

/-! ### TRI -/

/-- A rotation's log entry, where LOG is set. -/
def logTurn (s : State) (o : EngOp) (c s' : ℕ) : State :=
  if sweepLog o.sa then engWrite s o false (o.sb.toNat + 8 * o.pos) ((bytesOf 32 [c, s']).map some) else s

section
variable {s : State} {o : EngOp} {j i : ℕ}

/-- The rows of a rotation of TRI: hypot and +0 in the places of its pair, the columns after it turned. -/
def triRows (s : State) (o : EngOp) (j i h : ℕ) (ang : ℕ × ℕ × Option ℕ × Flags) : State :=
  (putRows s o i j (h :: turnedUp s o.daddr i ang.1 ang.2.1 (j + 1) (sweepN o.sa - (j + 1)))
    (0 :: turnedLow s o.daddr i ang.1 ang.2.1 (j + 1) (sweepN o.sa - (j + 1)))).raise
    (ang.2.2.2 ||| turnFlags s o.daddr i ang.1 ang.2.1 (j + 1) (sweepN o.sa - (j + 1)))

variable (hc : o.clob = []) (hw : Mem.wf s.ctx.basin.reg = true) (hat : (sweepOrder (sweepM o.sa) (sweepN o.sa))[o.pos]? = some (j, i))
include hc hw hat

theorem triUnit_eq : triUnit s o =
    let ang := triAngle (Claims.tileWord s o.daddr (i - 1) j) (Claims.tileWord s o.daddr i j)
    logTurn (match ang.2.2.1 with
      | none => s
      | some h => triRows s o j i h ang) o ang.1 ang.2.1 := by
  have hj : j < sweepN o.sa := (mem_sweepOrder (List.mem_of_getElem? hat)).2
  have hn := sweepN_le o.sa
  have hup : ((List.range 64).map fun k => Claims.tileWord s o.daddr (i - 1) k).getD j 0 = Claims.tileWord s o.daddr (i - 1) j :=
    Conversions.getD_map_range _ _ (by omega)
  have hlo : ((List.range 64).map fun k => Claims.tileWord s o.daddr i k).getD j 0 = Claims.tileWord s o.daddr i j :=
    Conversions.getD_map_range _ _ (by omega)
  simp only [triUnit, sweepOf_eq, hat, sweepRow_eq hc hw, hup, hlo]
  simp only [rotRows_rows s o.daddr i _ _ (show j + 1 + (sweepN o.sa - (j + 1)) ≤ 64 by omega)]
  rfl

theorem rowsPut_tri {h : ℕ} (hh : h < 2 ^ 32) (c s' : ℕ) :
    RowsPut s (putRows s o i j (h :: turnedUp s o.daddr i c s' (j + 1) (sweepN o.sa - (j + 1)))
      (0 :: turnedLow s o.daddr i c s' (j + 1) (sweepN o.sa - (j + 1)))) o.daddr i j
      (h :: turnedUp s o.daddr i c s' (j + 1) (sweepN o.sa - (j + 1)))
      (0 :: turnedLow s o.daddr i c s' (j + 1) (sweepN o.sa - (j + 1))) := by
  obtain ⟨hi, hj⟩ := mem_sweepOrder (List.mem_of_getElem? hat)
  have hn := sweepN_le o.sa
  refine rowsPut_putRows hc hw hi (by simp [turnedUp, turnedLow]) (by simp [turnedUp]; omega) ?_ ?_
  · rintro x (_ | ⟨_, hx⟩)
    · exact hh
    · exact mem_turnedUp hx
  · rintro x (_ | ⟨_, hx⟩)
    · norm_num
    · exact mem_turnedLow hx

omit hw hat
theorem logTurn_frame (u : State) (c s' : ℕ) :
    let t := logTurn u o c s'
    Kept u t ∧ t.ctx.basin.reg = u.ctx.basin.reg ∧ t.ctx.basin.side = u.ctx.basin.side ∧ t.ctx.casc = u.ctx.casc ∧ t.ctx.ctl = u.ctx.ctl ∧
      (∀ k, t.ctx.basin.epochAt k = u.ctx.basin.epochAt k) := by
  dsimp only [logTurn]
  split
  · exact ⟨kept_engWrite _ hc _ _ _, engWrite_spad_reg _ hc _ _, engWrite_side _ hc _ _ _, engWrite_casc _ hc _ _ _,
      engWrite_ctl _ hc _ _ _, engWrite_epochAt _ hc _ _ _⟩
  · exact ⟨Kept.refl _, rfl, rfl, rfl, rfl, fun _ => rfl⟩

omit hc in
theorem logTurn_off (u : State) (c s' : ℕ) (hl : sweepLog o.sa = false) : logTurn u o c s' = u := by rw [logTurn, hl]; rfl

theorem logTurn_spad (u : State) (hws : Mem.wf u.ctx.basin.spad = true) (c s' : ℕ) (hlog : sweepLog o.sa = true) :
    laidOver (logTurn u o c s').ctx.basin.spad u.ctx.basin.spad (o.sb.toNat + 8 * o.pos) ((bytesOf 32 [c, s']).map some) := by
  rw [logTurn, if_pos hlog, engWrite_spad_spad u hc]
  exact laidOver_write hws _ _

omit hc
theorem ofLe_pair {c s' : ℕ} (hc : c < 2 ^ 32) (hs : s' < 2 ^ 32) : ofLe (bytesOf 32 [c, s']) = c + 2 ^ 32 * s' := by
  have h : bytesOf 32 [c, s'] = leBytes 4 c ++ leBytes 4 s' := by simp [bytesOf]
  rw [h, ofLe_append, ofLe_leBytes, ofLe_leBytes, Conversions.leBytes_length]
  norm_num at hc hs ⊢
  rw [Nat.mod_eq_of_lt hc, Nat.mod_eq_of_lt hs]

end

section
variable {s : State} {o : EngOp} {j i : ℕ} (hc : o.clob = []) (hw : Mem.wf s.ctx.basin.reg = true)
  (hat : (sweepOrder (sweepM o.sa) (sweepN o.sa))[o.pos]? = some (j, i))
include hc hw hat

/-- The angle of a rotation. -/
def angleOf (s : State) (o : EngOp) (j i : ℕ) : ℕ × ℕ × Option ℕ × Flags :=
  triAngle (Claims.tileWord s o.daddr (i - 1) j) (Claims.tileWord s o.daddr i j)

/-- Whether both values of a rotation's pair are zeros. -/
def zeroPair (s : State) (o : EngOp) (j i : ℕ) : Prop :=
  isZero32 (Claims.tileWord s o.daddr (i - 1) j) ∧ isZero32 (Claims.tileWord s o.daddr i j)

theorem triUnit_zeros (hz : zeroPair s o j i) : triUnit s o = logTurn s o (angleOf s o j i).1 (angleOf s o j i).2.1 := by
  have hang := triAngle_zeros (tileWord_lt _ _ _ _) (tileWord_lt _ _ _ _) hz
  rw [triUnit_eq hc hw hat]
  simp only [angleOf, hang]

/-- The hypot of a rotation's pair. -/
def hypotOf (s : State) (o : EngOp) (j i : ℕ) : ℕ := (hypot32 (Claims.tileWord s o.daddr (i - 1) j) (Claims.tileWord s o.daddr i j)).1

theorem triUnit_turns (hz : ¬zeroPair s o j i) :
    triUnit s o = logTurn (triRows s o j i (hypotOf s o j i) (angleOf s o j i)) o (angleOf s o j i).1 (angleOf s o j i).2.1 := by
  have hang := triAngle_turns (tileWord_lt _ _ _ _) (tileWord_lt _ _ _ _) hz
  rw [triUnit_eq hc hw hat]
  simp only [hang]
  rfl

/-- What a rotation of TRI leaves alone. -/
theorem triUnit_frame : Kept s (triUnit s o) ∧ (triUnit s o).ctx.casc = s.ctx.casc ∧ (triUnit s o).ctx.basin.side = s.ctx.basin.side ∧
    rowsOnly s (triUnit s o) o.daddr i j (sweepN o.sa) := by
  have hj : j < sweepN o.sa := (mem_sweepOrder (List.mem_of_getElem? hat)).2
  by_cases hz : zeroPair s o j i
  · rw [triUnit_zeros hc hw hat hz]
    obtain ⟨hk, hreg, hside, hcasc, -, -⟩ := logTurn_frame hc s (angleOf s o j i).1 (angleOf s o j i).2.1
    exact ⟨hk, hcasc, hside, fun x _ => by rw [hreg]⟩
  · rw [triUnit_turns hc hw hat hz]
    have hput := rowsPut_tri hc hw hat (hypot32_lt _ _ : hypotOf s o j i < _) (angleOf s o j i).1 (angleOf s o j i).2.1
    obtain ⟨hk, hreg, hside, hcasc, -, -⟩ := logTurn_frame hc (triRows s o j i (hypotOf s o j i) (angleOf s o j i))
      (angleOf s o j i).1 (angleOf s o j i).2.1
    refine ⟨(hput.kept.trans (kept_raise _ _)).trans hk, hcasc.trans hput.casc, hside.trans hput.side, fun x hx => ?_⟩
    rw [hreg]
    refine hput.only x fun r k hr hlo hhi => hx r k hr hlo ?_
    simp only [turnedUp, List.length_cons, List.length_map, List.length_range] at hhi
    omega

theorem triUnit_of_zeros (hz : zeroPair s o j i) :
    (triUnit s o).ctx.basin.reg = s.ctx.basin.reg ∧ (triUnit s o).ctx.ctl = s.ctx.ctl := by
  rw [triUnit_zeros hc hw hat hz]
  obtain ⟨-, hreg, -, -, hctl, -⟩ := logTurn_frame hc s (angleOf s o j i).1 (angleOf s o j i).2.1
  exact ⟨hreg, hctl⟩

/-- R191: hypot and +0 stand in the places of the pair, and the columns after it are turned. -/
theorem triUnit_of_turns (hz : ¬zeroPair s o j i) :
    let r := triUnit s o
    let ang := angleOf s o j i
    ang.2.2.1 = some (Claims.tileWord r o.daddr (i - 1) j) ∧ Claims.tileWord r o.daddr i j = 0 ∧ raises s r [ang.2.2.2] ∧
      ∀ k, j < k → k < sweepN o.sa → Claims.tileWord r o.daddr (i - 1) k = (turnOf s o.daddr i ang.1 ang.2.1 k).1 ∧
        Claims.tileWord r o.daddr i k = (turnOf s o.daddr i ang.1 ang.2.1 k).2.1 ∧ raises s r [(turnOf s o.daddr i ang.1 ang.2.1 k).2.2] := by
  have hput := rowsPut_tri hc hw hat (hypot32_lt _ _ : hypotOf s o j i < _) (angleOf s o j i).1 (angleOf s o j i).2.1
  obtain ⟨-, hreg, -, -, hctl, hep⟩ := logTurn_frame hc (triRows s o j i (hypotOf s o j i) (angleOf s o j i))
    (angleOf s o j i).1 (angleOf s o j i).2.1
  have hang : (angleOf s o j i).2.2.1 = some (hypotOf s o j i) := triAngle_turns (tileWord_lt _ _ _ _) (tileWord_lt _ _ _ _) hz
  rw [triUnit_turns hc hw hat hz]
  have hword (r k : ℕ) : Claims.tileWord (logTurn (triRows s o j i (hypotOf s o j i) (angleOf s o j i)) o (angleOf s o j i).1
      (angleOf s o j i).2.1) o.daddr r k = Claims.tileWord (putRows s o i j
        (hypotOf s o j i :: turnedUp s o.daddr i (angleOf s o j i).1 (angleOf s o j i).2.1 (j + 1) (sweepN o.sa - (j + 1)))
        (0 :: turnedLow s o.daddr i (angleOf s o j i).1 (angleOf s o j i).2.1 (j + 1) (sweepN o.sa - (j + 1)))) o.daddr r k :=
    tileWord_congr hreg hep _ _ _
  have hflags : (logTurn (triRows s o j i (hypotOf s o j i) (angleOf s o j i)) o (angleOf s o j i).1
      (angleOf s o j i).2.1).ctx.ctl.fflags = s.ctx.ctl.fflags ||| ((0 : BitVec 59) ++ ((angleOf s o j i).2.2.2 |||
        turnFlags s o.daddr i (angleOf s o j i).1 (angleOf s o j i).2.1 (j + 1) (sweepN o.sa - (j + 1)))) := by
    rw [hctl, ← hput.ctl]
    rfl
  refine ⟨?_, ?_, raises_of_raise hflags (by simpa using among_or_left _ _), fun k hjk hkn => ⟨?_, ?_, raises_of_raise hflags ?_⟩⟩
  · rw [hang, hword]
    exact congrArg some (hput.upper 0 _ rfl).symm
  · rw [hword]
    exact hput.lower 0 _ rfl
  · obtain ⟨m, rfl⟩ := Nat.exists_eq_add_of_lt hjk
    rw [hword, show j + m + 1 = j + (m + 1) by ring]
    refine hput.upper (m + 1) _ ?_
    rw [List.getElem?_cons_succ, turnedUp, List.getElem?_map, List.getElem?_range (by omega), Option.map_some,
      show j + 1 + m = j + (m + 1) by ring]
  · obtain ⟨m, rfl⟩ := Nat.exists_eq_add_of_lt hjk
    rw [hword, show j + m + 1 = j + (m + 1) by ring]
    refine hput.lower (m + 1) _ ?_
    rw [List.getElem?_cons_succ, turnedLow, List.getElem?_map, List.getElem?_range (by omega), Option.map_some,
      show j + 1 + m = j + (m + 1) by ring]
  · obtain ⟨m, rfl⟩ := Nat.exists_eq_add_of_lt hjk
    have := among_turnFlags s o.daddr i (angleOf s o j i).1 (angleOf s o j i).2.1 (j + 1) (show m < sweepN o.sa - (j + 1) by omega)
    rw [show j + 1 + m = j + m + 1 by ring] at this
    simpa using among_trans this (among_or_right _ _)

theorem triUnit_spad (hws : Mem.wf s.ctx.basin.spad = true) :
    (sweepLog o.sa = false → (triUnit s o).ctx.basin.spad = s.ctx.basin.spad) ∧
    (sweepLog o.sa = true → ∃ bs, bs.length = 8 ∧ ofLe bs = (angleOf s o j i).1 + 2 ^ 32 * (angleOf s o j i).2.1 ∧
      laidOver (triUnit s o).ctx.basin.spad s.ctx.basin.spad (o.sb.toNat + 8 * o.pos) (bs.map some)) := by
  obtain ⟨hlt, hlt'⟩ := triAngle_lt (Claims.tileWord s o.daddr (i - 1) j) (Claims.tileWord s o.daddr i j)
  obtain ⟨u, hu, hspad⟩ : ∃ u, triUnit s o = logTurn u o (angleOf s o j i).1 (angleOf s o j i).2.1 ∧ u.ctx.basin.spad = s.ctx.basin.spad := by
    by_cases hz : zeroPair s o j i
    · exact ⟨_, triUnit_zeros hc hw hat hz, rfl⟩
    · exact ⟨_, triUnit_turns hc hw hat hz,
        (rowsPut_tri hc hw hat (hypot32_lt _ _ : hypotOf s o j i < _) (angleOf s o j i).1 (angleOf s o j i).2.1).spad⟩
  rw [hu]
  refine ⟨fun hl => by rw [logTurn_off _ _ _ hl, hspad], fun hl => ⟨_, bytesOf32_length _, ofLe_pair hlt hlt', ?_⟩⟩
  rw [← hspad]
  exact logTurn_spad hc u (by rw [hspad]; exact hws) _ _ hl

end

end Sys2Proof.CascadeRuns
end

section
/-! GROT, and the sweeps as instructions (R192, R193, R223). -/

namespace Sys2Proof.CascadeRuns

open Sys2Proof Sys2Proof.Machine Sys2Proof.Claims Sys2Proof.Rotations

/-! ### GROT -/

section
variable {s : State} {o : EngOp} {j i : ℕ} (hc : o.clob = []) (hw : Mem.wf s.ctx.basin.reg = true)

/-- The words of a log entry. -/
def logCos (s : State) (o : EngOp) : ℕ := ofLe (s.ctx.spadBytes (o.sb.toNat + 8 * o.pos) 4)

def logSin (s : State) (o : EngOp) : ℕ := ofLe (s.ctx.spadBytes (o.sb.toNat + 8 * o.pos + 4) 4)

theorem logEntry_eq (hws : Mem.wf s.ctx.basin.spad = true) :
    lanes32 (s.ctx.spadBytes (o.sb.toNat + 8 * o.pos) 8) = [logCos s o, logSin s o] := by
  rw [lanes32_eq, Ctx.spadBytes, Basin.bytes_length]
  simp only [show 8 / 4 = 2 by norm_num, List.range_succ, List.range_zero, List.map_nil, List.map_cons, List.nil_append,
    List.cons_append]
  rw [sliceOf_bytes hws _ (by norm_num), sliceOf_bytes hws _ (by norm_num)]
  rfl

/-- The rows of a rotation of GROT. -/
def grotRows (s : State) (o : EngOp) (i : ℕ) : State :=
  putRows s o i 0 (turnedUp s o.daddr i (logCos s o) (logSin s o) 0 (sweepW o.sa)) (turnedLow s o.daddr i (logCos s o) (logSin s o) 0 (sweepW o.sa))

include hc hw

theorem grotUnit_eq (hws : Mem.wf s.ctx.basin.spad = true) (hat : (sweepOrder (sweepM o.sa) (sweepN o.sa))[o.pos]? = some (j, i)) :
    grotUnit s o = (grotRows s o i).raise (turnFlags s o.daddr i (logCos s o) (logSin s o) 0 (sweepW o.sa)) := by
  have hfit : 0 + sweepW o.sa ≤ 64 := by have := sweepW_le o.sa; omega
  have htake (xs : List ℕ) : xs.take (sweepW o.sa) = sliceOf xs 0 (sweepW o.sa) := rfl
  have hlog : lanesOf 32 (engRead s o false (2 ^ 24) (o.sb.toNat + 8 * o.pos) 8) = [logCos s o, logSin s o] := by
    rw [engRead_spad hc]
    exact logEntry_eq hws
  simp only [grotUnit, sweepOf_eq, hat, hlog, sweepRow_eq hc hw, htake, List.getD_cons_zero, List.getD_cons_succ]
  simp only [rotRows_rows s o.daddr i _ _ hfit]
  rfl

theorem rowsPut_grot (hi : 0 < i) : RowsPut s (grotRows s o i) o.daddr i 0
    (turnedUp s o.daddr i (logCos s o) (logSin s o) 0 (sweepW o.sa)) (turnedLow s o.daddr i (logCos s o) (logSin s o) 0 (sweepW o.sa)) :=
  rowsPut_putRows hc hw hi (by simp [turnedUp, turnedLow]) (by simpa [turnedUp] using sweepW_le o.sa) (fun _ => mem_turnedUp)
    (fun _ => mem_turnedLow)

end

/-! ### The sweeps as instructions -/

section
variable {s : State} {o : EngOp} {j i : ℕ} {g : EGuard} {d a b : BitVec 6}

theorem unitResult_tri (hi : o.instr = .tri g d a b) : unitResult s o = triUnit s o := by
  simp only [unitResult, sweepUnit, sweepEnd, onward, hi, ite_self]

theorem unitResult_grot (hi : o.instr = .grot g d a b) : unitResult s o = grotUnit s o := by
  simp only [unitResult, sweepUnit, sweepEnd, onward, hi, ite_self]

end

/-- The rotations of TRI and GROT, by their units. -/
theorem sweepsAct : SweepsAct := by
  intro s o idx j i hu he hb hc hw hws seq log turned hat hpois
  obtain ⟨hi, hj⟩ := mem_sweepOrder (List.mem_of_getElem? hat)
  have hpos : o.pos < (sweepOf o.sa).length := by rw [sweepOf_eq]; exact (List.getElem?_eq_some_iff.1 hat).1
  have hat' : (sweepOf o.sa)[o.pos]? = some (j, i) := by rw [sweepOf_eq]; exact hat
  refine ⟨fun g d a b hins => ?_, fun g d a b hins hlogp => ?_⟩
  · have hunits : cascUnits o = (sweepOf o.sa).length := by simp only [cascUnits, hins]
    have hbad : unitBad s o = false := by simpa [unitBad, unitReads, hins, hat', engBad] using hpois
    obtain ⟨hkept, hcasc, hside, honly⟩ := triUnit_frame hc hw hat
    have hunit : sweepUnit s o = triUnit s o := by simp only [sweepUnit, hins]
    obtain ⟨t, hhap, hmade, har, hbas, hcas, hctl⟩ := unit_runs hu he hb hc (by simp only [isSweep, hins]) (hunits ▸ hpos) hbad
      (hunit ▸ hkept)
    rw [unitResult_tri hins] at hbas hcas hctl
    rw [hunits, sweepOf_eq] at hmade
    obtain ⟨hoff, hon⟩ := triUnit_spad hc hw hat hws
    have hword (r k : ℕ) : Claims.tileWord t o.daddr r k = Claims.tileWord (triUnit s o) o.daddr r k :=
      tileWord_congr (by rw [hbas]) (fun k => by rw [hbas]) _ _ _
    refine ⟨t, hhap, hmade, har, hcas.trans hcasc, by rw [hbas, hside], ?_, ?_, ?_, ?_, ?_⟩
    · simpa only [rowsOnly, hbas] using honly
    · intro hz
      obtain ⟨hreg, hctl'⟩ := triUnit_of_zeros hc hw hat hz
      exact ⟨by rw [hbas, hreg], by rw [hctl, hctl']⟩
    · intro hz
      simp only [turned, hword, raises, hctl]
      exact triUnit_of_turns hc hw hat hz
    · rw [hbas]
      exact hoff
    · rw [hbas]
      exact hon
  · have hunits : cascUnits o = (sweepOf o.sa).length := by simp only [cascUnits, hins]
    have hbad : unitBad s o = false := by
      simp only [unitBad, unitReads, hins, hat', engBad, List.any_cons, List.any_nil, Bool.or_false, if_true, Bool.false_eq_true, if_false]
      rw [hpois, hlogp]
      rfl
    have hput := rowsPut_grot hc hw hi
    have heq := grotUnit_eq hc hw hws hat
    have hunit : sweepUnit s o = grotUnit s o := by simp only [sweepUnit, hins]
    obtain ⟨t, hhap, hmade, har, hbas, hcas, hctl⟩ := unit_runs hu he hb hc (by simp only [isSweep, hins]) (hunits ▸ hpos) hbad
      (by rw [hunit, heq]; exact hput.kept.trans (kept_raise _ _))
    rw [unitResult_grot hins, heq] at hbas hcas hctl
    rw [hunits, sweepOf_eq] at hmade
    have hbas' : t.ctx.basin = (grotRows s o i).ctx.basin := hbas
    have hword (r k : ℕ) : Claims.tileWord t o.daddr r k = Claims.tileWord (grotRows s o i) o.daddr r k :=
      tileWord_congr (by rw [hbas']) (fun k => by rw [hbas']) _ _ _
    have hflags : t.ctx.ctl.fflags = s.ctx.ctl.fflags |||
        ((0 : BitVec 59) ++ turnFlags s o.daddr i (logCos s o) (logSin s o) 0 (sweepW o.sa)) := by
      rw [hctl, ← hput.ctl]
      rfl
    refine ⟨t, hhap, hmade, har, hcas.trans hput.casc, by rw [hbas', hput.side], by rw [hbas', hput.spad], ?_, fun k hk => ⟨?_, ?_, ?_⟩⟩
    · have honly := hput.only
      simpa only [rowsOnly, hbas', turnedUp, List.length_map, List.length_range, Nat.zero_add] using honly
    · have := hput.upper k (turnOf s o.daddr i (logCos s o) (logSin s o) k).1 (by simp [turnedUp, hk])
      rw [Nat.zero_add] at this
      rw [hword]
      exact this
    · have := hput.lower k (turnOf s o.daddr i (logCos s o) (logSin s o) k).2.1 (by simp [turnedLow, hk])
      rw [Nat.zero_add] at this
      rw [hword]
      exact this
    · have := among_turnFlags s o.daddr i (logCos s o) (logSin s o) 0 hk
      rw [Nat.zero_add] at this
      exact raises_of_raise hflags fun f hf => (List.mem_singleton.1 hf) ▸ this

end Sys2Proof.CascadeRuns
end

section
/-! Vectors of elements as bytes, and the words of a bit vector (R11, R123, R198, R207, R209). -/

namespace Sys2Proof.CascadeRuns

open Sys2Proof Sys2Proof.Machine Sys2Proof.Claims Sys2Proof.Rotations

/-! ### Elements of runs of bytes -/

theorem lanes16_eq (bs : List Byte) : lanes16 bs = (List.range (bs.length / 2)).map fun k => ofLe (sliceOf bs (2 * k) 2) := by
  induction bs using lanes16.induct with
  | case1 a b rest ih =>
    rw [lanes16, ih, List.length_cons, List.length_cons, show (rest.length + 1 + 1) / 2 = rest.length / 2 + 1 by omega,
      List.range_succ_eq_map, List.map_cons, List.map_map]
    congr 1
  | case2 bs h =>
    have hlt : bs.length < 2 := by
      rcases bs with _ | ⟨a, _ | ⟨b, rest⟩⟩
      · simp
      · simp
      · exact absurd rfl (h a b rest)
    rw [Nat.div_eq_of_lt hlt]
    unfold lanes16
    split
    · simp at hlt
    · rfl

theorem codeAt_32 (bs : List Byte) (l : ℕ) : codeAt 32 bs l = ofLe (sliceOf bs (4 * l) 4) := by
  have hlt : ofLe (sliceOf bs (4 * l) 4) < 2 ^ 32 :=
    (ofLe_lt _).trans_le (Nat.pow_le_pow_right (by norm_num) (by simp [sliceOf]) : _ ≤ 256 ^ 4)
  rw [codeAt, show l * 32 / 8 = 4 * l by omega, show l * 32 % 8 = 0 by omega, pow_zero, Nat.div_one, Nat.mod_eq_of_lt hlt]

theorem codeAt_16 {bs : List Byte} {l : ℕ} (h : 2 * l + 2 ≤ bs.length) : codeAt 16 bs l = ofLe (sliceOf bs (2 * l) 2) := by
  have hlen : (sliceOf bs (2 * l) 2).length = 2 := by simp [sliceOf]; omega
  have hsplit : sliceOf bs (2 * l) 4 = sliceOf bs (2 * l) 2 ++ sliceOf bs (2 * l + 2) 2 := by
    rw [sliceOf, sliceOf, sliceOf, ← List.drop_drop]
    exact List.take_add (i := 2) (j := 2)
  have hlt := ofLe_lt (sliceOf bs (2 * l) 2)
  rw [hlen] at hlt
  rw [codeAt, show l * 16 / 8 = 2 * l by omega, show l * 16 % 8 = 0 by omega, pow_zero, Nat.div_one, hsplit, ofLe_append, hlen,
    show 2 ^ 16 = 256 ^ 2 by norm_num, Nat.add_mul_mod_self_left, Nat.mod_eq_of_lt hlt]

/-- The lanes of a floating-point format, by their codes. -/
theorem lanesOf_eq {f : Fmt} (hf : f ∈ [Fmt.fp32, .bf16, .fp16]) {n : ℕ} {bs : List Byte} (h : 8 * bs.length = n * f.width) :
    Machine.lanesOf f.width bs = (List.range n).map fun l => codeAt f.width bs l := by
  have h16 (h : 8 * bs.length = n * 16) : lanes16 bs = (List.range n).map fun l => codeAt 16 bs l := by
    rw [lanes16_eq, show bs.length / 2 = n by omega]
    exact List.map_congr_left fun l hl => (codeAt_16 (by have := List.mem_range.1 hl; omega)).symm
  simp only [List.mem_cons, List.not_mem_nil, or_false] at hf
  rcases hf with rfl | rfl | rfl
  · simp only [Fmt.width] at h
    show lanes32 bs = _
    rw [lanes32_eq, show bs.length / 4 = n by omega]
    exact List.map_congr_left fun l _ => (codeAt_32 bs l).symm
  · exact h16 h
  · exact h16 h

/-! ### Lengths -/

theorem bytes4_length (xs : List ℕ) : (bytes4 xs).length = (xs.length + 1) / 2 := by
  induction xs using bytes4.induct with
  | case1 a b rest ih => rw [bytes4, List.length_cons, ih, List.length_cons, List.length_cons]; omega
  | case2 a => simp [bytes4]
  | case3 => rfl

theorem width_cases (f : Fmt) : f.width = 4 ∨ f.width = 8 ∨ f.width = 16 ∨ f.width = 32 := by
  cases f <;> simp [Fmt.width]

theorem bytesOf_length (f : Fmt) {n : ℕ} (xs : List ℕ) (h : xs.length = 2 * n) : 4 * (bytesOf f.width xs).length = n * f.width := by
  have hwhole (c : ℕ) : (xs.flatMap fun x => leBytes c x).length = 2 * n * c := by
    simp [List.length_flatMap, h]
  rcases width_cases f with hw | hw | hw | hw
  · rw [hw, show bytesOf 4 xs = bytes4 xs by rfl, bytes4_length, h]; omega
  · rw [hw, show bytesOf 8 xs = xs.flatMap fun x => leBytes 1 x by rfl, hwhole]; omega
  · rw [hw, show bytesOf 16 xs = xs.flatMap fun x => leBytes 2 x by rfl, hwhole]; omega
  · rw [hw, show bytesOf 32 xs = xs.flatMap fun x => leBytes 4 x by rfl, hwhole]; omega

theorem mxQuant_length (f : FltFmt) (emax : ℤ) (mode : ℕ → RMode) (xs : List FVal) : (mxQuant f emax mode xs).elems.length = xs.length := by
  unfold mxQuant
  split
  · simp
  · dsimp only
    split
    · simp
    · simp

/-- The bytes of a run of whole blocks. -/
theorem tailQuant_length (c : TailCfg) (mode : ℕ → RMode) {n : ℕ} (xs : List ℕ) (h : xs.length = 32 * n) :
    (tailQuant c mode xs).1.length = 4 * n * c.out.width := by
  have hbytes (ys : List ℕ) (hy : ys.length = 32 * n) : (bytesOf c.out.width ys).length = 4 * n * c.out.width := by
    have := bytesOf_length c.out (n := 16 * n) ys (by omega)
    rw [show 16 * n * c.out.width = 4 * (4 * n * c.out.width) by ring] at this
    omega
  unfold tailQuant
  dsimp only
  split
  · refine hbytes _ ?_
    rw [List.length_flatMap, List.map_map, h, show (32 * n + 31) / 32 = n by omega,
      List.map_congr_left (g := fun _ => 32) (fun k hk => ?_), List.map_const', List.sum_replicate]
    · simp [Nat.mul_comm]
    · have := List.mem_range.1 hk
      rw [Function.comp_apply, mxQuant_length, List.length_map, sliceOf, List.length_take, List.length_drop, h]
      omega
  · split
    · next hf =>
      have hw : c.out.width = 32 := by rw [beq_iff_eq.1 hf]; rfl
      rw [← hw]
      exact hbytes _ h
    · exact hbytes _ (by simp [h])

/-- Only a block format has scale bytes. -/
theorem tailQuant_scales (c : TailCfg) (mode : ℕ → RMode) (xs : List ℕ) (h : c.out.isBlk = false) : (tailQuant c mode xs).2.1 = [] := by
  have hblk : (c.out == .mxfp8 || c.out == .mxfp4) = false := by
    simp only [Fmt.isBlk, Bool.or_eq_false_iff] at h
    rw [h.1.1, h.1.2]; rfl
  simp only [tailQuant, hblk, Bool.false_eq_true, if_false]
  split <;> rfl

theorem tailOf_out (s : State) (o : EngOp) : (tailOf s o).out = tailOut o.tailCmd := by
  simp [TailCfg.out, tailOf, tailOut]

/-- An output's vectors fill the granules that it occupies. -/
theorem outGranules_le (f : Fmt) (n : ℕ) : n * (16 * f.width) ≤ 256 * outGranules f (128 * n) := by
  unfold outGranules Fmt.lanes
  rcases width_cases f with hw | hw | hw | hw <;> rw [hw] <;> norm_num <;> omega

/-! ### Words of a bit vector -/

theorem extract_ofNat {w : ℕ} (x lo n : ℕ) (h : lo + n ≤ w) : ((BitVec.ofNat w x).extractLsb' lo n).toNat = x / 2 ^ lo % 2 ^ n := by
  rw [BitVec.extractLsb'_toNat, BitVec.toNat_ofNat, Nat.shiftRight_eq_div_pow,
    show 2 ^ w = 2 ^ lo * 2 ^ (w - lo) by rw [← pow_add]; congr 1; omega, Nat.mod_mul_right_div_self,
    Nat.mod_mod_of_dvd _ (pow_dvd_pow 2 (by omega))]

theorem ofLe_drop (bs : List Byte) (k : ℕ) : ofLe (bs.drop k) = ofLe bs / 256 ^ k := by
  by_cases h : k ≤ bs.length
  · have hlt := ofLe_lt (bs.take k)
    rw [List.length_take, min_eq_left h] at hlt
    conv_rhs => rw [← List.take_append_drop k bs, ofLe_append, List.length_take, min_eq_left h]
    rw [Nat.add_mul_div_left _ _ (by positivity), Nat.div_eq_of_lt hlt, Nat.zero_add]
  · have hlt := (ofLe_lt bs).trans_le (Nat.pow_le_pow_right (by norm_num : 0 < 256) (by omega : bs.length ≤ k))
    rw [List.drop_of_length_le (by omega), Nat.div_eq_of_lt hlt]
    rfl

theorem ofLe_take (bs : List Byte) (k : ℕ) : ofLe (bs.take k) = ofLe bs % 256 ^ k := by
  by_cases h : k ≤ bs.length
  · have hlt := ofLe_lt (bs.take k)
    rw [List.length_take, min_eq_left h] at hlt
    conv_rhs => rw [← List.take_append_drop k bs, ofLe_append, List.length_take, min_eq_left h]
    rw [Nat.add_mul_mod_self_left, Nat.mod_eq_of_lt hlt]
  · have hlt := (ofLe_lt bs).trans_le (Nat.pow_le_pow_right (by norm_num : 0 < 256) (by omega : bs.length ≤ k))
    rw [List.take_of_length_le (by omega), Nat.mod_eq_of_lt hlt]

theorem ofLe_sliceOf (bs : List Byte) (k n : ℕ) : ofLe (sliceOf bs k n) = ofLe bs / 256 ^ k % 256 ^ n := by
  rw [sliceOf, ofLe_take, ofLe_drop]

/-- Codes packed into a bit vector stand at their places. -/
theorem packWords_word {n : ℕ} {xs : List ℕ} {k x : ℕ} (hn : 32 * xs.length ≤ n) (hx : xs[k]? = some x) (hlt : x < 2 ^ 32) :
    ((packWords n xs).extractLsb' (32 * k) 32).toNat = x := by
  have hk := (List.getElem?_eq_some_iff.1 hx).1
  rw [packWords, extract_ofNat _ _ _ (by omega), ← word_bytesOf hx hlt, ofLe_sliceOf, show 256 ^ (4 * k) = 2 ^ (32 * k) by
    rw [show 256 = 2 ^ 8 by norm_num, ← pow_mul]; congr 1; ring, show 256 ^ 4 = 2 ^ 32 by norm_num]

end Sys2Proof.CascadeRuns
end

section
/-! A vector of ROTP and ROTI (R198, R199, R203 to R205, R207, R209, R221). -/

namespace Sys2Proof.CascadeRuns

open Sys2Proof Sys2Proof.Machine Sys2Proof.Claims Sys2Proof.Rotations

/-! ### The drift -/

theorem round32_lt (x : FVal) : (fp32F.round .rne x).1 < 2 ^ 32 := rne32_lt (x, 0)

theorem mem_writePairs {f g : (ℕ × ℕ) × ℕ → ℕ → ℕ → ℕ} {n : ℕ} (hf : ∀ p a b, f p a b < n) (hg : ∀ p a b, g p a b < n)
    (st : StagePairs) {xs : List ℕ} (hx : ∀ x ∈ xs, x < n) : ∀ x ∈ writePairs 0 f g st xs, x < n := by
  induction st generalizing xs with
  | nil => exact hx
  | cons p st ih =>
    rw [writePairs_cons]
    refine ih fun x h => ?_
    rcases List.mem_or_eq_of_mem_set h with h | rfl
    · rcases List.mem_or_eq_of_mem_set h with h | rfl
      · exact hx x h
      · exact hf _ _ _
    · exact hg _ _ _

theorem driftOf_lt (sts : List StagePairs) : ∀ x ∈ driftOf sts, x < 2 ^ 32 := by
  induction sts using List.reverseRecOn with
  | nil =>
    intro x hx
    rw [List.eq_of_mem_replicate hx]
    decide
  | append_singleton sts st ih =>
    rw [driftOf_append]
    exact mem_writePairs (fun p a _ => round32_lt _) (fun p _ b => round32_lt _) st ih

theorem driftOf_getElem? (sts : List StagePairs) {l : ℕ} (hl : l < 128) : (driftOf sts)[l]? = some ((driftOf sts).getD l 0) := by
  simp [List.getD_eq_getElem?_getD, driftOf_length, hl]

/-- The drift vector that a pass leaves. -/
theorem drift_packed (sts : List StagePairs) {l : ℕ} (hl : l < 128) :
    ((packWords 4096 (driftOf sts)).extractLsb' (32 * l) 32).toNat = (driftOf sts).getD l 0 :=
  packWords_word (by rw [driftOf_length]) (driftOf_getElem? sts hl) (driftOf_lt sts _ (List.mem_of_getElem? (driftOf_getElem? sts hl)))

theorem noDrift_packed : noDrift (packWords 4096 (driftOf [])) := fun l hl => by
  apply BitVec.eq_of_toNat_eq
  rw [drift_packed [] hl]
  rw [show driftOf [] = List.replicate 128 one32 by rfl, List.getD_replicate _ hl]
  rfl

/-! ### The vector that a unit computes -/

section
variable (inverse : Bool) (s : State) (o : EngOp)

/-- A pass's stages, in the order in which the unit takes them, on its input vector. -/
def passTurned : List ℕ × Flags :=
  stagesStep inverse (if inverse then (passStages s.ctx.casc o.plane o.sb).reverse else passStages s.ctx.casc o.plane o.sb)
    (passInput s o (Fmt.ofCode o.atag) (tailOut o.tailCmd) o.pos)

/-- Its elements behind the tail. -/
def passTail : List Elem := (List.range 128).map fun l =>
  tailElem (tailOf s o) l ((driftOf (passStages s.ctx.casc o.plane o.sb)).getD l 0) ((passTurned inverse s o).1.getD l 0)

/-- Its bytes, scale bytes and flags. -/
def passBytes : List Byte × List Byte × Flags :=
  tailQuant (tailOf s o) (fun i => opSr o (128 * o.pos + i)) ((passTail inverse s o).map Prod.fst)

/-- The flags that it raises. -/
def passFlags : Flags :=
  (passTurned inverse s o).2 ||| (passTail inverse s o).foldl (fun acc x => acc ||| x.2) 0 ||| (passBytes inverse s o).2.2

end

section
variable {inverse : Bool} {s : State} {o : EngOp}

theorem stagesStep_length (sts : List StagePairs) (xs : List ℕ) : (stagesStep inverse sts xs).1.length = xs.length := by
  rw [stagesStep]
  induction sts using List.reverseRecOn with
  | nil => rfl
  | append_singleton sts st ih => rw [List.foldl_append, List.foldl_cons, List.foldl_nil, stageStep_length, ih]

theorem lanesOf_length (f : Fmt) {n : ℕ} {bs : List Byte} (h : 4 * bs.length = n * f.width) : (Machine.lanesOf f.width bs).length = 2 * n := by
  rcases width_cases f with hw | hw | hw | hw <;> rw [hw] at h ⊢
  · rw [show Machine.lanesOf 4 bs = lanes4 bs by rfl, Conversions.lanes4_length]; omega
  · rw [show Machine.lanesOf 8 bs = bs.map BitVec.toNat by rfl, List.length_map]; omega
  · rw [show Machine.lanesOf 16 bs = lanes16 bs by rfl, Conversions.lanes16_length]; omega
  · rw [show Machine.lanesOf 32 bs = lanes32 bs by rfl, Conversions.lanes32_length]; omega

theorem regBytes_length (s : State) (a n : ℕ) : (s.ctx.regBytes a n).length = n := Basin.bytes_length _ _ _ _ _ _

theorem passInput_length (hc : o.clob = []) (f out : Fmt) (v : ℕ) : (passInput s o f out v).length = 128 := by
  have hlanes : (Machine.lanesOf f.width (engRead s o true (2 ^ 21) (o.aaddr + v * inBytes f) (inBytes f))).length = 2 * 64 := by
    refine lanesOf_length f ?_
    rw [engRead_reg hc, regBytes_length, inBytes]
    ring
  unfold passInput
  split
  · simp
  · dsimp only
    split
    · exact hlanes
    · rw [List.length_map]; exact hlanes

theorem passTurned_length (hc : o.clob = []) : (passTurned inverse s o).1.length = 128 := by
  rw [passTurned, stagesStep_length, passInput_length hc]

theorem passBytes_length : (passBytes inverse s o).1.length = 16 * (tailOut o.tailCmd).width := by
  rw [passBytes, tailQuant_length _ _ (n := 4) _ (by simp [passTail]), tailOf_out]

/-- A vector of a pass is written, with its scale bytes and its flags. -/
theorem passUnit_eq (hc : o.clob = []) : passUnit inverse s o =
    (putScales (engWrite s o true (o.daddr + o.pos * (16 * (tailOut o.tailCmd).width)) ((passBytes inverse s o).1.map some)) o.daddr
      (tailOut o.tailCmd) (4 * o.pos) (passBytes inverse s o).2.1).raise (passFlags inverse s o) := by
  have hlanes : (passTurned inverse s o).1.zipIdx.map (fun x => tailElem (tailOf s o) x.2
      ((driftOf (passStages s.ctx.casc o.plane o.sb)).getD x.2 one32) x.1) = passTail inverse s o := by
    apply List.ext_getElem
    · simp [passTail, passTurned_length hc]
    · intro l hl hl'
      have h128 : l < 128 := by simpa [passTail] using hl'
      simp [passTail, List.getD_eq_getElem?_getD, passTurned_length hc, driftOf_length, h128]
  rw [passFlags, passBytes, ← hlanes]
  simp only [passUnit, tailOf_out]
  rfl

theorem kept_passUnit (hc : o.clob = []) : Kept s (passUnit inverse s o) := by
  rw [passUnit_eq hc]
  exact ((kept_engWrite s hc _ _ true).trans (kept_putScales _ _ _ _ _)).trans (kept_raise _ _)

/-! ### Its input, where the output has not run over it -/

/-- Whether the elements of a pass's input are those before the pass (R209). -/
def untorn (o : EngOp) : Prop :=
  let f := Fmt.ofCode o.atag
  let out := tailOut o.tailCmd
  (o.daddr = o.aaddr ∧ out.width ≤ f.width) ∨ o.daddr + 16 * out.width * passV o.sb ≤ o.aaddr ∨
    o.aaddr + 16 * f.width * passV o.sb ≤ o.daddr

theorem meets_of_apart {a n b m : ℕ} (h : a + n ≤ b ∨ b + m ≤ a) : meets a n b m = false := by
  simp only [meets, Bool.and_eq_false_iff, decide_eq_false_iff_not]
  omega

theorem passTorn_of_untorn (h : untorn o) (hpos : o.pos < passV o.sb) :
    passTorn o (Fmt.ofCode o.atag) (tailOut o.tailCmd) o.pos = false := by
  have hin : o.pos * inBytes (Fmt.ofCode o.atag) + inBytes (Fmt.ofCode o.atag) ≤ passV o.sb * inBytes (Fmt.ofCode o.atag) := by
    rw [← Nat.succ_mul]
    exact Nat.mul_le_mul_right _ hpos
  have hout : o.pos * inBytes (tailOut o.tailCmd) ≤ passV o.sb * inBytes (tailOut o.tailCmd) := Nat.mul_le_mul_right _ hpos.le
  rcases h with ⟨hd, hw⟩ | h
  · simp [passTorn, hd, hw]
  · rw [Nat.mul_comm, Nat.mul_comm (16 * (Fmt.ofCode o.atag).width)] at h
    have hapart : o.daddr + passV o.sb * inBytes (tailOut o.tailCmd) ≤ o.aaddr ∨
      o.aaddr + passV o.sb * inBytes (Fmt.ofCode o.atag) ≤ o.daddr := h
    rw [passTorn, meets_of_apart (by omega), Bool.and_false]

/-- The elements of a floating-point input, as fp32. -/
def inputCodes (s : State) (o : EngOp) : List ℕ := (List.range 128).map fun l =>
  let f := Fmt.ofCode o.atag
  let x := codeAt f.width (s.ctx.regBytes (o.aaddr + o.pos * (16 * f.width)) (16 * f.width)) l
  if f = .fp32 then x else (elemCvt f .fp32 .rne x).1

theorem passInput_eq (hc : o.clob = []) (hf : Fmt.ofCode o.atag ∈ [Fmt.fp32, .bf16, .fp16]) (h : untorn o) (hpos : o.pos < passV o.sb) :
    passInput s o (Fmt.ofCode o.atag) (tailOut o.tailCmd) o.pos = inputCodes s o := by
  have hlanes := lanesOf_eq hf (n := 128) (bs := s.ctx.regBytes (o.aaddr + o.pos * (16 * (Fmt.ofCode o.atag).width)) (16 * (Fmt.ofCode o.atag).width))
    (by rw [regBytes_length]; ring)
  simp only [passInput, passTorn_of_untorn h hpos, Bool.false_eq_true, if_false, inBytes, engRead_reg hc, hlanes, inputCodes]
  simp only [List.mem_cons, List.not_mem_nil, or_false] at hf
  rcases hf with hf | hf | hf
  · simp only [hf, if_true, beq_self_eq_true]
  · rw [hf, List.map_map]
    rfl
  · rw [hf, List.map_map]
    rfl

theorem passTurned_eq (hc : o.clob = []) (hf : Fmt.ofCode o.atag ∈ [Fmt.fp32, .bf16, .fp16]) (h : untorn o) (hpos : o.pos < passV o.sb) :
    passTurned inverse s o = stagesStep inverse
      (if inverse then (passStages s.ctx.casc o.plane o.sb).reverse else passStages s.ctx.casc o.plane o.sb) (inputCodes s o) := by
  rw [passTurned, passInput_eq hc hf h hpos]

/-! ### A pass that rotates nothing, with the tail off -/

theorem bytesOf_lanes32 (bs : List Byte) {n : ℕ} (h : bs.length = 4 * n) : bytesOf 32 (lanes32 bs) = bs := by
  induction n generalizing bs with
  | zero => rw [List.length_eq_zero_iff.1 h]; rfl
  | succ n ih =>
    match bs with
    | a :: b :: c :: d :: rest =>
      have hword : leBytes 4 (a.toNat + 256 * b.toNat + 65536 * c.toNat + 16777216 * d.toNat) = [a, b, c, d] := by
        have ha := a.isLt
        have hb := b.isLt
        have hc := c.isLt
        have hd := d.isLt
        simp only [leBytes, List.range_succ, List.range_zero, List.map_cons, List.map_nil, List.nil_append, List.cons_append]
        congr 1
        · apply BitVec.eq_of_toNat_eq; simp; omega
        · congr 1
          · apply BitVec.eq_of_toNat_eq; simp; omega
          · congr 1
            · apply BitVec.eq_of_toNat_eq; simp; omega
            · congr 1
              apply BitVec.eq_of_toNat_eq; simp; omega
      have hrest := ih rest (by simpa [Nat.mul_add] using h)
      rw [lanes32]
      calc bytesOf 32 (_ :: lanes32 rest) = leBytes 4 _ ++ bytesOf 32 (lanes32 rest) := rfl
        _ = a :: b :: c :: d :: rest := by rw [hword, hrest]; rfl

theorem tailElem_off {c : TailCfg} (h : c.en = 0) (l d x : ℕ) : tailElem c l d x = (x, 0) := by
  have hs : c.en.getLsbD 0 = false := by rw [h]; rfl
  have hn : c.en.getLsbD 1 = false := by rw [h]; rfl
  have hb : c.en.getLsbD 2 = false := by rw [h]; rfl
  have ha : c.en.getLsbD 3 = false := by rw [h]; rfl
  simp only [tailElem, tailScale_off hs hn, tailBias, tailAct, hb, ha, Bool.not_false, Bool.false_eq_true, if_false, if_true]
  rfl

theorem tailQuant_off {c : TailCfg} (h : c.en = 0) (mode : ℕ → RMode) (xs : List ℕ) : tailQuant c mode xs = (bytesOf 32 xs, [], 0) := by
  have hout : c.out = .fp32 := by rw [TailCfg.out, h]; rfl
  simp only [tailQuant, hout]
  rfl

theorem tailOut_off (h : o.tailCmd.extractLsb' 0 5 = 0) : tailOut o.tailCmd = .fp32 := by
  have hbit : o.tailCmd.getLsbD 4 = false := by
    have := congrArg (fun x => x.getLsbD 4) h
    simpa [BitVec.getLsbD_extractLsb'] using this
  rw [tailOut, hbit]
  rfl

/-- Its vectors are moved as they stand. -/
theorem passBytes_still (hc : o.clob = []) (hstill : passLast o.sb < passFirst o.sb) (htail : o.tailCmd.extractLsb' 0 5 = 0)
    (hf : Fmt.ofCode o.atag = .fp32) (h : untorn o) (hpos : o.pos < passV o.sb) :
    (passBytes inverse s o).1 = s.ctx.regBytes (o.aaddr + o.pos * 512) 512 := by
  have hen : (tailOf s o).en = 0 := htail
  have hst : passStages s.ctx.casc o.plane o.sb = [] := by rw [passStages, if_pos hstill]
  have hin : passInput s o (Fmt.ofCode o.atag) (tailOut o.tailCmd) o.pos = lanes32 (s.ctx.regBytes (o.aaddr + o.pos * 512) 512) := by
    have htorn := passTorn_of_untorn h hpos
    rw [hf] at htorn ⊢
    simp only [passInput, htorn, Bool.false_eq_true, if_false, engRead_reg hc]
    rfl
  have hturned : (passTurned inverse s o).1 = lanes32 (s.ctx.regBytes (o.aaddr + o.pos * 512) 512) := by
    rw [passTurned, hst, List.reverse_nil, ite_self, hin]
    rfl
  have hlen : (lanes32 (s.ctx.regBytes (o.aaddr + o.pos * 512) 512)).length = 128 := by
    rw [Conversions.lanes32_length, regBytes_length]
  have hvals : (passTail inverse s o).map Prod.fst = lanes32 (s.ctx.regBytes (o.aaddr + o.pos * 512) 512) := by
    rw [passTail, List.map_map, hturned]
    conv_rhs => rw [Conversions.eq_map_range_getD 0 (lanes32 _), hlen]
    exact List.map_congr_left fun l _ => by rw [Function.comp_apply, tailElem_off hen]
  rw [passBytes, tailQuant_off hen, hvals]
  exact bytesOf_lanes32 _ (n := 128) (regBytes_length _ _ _)

end

end Sys2Proof.CascadeRuns
end

section
/-! ROTP and ROTI as instructions (R198, R199, R203 to R205, R209, R221). -/

namespace Sys2Proof.CascadeRuns

open Sys2Proof Sys2Proof.Machine Sys2Proof.Claims Sys2Proof.Rotations

/-! ### What a unit and the end of a pass change -/

/-- What a vector of a pass, or its end, makes of the basin and the cascade: bytes written, and nothing else but scale bytes. -/
structure PassWrote (s t : State) (a : ℕ) (bs : List Byte) : Prop extends Wrote s t a bs where
  spad : t.ctx.basin.spad = s.ctx.basin.spad
  kept : Kept s t

section
variable {inverse : Bool} {s : State} {o : EngOp}

theorem passUnit_wrote (hc : o.clob = []) (hw : Mem.wf s.ctx.basin.reg = true) : PassWrote s (passUnit inverse s o)
    (o.daddr + o.pos * (16 * (tailOut o.tailCmd).width)) (passBytes inverse s o).1 := by
  have hkept := kept_passUnit (inverse := inverse) (s := s) hc
  rw [passUnit_eq hc] at hkept ⊢
  obtain ⟨side, use, dirty, h⟩ := putScales_eq (engWrite s o true (o.daddr + o.pos * (16 * (tailOut o.tailCmd).width))
    ((passBytes inverse s o).1.map some)) o.daddr (tailOut o.tailCmd) (4 * o.pos) (passBytes inverse s o).2.1
  rw [h] at hkept ⊢
  exact ⟨⟨hw, engWrite_reg_reg s hc _ _, engWrite_epochAt s hc _ _ true⟩, engWrite_reg_spad s hc _ _, hkept⟩

theorem passUnit_side (hc : o.clob = []) (h : (tailOut o.tailCmd).isBlk = false) :
    (passUnit inverse s o).ctx.basin.side = s.ctx.basin.side := by
  have hsc : (passBytes inverse s o).2.1 = [] := tailQuant_scales _ _ _ (by rw [tailOf_out]; exact h)
  rw [passUnit_eq hc, hsc, putScales_nil]
  exact engWrite_side s hc _ _ true

theorem putScales_casc (s : State) (a : ℕ) (f : Fmt) (blk : ℕ) (bs : List Byte) : (putScales s a f blk bs).ctx.casc = s.ctx.casc := by
  obtain ⟨side, use, dirty, h⟩ := putScales_eq s a f blk bs
  rw [h]

theorem putScales_ctl (s : State) (a : ℕ) (f : Fmt) (blk : ℕ) (bs : List Byte) : (putScales s a f blk bs).ctx.ctl = s.ctx.ctl := by
  obtain ⟨side, use, dirty, h⟩ := putScales_eq s a f blk bs
  rw [h]

theorem passUnit_casc (hc : o.clob = []) : (passUnit inverse s o).ctx.casc = s.ctx.casc := by
  rw [passUnit_eq hc, raise_casc, putScales_casc, engWrite_casc s hc]

theorem passUnit_fflags (hc : o.clob = []) :
    (passUnit inverse s o).ctx.ctl.fflags = s.ctx.ctl.fflags ||| ((0 : BitVec 59) ++ passFlags inverse s o) := by
  rw [passUnit_eq hc, raise_fflags, putScales_ctl, engWrite_ctl s hc]

/-- Bytes of the last granule behind a pass's vectors. -/
def passPad (o : EngOp) : ℕ :=
  outGranules (tailOut o.tailCmd) (128 * passV o.sb) * 256 - passV o.sb * (16 * (tailOut o.tailCmd).width)

theorem passEnd_eq (s : State) (o : EngOp) : passEnd s o =
    (engWrite s o true (o.daddr + passV o.sb * (16 * (tailOut o.tailCmd).width)) ((List.replicate (passPad o) 0).map some)).setCasc
      fun c => { c with drift := packWords 4096 (driftOf (passStages c o.plane o.sb)) } := by
  rw [List.map_replicate]
  rfl

theorem passEnd_wrote (hc : o.clob = []) (hw : Mem.wf s.ctx.basin.reg = true) : PassWrote s (passEnd s o)
    (o.daddr + passV o.sb * (16 * (tailOut o.tailCmd).width)) (List.replicate (passPad o) 0) := by
  refine ⟨?_, ?_, kept_passEnd s hc⟩
  · rw [passEnd_eq]
    exact ⟨hw, engWrite_reg_reg s hc _ _, engWrite_epochAt s hc _ _ true⟩
  · rw [passEnd_eq]
    exact engWrite_reg_spad s hc _ _

theorem passEnd_casc (hc : o.clob = []) :
    (passEnd s o).ctx.casc = { s.ctx.casc with drift := packWords 4096 (driftOf (passStages s.ctx.casc o.plane o.sb)) } := by
  rw [passEnd_eq, State.setCasc_ctx]
  simp only [engWrite_casc s hc]

theorem passEnd_side (hc : o.clob = []) : (passEnd s o).ctx.basin.side = s.ctx.basin.side := by
  rw [passEnd_eq, State.setCasc_ctx]
  simp only [engWrite_side s hc]

theorem passEnd_ctl (hc : o.clob = []) : (passEnd s o).ctx.ctl = s.ctx.ctl := by
  rw [passEnd_eq, State.setCasc_ctx]
  simp only [engWrite_ctl s hc]

end

/-! ### A unit of a pass -/

/-- ROTP, or with `inverse` ROTI, as one kind of instruction. -/
structure IsPass (inverse : Bool) (o : EngOp) : Prop where
  sweep : isSweep o = true
  units : cascUnits o = passV o.sb
  reads : unitReads o = [(true, o.aaddr + o.pos * inBytes (Fmt.ofCode o.atag), inBytes (Fmt.ofCode o.atag))]
  unit : ∀ s, sweepUnit s o = passUnit inverse s o
  done : ∀ s, sweepEnd s (onward o) = passEnd s (onward o)
  back : (o.instr matches .roti _ _ _ _) = inverse

section
variable {o : EngOp} {g : EGuard} {x y z : BitVec 6}

theorem isPass_rotp (h : o.instr = .rotp g x y z) : IsPass false o := by
  constructor <;> simp [isSweep, cascUnits, unitReads, sweepUnit, sweepEnd, onward, h]

theorem isPass_roti (h : o.instr = .roti g x y z) : IsPass true o := by
  constructor <;> simp [isSweep, cascUnits, unitReads, sweepUnit, sweepEnd, onward, h]

end

end Sys2Proof.CascadeRuns
end

section
/-! ROTP and ROTI as instructions, unit by unit (R198, R199, R203 to R205, R209, R221). -/

namespace Sys2Proof.CascadeRuns

open Sys2Proof Sys2Proof.Machine Sys2Proof.Claims Sys2Proof.Rotations

/-! ### What stands after a unit -/

/-- The place of a pass's next vector in its output. -/
def passPlace (o : EngOp) : ℕ := o.daddr + o.pos * (16 * (tailOut o.tailCmd).width)

/-- What a unit of a pass leaves, whether its end follows or not. -/
structure PassLeaves (inverse : Bool) (s r : State) (o : EngOp) : Prop where
  spad : r.ctx.basin.spad = s.ctx.basin.spad
  side : (tailOut o.tailCmd).isBlk = false → r.ctx.basin.side = s.ctx.basin.side
  bytes : r.ctx.regBytes (passPlace o) (16 * (tailOut o.tailCmd).width) = (passBytes inverse s o).1
  stands : ∀ k, k < 16 * (tailOut o.tailCmd).width →
    Mem.get r.ctx.basin.reg (passPlace o + k) = some ((passBytes inverse s o).1.getD k 0)
  fflags : r.ctx.ctl.fflags = s.ctx.ctl.fflags ||| ((0 : BitVec 59) ++ passFlags inverse s o)

section
variable {inverse : Bool} {s : State} {o : EngOp} (hc : o.clob = []) (hw : Mem.wf s.ctx.basin.reg = true)
include hc hw

theorem passUnit_leaves : PassLeaves inverse s (passUnit inverse s o) o := by
  have hwrote := passUnit_wrote (inverse := inverse) hc hw
  have hlen := passBytes_length (inverse := inverse) (s := s) (o := o)
  refine ⟨hwrote.spad, passUnit_side hc, ?_, fun k hk => ?_, passUnit_fflags hc⟩
  · have := hwrote.regBytes_in (k := 0) (n := 16 * (tailOut o.tailCmd).width) (by omega)
    rw [Nat.add_zero] at this
    rw [passPlace, this, sliceOf, List.drop_zero, ← hlen, List.take_length]
  · rw [passPlace, hwrote.get, if_pos (by omega), Nat.add_sub_cancel_left]

theorem passUnit_rest : restStands (passUnit inverse s o).ctx.basin.reg s.ctx.basin.reg (passPlace o) (16 * (tailOut o.tailCmd).width) := by
  intro x hx
  rw [(passUnit_wrote (inverse := inverse) hc hw).get, passBytes_length, if_neg]
  rw [passPlace] at hx
  omega

/-- The end of a pass writes behind its vectors, to the end of their last granule. -/
theorem passEnd_get (x : ℕ) (hx : x < o.daddr + passV o.sb * (16 * (tailOut o.tailCmd).width) ∨
      o.daddr + 256 * outGranules (tailOut o.tailCmd) (128 * passV o.sb) ≤ x) :
    Mem.get (passEnd s o).ctx.basin.reg x = Mem.get s.ctx.basin.reg x := by
  have hle := outGranules_le (tailOut o.tailCmd) (passV o.sb)
  rw [(passEnd_wrote hc hw).get, List.length_replicate, if_neg]
  rw [passPad]
  omega

omit hc hw in
theorem passPlace_last (hlast : o.pos + 1 = passV o.sb) :
    passPlace o + 16 * (tailOut o.tailCmd).width = o.daddr + passV o.sb * (16 * (tailOut o.tailCmd).width) := by
  rw [passPlace, ← hlast]
  ring

theorem passEnd_leaves (hlast : o.pos + 1 = passV o.sb) : PassLeaves inverse s (passEnd (passUnit inverse s o) (onward o)) o := by
  have hc' : (onward o).clob = [] := hc
  have hunit := passUnit_leaves (inverse := inverse) hc hw
  have hw' := (passUnit_wrote (inverse := inverse) hc hw).wf'
  have hplace : passPlace o + 16 * (tailOut o.tailCmd).width =
    (onward o).daddr + passV (onward o).sb * (16 * (tailOut (onward o).tailCmd).width) := passPlace_last hlast
  have hwrote := passEnd_wrote hc' hw'
  refine ⟨hwrote.spad.trans hunit.spad, fun h => (passEnd_side hc').trans (hunit.side h), ?_, fun k hk => ?_, ?_⟩
  · rw [hwrote.regBytes_out (.inl hplace.le), hunit.bytes]
  · rw [passEnd_get hc' hw' _ (.inl (by omega)), hunit.stands k hk]
  · rw [passEnd_ctl hc', hunit.fflags]

theorem passEnd_rest (hlast : o.pos + 1 = passV o.sb) :
    restStands (passEnd (passUnit inverse s o) (onward o)).ctx.basin.reg s.ctx.basin.reg (passPlace o)
      (o.daddr + 256 * outGranules (tailOut o.tailCmd) (128 * passV o.sb) - passPlace o) := by
  intro x hx
  have hle := outGranules_le (tailOut o.tailCmd) (passV o.sb)
  have hplace := passPlace_last hlast
  have hend : x < (onward o).daddr + passV (onward o).sb * (16 * (tailOut (onward o).tailCmd).width) ∨
      (onward o).daddr + 256 * outGranules (tailOut (onward o).tailCmd) (128 * passV (onward o).sb) ≤ x := by
    show x < o.daddr + passV o.sb * (16 * (tailOut o.tailCmd).width) ∨ o.daddr + 256 * outGranules (tailOut o.tailCmd) (128 * passV o.sb) ≤ x
    omega
  have hc' : (onward o).clob = [] := hc
  rw [passEnd_get hc' (passUnit_wrote (inverse := inverse) hc hw).wf' x hend, passUnit_rest hc hw x (by omega)]

omit hw in
theorem passEnd_drift : (passEnd (passUnit inverse s o) (onward o)).ctx.casc =
    { s.ctx.casc with drift := packWords 4096 (driftOf (passStages s.ctx.casc o.plane o.sb)) } := by
  have hc' : (onward o).clob = [] := hc
  rw [passEnd_casc hc', passUnit_casc hc]
  rfl

end

/-! ### The instruction -/

section
variable {inverse : Bool} {s : State} {o : EngOp} (hp : IsPass inverse o) (hc : o.clob = []) (hw : Mem.wf s.ctx.basin.reg = true)
include hp hc hw

theorem unitResult_leaves (hpos : o.pos < passV o.sb) : PassLeaves inverse s (unitResult s o) o := by
  by_cases hlast : o.pos + 1 = passV o.sb
  · rw [unitResult_last (hlast.trans hp.units.symm), hp.unit, hp.done]
    exact passEnd_leaves hc hw hlast
  · rw [unitResult_more (by rw [hp.units]; omega), hp.unit]
    exact passUnit_leaves hc hw

end

/-- Flags that a vector of a pass raises. -/
theorem raises_passFlags {inverse : Bool} {s t : State} {o : EngOp}
    (h : t.ctx.ctl.fflags = s.ctx.ctl.fflags ||| ((0 : BitVec 59) ++ passFlags inverse s o)) :
    raises s t ((passTurned inverse s o).2 :: (passBytes inverse s o).2.2 :: (passTail inverse s o).map Prod.snd) := by
  refine raises_of_raise h fun f hf => ?_
  rw [passFlags]
  rcases List.mem_cons.1 hf with rfl | hf
  · exact among_trans (among_or_left _ _) (among_or_left _ _)
  · rcases List.mem_cons.1 hf with rfl | hf
    · exact among_or_right _ _
    · obtain ⟨e, he, rfl⟩ := List.mem_map.1 hf
      exact among_trans (among_trans (among_foldl (f := Prod.snd) he 0) (among_or_right _ _)) (among_or_left _ _)

/-- R198, R199, R203 to R205, R209, R221: a vector of ROTP or ROTI, with the end of the pass after the last. -/
theorem pass_acts {s : State} {o : EngOp} {idx : ℕ} (hu : underWay s idx o) (he : o.eng = 0) (hb : o.sbId = none) (hc : o.clob = [])
    (hw : Mem.wf s.ctx.basin.reg = true) (hpos : o.pos < passV o.sb) {inverse : Bool} (hp : IsPass inverse o)
    (hpois : s.ctx.basin.poisoned 0 (o.aaddr + o.pos * (16 * (Fmt.ofCode o.atag).width)) (16 * (Fmt.ofCode o.atag).width) = false) :
    ∃ t, happens (.tokenDone idx 1) s t ∧ unitMade s t o (passV o.sb) ∧ aroundTiles s t ∧ PassLeaves inverse s t o ∧
      (o.pos + 1 < passV o.sb → restStands t.ctx.basin.reg s.ctx.basin.reg (passPlace o) (16 * (tailOut o.tailCmd).width) ∧
        t.ctx.casc = s.ctx.casc) ∧
      (o.pos + 1 = passV o.sb → restStands t.ctx.basin.reg s.ctx.basin.reg (passPlace o)
          (o.daddr + 256 * outGranules (tailOut o.tailCmd) (128 * passV o.sb) - passPlace o) ∧
        t.ctx.casc = { s.ctx.casc with drift := packWords 4096 (driftOf (passStages s.ctx.casc o.plane o.sb)) }) := by
  have hbad : unitBad s o = false := by
    simp only [unitBad, hp.reads, List.any_cons, List.any_nil, Bool.or_false, engBad, if_true]
    exact hpois
  obtain ⟨t, hhap, hmade, har, hbas, hcas, hctl⟩ := unit_runs hu he hb hc hp.sweep (hp.units ▸ hpos) hbad
    (by rw [hp.unit]; exact kept_passUnit hc)
  rw [hp.units] at hmade
  have hleaves := unitResult_leaves hp hc hw hpos
  refine ⟨t, hhap, hmade, har, ⟨?_, ?_, ?_, ?_, ?_⟩, fun hmore => ?_, fun hlast => ?_⟩
  · rw [hbas]; exact hleaves.spad
  · rw [hbas]; exact hleaves.side
  · rw [Ctx.regBytes, hbas]; exact hleaves.bytes
  · rw [hbas]; exact hleaves.stands
  · rw [hctl]; exact hleaves.fflags
  · rw [hbas, hcas, unitResult_more (by rw [hp.units]; exact hmore), hp.unit]
    exact ⟨passUnit_rest hc hw, passUnit_casc hc⟩
  · rw [hbas, hcas, unitResult_last (hlast.trans hp.units.symm), hp.unit, hp.done]
    exact ⟨passEnd_rest hc hw hlast, passEnd_drift hc⟩

end Sys2Proof.CascadeRuns
end

section
/-! A vector of ROTG (R206, R222): its two vectors and the gradients, stage by stage. -/

namespace Sys2Proof.CascadeRuns

open Sys2Proof Sys2Proof.Machine Sys2Proof.Claims Sys2Proof.Rotations

/-! ### Fields of a bit vector -/

theorem getLsbD_putBits {w : ℕ} (x : BitVec w) (lo n v : ℕ) {i : ℕ} (hi : i < w) :
    (putBits x lo n v).getLsbD i = if lo ≤ i ∧ i < lo + n then v.testBit (i - lo) else x.getLsbD i := by
  have hmask : ((2 ^ n - 1) * 2 ^ lo).testBit i = decide (lo ≤ i ∧ i < lo + n) := by
    rw [Nat.testBit_mul_two_pow, Nat.testBit_two_pow_sub_one, ← Bool.decide_and]
    exact decide_eq_decide.2 (by omega)
  have hval : (v % 2 ^ n * 2 ^ lo).testBit i = (decide (lo ≤ i ∧ i < lo + n) && v.testBit (i - lo)) := by
    rw [Nat.testBit_mul_two_pow, Nat.testBit_mod_two_pow, ← Bool.and_assoc, ← Bool.decide_and]
    exact congrArg (· && _) (decide_eq_decide.2 (by omega))
  simp only [putBits, BitVec.getLsbD_or, BitVec.getLsbD_and, BitVec.getLsbD_not, BitVec.getLsbD_ofNat, hi, decide_true, Bool.true_and, hmask,
    hval]
  by_cases h : lo ≤ i ∧ i < lo + n
  · simp [h]
  · simp [h]

/-- What lies beside a field stands. -/
theorem extract_putBits_other {w : ℕ} (x : BitVec w) {lo n a m : ℕ} (v : ℕ) (h : a + m ≤ lo ∨ lo + n ≤ a) :
    (putBits x lo n v).extractLsb' a m = x.extractLsb' a m := by
  apply BitVec.eq_of_getLsbD_eq
  intro i hi
  rw [BitVec.getLsbD_extractLsb', BitVec.getLsbD_extractLsb']
  by_cases hw : a + i < w
  · rw [getLsbD_putBits x lo n v hw, if_neg (by omega)]
  · rw [BitVec.getLsbD_of_ge _ _ (by omega), BitVec.getLsbD_of_ge _ _ (by omega)]

/-- A part of a field is that part of what was put there. -/
theorem extract_putBits_same {w : ℕ} (x : BitVec w) {lo n a m : ℕ} (v : ℕ) (ha : a + m ≤ n) (hw : lo + n ≤ w) :
    ((putBits x lo n v).extractLsb' (lo + a) m).toNat = v / 2 ^ a % 2 ^ m := by
  apply Nat.eq_of_testBit_eq
  intro i
  rw [Nat.testBit_mod_two_pow, Nat.testBit_div_two_pow, BitVec.testBit_toNat, BitVec.getLsbD_extractLsb']
  by_cases hi : i < m
  · rw [getLsbD_putBits x lo n v (by omega), if_pos (by omega), show lo + a + i - lo = i + a by omega]
  · simp [hi]

/-! ### Sizes of what a stage of ROTG gives -/

theorem foldl_set_length {α β : Type} (place : β → ℕ) (val : β → α) (xs : List β) (acc : List α) :
    (xs.foldl (fun acc q => acc.set (place q) (val q)) acc).length = acc.length := by
  induction xs generalizing acc with
  | nil => rfl
  | cons x xs ih => rw [List.foldl_cons, ih, List.length_set]

theorem mem_foldl_set {α β : Type} {P : α → Prop} (place : β → ℕ) {val : β → α} (hv : ∀ q, P (val q)) (xs : List β) {acc : List α}
    (h : ∀ x ∈ acc, P x) : ∀ x ∈ xs.foldl (fun acc q => acc.set (place q) (val q)) acc, P x := by
  induction xs generalizing acc with
  | nil => exact h
  | cons y xs ih =>
    rw [List.foldl_cons]
    refine ih fun x hx => ?_
    rcases List.mem_or_eq_of_mem_set hx with hx | rfl
    · exact h x hx
    · exact hv y

/-- Vectors of fp32 codes. -/
def codes (n : ℕ) (xs : List ℕ) : Prop := xs.length = n ∧ ∀ x ∈ xs, x < 2 ^ 32

theorem gradStep_codes (st : StagePairs) {y g grad : List ℕ} {n : ℕ} (hy : codes 128 y) (hg : codes 128 g) (hgr : codes n grad) :
    codes 128 (gradStep st y g grad).1 ∧ codes 128 (gradStep st y g grad).2.1 ∧ codes n (gradStep st y g grad).2.2.1 := by
  have hturn (xs : List ℕ) (p : (ℕ × ℕ) × ℕ) : (turnBack xs p).1.1 < 2 ^ 32 ∧ (turnBack xs p).2.1 < 2 ^ 32 :=
    ⟨lin32_lt _ _ _ _ _, lin32_lt _ _ _ _ _⟩
  simp only [gradStep_eq]
  refine ⟨⟨?_, ?_⟩, ⟨?_, ?_⟩, ⟨?_, ?_⟩⟩
  · rw [writePairs_length, hy.1]
  · exact mem_writePairs (fun p _ _ => (hturn y p).1) (fun p _ _ => (hturn y p).2) st hy.2
  · rw [writePairs_length, hg.1]
  · exact mem_writePairs (fun p _ _ => (hturn g p).1) (fun p _ _ => (hturn g p).2) st hg.2
  · exact (foldl_set_length _ _ _ _).trans hgr.1
  · exact mem_foldl_set (P := (· < 2 ^ 32)) _ (fun q => round32_lt _) _ hgr.2

/-! ### The stages of a unit -/

/-- Two vectors, an accumulator and flags. -/
abbrev GradState := List ℕ × List ℕ × BitVec 131072 × Flags

/-- The gradients of a stage. -/
def gradRow (u : BitVec 131072) (k : ℕ) : List ℕ := (List.range 64).map fun p => (u.extractLsb' (32 * (64 * k + p)) 32).toNat

/-- A stage back, with its place in the pass. -/
def gradBack (first : ℕ) (acc : GradState) (st : StagePairs × ℕ) : GradState :=
  let r := gradStep st.1 acc.1 acc.2.1 (gradRow acc.2.2.1 (first + st.2))
  (r.1, r.2.1, putBits acc.2.2.1 (2048 * (first + st.2)) 2048 (ofLe (bytesOf 32 r.2.2.1)), acc.2.2.2 ||| r.2.2.2)

/-- What a unit of ROTG starts from. -/
def gradStart (s : State) (o : EngOp) : GradState :=
  (gradInput s o o.aaddr o.pos (2 ^ 20), gradInput s o o.daddr o.pos (2 ^ 21), s.ctx.casc.liveVal, 0)

/-- What it has after `i` stages. -/
def gradAfter (s : State) (o : EngOp) (i : ℕ) : GradState :=
  ((passStages s.ctx.casc o.plane o.sb).zipIdx.reverse.take i).foldl (gradBack (passFirst o.sb)) (gradStart s o)

section
variable {s : State} {o : EngOp}

theorem passStages_length (c : Cascade) (plane : Bool) (w : W64) : (passStages c plane w).length =
    if passLast w < passFirst w then 0 else passLast w - passFirst w + 1 := by
  unfold passStages
  split <;> simp

/-- The stages back are taken from LAST down. -/
theorem gradAfter_succ {i : ℕ} (hi : i < (passStages s.ctx.casc o.plane o.sb).length) : gradAfter s o (i + 1) =
    gradBack (passLast o.sb - i) (gradAfter s o i) (stageOf s.ctx.casc o.plane (passLast o.sb - i), 0) := by
  have hlen := passStages_length s.ctx.casc o.plane o.sb
  have hstill : ¬passLast o.sb < passFirst o.sb := fun h => by rw [hlen, if_pos h] at hi; omega
  rw [if_neg hstill] at hlen
  have hplace : passFirst o.sb + (passLast o.sb - passFirst o.sb - i) = passLast o.sb - i := by omega
  have hat : (passStages s.ctx.casc o.plane o.sb).zipIdx.reverse[i]? =
      some (stageOf s.ctx.casc o.plane (passLast o.sb - i), passLast o.sb - passFirst o.sb - i) := by
    rw [List.getElem?_reverse (by simpa using hi), List.getElem?_zipIdx, List.length_zipIdx, hlen,
      show passLast o.sb - passFirst o.sb + 1 - 1 - i = passLast o.sb - passFirst o.sb - i by omega, passStages, if_neg hstill,
      List.getElem?_map, List.getElem?_range (by omega), Option.map_some, Option.map_some, hplace, Nat.zero_add]
  rw [gradAfter, List.take_add_one, hat, Option.toList_some, List.foldl_append]
  simp only [List.foldl_cons, List.foldl_nil, gradBack, hplace, Nat.add_zero]
  rfl

theorem gradRow_codes (u : BitVec 131072) (k : ℕ) : codes 64 (gradRow u k) := by
  refine ⟨by simp [gradRow], fun x hx => ?_⟩
  obtain ⟨p, -, rfl⟩ := List.mem_map.1 hx
  exact BitVec.isLt _

theorem regWords_codes (f : ℕ → ℕ) (hf : ∀ k, f k < 2 ^ 32) (n : ℕ) : codes n ((List.range n).map f) := by
  refine ⟨by simp, fun x hx => ?_⟩
  obtain ⟨k, -, rfl⟩ := List.mem_map.1 hx
  exact hf k

/-- A vector of a tile as words. -/
def tileVector (s : State) (a v : ℕ) : List ℕ := (List.range 128).map fun l => wordAt s (a + 512 * v + 4 * l)

theorem gradInput_eq (hc : o.clob = []) (hw : Mem.wf s.ctx.basin.reg = true) (a v site : ℕ) : gradInput s o a v site =
    if meets o.daddr (512 * passV o.sb) o.aaddr (512 * passV o.sb) then (List.range 128).map fun l => (Config.free s.freeCtr (site + l) 32).toNat
    else tileVector s a v := by
  rw [gradInput]
  split
  · rfl
  · rw [engRead_reg hc]
    exact lanes32_regBytes hw (a + 512 * v) 128

theorem gradInput_codes (hc : o.clob = []) (hw : Mem.wf s.ctx.basin.reg = true) (a v site : ℕ) : codes 128 (gradInput s o a v site) := by
  rw [gradInput_eq hc hw]
  split
  · exact regWords_codes _ (fun k => BitVec.isLt _) 128
  · exact regWords_codes _ (fun k => wordAt_lt _ _) 128

theorem gradAfter_codes (hc : o.clob = []) (hw : Mem.wf s.ctx.basin.reg = true) (i : ℕ) :
    codes 128 (gradAfter s o i).1 ∧ codes 128 (gradAfter s o i).2.1 := by
  induction i with
  | zero => exact ⟨gradInput_codes hc hw _ _ _, gradInput_codes hc hw _ _ _⟩
  | succ i ih =>
    by_cases hi : i < (passStages s.ctx.casc o.plane o.sb).length
    · rw [gradAfter_succ hi]
      obtain ⟨hy, hg, -⟩ := gradStep_codes (stageOf s.ctx.casc o.plane (passLast o.sb - i)) ih.1 ih.2
        (gradRow_codes (gradAfter s o i).2.2.1 (passLast o.sb - i))
      exact ⟨hy, hg⟩
    · have hsame : gradAfter s o (i + 1) = gradAfter s o i := by
        rw [gradAfter, gradAfter, List.take_of_length_le (by simp; omega), List.take_of_length_le (by simp; omega)]
      rw [hsame]
      exact ih

end

/-- A row of gradients put in its place, and the others as they stand. -/
theorem gradRow_putBits (u : BitVec 131072) {k : ℕ} (hk : k < 64) {xs : List ℕ} (hx : codes 64 xs) :
    gradRow (putBits u (2048 * k) 2048 (ofLe (bytesOf 32 xs))) k = xs ∧
      ∀ k', k' < 64 → k' ≠ k → gradRow (putBits u (2048 * k) 2048 (ofLe (bytesOf 32 xs))) k' = gradRow u k' := by
  refine ⟨?_, fun k' _ hne => List.map_congr_left fun p hp => ?_⟩
  · apply List.ext_getElem?
    intro p
    by_cases hp : p < 64
    · obtain ⟨x, hat⟩ : ∃ x, xs[p]? = some x := ⟨_, List.getElem?_eq_getElem (by rw [hx.1]; exact hp)⟩
      rw [gradRow, List.getElem?_map, List.getElem?_range hp, Option.map_some, hat, show 32 * (64 * k + p) = 2048 * k + 32 * p by ring,
        extract_putBits_same _ _ (by omega) (by omega)]
      have hword := word_bytesOf hat (hx.2 _ (List.mem_of_getElem? hat))
      rw [ofLe_sliceOf, show 256 ^ (4 * p) = 2 ^ (32 * p) by rw [show 256 = 2 ^ 8 by norm_num, ← pow_mul]; congr 1; ring,
        show 256 ^ 4 = 2 ^ 32 by norm_num] at hword
      rw [hword]
    · rw [List.getElem?_eq_none (by simp [gradRow]; omega), List.getElem?_eq_none (by rw [hx.1]; omega)]
  · have := List.mem_range.1 hp
    rw [extract_putBits_other _ _ (by omega)]

end Sys2Proof.CascadeRuns
end

section
/-! ROTG, ROTP and ROTI as instructions (R198, R199, R203 to R206, R209, R221, R222). -/

namespace Sys2Proof.CascadeRuns

open Sys2Proof Sys2Proof.Machine Sys2Proof.Claims Sys2Proof.Rotations

/-! ### A unit of ROTG -/

/-- All the stages of a pass back. -/
def gradDone (s : State) (o : EngOp) : GradState := gradAfter s o (passStages s.ctx.casc o.plane o.sb).length

section
variable {s : State} {o : EngOp}

theorem gradUnit_eq (hl : s.ctx.casc.live = some o.gaddr) : gradUnit s o =
    (engWrite (engWrite (s.setCasc fun c => { c with liveVal := (gradDone s o).2.2.1 }) o true (o.aaddr + 512 * o.pos)
      ((bytesOf 32 (gradDone s o).1).map some)) o true (o.daddr + 512 * o.pos) ((bytesOf 32 (gradDone s o).2.1).map some)).raise
      (gradDone s o).2.2.2 := by
  have hlive : (s.ctx.casc.live == some o.gaddr) = true := by rw [hl]; exact beq_self_eq_true _
  have hmake : makeLive s o.gaddr = s := if_pos hlive
  have hread : accRead s o.gaddr = s.ctx.casc.liveVal := if_pos hlive
  have hwrite (v : BitVec 131072) : accWrite s o.gaddr v = s.setCasc fun c => { c with liveVal := v } := if_pos hlive
  have hrow (u : BitVec 131072) (k : ℕ) :
      ((List.range 64).map fun p => (u.extractLsb' (2048 * k + 32 * p) 32).toNat) = gradRow u k :=
    List.map_congr_left fun p _ => by rw [show 2048 * k + 32 * p = 32 * (64 * k + p) by ring]
  have hall : gradDone s o = (passStages s.ctx.casc o.plane o.sb).zipIdx.reverse.foldl (gradBack (passFirst o.sb)) (gradStart s o) := by
    rw [gradDone, gradAfter, List.take_of_length_le (by simp)]
  simp only [gradUnit, hmake, hread, hwrite, hrow, hall]
  rfl

/-- What a unit of ROTG leaves. -/
structure GradLeaves (s r : State) (o : EngOp) : Prop where
  kept : Kept s r
  spad : r.ctx.basin.spad = s.ctx.basin.spad
  side : r.ctx.basin.side = s.ctx.basin.side
  rest : ∀ q, (q < o.aaddr + 512 * o.pos ∨ o.aaddr + 512 * o.pos + 512 ≤ q) → (q < o.daddr + 512 * o.pos ∨ o.daddr + 512 * o.pos + 512 ≤ q) →
    Mem.get r.ctx.basin.reg q = Mem.get s.ctx.basin.reg q
  casc : r.ctx.casc = { s.ctx.casc with liveVal := (gradDone s o).2.2.1 }
  fflags : r.ctx.ctl.fflags = s.ctx.ctl.fflags ||| ((0 : BitVec 59) ++ (gradDone s o).2.2.2)
  second : tileVector r o.daddr o.pos = (gradDone s o).2.1
  first : (o.daddr + 512 * o.pos + 512 ≤ o.aaddr + 512 * o.pos ∨ o.aaddr + 512 * o.pos + 512 ≤ o.daddr + 512 * o.pos) →
    tileVector r o.aaddr o.pos = (gradDone s o).1

theorem tileVector_raise (t : State) (f : Flags) (a v : ℕ) : tileVector (t.raise f) a v = tileVector t a v := rfl

theorem tileVector_wrote {t : State} {a v : ℕ} {xs : List ℕ} (h : Wrote s t (a + 512 * v) (bytesOf 32 xs)) (hx : codes 128 xs) :
    tileVector t a v = xs := by
  apply List.ext_getElem?
  intro l
  by_cases hl : l < 128
  · obtain ⟨x, hat⟩ : ∃ x, xs[l]? = some x := ⟨_, List.getElem?_eq_getElem (by rw [hx.1]; exact hl)⟩
    rw [tileVector, List.getElem?_map, List.getElem?_range hl, Option.map_some, hat, h.wordAt_in hat (hx.2 _ (List.mem_of_getElem? hat))]
  · rw [List.getElem?_eq_none (by simp [tileVector]; omega), List.getElem?_eq_none (by rw [hx.1]; omega)]

theorem gradUnit_leaves (hc : o.clob = []) (hw : Mem.wf s.ctx.basin.reg = true) (hl : s.ctx.casc.live = some o.gaddr) :
    GradLeaves s (gradUnit s o) o := by
  obtain ⟨hy, hg⟩ : codes 128 (gradDone s o).1 ∧ codes 128 (gradDone s o).2.1 := gradAfter_codes hc hw _
  have hlen {xs : List ℕ} (h : codes 128 xs) : (bytesOf 32 xs).length = 512 := by rw [bytesOf32_length, h.1]
  have h0 : Mem.wf (s.setCasc fun c => { c with liveVal := (gradDone s o).2.2.1 }).ctx.basin.reg = true := hw
  have h1 := wrote_engWrite hc h0 (o.aaddr + 512 * o.pos) (bytesOf 32 (gradDone s o).1)
  have h2 := wrote_engWrite hc h1.wf' (o.daddr + 512 * o.pos) (bytesOf 32 (gradDone s o).2.1)
  rw [gradUnit_eq hl]
  refine ⟨?_, ?_, ?_, fun q hq hq' => ?_, ?_, ?_, ?_, fun hapart => ?_⟩
  · exact (((kept_setCasc s _).trans (kept_engWrite _ hc _ _ true)).trans (kept_engWrite _ hc _ _ true)).trans (kept_raise _ _)
  · rw [raise_basin, engWrite_reg_spad _ hc, engWrite_reg_spad _ hc]; rfl
  · rw [raise_basin, engWrite_side _ hc, engWrite_side _ hc]; rfl
  · rw [raise_basin, h2.get, hlen hg, if_neg (by omega), h1.get, hlen hy, if_neg (by omega)]; rfl
  · rw [raise_casc, engWrite_casc _ hc, engWrite_casc _ hc, State.setCasc_ctx]
  · rw [raise_fflags, engWrite_ctl _ hc, engWrite_ctl _ hc, State.setCasc_ctx]
  · rw [tileVector_raise, tileVector_wrote h2 hg]
  · have hout (l : ℕ) (hl : l < 128) := h2.wordAt_out (x := o.aaddr + 512 * o.pos + 4 * l) (by rw [hlen hg]; omega)
    rw [tileVector_raise]
    exact (List.map_congr_left fun l hl => hout l (List.mem_range.1 hl)).trans (tileVector_wrote h1 hy)

theorem gradAfter_flags {i j : ℕ} (h : i ≤ j) : among (gradAfter s o i).2.2.2 (gradAfter s o j).2.2.2 := by
  induction j, h using Nat.le_induction with
  | base => exact among_iff.2 fun _ hb => hb
  | succ j _ ih =>
    by_cases hj : j < (passStages s.ctx.casc o.plane o.sb).length
    · rw [gradAfter_succ hj]
      exact among_trans ih (among_or_left _ _)
    · have hsame : gradAfter s o (j + 1) = gradAfter s o j := by
        rw [gradAfter, gradAfter, List.take_of_length_le (by simp; omega), List.take_of_length_le (by simp; omega)]
      rw [hsame]
      exact ih

/-- A stage back, as the claim has it. -/
theorem gradAfter_step (hc : o.clob = []) (hw : Mem.wf s.ctx.basin.reg = true) {i : ℕ} (hi : i < (passStages s.ctx.casc o.plane o.sb).length) :
    let k := passLast o.sb - i
    let r := gradStep (stageOf s.ctx.casc o.plane k) (gradAfter s o i).1 (gradAfter s o i).2.1 (gradRow (gradAfter s o i).2.2.1 k)
    r.1 = (gradAfter s o (i + 1)).1 ∧ r.2.1 = (gradAfter s o (i + 1)).2.1 ∧ r.2.2.1 = gradRow (gradAfter s o (i + 1)).2.2.1 k ∧
      among r.2.2.2 (gradDone s o).2.2.2 ∧
      ∀ k', k' < 64 → k' ≠ k → gradRow (gradAfter s o (i + 1)).2.2.1 k' = gradRow (gradAfter s o i).2.2.1 k' := by
  have hfl := gradAfter_flags (s := s) (o := o) (show i + 1 ≤ (passStages s.ctx.casc o.plane o.sb).length from hi)
  obtain ⟨-, -, hrow⟩ := gradStep_codes (stageOf s.ctx.casc o.plane (passLast o.sb - i)) (gradAfter_codes hc hw i).1 (gradAfter_codes hc hw i).2
    (gradRow_codes (gradAfter s o i).2.2.1 (passLast o.sb - i))
  have hk : passLast o.sb - i < 64 := by
    have : passLast o.sb < 64 := Nat.mod_lt _ (by norm_num)
    omega
  obtain ⟨hsame, hother⟩ := gradRow_putBits (gradAfter s o i).2.2.1 hk hrow
  rw [gradAfter_succ hi] at hfl ⊢
  exact ⟨rfl, rfl, hsame.symm, among_trans (among_or_right _ _) hfl, hother⟩

end

/-! ### The instructions -/

section
variable {s : State} {o : EngOp} {g : EGuard} {x y z : BitVec 6}

theorem rotg_end (h : o.instr = .rotg g x y z) (s : State) : sweepEnd s (onward o) = gradEnd s o := by
  simp only [sweepEnd, onward, h]
  rfl

/-- R206, R222: a vector of ROTG, with the drift after the last. -/
theorem rotg_acts {idx : ℕ} (hu : underWay s idx o) (he : o.eng = 0) (hb : o.sbId = none) (hc : o.clob = [])
    (hw : Mem.wf s.ctx.basin.reg = true) (hpos : o.pos < passV o.sb) (hins : o.instr = .rotg g x y z) (hl : s.ctx.casc.live = some o.gaddr)
    (ha : s.ctx.basin.poisoned 0 (o.aaddr + 512 * o.pos) 512 = false) (hd : s.ctx.basin.poisoned 0 (o.daddr + 512 * o.pos) 512 = false) :
    ∃ t r, happens (.tokenDone idx 1) s t ∧ unitMade s t o (passV o.sb) ∧ aroundTiles s t ∧ GradLeaves s r o ∧ t.ctx.basin = r.ctx.basin ∧
      t.ctx.ctl = r.ctx.ctl ∧ (o.pos + 1 < passV o.sb → t.ctx.casc = { s.ctx.casc with liveVal := (gradDone s o).2.2.1 }) ∧
      (o.pos + 1 = passV o.sb → t.ctx.casc = { s.ctx.casc with
        liveVal := (gradDone s o).2.2.1
        drift := packWords 4096 (driftOf (passStages s.ctx.casc o.plane o.sb)) }) := by
  have hunits : cascUnits o = passV o.sb := by simp only [cascUnits, hins]
  have hunit : sweepUnit s o = gradUnit s o := by simp only [sweepUnit, hins]
  have hbad : unitBad s o = false := by
    simp only [unitBad, unitReads, hins, engBad, List.any_cons, List.any_nil, Bool.or_false, if_true]
    rw [ha, hd]
    rfl
  have hleaves := gradUnit_leaves hc hw hl
  obtain ⟨t, hhap, hmade, har, hbas, hcas, hctl⟩ := unit_runs hu he hb hc (by simp only [isSweep, hins]) (hunits ▸ hpos) hbad
    (hunit ▸ hleaves.kept)
  rw [hunits] at hmade
  by_cases hlast : o.pos + 1 = passV o.sb
  · rw [unitResult_last (hlast.trans hunits.symm), hunit, rotg_end hins] at hbas hcas hctl
    refine ⟨t, _, hhap, hmade, har, hleaves, hbas, hctl, fun h => absurd hlast h.ne, fun _ => ?_⟩
    rw [hcas, gradEnd, State.setCasc_ctx]
    simp only [hleaves.casc]
    rfl
  · rw [unitResult_more (by rw [hunits]; omega), hunit] at hbas hcas hctl
    exact ⟨t, _, hhap, hmade, har, hleaves, hbas, hctl, fun _ => hcas.trans hleaves.casc, fun h => absurd h hlast⟩

theorem isPass_of (h : (∃ g x y z, o.instr = .rotp g x y z) ∨ ∃ g x y z, o.instr = .roti g x y z) : ∃ inverse, IsPass inverse o := by
  rcases h with ⟨g, x, y, z, h⟩ | ⟨g, x, y, z, h⟩
  · exact ⟨_, isPass_rotp h⟩
  · exact ⟨_, isPass_roti h⟩

end

/-- The vectors of ROTP, ROTI and ROTG, by their units. -/
theorem passesAct : PassesAct := by
  intro s o idx hu he hb hc hw hpos n f out a d still stages drifts
  have hdrifts : drifts (packWords 4096 (driftOf stages)) := fun l hl => drift_packed stages hl
  have hno : still → noDrift (packWords 4096 (driftOf stages)) := fun h => by
    rw [show stages = [] from if_pos h]
    exact noDrift_packed
  refine ⟨fun hins hpois => ?_, fun g x y z hins hl ha hd => ?_⟩
  · obtain ⟨inverse, hp⟩ := isPass_of hins
    obtain ⟨t, hhap, hmade, har, hleaves, hmore, hlast⟩ := pass_acts hu he hb hc hw hpos hp hpois
    refine ⟨t, hhap, hmade, har, hleaves.spad, hleaves.side, hmore, fun h => ⟨(hlast h).1, _, (hlast h).2, hdrifts, hno⟩, ?_, ?_⟩
    · intro hf hov back given turned tail q
      have hback : back = inverse := hp.back
      have hturned : turned = passTurned inverse s o := by
        simp only [turned, hback]
        exact (passTurned_eq hc hf hov hpos).symm
      have htail : tail = passTail inverse s o := by
        simp only [tail, hturned]
        rfl
      have hq : q = passBytes inverse s o := by
        simp only [q, htail]
        rfl
      rw [hq, hturned, htail]
      exact ⟨hleaves.bytes, raises_passFlags hleaves.fflags⟩
    · intro hstill htail hf hov k hk
      have hout : out = .fp32 := tailOut_off htail
      have huntorn : untorn o := by
        have hf' : Fmt.ofCode o.atag = .fp32 := hf
        have hout' : tailOut o.tailCmd = .fp32 := hout
        simp only [untorn, hf', hout', Fmt.width, le_refl, and_true]
        exact hov
      have hbytes := passBytes_still (inverse := inverse) (s := s) hc hstill htail hf huntorn hpos
      have hstands := hleaves.stands k (by rw [show tailOut o.tailCmd = .fp32 from hout]; exact hk)
      rw [hbytes] at hstands
      have ha : a = o.aaddr + o.pos * 512 := by simp only [a, hf, Fmt.width]
      rw [ha]
      exact hstands
  · obtain ⟨t, r, hhap, hmade, har, hleaves, hbas, hctl, hmore, hlast⟩ := rotg_acts hu he hb hc hw hpos hins hl ha hd
    obtain ⟨v, hcasc, hv, hv'⟩ : ∃ v, t.ctx.casc = { s.ctx.casc with liveVal := (gradDone s o).2.2.1, drift := v } ∧
        (o.pos + 1 < n → v = s.ctx.casc.drift) ∧ (o.pos + 1 = n → drifts v ∧ (still → noDrift v)) := by
      by_cases h : o.pos + 1 = n
      · exact ⟨_, hlast h, fun h' => absurd h h'.ne, fun _ => ⟨hdrifts, hno⟩⟩
      · have hlt : o.pos + 1 < n := lt_of_le_of_ne hpos h
        exact ⟨_, hmore hlt, fun _ => rfl, fun h' => absurd h' h⟩
    have hvec (b : ℕ) : tileVector t b o.pos = tileVector r b o.pos :=
      List.map_congr_left fun l _ => by rw [wordAt, wordAt, Ctx.regBytes, Ctx.regBytes, hbas]
    refine ⟨t, v, (gradDone s o).2.2.1, hhap, hmade, har, by rw [hbas, hleaves.spad], by rw [hbas, hleaves.side],
      by rw [hbas]; exact hleaves.rest, hcasc, hv, hv', fun hstill => ?_, ?_⟩
    · rw [gradDone, show passStages s.ctx.casc o.plane o.sb = [] from if_pos hstill]
      rfl
    · intro hapart words row
      have hmeets : meets o.daddr (512 * passV o.sb) o.aaddr (512 * passV o.sb) = false := meets_of_apart hapart
      have hstart (b site : ℕ) : gradInput s o b o.pos site = words s b := by
        rw [gradInput_eq hc hw, hmeets]
        rfl
      refine ⟨fun i => (gradAfter s o i).1, fun i => (gradAfter s o i).2.1, fun i => (gradAfter s o i).2.2.1, hstart _ _, hstart _ _, rfl,
        (hvec _).trans (hleaves.first ?_), (hvec _).trans hleaves.second, rfl, fun i hi => ?_⟩
      · have hpos' : o.pos < n := hpos
        omega
      · obtain ⟨hy, hg, hrow, hfl, hother⟩ := gradAfter_step hc hw hi
        refine ⟨hy, hg, hrow, raises_of_raise (fl := (gradDone s o).2.2.2) (by rw [hctl, hleaves.fflags]) fun f hf => ?_, hother⟩
        rw [List.mem_singleton.1 hf]
        exact hfl

end Sys2Proof.CascadeRuns
end

section
/-! Products of tiles, and ACC.OUT (R122, R207, R211, R212, R227, R230). -/

namespace Sys2Proof.CascadeRuns

open Sys2Proof Sys2Proof.Machine Sys2Proof.Claims Sys2Proof.Rotations Sys2Proof.Products

/-! ### The accumulator after a product -/

/-- The element of row i and column j of an accumulator. -/
def accElem (v : BitVec 131072) (i j : ℕ) : BitVec 32 := v.extractLsb' (32 * (64 * i + j)) 32

/-- Elements put into an accumulator, with their flags, as a product does it. -/
def putElem (e : ℕ × ℕ → Elem) (r : BitVec 131072 × Flags) (p : ℕ × ℕ) : BitVec 131072 × Flags :=
  (putBits r.1 (32 * (64 * p.1 + p.2)) 32 (e p).1, r.2 ||| (e p).2)

theorem accElem_putElem {e : ℕ × ℕ → Elem} (he : ∀ p, (e p).1 < 2 ^ 32) (r : BitVec 131072 × Flags) {p : ℕ × ℕ} (hp : p.1 < 64 ∧ p.2 < 64)
    {i j : ℕ} (hj : j < 64) :
    (accElem (putElem e r p).1 i j).toNat = if p = (i, j) then (e (i, j)).1 else (accElem r.1 i j).toNat := by
  by_cases h : p = (i, j)
  · subst h
    rw [if_pos rfl]
    have := extract_putBits_same r.1 (lo := 32 * (64 * i + j)) (n := 32) (a := 0) (m := 32) (e (i, j)).1 (by omega) (by omega)
    rw [Nat.add_zero, pow_zero, Nat.div_one, Nat.mod_eq_of_lt (he _)] at this
    exact this
  · rw [if_neg h]
    have hne : 64 * p.1 + p.2 ≠ 64 * i + j := fun h' => h (Prod.ext (by omega) (by omega))
    exact congrArg BitVec.toNat (extract_putBits_other r.1 (e p).1 (by omega))

theorem foldl_putElem {e : ℕ × ℕ → Elem} (he : ∀ p, (e p).1 < 2 ^ 32) (ps : List (ℕ × ℕ)) (hps : ∀ p ∈ ps, p.1 < 64 ∧ p.2 < 64)
    (r : BitVec 131072 × Flags) :
    (∀ i j, j < 64 → (accElem (ps.foldl (putElem e) r).1 i j).toNat = if (i, j) ∈ ps then (e (i, j)).1 else (accElem r.1 i j).toNat) ∧
      ∀ p ∈ ps, among (e p).2 (ps.foldl (putElem e) r).2 := by
  induction ps using List.reverseRecOn with
  | nil => exact ⟨fun i j _ => by simp, fun p hp => absurd hp List.not_mem_nil⟩
  | append_singleton ps q ih =>
    obtain ⟨hval, hfl⟩ := ih fun p hp => hps p (List.mem_append_left _ hp)
    rw [List.foldl_append, List.foldl_cons, List.foldl_nil]
    refine ⟨fun i j hj => ?_, fun p hp => ?_⟩
    · rw [accElem_putElem he _ (hps q (by simp)) hj, hval i j hj]
      by_cases hq : q = (i, j)
      · subst hq; simp
      · have : ¬(i, j) = q := fun h => hq h.symm
        simp [hq, this]
    · rcases List.mem_append.1 hp with hp | hp
      · exact among_trans (hfl p hp) (among_or_left _ _)
      · rw [List.mem_singleton.1 hp]
        exact among_or_right _ _

/-- The elements of a product, row by row. -/
def productPairs (m n : ℕ) : List (ℕ × ℕ) := (List.range m).flatMap fun i => (List.range n).map fun j => (i, j)

theorem mem_productPairs {m n i j : ℕ} : (i, j) ∈ productPairs m n ↔ i < m ∧ j < n := by
  simp [productPairs]

theorem prodAcc_eq (a b : ProdSrc) (m n k : ℕ) (acc : BitVec 131072) : prodAcc a b m n k acc =
    (productPairs m n).foldl (putElem fun p => prodElem a b k p.1 p.2 (accElem acc p.1 p.2).toNat) (acc, 0) := by
  rw [productPairs, List.foldl_flatMap]
  simp only [List.foldl_map]
  rfl

theorem addGroup_lt {fp8 : Bool} {sc : Option ℤ} {acc : ℕ} (h : acc < 2 ^ 32) (ps : List Prod32) : (addGroup fp8 sc acc ps).1 < 2 ^ 32 := by
  have hnan : fp32F.nanCode < 2 ^ 32 := by decide
  unfold addGroup
  dsimp only
  split
  · exact hnan
  · split
    · exact hnan
    · split
      · exact hnan
      · split
        · exact round32_lt _
        · split
          · exact h
          · split
            · exact round32_lt _
            · exact round32_lt _

theorem prodElem_lt (a b : ProdSrc) (k i j : ℕ) {acc : ℕ} (h : acc < 2 ^ 32) : (prodElem a b k i j acc).1 < 2 ^ 32 := by
  rw [prodElem_eq]
  generalize List.range _ = qs
  have hfold (f : Flags) : ∀ acc, acc < 2 ^ 32 → (qs.foldl (fun (r : Elem) q =>
      ((elemGroup a b k i j q r.1).1, r.2 ||| (elemGroup a b k i j q r.1).2)) (acc, f)).1 < 2 ^ 32 := by
    induction qs generalizing f with
    | nil => exact fun _ h => h
    | cons q qs ih => exact fun acc h => ih _ _ (addGroup_lt h _)
  exact hfold 0 acc h

end Sys2Proof.CascadeRuns
end

section
/-! MPROD and MPRODB as instructions (R122, R211, R227). -/

namespace Sys2Proof.CascadeRuns

open Sys2Proof Sys2Proof.Machine Sys2Proof.Claims Sys2Proof.Rotations Sys2Proof.Products

/-! ### A bitmap of zeros -/

/-- A field put back as it stands changes nothing. -/
theorem putBits_self {w : ℕ} (x : BitVec w) (lo n : ℕ) : putBits x lo n (x.extractLsb' lo n).toNat = x := by
  apply BitVec.eq_of_getLsbD_eq
  intro i hi
  rw [getLsbD_putBits x lo n _ hi]
  split
  · next hin => rw [BitVec.testBit_toNat, BitVec.getLsbD_extractLsb', show lo + (i - lo) = i by omega]; simp; omega
  · rfl

theorem prodElem_of_off {a b : ProdSrc} {k i : ℕ} (hb : a.fmt.isBlk = false) (hoff : ∀ x, a.on k i x = false) (j acc : ℕ) :
    prodElem a b k i j acc = (acc, 0) := by
  have hgroup (q acc : ℕ) : elemGroup a b k i j q acc = (acc, 0) := by
    have hks : groupKs a b k i j (groupSize a.fmt) q = [] := by
      simp [groupKs, hoff]
    rw [elemGroup, hks, groupScale, hb]
    rfl
  rw [prodElem_eq]
  generalize List.range _ = qs
  induction qs with
  | nil => rfl
  | cons q qs ih => rw [List.foldl_cons, hgroup, BitVec.or_self]; exact ih

theorem prodAcc_of_off {a b : ProdSrc} {m n k : ℕ} (hb : a.fmt.isBlk = false)
    (hoff : ∀ i x, i < m → a.on k i x = false) (acc : BitVec 131072) : prodAcc a b m n k acc = (acc, 0) := by
  rw [prodAcc_eq]
  have hmem : ∀ p ∈ productPairs m n, p.1 < m ∧ p.2 < n := fun p hp => mem_productPairs.1 hp
  generalize productPairs m n = ps at hmem ⊢
  induction ps with
  | nil => rfl
  | cons p ps ih =>
    have hi := (hmem p List.mem_cons_self).1
    have hstep : putElem (fun p => prodElem a b k p.1 p.2 (accElem acc p.1 p.2).toNat) (acc, 0) p = (acc, 0) := by
      rw [putElem, prodElem_of_off hb (fun x => hoff p.1 x hi), accElem, putBits_self, BitVec.or_self]
    rw [List.foldl_cons, hstep]
    exact ih fun q hq => hmem q (List.mem_cons_of_mem _ hq)

/-! ### The instructions -/

/-- An operand of a product that is a tile. -/
def tileSource (s : State) (o : EngOp) (tag : BitVec 4) (a rows : ℕ) (bits : Option (List Byte)) : ProdSrc :=
  let f := Fmt.ofCode tag
  let len := (rows * o.dlen * f.width + 7) / 8
  ⟨f, s.ctx.regBytes a len, (List.range ((len + 255) / 256)).flatMap fun i => s.ctx.basin.sideAt (a + 256 * i), bits⟩

section
variable {s : State} {o : EngOp} {idx count : ℕ}

theorem mshape_le (w : W64) : mshapeM w ≤ 64 ∧ mshapeN w ≤ 64 :=
  ⟨(or64_pos_le (Nat.mod_lt _ (by norm_num))).2, (or64_pos_le (Nat.mod_lt _ (by norm_num))).2⟩

theorem prodSource_tile (hc : o.clob = []) {v : BitVec 6} (hv : portOf v = none) (addr rows : ℕ) (tag : BitVec 4) (bitmap : Option ℕ) :
    prodSource s o v addr rows tag bitmap =
      .done s (tileSource s o tag addr rows (bitmap.map fun b => s.ctx.regBytes b ((rows * o.dlen + 7) / 8))) := by
  simp only [prodSource, hv, engRead_reg hc]
  rfl

/-- The sum of a product of tiles. -/
def prodSum (s : State) (o : EngOp) (x y : ProdSrc) : BitVec 131072 × Flags :=
  prodAcc x y (mshapeM o.mshape) (mshapeN o.mshape) o.dlen s.ctx.casc.liveVal

theorem prodRun_tiles (hc : o.clob = []) (hl : s.ctx.casc.live = some o.daddr) {a b : BitVec 6} (ha : portOf a = none) (hb : portOf b = none)
    (hp : ∀ r ∈ o.rd, s.ctx.basin.poisoned (if r.1 then 0 else 2) r.2.1 r.2.2 = false) (ma mb : Option ℕ) :
    let x := tileSource s o o.atag o.aaddr (mshapeM o.mshape) (ma.map fun b => s.ctx.regBytes b ((mshapeM o.mshape * o.dlen + 7) / 8))
    let y := tileSource s o o.btag o.baddr (mshapeN o.mshape) (mb.map fun b => s.ctx.regBytes b ((mshapeN o.mshape * o.dlen + 7) / 8))
    prodRun s o a b ma mb =
      complete ((s.setCasc fun c => { c with liveVal := (prodSum s o x y).1 }).raise (prodSum s o x y).2) o 0 none := by
  intro x y
  have hlive : (s.ctx.casc.live == some o.daddr) = true := by rw [hl]; exact beq_self_eq_true _
  have hmake : makeLive s o.daddr = s := if_pos hlive
  have hread : accRead s o.daddr = s.ctx.casc.liveVal := if_pos hlive
  have hwrite (v : BitVec 131072) : accWrite s o.daddr v = s.setCasc fun c => { c with liveVal := v } := if_pos hlive
  have hbad : (o.rd.any fun r => engBad s r.1 r.2.1 r.2.2) = false := by
    rw [List.any_eq_false]
    intro r hr
    rw [engBad, hp r hr]
    simp
  simp only [prodRun, prodSource_tile hc ha, prodSource_tile hc hb, hbad, Bool.false_eq_true, if_false, hmake, hread, hwrite]
  rfl

/-- R211, R227: a product of tiles adds into its elements and changes nothing else. -/
theorem product_acts (hu : underWay s idx o) (hb : o.sbId = none) (x y : ProdSrc)
    (hrun : engineRun true count s o =
      complete ((s.setCasc fun c => { c with liveVal := (prodSum s o x y).1 }).raise (prodSum s o x y).2) o 0 none) :
    ∃ t, happens (.tokenDone idx count) s t ∧ ended s t o.id ∧ tokenDone s t o 0 ∧ aroundTiles s t ∧ t.ctx.basin = s.ctx.basin ∧
      t.ctx.casc = { s.ctx.casc with liveVal := (prodSum s o x y).1 } ∧
      t.ctx.ctl = { s.ctx.ctl with fflags := s.ctx.ctl.fflags ||| ((0 : BitVec 59) ++ (prodSum s o x y).2) } ∧
      (∀ i j, j < 64 → mshapeM o.mshape ≤ i ∨ mshapeN o.mshape ≤ j →
        accElem (prodSum s o x y).1 i j = accElem s.ctx.casc.liveVal i j) ∧
      ∀ i j, i < mshapeM o.mshape → j < mshapeN o.mshape →
        (accElem (prodSum s o x y).1 i j).toNat = (prodElem x y o.dlen i j (accElem s.ctx.casc.liveVal i j).toNat).1 ∧
          among (prodElem x y o.dlen i j (accElem s.ctx.casc.liveVal i j).toNat).2 (prodSum s o x y).2 := by
  have hwants := hu.2.1
  obtain ⟨-, -, -, hheld, halso, -⟩ := id hu
  obtain ⟨hm, hn⟩ := mshape_le o.mshape
  have hkept : Kept s ((s.setCasc fun c => { c with liveVal := (prodSum s o x y).1 }).raise (prodSum s o x y).2) :=
    (kept_setCasc s _).trans (kept_raise _ _)
  obtain ⟨hend, htok, har, hbas, hcas, hctl, hw⟩ := complete_kept (o := o) (status := 0) hkept hheld halso hb
  have hhap := happens_tokenDone hu count
  rw [hrun] at hhap
  obtain ⟨hval, hfl⟩ := foldl_putElem (e := fun p => prodElem x y o.dlen p.1 p.2 (accElem s.ctx.casc.liveVal p.1 p.2).toNat)
    (fun p => prodElem_lt _ _ _ _ _ (BitVec.isLt _)) (productPairs (mshapeM o.mshape) (mshapeN o.mshape))
    (fun p hp => by have := mem_productPairs.1 hp; omega) (s.ctx.casc.liveVal, 0)
  rw [← prodAcc_eq] at hval hfl
  refine ⟨_, hhap (hw.trans hwants) har.2.2.2.2.2.2.1, hend, htok, har, hbas, hcas, hctl, fun i j hj hout => ?_, fun i j hi hj => ⟨?_, ?_⟩⟩
  · apply BitVec.eq_of_toNat_eq
    rw [prodSum, hval i j hj, if_neg fun h => by have := mem_productPairs.1 h; omega]
  · rw [prodSum, hval i j (by omega), if_pos (mem_productPairs.2 ⟨hi, hj⟩)]
  · exact hfl (i, j) (mem_productPairs.2 ⟨hi, hj⟩)

/-- A bitmap of zeros leaves every term out. -/
theorem on_of_zeros {x : ProdSrc} {bs : List Byte} (hbits : x.bits = some bs) (hz : ∀ b ∈ bs, b = 0) (k i j : ℕ) : x.on k i j = false := by
  have hbyte : bs.getD ((i * k + j) / 8) 0 = 0 := by
    rw [List.getD_eq_getElem?_getD]
    cases h : bs[(i * k + j) / 8]? with
    | none => rfl
    | some b => exact hz b (List.mem_of_getElem? h)
  simp only [ProdSrc.on, hbits, hbyte]
  simp

end

end Sys2Proof.CascadeRuns
end

section
/-! ACC.OUT as an instruction, and products as instructions (R122, R207, R211, R212, R227, R230). -/

namespace Sys2Proof.CascadeRuns

open Sys2Proof Sys2Proof.Machine Sys2Proof.Claims Sys2Proof.Rotations Sys2Proof.Products

/-! ### What ACC.OUT writes -/

section
variable (s : State) (o : EngOp)

/-- The accumulator's rows behind the tail. -/
def outTail : List Elem := (List.range (64 * mshapeM o.mshape)).map fun e =>
  tailElem (tailOf s o) (e % 64) one32 (accElem s.ctx.casc.liveVal (e / 64) (e % 64)).toNat

/-- Its bytes, scale bytes and flags. -/
def outBytes : List Byte × List Byte × Flags := tailQuant (tailOf s o) (opSr o) ((outTail s o).map Prod.fst)

/-- Its bytes with the last granule completed. -/
def outRun : List Byte := (outBytes s o).1 ++
  List.replicate (256 * outGranules (tailOut o.tailCmd) (64 * mshapeM o.mshape) - (outBytes s o).1.length) 0

/-- The flags that it raises. -/
def outFlags : Flags := (outTail s o).foldl (fun acc v => acc ||| v.2) (outBytes s o).2.2

/-- The state that it leaves as it ends. -/
def outState : State :=
  (putScales (engWrite s o true (descAddr o.sa) ((outRun s o).map some)) (descAddr o.sa) (tailOut o.tailCmd) 0 (outBytes s o).2.1).raise
    (outFlags s o)

end

section
variable {s : State} {o : EngOp} {idx count : ℕ}

theorem accOutRun_eq (hl : s.ctx.casc.live = some o.daddr) (hsp : descSpad o.sa = false) (hm : outMask o.sb = false) :
    accOutRun s o = complete (outState s o) o 0 none := by
  have hlive : (s.ctx.casc.live == some o.daddr) = true := by rw [hl]; exact beq_self_eq_true _
  have hread : accRead s o.daddr = s.ctx.casc.liveVal := if_pos hlive
  have htail : ((List.range (64 * mshapeM o.mshape)).map fun e => tailElem (tailOf s o) (e % 64) one32 (word32 s.ctx.casc.liveVal e)) =
      outTail s o := by
    refine List.map_congr_left fun e _ => ?_
    rw [word32, accElem, show 64 * (e / 64) + e % 64 = e by omega]
  simp only [accOutRun, hm, hsp, accOutput, hread, tailOf_out, Bool.false_and, Bool.false_eq_true, if_false, if_true, htail]
  rfl

theorem outState_kept (hc : o.clob = []) : Kept s (outState s o) :=
  ((kept_engWrite s hc _ _ true).trans (kept_putScales _ _ _ _ _)).trans (kept_raise _ _)

/-- R230: ACC.OUT writes its run of bytes, and its accumulator stands. -/
theorem accOut_acts (hu : underWay s idx o) (he : o.eng = 0) (hb : o.sbId = none) (hc : o.clob = []) (hl : s.ctx.casc.live = some o.daddr)
    {g : EGuard} {q : BitVec 3} {a b : BitVec 6} (hins : o.instr = .accOut g q a b) (hsp : descSpad o.sa = false)
    (hm : outMask o.sb = false) (hw : Mem.wf s.ctx.basin.reg = true) :
    ∃ t, happens (.tokenDone idx count) s t ∧ ended s t o.id ∧ tokenDone s t o 0 ∧ aroundTiles s t ∧ t.ctx.casc = s.ctx.casc ∧
      t.ctx.basin.spad = s.ctx.basin.spad ∧ t.ctx.ctl.fflags = s.ctx.ctl.fflags ||| ((0 : BitVec 59) ++ outFlags s o) ∧
      ((tailOut o.tailCmd).isBlk = false → t.ctx.basin.side = s.ctx.basin.side) ∧
      laidOver t.ctx.basin.reg s.ctx.basin.reg (descAddr o.sa) ((outRun s o).map some) := by
  have hwants := hu.2.1
  obtain ⟨-, -, -, hheld, halso, -⟩ := id hu
  have hrun : engineRun true count s o = complete (outState s o) o 0 none := by
    rw [← accOutRun_eq hl hsp hm]
    simp only [engineRun, cascRun, hins, he, beq_self_eq_true, if_true]
  obtain ⟨hend, htok, har, hbas, hcas, hctl, hwt⟩ := complete_kept (o := o) (status := 0) (outState_kept hc) hheld halso hb
  have hhap := happens_tokenDone hu count
  rw [hrun] at hhap
  obtain ⟨side, use, dirty, hsc⟩ := putScales_eq (engWrite s o true (descAddr o.sa) ((outRun s o).map some)) (descAddr o.sa)
    (tailOut o.tailCmd) 0 (outBytes s o).2.1
  refine ⟨_, hhap (hwt.trans hwants) har.2.2.2.2.2.2.1, hend, htok, har, ?_, ?_, ?_, fun hblk => ?_, ?_⟩
  · rw [hcas, outState, raise_casc, putScales_casc, engWrite_casc s hc]
  · rw [hbas, outState, raise_basin, hsc]
    exact engWrite_reg_spad s hc _ _
  · rw [hctl, outState, raise_fflags, putScales_ctl, engWrite_ctl s hc]
  · have hnone : (outBytes s o).2.1 = [] := tailQuant_scales _ _ _ (by rw [tailOf_out]; exact hblk)
    rw [hbas, outState, raise_basin, hnone, putScales_nil, engWrite_side s hc]
  · rw [hbas, outState, raise_basin, hsc]
    have hreg := engWrite_reg_reg s hc (descAddr o.sa) ((outRun s o).map some)
    exact hreg ▸ laidOver_write hw _ _

/-! ### ACC.OUT with the tail off -/

/-- The words of a bit vector, as its bytes. -/
theorem bytesOf_words {w : ℕ} (v : BitVec w) (n : ℕ) :
    bytesOf 32 ((List.range n).map fun e => (v.extractLsb' (32 * e) 32).toNat) = leBytes (4 * n) v.toNat := by
  have hbytes (e : ℕ) : leBytes 4 (v.extractLsb' (32 * e) 32).toNat =
      (List.range 4).flatMap fun j => [BitVec.ofNat 8 (v.toNat / 2 ^ (8 * (e * 4 + j)))] := by
    rw [leBytes, ← List.map_eq_flatMap]
    refine List.map_congr_left fun j hj => BitVec.eq_of_toNat_eq ?_
    have hj4 : j < 4 := List.mem_range.1 hj
    rw [BitVec.extractLsb'_toNat, Nat.shiftRight_eq_div_pow, BitVec.toNat_ofNat, BitVec.toNat_ofNat,
      show 2 ^ 32 = 2 ^ (8 * j) * 2 ^ (32 - 8 * j) by rw [← pow_add]; congr 1; omega, Nat.mod_mul_right_div_self,
      Nat.mod_mod_of_dvd _ (pow_dvd_pow 2 (by omega)), Nat.div_div_eq_div_mul, ← pow_add, show 32 * e + 8 * j = 8 * (e * 4 + j) by ring]
  calc bytesOf 32 ((List.range n).map fun e => (v.extractLsb' (32 * e) 32).toNat)
      = ((List.range n).map fun e => (v.extractLsb' (32 * e) 32).toNat).flatMap fun x => leBytes 4 x := rfl
    _ = (List.range n).flatMap fun e => (List.range 4).flatMap fun j => [BitVec.ofNat 8 (v.toNat / 2 ^ (8 * (e * 4 + j)))] := by
        rw [List.flatMap_map]
        simp only [hbytes]
    _ = leBytes (4 * n) v.toNat := by
        rw [Conversions.flatMap_range_mul (fun x => [BitVec.ofNat 8 (v.toNat / 2 ^ (8 * x))]), ← List.map_eq_flatMap, leBytes, Nat.mul_comm]

theorem outTail_off (htail : o.tailCmd.extractLsb' 0 5 = 0) : outTail s o =
    (List.range (64 * mshapeM o.mshape)).map fun e => ((s.ctx.casc.liveVal.extractLsb' (32 * e) 32).toNat, 0) := by
  have hen : (tailOf s o).en = 0 := htail
  refine List.map_congr_left fun e _ => ?_
  rw [tailElem_off hen, accElem, show 64 * (e / 64) + e % 64 = e by omega]

theorem outBytes_off (htail : o.tailCmd.extractLsb' 0 5 = 0) :
    outBytes s o = (leBytes (4 * (64 * mshapeM o.mshape)) s.ctx.casc.liveVal.toNat, [], 0) := by
  have hen : (tailOf s o).en = 0 := htail
  rw [outBytes, tailQuant_off hen, outTail_off htail, List.map_map, ← bytesOf_words]
  rfl

/-- Its rows are moved as they stand. -/
theorem outRun_off (htail : o.tailCmd.extractLsb' 0 5 = 0) : outRun s o = leBytes (256 * mshapeM o.mshape) s.ctx.casc.liveVal.toNat := by
  have hgran : 256 * outGranules .fp32 (64 * mshapeM o.mshape) - 4 * (64 * mshapeM o.mshape) = 0 := by
    simp only [outGranules, Fmt.lanes, Fmt.width]
    omega
  rw [outRun, outBytes_off htail, tailOut_off htail]
  dsimp only
  rw [Conversions.leBytes_length, hgran, List.replicate_zero, List.append_nil, show 4 * (64 * mshapeM o.mshape) = 256 * mshapeM o.mshape by ring]

theorem outFlags_off (htail : o.tailCmd.extractLsb' 0 5 = 0) : outFlags s o = 0 := by
  rw [outFlags, outBytes_off htail, outTail_off htail, List.foldl_map]
  generalize List.range _ = es
  induction es with
  | nil => rfl
  | cons e es ih => rw [List.foldl_cons, BitVec.or_self]; exact ih

theorem among_outFlags : ∀ f ∈ (outBytes s o).2.2 :: (outTail s o).map Prod.snd, among f (outFlags s o) := by
  intro f hf
  rcases List.mem_cons.1 hf with rfl | hf
  · exact among_iff.2 fun b hb => (Conversions.getLsbD_foldl_or Prod.snd (outTail s o) _ b).2 (.inl hb)
  · obtain ⟨e, he, rfl⟩ := List.mem_map.1 hf
    exact among_foldl (f := Prod.snd) he _

/-! ### Flags of a control word -/

/-- Where no flag is raised the control registers stand. -/
theorem ctl_of_noFlags {t : State} (har : aroundTiles s t) (h : t.ctx.ctl.fflags = s.ctx.ctl.fflags ||| ((0 : BitVec 59) ++ (0 : Flags))) :
    t.ctx.ctl = s.ctx.ctl := by
  have hzero : (0 : BitVec 59) ++ (0 : Flags) = 0 := by decide
  have hsame : t.ctx.ctl.fflags = s.ctx.ctl.fflags := by
    rw [h, hzero]
    exact BitVec.or_zero
  have hctl := har.2.1
  rw [hsame] at hctl
  exact hctl

end

/-- Products add their groups into their elements, and ACC.OUT writes what the tail makes of its accumulator. -/
theorem productsAct : ProductsAct := by
  intro s o idx count hu he hb hc hl m elem tile products
  refine ⟨fun hpois g q a b ha hb' => ⟨fun hins => ?_, fun hins => ?_⟩, fun g q a b hins hsp hm htail hw => ?_,
    fun g q a b hins hsp hm hw => ?_⟩
  · have hrun : engineRun true count s o = prodRun s o a b none none := by
      simp only [engineRun, cascRun, hins, he, beq_self_eq_true, if_true]
    obtain ⟨t, hhap, hend, htok, har, hbas, hcas, hctl, hother, hsum⟩ := product_acts hu hb _ _
      (hrun.trans (prodRun_tiles hc hl ha hb' hpois none none))
    refine ⟨t, _, hhap, hend, htok, har, hbas, hcas, fun i j _ hj hout => hother i j hj hout, False.elim, fun i j hi hj => ?_⟩
    obtain ⟨hval, hfl⟩ := hsum i j hi hj
    refine ⟨hval, raises_of_raise (by rw [hctl]) fun f hf => ?_⟩
    rw [List.mem_singleton.1 hf]
    exact hfl
  · have hrun : engineRun true count s o =
        prodRun s o a b (some (o.view.toNat % 2 ^ 64)) (some (o.view.toNat / 2 ^ 64)) := by
      simp only [engineRun, cascRun, hins, he, beq_self_eq_true, if_true]
    obtain ⟨t, hhap, hend, htok, har, hbas, hcas, hctl, hother, hsum⟩ := product_acts hu hb _ _
      (hrun.trans (prodRun_tiles hc hl ha hb' hpois (some (o.view.toNat % 2 ^ 64)) (some (o.view.toNat / 2 ^ 64))))
    refine ⟨t, _, hhap, hend, htok, har, hbas, hcas, fun i j _ hj hout => hother i j hj hout, ?_, fun i j hi hj => ?_⟩
    · rintro ⟨hblk, hzeros⟩
      have hnone (y : ProdSrc) : prodSum s o (tileSource s o o.atag o.aaddr (mshapeM o.mshape)
          (some (s.ctx.regBytes (o.view.toNat % 2 ^ 64) ((mshapeM o.mshape * o.dlen + 7) / 8)))) y = (s.ctx.casc.liveVal, 0) :=
        prodAcc_of_off hblk (fun i x _ => on_of_zeros rfl hzeros _ _ _) _
      refine ⟨congrArg Prod.fst (hnone _), ctl_of_noFlags har ?_⟩
      rw [hctl]
      simp only [Option.map_some, hnone]
    · obtain ⟨hval, hfl⟩ := hsum i j hi hj
      refine ⟨hval, raises_of_raise (by rw [hctl]) fun f hf => ?_⟩
      rw [List.mem_singleton.1 hf]
      exact hfl
  · obtain ⟨t, hhap, hend, htok, har, hcas, hspad, hfl, hside, hlaid⟩ := accOut_acts (count := count) hu he hb hc hl hins hsp hm hw
    rw [outFlags_off htail] at hfl
    rw [outRun_off htail] at hlaid
    refine ⟨t, _, hhap, hend, htok, har, hcas, ctl_of_noFlags har hfl, hspad, hside ?_, Conversions.leBytes_length _ _,
      Tests.leBytes_holds _ _, hlaid⟩
    rw [tailOut_off htail]
    rfl
  · obtain ⟨t, hhap, hend, htok, har, hcas, hspad, hfl, hside, hlaid⟩ := accOut_acts (count := count) hu he hb hc hl hins hsp hm hw
    exact ⟨t, hhap, hend, htok, har, hcas, hspad, raises_of_raise hfl among_outFlags, hside, hlaid⟩

/-- Settles O35: each instruction's run is its units and its end, whose writes are laid over what stood; what they write is rounded as the rules
say, stage by stage and group by group. -/
theorem passesAndProductsAct : Obligations.PassesAndProductsAct :=
  ⟨sweepsAct, passesAct, productsAct, rotationsRound, driftRounds, gradientsRound, tailRounds, groupsRound⟩

end Sys2Proof.CascadeRuns
end

section
/-! A V slot whose one result is a whole lane mask (R178), and KSET, which makes such a mask of a scalar count (R149). -/

namespace Sys2Proof.LaneMasks

open Sys2Proof Sys2Proof.Machine Sys2Proof.Claims

/-! ### The issue of a slot with a mask as its result -/

/-- A result that covers every bit of kN lands as the mask itself. -/
theorem writeDst_wholeMask (ctr : Nat) (c : Ctx) (q : BitVec 3) (v : BitVec 512) :
    c.writeDst ctr (.kmask q v (BitVec.allOnes 512)) = { c with regs := c.regs.setK q v } := by
  simp only [Ctx.writeDst, BitVec.not_allOnes, BitVec.and_zero, BitVec.and_allOnes, BitVec.zero_or]

/-- A slot with one lane mask of latency 1. -/
theorem issueOne_mask (s : State) (i : Instr) (sem : State → At → SlotSem) (q : BitVec 3) (v : BitVec 512) (h : s.ready)
    (hs : sem s (alone s i) = maskResult (alone s i) q v false) : issueOne s i sem = .next (wrote s i (s.ctx.regs.setK q v)) := by
  obtain ⟨hp, hb, hl⟩ := h
  by_cases hq : q = 0#3
  · subst hq
    exact issueOne_later s i sem _ s.ctx ⟨hp, hb, hl⟩ hs rfl rfl rfl rfl
      (by simp [maskResult, SlotSem.effect, landK, Ctx.land, PDest.discarded]) rfl rfl ⟨rfl, rfl⟩ rfl rfl (by simp [hp])
  · have hd : (PDest.kmask q v (BitVec.allOnes 512)).discarded = false := by simp [PDest.discarded, hq]
    have hland : (maskResult (alone s i) q v false).apply s = { s with ctx := { s.ctx with pipe := { s.ctx.pipe with
        pend := [⟨.kmask q v (BitVec.allOnes 512), s.ctx.pipe.bundleNo + 1, false⟩] } } } := by
      simp only [maskResult, SlotSem.effect, landK, land_quiet _ _ _ _ _ hp hd]
    simp only [issueOne, hs]
    rw [issueBundle_one _ _ _ _ rfl rfl rfl rfl, show (alone s i).ba = s.ctx.regs.pc from rfl,
      commit_now s _ _ _ hl hland rfl rfl (.inr (.inr ⟨q, v, _, rfl⟩)), writeDst_wholeMask, ← hp]
    rfl

/-! ### KSET (R149) -/

/-- The mask that KSET makes of the count `c`: its low min(c, 512) bits. -/
def countMask (c : Nat) : BitVec 512 := lowMask (min c 512)

theorem getLsbD_countMask (c i : Nat) : (countMask c).getLsbD i = decide (i < min c 512) :=
  Conversions.getLsbD_lowMask (Nat.min_le_right c 512)

theorem countMask_zero : countMask 0 = 0 := rfl

theorem countMask_of_512_le {c : Nat} (h : 512 ≤ c) : countMask c = BitVec.allOnes 512 := by
  refine BitVec.eq_of_getLsbD_eq fun i hi => ?_
  rw [getLsbD_countMask, Nat.min_eq_right h, BitVec.getLsbD_allOnes]

/-- A negative count, read as unsigned, is far above 512. -/
theorem le_toNat_of_toInt_neg {x : W64} (h : x.toInt < 0) : 512 ≤ x.toNat := by
  have hmsb : 2 ^ 64 ≤ 2 * x.toNat := BitVec.toInt_neg_iff.mp h
  omega

/-- With nothing in flight KSET is a slot that waits for nothing, and its result is the mask of the count in sA. -/
theorem kset_sem {s : State} (q : BitVec 3) (a : BitVec 6) (h : s.ready) :
    semKset q a s (alone s (.kset q a)) =
      maskResult (alone s (.kset q a)) q (countMask (s.ctx.regs.getS a).toNat) false := by
  obtain ⟨hpend, hsb, -⟩ := h
  have hmin (n : Nat) : (if n < 512 then n else 512) = min n 512 := by split <;> omega
  simp only [semKset, readS_quiet _ _ _ hpend, sBusy_quiet _ _ hsb, hmin, countMask]

/-- Settles O18: the mask of the count in sA is what KSET leaves in kD. -/
theorem ksetFollowsR149 : Obligations.KsetFollowsR149 := by
  intro s q a hr c
  refine ⟨⟨countMask c, getLsbD_countMask c, fun hzero => ?_, fun hneg => countMask_of_512_le (le_toNat_of_toInt_neg hneg),
    issueOne_mask s _ (semKset q a) q _ hr (kset_sem q a hr)⟩, fun _ => rfl⟩
  rw [hzero, countMask_zero]

end Sys2Proof.LaneMasks
end

section
/-! Vector operations on registers (R151 to R158): a slot of the common shape whose sources are registers of an accepted tag passes its
checks, so that what it leaves in flight is its masked result. -/

namespace Sys2Proof.VectorArithmetic

open Sys2Proof Sys2Proof.Machine Sys2Proof.Claims Sys2Proof.ScalarControl Sys2Proof.Conversions

/-! ### Registers as sources -/

theorem runSource_tag_eq (s : State) (field : Nat) (v : BitVec 6) : (runSource s field v 0).tag = some (vtag s v) := rfl

theorem runSource_lanes_eq (s : State) (field : Nat) (v : BitVec 6) (t : Fmt) : (runSource s field v 0).lanes t = vlanes s v t := rfl

theorem refTag_runSource (s : State) (field : Nat) (v : BitVec 6) (xs : List VSrc) :
    refTag (runSource s field v 0 :: xs) = some (vtag s v) := rfl

theorem tagOf_runSource (s : State) (field : Nat) (v : BitVec 6) (xs : List VSrc) :
    tagOf (runSource s field v 0 :: xs) = vtag s v := rfl

theorem srcs2_reg {s : State} {a b : BitVec 6} (p : At) (hr : s.ready) (ha : vsrcOk s a) (hb : vsrcOk s b) :
    srcs2 s p a b = [runSource s 1 a 0, runSource s 2 b 0] :=
  congrArg₂ (fun x y => [x, y]) (vecSrc_of_vsrcOk p 1 [] hr ha) (vecSrc_of_vsrcOk p 2 (popsOf a 1) hr hb)

/-- A mask leaves a register as a source alone: only a pop has flags of its elements (R148). -/
theorem underMask_runSource (mask : BitVec 512) (s : State) (field : Nat) (v : BitVec 6) (xs : List VSrc) :
    underMask mask (runSource s field v 0 :: xs) = runSource s field v 0 :: underMask mask xs := rfl

theorem underMask_nil (mask : BitVec 512) : underMask mask [] = [] := rfl

/-! ### Masked results -/

/-- The destination check passes where a masked result of tag `t` may land, whatever class the entry accepts (R40). -/
theorem checkDst_masked {s : State} {m : VMask} {d : BitVec 6} {t : Fmt} (p : At) (ok : Fmt → Bool) (hd : vdstOk s m d t) :
    checkDst s p m d 1 ok (some t) = none :=
  checkDst_reg s p m d 1 ok t hd.1.1 (hd.2.imp_right (Or.imp_right fun ht i hi => by
    obtain rfl : i = 0 := by omega
    exact ht))

/-- A result of lanes under the mask `m`, with the flags `f` beside those of its active lanes. -/
def lanesRes (s : State) (m : VMask) (t : Fmt) (rs : List Elem) (f : Flags) (lat : Nat) : VRes :=
  { plainRes t (s.ctx.regs.getK m.k) m.z rs lat with flags := laneFlags (s.ctx.regs.getK m.k) rs ||| f }

theorem plainRes_eq_lanesRes (s : State) (m : VMask) (t : Fmt) (rs : List Elem) (lat : Nat) :
    plainRes t (s.ctx.regs.getK m.k) m.z rs lat = lanesRes s m t rs 0 lat := by
  simp [lanesRes, plainRes]

/-- A slot on registers whose checks pass leaves its masked lanes in flight. -/
theorem issueOne_lanes {s : State} {m : VMask} {d : BitVec 6} {t : Fmt} {rs : List Elem} {f : Flags} {lat : Nat} {i : Instr}
    {sem : State → At → SlotSem} (xs : List (Nat × BitVec 6)) {range format stream : List (Option Stop)} (hr : s.ready)
    (hd : d.toNat < 60) (hl : 1 < lat)
    (hs : sem s (alone s i) = vecSlot s (alone s i) d 1 (xs.map fun x => runSource s x.1 x.2 0) range format stream []
      (lanesRes s m t rs f lat))
    (hstop : ∀ o ∈ range ++ format ++ stream ++ [], o = none) :
    issueOne s i sem = .next (s.finished (maskedResult s m d t rs f lat) (s.nb i)) := by
  rw [issueOne_vec s i sem d 1 _ _ _ _ _ _ hr hd hs (List.forall_mem_map.2 fun _ _ => ⟨rfl, rfl⟩) hstop hl]
  simp [lanesRes, plainRes, maskedResult, vresult]

/-! ### One source -/

theorem vec1_reg {s : State} {m : VMask} {d a : BitVec 6} {ok : Fmt → Bool} (lat : Nat) (live : Fmt → BitVec 512 → Nat → Bool)
    (f : Fmt → List Nat → List Elem × Flags) (p : At) (hr : s.ready) (ha : vsrcOk s a) (hok : ok (vtag s a) = true) :
    vec1 ok lat live f m d a s p =
      vecSlot s p d 1 [runSource s 1 a 0] [vecRange s p 0 d 1, vecRange s p 1 a 1]
        [checkDst s p m d 1 ok (some (vtag s a)), checkTags p ok [runSource s 1 a 0] none]
        [dstStream s p d, srcStream s p 1 a] []
        (lanesRes s m (vtag s a) (f (vtag s a) (vlanes s a (vtag s a))).1 (f (vtag s a) (vlanes s a (vtag s a))).2 lat) := by
  simp only [vec1, vecSrc_eq_runSource p 1 hr ha, tagOf_runSource, refTag_runSource, hok, if_true, runSource_lanes_eq,
    maskOf_quiet p m.k hr, List.map_cons, List.map_nil, runSource_under, lanesRes]
  rfl

/-- A one-source operation on a register of an accepted tag completes with the lanes and flags that its function gives. -/
theorem issueOne_vec1 {s : State} {m : VMask} {d a : BitVec 6} {ok : Fmt → Bool} {lat : Nat} (i : Instr)
    (live : Fmt → BitVec 512 → Nat → Bool) (f : Fmt → List Nat → List Elem × Flags) (hr : s.ready) (ha : vsrcOk s a)
    (hok : ok (vtag s a) = true) (hd : vdstOk s m d (vtag s a)) (hl : 1 < lat) :
    issueOne s i (vec1 ok lat live f m d a) = .next (s.finished
      (maskedResult s m d (vtag s a) (f (vtag s a) (vlanes s a (vtag s a))).1 (f (vtag s a) (vlanes s a (vtag s a))).2 lat)
      (s.nb i)) := by
  refine issueOne_lanes [(1, a)] hr hd.1.1 hl (vec1_reg lat live f _ hr ha hok) ?_
  simp [vecRange_of_vregOk _ _ hd.1, vecRange_of_vregOk _ _ ha.1, checkDst_masked _ ok hd,
    checkTags_of_tag _ hok [runSource s 1 a 0] (by simp [runSource_tag_eq]) none (.inl rfl), dstStream_reg _ _ _ hd.1.1,
    srcStream_reg _ _ _ _ ha.1.1]

theorem latency_vec1Rows : ∀ row ∈ vec1Rows, 1 < row.2.2.1 := by decide

/-- Settles O13: each row is a slot of one source, whose function acts on each lane alone and raises no flag of its own. -/
theorem vectorLanesComplete : Obligations.VectorLanesComplete := by
  intro row hrow s m d a hr ha hok hd t
  rw [exec_vec1Row row hrow]
  exact issueOne_vec1 _ lanewise (perLane row.2.2.2) hr ha hok hd (latency_vec1Rows row hrow)

/-! ### Two sources -/

/-- A slot on two registers completes when the checks of its formats pass. -/
theorem issueOne_pair {s : State} {m : VMask} {d a b : BitVec 6} {t : Fmt} {rs : List Elem} {f : Flags} {lat : Nat} {i : Instr}
    {sem : State → At → SlotSem} {format : List (Option Stop)} (hr : s.ready) (ha : vsrcOk s a) (hb : vsrcOk s b) (hd : vregOk s d)
    (hl : 1 < lat)
    (hs : sem s (alone s i) = vecSlot s (alone s i) d 1 [runSource s 1 a 0, runSource s 2 b 0]
      [vecRange s (alone s i) 0 d 1, vecRange s (alone s i) 1 a 1, vecRange s (alone s i) 2 b 1] format
      [dstStream s (alone s i) d, srcStream s (alone s i) 1 a, srcStream s (alone s i) 2 b] [] (lanesRes s m t rs f lat))
    (hformat : ∀ o ∈ format, o = none) :
    issueOne s i sem = .next (s.finished (maskedResult s m d t rs f lat) (s.nb i)) := by
  refine issueOne_lanes [(1, a), (2, b)] hr hd.1 hl hs ?_
  simpa [or_imp, forall_and, vecRange_of_vregOk _ _ hd, vecRange_of_vregOk _ _ ha.1, vecRange_of_vregOk _ _ hb.1,
    dstStream_reg _ _ _ hd.1, srcStream_reg _ _ _ _ ha.1.1, srcStream_reg _ _ _ _ hb.1.1] using hformat

/-- The format checks of two sources of one accepted tag pass where the result may land. -/
theorem pair_formats {s : State} {m : VMask} {d a b : BitVec 6} {ok : Fmt → Bool} (p : At) (hab : vtag s b = vtag s a)
    (hok : ok (vtag s a) = true) (hd : vdstOk s m d (vtag s a)) :
    ∀ o ∈ [checkDst s p m d 1 ok (some (vtag s a)), checkTags p ok [runSource s 1 a 0, runSource s 2 b 0] none], o = none := by
  simp [checkDst_masked _ ok hd, checkTags_of_tag _ hok [runSource s 1 a 0, runSource s 2 b 0] (by simp [runSource_tag_eq, hab]) none
    (.inl rfl)]

theorem vec2_reg {s : State} {m : VMask} {d a b : BitVec 6} {ok : Fmt → Bool} (lat : Nat) (f : Fmt → Nat → Nat → Elem) (p : At)
    (hr : s.ready) (ha : vsrcOk s a) (hb : vsrcOk s b) (hok : ok (vtag s a) = true) :
    vec2 ok lat f m d a b s p =
      vecSlot s p d 1 [runSource s 1 a 0, runSource s 2 b 0] [vecRange s p 0 d 1, vecRange s p 1 a 1, vecRange s p 2 b 1]
        [checkDst s p m d 1 ok (some (vtag s a)), checkTags p ok [runSource s 1 a 0, runSource s 2 b 0] none]
        [dstStream s p d, srcStream s p 1 a, srcStream s p 2 b] []
        (lanesRes s m (vtag s a) (List.zipWith (f (vtag s a)) (vlanes s a (vtag s a)) (vlanes s b (vtag s a))) 0 lat) := by
  simp only [vec2, srcs2_reg p hr ha hb, tagOf_runSource, refTag_runSource, hok, if_true, runSource_lanes_eq, maskOf_quiet p m.k hr,
    underMask_runSource, underMask_nil, plainRes_eq_lanesRes]

theorem latency_vec2Rows : ∀ row ∈ vec2Rows, 1 < row.2.2.1 := by decide

theorem vectorPairsComplete : VectorPairsComplete := by
  intro row hrow s m d a b hr ha hb hab hok hd t
  rw [exec_vec2Row row hrow]
  exact issueOne_pair hr ha hb hd.1 (latency_vec2Rows row hrow) (vec2_reg row.2.2.1 (row.2.2.2 s) _ hr ha hb hok)
    (pair_formats _ hab hok hd)

/-! ### Three sources (R155) -/

theorem vec3_reg {s : State} {m : VMask} {d a b : BitVec 6} (f : Fmt → RMode → Nat → Nat → Nat → Elem) (p : At) (hr : s.ready)
    (hd : vsrcOk s d) (ha : vsrcOk s a) (hb : vsrcOk s b) (hok : (vtag s d).isAri = true) :
    vec3 f m d a b s p =
      vecSlot s p d 1 [runSource s 0 d 0, runSource s 1 a 0, runSource s 2 b 0]
        [vecRange s p 0 d 1, vecRange s p 1 a 1, vecRange s p 2 b 1]
        [checkTags p Fmt.isAri [runSource s 0 d 0, runSource s 1 a 0, runSource s 2 b 0] none]
        [srcStream s p 1 a, srcStream s p 2 b] []
        (lanesRes s m (vtag s d) (List.zipWith (fun (q : Nat × Nat) z => f (vtag s d) (rmodeOf s) q.1 q.2 z)
          ((vlanes s d (vtag s d)).zip (vlanes s a (vtag s d))) (vlanes s b (vtag s d))) 0 5) := by
  simp only [vec3, vecSrc_eq_runSource p 0 hr hd, srcs2_reg p hr ha hb, tagOf_runSource, hok, if_true, runSource_lanes_eq,
    maskOf_quiet p m.k hr, underMask_runSource, underMask_nil, plainRes_eq_lanesRes]

/-- A fused operation on three registers of one tag completes: its addend's tag stands, so that a merging mask may write it. -/
theorem issueOne_vec3 {s : State} {m : VMask} {d a b : BitVec 6} (i : Instr) (f : Fmt → RMode → Nat → Nat → Nat → Elem)
    (hr : s.ready) (hd : vsrcOk s d) (ha : vsrcOk s a) (hb : vsrcOk s b) (had : vtag s a = vtag s d) (hbd : vtag s b = vtag s d)
    (hok : (vtag s d).isAri = true) :
    issueOne s i (vec3 f m d a b) = .next (s.finished
      (maskedResult s m d (vtag s d) (List.zipWith (fun (q : Nat × Nat) z => f (vtag s d) (rmodeOf s) q.1 q.2 z)
        ((vlanes s d (vtag s d)).zip (vlanes s a (vtag s d))) (vlanes s b (vtag s d))) 0 5) (s.nb i)) := by
  refine issueOne_lanes [(0, d), (1, a), (2, b)] hr hd.1.1 (by decide) (vec3_reg f _ hr hd ha hb hok) ?_
  simp [vecRange_of_vregOk _ _ hd.1, vecRange_of_vregOk _ _ ha.1, vecRange_of_vregOk _ _ hb.1,
    checkTags_of_tag _ hok [runSource s 0 d 0, runSource s 1 a 0, runSource s 2 b 0] (by simp [runSource_tag_eq, had, hbd]) none
      (.inl rfl), srcStream_reg _ _ _ _ ha.1.1, srcStream_reg _ _ _ _ hb.1.1]

theorem fusedMultiplyAddCompletes : FusedMultiplyAddCompletes := by
  simp only [FusedMultiplyAddCompletes, fusedRows, List.forall_mem_cons]
  refine ⟨?_, ?_, by simp⟩
  · intro s m d a b hr hd ha hb had hbd hok
    exact issueOne_vec3 (.vfma m d a b) elemFma hr hd ha hb had hbd hok
  · intro s m d a b hr hd ha hb had hbd hok
    exact issueOne_vec3 (.vfms m d a b) elemFms hr hd ha hb had hbd hok

/-- Settles O14: a two-source operation takes its lanes in pairs; a fused one takes the lanes of vD as its addends. -/
theorem vectorArithmeticCompletes : Obligations.VectorArithmeticCompletes :=
  ⟨vectorPairsComplete, fusedMultiplyAddCompletes⟩

end Sys2Proof.VectorArithmetic
end

section
/-! Reductions and permutes of registers (R162, R177). -/

namespace Sys2Proof.VectorArithmetic

open Sys2Proof Sys2Proof.Machine Sys2Proof.Claims Sys2Proof.ScalarControl Sys2Proof.Conversions

/-! ### Reductions (R162) -/

theorem exec_reduceRow : ∀ row ∈ reduceRows, ∀ (s : State) (m : VMask) (d a : BitVec 6),
    exec (row.1 m d a) s =
      issueOne s (row.1 m d a) (vec1 Fmt.isAri 6 (fun _ _ _ => true) (reduceLanes (row.2 s)) m d a) := by
  simp only [reduceRows, List.forall_mem_cons]
  exact ⟨fun s m d a => issueOne_congr (sem := semVrsum m d a) rfl, fun _ _ _ _ => rfl, by simp⟩

theorem reductionsComplete : ReductionsComplete := by
  intro row hrow s m d a hr ha hok hd t r
  rw [exec_reduceRow row hrow]
  exact issueOne_vec1 _ _ (reduceLanes (row.2 s)) hr ha hok hd (by decide)

/-! ### Permutes (R177) -/

/-- The lanes of VROT by a count (R177). -/
def rotateLanes (n : Nat) (t : Fmt) (xs : List Nat) : List Elem × Flags :=
  ((List.range t.lanes).map fun i => (xs.getD ((i + n) % t.lanes) 0, 0), 0)

/-- Source elements of VROT that some active lane takes (R148). -/
def rotateLive (n : Nat) (t : Fmt) (mask : BitVec 512) (i : Nat) : Bool := mask.getLsbD ((i + (t.lanes - n % t.lanes)) % t.lanes)

/-- A wait for what nothing owes is none. -/
theorem stall_or_false (x : SlotSem) {busy : Bool} (h : busy = false) : { x with stall := x.stall || busy } = x := by
  simp only [h, Bool.or_false]

/-- VROT is a slot of one source: its count in sB is never waited for when nothing is outstanding. -/
theorem semVrot_reg {s : State} {m : VMask} {d a b : BitVec 6} (p : At) (hr : s.ready) :
    semVrot m d a b s p = vec1 Fmt.isLog 3 (rotateLive (s.ctx.regs.getS b).toNat) (rotateLanes (s.ctx.regs.getS b).toNat) m d a s p := by
  rw [← readS_quiet s (p.site 2) b hr.1]
  exact stall_or_false _ (sBusy_quiet s b hr.2.1)

theorem semVperm_reg {s : State} {m : VMask} {d a b : BitVec 6} (p : At) (hr : s.ready) (ha : vsrcOk s a) (hb : vsrcOk s b) :
    semVperm m d a b s p =
      vecSlot s p d 1 [runSource s 1 a 0, runSource s 2 b 0] [vecRange s p 0 d 1, vecRange s p 1 a 1, vecRange s p 2 b 1]
        (checkDst s p m d 1 Fmt.isLog (some (vtag s a)) :: indexChecks p (runSource s 1 a 0) (runSource s 2 b 0))
        [dstStream s p d, srcStream s p 1 a, srcStream s p 2 b] []
        (lanesRes s m (vtag s a) ((vlanes s b (vtag s b)).map fun v =>
          ((vlanes s a (vtag s a)).getD (v % (vtag s a).lanes) 0, 0)) 0 3) := by
  have hy : vecSrc s p 2 b 0 (popsOf a 1) = runSource s 2 b 0 := vecSrc_of_vsrcOk p 2 _ hr hb
  simp only [semVperm, vecSrc_eq_runSource p 1 hr ha, hy, runSource_tag_eq, Option.getD_some, runSource_lanes_eq, maskOf_quiet p m.k hr,
    runSource_under, plainRes_eq_lanesRes]

/-- The format checks of an indexed form pass on a data tag in LOG and the index tag of its width (R174, R177). -/
theorem indexChecks_pass {s : State} {a b : BitVec 6} (p : At) (hok : (vtag s a).isLog = true)
    (hidx : indexTag (vtag s a).width (vtag s b) = true) :
    ∀ o ∈ indexChecks p (runSource s 1 a 0) (runSource s 2 b 0), o = none := by
  simp [indexChecks, runSource_tag_eq, hidx, checkTags_of_tag p hok [runSource s 1 a 0] (by simp [runSource_tag_eq]) none (.inl rfl)]

theorem semVintl_reg {s : State} {m : VMask} {d a b : BitVec 6} (p : At) (hr : s.ready) (ha : vsrcOk s a) (hb : vsrcOk s b) :
    semVintl m d a b s p =
      vecSlot s p d 1 [runSource s 1 a 0, runSource s 2 b 0] [vecRange s p 0 d 1, vecRange s p 1 a 1, vecRange s p 2 b 1]
        [checkDst s p m d 1 Fmt.isLog (some (vtag s a)), checkTags p Fmt.isLog [runSource s 1 a 0, runSource s 2 b 0] none]
        [dstStream s p d, srcStream s p 1 a, srcStream s p 2 b] []
        (lanesRes s m (vtag s a) ((List.range (vtag s a).lanes).map fun i =>
          (if i % 2 = 0 then (vlanes s a (vtag s a)).getD (i / 2) 0 else (vlanes s b (vtag s a)).getD (i / 2) 0, 0)) 0 3) := by
  simp only [semVintl, srcs2_reg p hr ha hb, tagOf_runSource, refTag_runSource, runSource_lanes_eq, maskOf_quiet p m.k hr,
    List.zipIdx_cons, List.zipIdx_nil, List.map_cons, List.map_nil, runSource_under, plainRes_eq_lanesRes, beq_iff_eq]

theorem permutesComplete : PermutesComplete := by
  intro s m d a b hr ha hok hd t xs
  refine ⟨?_, fun hb hidx => ?_, fun hb hab => ?_⟩
  · have hsem := semVrot_reg (m := m) (d := d) (a := a) (b := b) (alone s (.vrot m d a b)) hr
    exact (issueOne_congr (sem := semVrot m d a b) hsem).trans (issueOne_vec1 _ _ (rotateLanes _) hr ha hok hd (by decide))
  · refine issueOne_pair (sem := semVperm m d a b) hr ha hb hd.1 (by decide) (semVperm_reg _ hr ha hb) ?_
    exact List.forall_mem_cons.2 ⟨checkDst_masked _ Fmt.isLog hd, indexChecks_pass _ hok hidx⟩
  · exact issueOne_pair (sem := semVintl m d a b) hr ha hb hd.1 (by decide) (semVintl_reg _ hr ha hb) (pair_formats _ hab hok hd)

/-- Settles O15: a reduction is a slot of one source whose lanes are copies of the root of its tree; a permute takes lane `i` of its
result from the lane that its count, index or place names. -/
theorem reductionsAndPermutesComplete : Obligations.ReductionsAndPermutesComplete :=
  ⟨reductionsComplete, permutesComplete⟩

end Sys2Proof.VectorArithmetic
end

section
/-! Compares, selects and the logic of lane masks (R159 to R161, R178). -/

namespace Sys2Proof.VectorArithmetic

open Sys2Proof Sys2Proof.Machine Sys2Proof.Claims Sys2Proof.ScalarControl Sys2Proof.Conversions Sys2Proof.LaneMasks

/-! ### VCMP (R159, R160) -/

/-- The condition of each lane, where the mask is 1 (R160). -/
def compareMask (s : State) (m : VMask) (c : BitVec 3) (a b : BitVec 6) : BitVec 512 :=
  bitsOf (List.zipWith (elemCmp (vtag s a) c.toNat) (vlanes s a (vtag s a)) (vlanes s b (vtag s a))) &&& s.ctx.regs.getK m.k

/-- The bits that VCMP writes: every one under Z, else those of active lanes and those above the lanes (R160). -/
def compareBits (s : State) (m : VMask) (a : BitVec 6) : BitVec 512 :=
  if m.z then BitVec.allOnes 512 else s.ctx.regs.getK m.k ||| ~~~ (lowMask (vtag s a).lanes)

theorem semVcmp_reg {s : State} {m : VMask} {c q : BitVec 3} {a b : BitVec 6} (p : At) (hr : s.ready) (ha : vsrcOk s a)
    (hb : vsrcOk s b) (hok : (vtag s a).isAri = true) :
    semVcmp m c q a b s p =
      srcSlot p [runSource s 1 a 0, runSource s 2 b 0] [vecRange s p 1 a 1, vecRange s p 2 b 1]
        [checkTags p Fmt.isAri [runSource s 1 a 0, runSource s 2 b 0] none] [srcStream s p 1 a, srcStream s p 2 b] []
        [.dst (.kmask q (compareMask s m c a b) (compareBits s m a))] (landK p q (compareMask s m c a b) (compareBits s m a) 3) := by
  simp only [semVcmp, srcs2_reg p hr ha hb, tagOf_runSource, hok, if_true, runSource_lanes_eq, maskOf_quiet p m.k hr,
    underMask_runSource, underMask_nil]
  rfl

/-- A slot on two registers whose result is a lane mask leaves it in flight when its checks pass. -/
theorem issueOne_pairMask {s : State} {q : BitVec 3} {v w : BitVec 512} {a b : BitVec 6} {lat : Nat} {i : Instr}
    {sem : State → At → SlotSem} {range format stream : List (Option Stop)} (hr : s.ready) (hl : 1 < lat)
    (hs : sem s (alone s i) = srcSlot (alone s i) [runSource s 1 a 0, runSource s 2 b 0] range format stream []
      [.dst (.kmask q v w)] (landK (alone s i) q v w lat))
    (hstop : ∀ o ∈ range ++ format ++ stream, o = none) :
    issueOne s i sem = .next (s.finished (s.ctx.flying (.kmask q v w) lat) (s.nb i)) := by
  refine issueOne_later s i sem _ _ hr hs (by simp [srcSlot, runSource]) ?_ rfl rfl ?_ rfl rfl ⟨by rw [flying_tr], by rw [flying_tr]⟩
    (by rw [flying_ctl]) (by rw [flying_no]) (flying_due _ _ _ _ (by simp [hr.1]) (by omega))
  · refine firstStop_none _ fun o ho => ?_
    rw [List.append_nil] at ho
    obtain ho | ho := List.mem_append.1 ho
    · exact hstop o ho
    · simpa [popStop, runSource] using ho
  · simp only [srcSlot, SlotSem.effect, landK, popAll_none _ [runSource s 1 a 0, runSource s 2 b 0] _ (by simp [runSource]),
      flying_quiet _ _ _ hr.1]

theorem issueOne_vcmp {s : State} {m : VMask} {c q : BitVec 3} {a b : BitVec 6} (hr : s.ready) (ha : vsrcOk s a) (hb : vsrcOk s b)
    (hab : vtag s b = vtag s a) (hok : (vtag s a).isAri = true) :
    issueOne s (.vcmp m c q a b) (semVcmp m c q a b) = .next (s.finished
      (s.ctx.flying (.kmask q (compareMask s m c a b) (compareBits s m a)) 3) (s.nb (.vcmp m c q a b))) := by
  refine issueOne_pairMask hr (by decide) (semVcmp_reg _ hr ha hb hok) ?_
  simp [vecRange_of_vregOk _ _ ha.1, vecRange_of_vregOk _ _ hb.1, srcStream_reg _ _ _ _ ha.1.1, srcStream_reg _ _ _ _ hb.1.1,
    checkTags_of_tag _ hok [runSource s 1 a 0, runSource s 2 b 0] (by simp [runSource_tag_eq, hab]) none (.inl rfl)]

/-! ### VSEL (R161) -/

/-- The lanes of VSEL: of `xs` where the select mask is 1 and of `ys` where it is 0. -/
def selectLanes (mask : BitVec 512) (xs ys : List Nat) : List Elem :=
  (xs.zip ys).zipIdx.map fun q => (if mask.getLsbD q.2 then q.1.1 else q.1.2, 0)

theorem selectLanes_map_fst (mask : BitVec 512) (xs ys : List Nat) :
    (selectLanes mask xs ys).map Prod.fst = (xs.zip ys).zipIdx.map fun q => if mask.getLsbD q.2 then q.1.1 else q.1.2 :=
  List.map_map

theorem snd_of_mem_selectLanes {mask : BitVec 512} {xs ys : List Nat} {r : Elem} (h : r ∈ selectLanes mask xs ys) : r.2 = 0 := by
  obtain ⟨q, -, rfl⟩ := List.mem_map.1 h
  rfl

theorem laneFlags_eq_zero (mask : BitVec 512) {rs : List Elem} (h : ∀ r ∈ rs, r.2 = 0) : laneFlags mask rs = 0 := by
  have hzero (x : Elem × Nat) (hx : x ∈ rs.zipIdx) : x.1.2 = 0 := h _ (List.fst_mem_of_mem_zipIdx hx)
  refine BitVec.eq_of_getLsbD_eq fun b _ => Bool.eq_iff_iff.2 ?_
  rw [laneFlags, foldl_masked, getLsbD_foldl_or]
  refine or_iff_left ?_
  rintro ⟨x, hx, hb⟩
  simp [hzero x hx] at hb

/-- VSEL takes each lane of its result by the select mask; every lane is written. -/
theorem semVsel_reg {s : State} {k : BitVec 3} {d a b : BitVec 6} (p : At) (hr : s.ready) (ha : vsrcOk s a) (hb : vsrcOk s b)
    (hok : (vtag s a).isLog = true) :
    semVsel k d a b s p =
      vecSlot s p d 1 [runSource s 1 a 0, runSource s 2 b 0] [vecRange s p 0 d 1, vecRange s p 1 a 1, vecRange s p 2 b 1]
        [checkDst s p ⟨false, 0⟩ d 1 Fmt.isLog (some (vtag s a)), checkTags p Fmt.isLog [runSource s 1 a 0, runSource s 2 b 0] none]
        [dstStream s p d, srcStream s p 1 a, srcStream s p 2 b] []
        (lanesRes s ⟨false, 0⟩ (vtag s a) (selectLanes (s.ctx.regs.getK k) (vlanes s a (vtag s a)) (vlanes s b (vtag s a))) 0 3) := by
  simp only [semVsel, srcs2_reg p hr ha hb, tagOf_runSource, refTag_runSource, hok, if_true, runSource_lanes_eq, maskOf_quiet p k hr,
    ← plainRes_eq_lanesRes]
  rfl

/-- VSEL leaves whole lanes in flight and no flag: k0 stands for no mask. -/
theorem issueOne_vsel {s : State} {k : BitVec 3} {d a b : BitVec 6} (hr : s.ready) (ha : vsrcOk s a) (hb : vsrcOk s b)
    (hab : vtag s b = vtag s a) (hok : (vtag s a).isLog = true) (hd : vregOk s d) :
    issueOne s (.vsel k d a b) (semVsel k d a b) = .next (s.finished
      (vresult s d (vtag s a) (maskedBytes (vtag s a).width (BitVec.allOnes 512) false
        ((selectLanes (s.ctx.regs.getK k) (vlanes s a (vtag s a)) (vlanes s b (vtag s a))).map Prod.fst)) 0 3)
      (s.nb (.vsel k d a b))) := by
  have hdst : vdstOk s ⟨false, 0⟩ d (vtag s a) := ⟨hd, .inl rfl⟩
  have hk0 : s.ctx.regs.getK 0 = BitVec.allOnes 512 := rfl
  rw [issueOne_pair hr ha hb hd (by decide) (semVsel_reg _ hr ha hb hok) (pair_formats _ hab hok hdst)]
  simp only [maskedResult, hk0, laneFlags_eq_zero _ fun _ => snd_of_mem_selectLanes, BitVec.or_self]

theorem comparesAndSelectsComplete : ComparesAndSelectsComplete := by
  intro s d a b hr ha hb hab t
  constructor
  · intro m c q hok active
    exact issueOne_vcmp hr ha hb hab hok
  · intro k hok hd
    rw [← selectLanes_map_fst]
    exact issueOne_vsel hr ha hb hab hok hd

/-! ### KLOG, KMOV and KPOP (R178) -/

theorem klogFn_klogRows : ∀ row ∈ klogRows, klogFn row.1 = row.2 := by
  simp only [klogRows, List.forall_mem_cons]
  exact ⟨rfl, rfl, rfl, rfl, rfl, rfl, by simp⟩

theorem laneMasksComplete : LaneMasksComplete := by
  intro s hr
  refine ⟨fun row hrow q x y => ?_, fun q x => ?_, fun d x => ?_⟩
  · refine issueOne_mask s _ (semKlog row.1 q x y) q _ hr ?_
    rw [semKlog, readK_quiet _ _ _ hr.1, readK_quiet _ _ _ hr.1, klogFn_klogRows row hrow]
  · refine issueOne_mask s _ (semKmov q x) q _ hr ?_
    rw [semKmov, readK_quiet _ _ _ hr.1]
  · refine issueOne_flying s _ (semKpop d x) d _ 2 hr (by decide) ?_
    simp only [semKpop, readK_quiet _ _ _ hr.1, sBusy_quiet _ _ hr.2.1]
    rfl

/-- Settles O16: VCMP is a slot of two sources with a lane mask in flight, VSEL one whose mask selects between its sources; KLOG and
KMOV land a whole mask, and KPOP counts one. -/
theorem masksAndSelectsComplete : Obligations.MasksAndSelectsComplete :=
  ⟨comparesAndSelectsComplete, laneMasksComplete⟩

end Sys2Proof.VectorArithmetic
end

section
/-! Vector accesses of the scratchpad (R171 to R173, R176): what a load reads where nothing still writes, and the one result that each
instruction leaves in flight. -/

namespace Sys2Proof.VectorData

open Sys2Proof Sys2Proof.Machine Sys2Proof.Claims Sys2Proof.ScalarControl Sys2Proof.Conversions Sys2Proof.VectorArithmetic

/-! ### Reads and checks of the scratchpad -/

theorem spadBytes_length (c : Ctx) (a n : Nat) : (c.spadBytes a n).length = n := Basin.bytes_length _ _ _ _ _ _

/-- With no store in flight it does not matter which free bits would say what a load sees of one. -/
theorem readSpadWith_quiet {s : State} {busy : Nat → Bool} {a n : Nat} (pick site : Nat) (h : s.ctx.pipe.pend = [])
    (hb : ∀ i, i < n → busy (a + i) = false) : readSpadWith s busy pick site a n = s.ctx.spadBytes a n := by
  rw [← readSpad_quiet s busy site a n h hb]
  simp only [readSpad, readSpadWith, h, List.zipIdx_nil, List.foldl_nil]

theorem loadBytes_readable {s : State} {a n : Nat} (p : At) (hr : s.ready) (h : spadReadable s a n) :
    loadBytes s p a n = s.ctx.spadBytes a n :=
  (if_neg (by simp [h.1])).trans (readSpadWith_quiet _ _ hr.1 h.2)

theorem loadFault_good (p : At) (va : W64) (lat : Nat) (t : State) : loadFault p false va lat t = t := rfl

theorem spadCheck_inside {s : State} {va : W64} {align n : Nat} (h : va.toNat % align = 0) (hin : va.toNat + n ≤ s.ctx.spSize) :
    spadCheck s va align n = none :=
  (if_neg (by simpa using h)).trans (if_neg (Nat.not_lt.mpr hin))

theorem granuleBytes_eq (t : Fmt) : granuleBytes t = granuleLen t := rfl

/-! ### VLD (R171, R172) -/

/-- What VLD loads from some bytes: a record of a block format, or lanes under the mask. -/
def loadRes (s : State) (m : VMask) (t : Fmt) (bs : List Byte) : VRes :=
  if t.isBlk then blkRes t (bs.take 256) (bs.drop 256) 0 4
  else lanesRes s m t ((lanesOf t.width (bs.take 256)).map fun x => (x, 0)) 0 4

theorem loadRes_lat (s : State) (m : VMask) (t : Fmt) (bs : List Byte) : (loadRes s m t bs).lat = 4 := by
  unfold loadRes
  split <;> rfl

/-- VLD of bytes that can be read is a slot of the common shape without sources. -/
theorem semVld_readable {s : State} {m : VMask} {d a : BitVec 6} {f : BitVec 4} {off : Option (BitVec 32)} (p : At) (hr : s.ready)
    (h : spadReadable s (globalVa s a off).toNat (granuleLen (Fmt.ofCode f))) :
    semVld m d a f off s p = vecSlot s p d 1 [] [vecRange s p 0 d 1]
      [checkDst s p m d 1 (fun _ => true) (some (Fmt.ofCode f))] []
      [spadCheck s (globalVa s a off) 32 (granuleLen (Fmt.ofCode f))]
      (loadRes s m (Fmt.ofCode f) (s.ctx.spadBytes (globalVa s a off).toNat (granuleLen (Fmt.ofCode f)))) := by
  simp only [semVld, vecMemAddr_quiet p a off hr, granuleBytes_eq, loadBytes_readable p hr h, h.1, loadFault_good,
    sBusy_quiet _ _ hr.2.1, spadBusy_quiet _ hr.2.1, Bool.or_false, maskOf_quiet p m.k hr, plainRes_eq_lanesRes]
  rfl

theorem vectorLoadsComplete : VectorLoadsComplete := by
  intro s m d a f off hr t va hd hva hread
  have hstop : ∀ o ∈ [vecRange s (alone s (.vld m d a f off)) 0 d 1] ++
      [checkDst s (alone s (.vld m d a f off)) m d 1 (fun _ => true) (some t)] ++ [] ++ [spadCheck s va 32 (granuleLen t)], o = none := by
    simp [vecRange_of_vregOk _ _ hd.1, checkDst_of_vdstOk _ hd, spadCheck_inside hva.1 hva.2]
  refine (issueOne_vec s _ (semVld m d a f off) d 1 [] _ _ _ _ (loadRes s m t (s.ctx.spadBytes va.toNat (granuleLen t))) hr hd.1.1
    (semVld_readable _ hr hread) (by simp) hstop (by rw [loadRes_lat]; decide)).trans ?_
  cases hblk : t.isBlk with
  | true => simp [loadRes, blkRes, granuleLen, hblk, granuleResult]
  | false =>
    have htake : (s.ctx.spadBytes va.toNat 256).take 256 = s.ctx.spadBytes va.toNat 256 :=
      List.take_of_length_le (spadBytes_length ..).le
    simp [loadRes, lanesRes, plainRes, granuleLen, hblk, htake, maskedResult, vresult]

/-! ### Slots that leave one result in flight -/

/-- A slot whose checks pass and whose effect is one result that lands later. -/
theorem issueOne_result {s : State} {i : Instr} {sem : State → At → SlotSem} {d : PDest} {lat : Nat} (hr : s.ready) (hl : 1 < lat)
    (hstall : (sem s (alone s i)).stall = false) (hstop : (sem s (alone s i)).stop = none)
    (hq : (sem s (alone s i)).enq = none) (ho : (sem s (alone s i)).offcore = false)
    (htr : (sem s (alone s i)).transfer = none) (he : (sem s (alone s i)).ends = false)
    (hap : (sem s (alone s i)).apply s = { s with ctx := s.ctx.flying d lat }) :
    issueOne s i sem = .next (s.finished (s.ctx.flying d lat) (s.nb i)) :=
  issueOne_later s i sem _ _ hr rfl hstall hstop hq ho hap htr he ⟨by rw [flying_tr], by rw [flying_tr]⟩ (by rw [flying_ctl])
    (by rw [flying_no]) (flying_due _ _ _ _ (by simp [hr.1]) (by omega))

/-! ### VST (R173) -/

theorem storeBytes_runSource (s : State) (k : BitVec 3) (d : BitVec 6) (field : Nat) :
    storeBytes (vtag s d) (s.ctx.regs.getK k) (runSource s field d 0) = storedBytes s k d := by
  simp only [storeBytes, storedBytes, beq_iff_eq]
  rfl

theorem semVst_apply {s : State} {k : BitVec 3} {d a : BitVec 6} {f : BitVec 4} {off : Option (BitVec 32)} (p : At) (hr : s.ready)
    (hd : vsrcOk s d) :
    (semVst k d a f off s p).apply s = { s with ctx := s.ctx.flying (.spad (globalVa s a off).toNat (storedBytes s k d)) 2 } := by
  have hpop : popAll p (underMask (s.ctx.regs.getK k) [runSource s 0 d 0]) s = s :=
    popAll_none p _ s (by simp [underMask_runSource, underMask_nil, runSource_quiet])
  simp only [semVst, srcSlot, SlotSem.effect, vecSrc_eq_runSource p 0 hr hd, runSource_tag_eq, Option.getD_some,
    vecMemAddr_quiet p a off hr, maskOf_quiet p k hr, storeBytes_runSource, hpop, flying_quiet _ _ _ hr.1]

theorem vectorStoresComplete : VectorStoresComplete := by
  intro s k d a f off hr va ⟨hd, hf, hk, hva⟩
  obtain ⟨hstall, hstop⟩ := vst_checks a off hr hd hf hk
  exact issueOne_result (sem := semVst k d a f off) hr (by decide) hstall (hstop.trans (spadCheck_inside hva.1 hva.2)) rfl rfl rfl rfl
    (semVst_apply _ hr hd)

/-! ### VLDM (R176) -/

theorem ofLe_testBit (bs : List Byte) (j : Nat) {b : Nat} (hb : b < 8) :
    (ofLe bs).testBit (8 * j + b) = (bs.getD j 0).getLsbD b := by
  induction bs generalizing j with
  | nil => simp [ofLe]
  | cons x bs ih =>
    have hx : x.toNat < 2 ^ 8 := x.isLt
    rw [Rotations.ofLe_cons, show x.toNat + 256 * ofLe bs = 2 ^ 8 * ofLe bs + x.toNat by omega, Nat.testBit_two_pow_mul_add _ hx]
    cases j with
    | zero => simp [hb, BitVec.testBit_toNat]
    | succ j =>
      rw [if_neg (by omega), show 8 * (j + 1) + b - 8 = 8 * j + b by omega, ih]
      simp

/-- Bit 8j + b of the mask that 64 bytes make is bit b of byte j. -/
theorem getLsbD_maskOfBytes (bs : List Byte) {j b : Nat} (hj : j < 64) (hb : b < 8) :
    (maskOfBytes bs).getLsbD (8 * j + b) = (bs.getD j 0).getLsbD b := by
  rw [maskOfBytes, BitVec.getLsbD_ofNat, ofLe_testBit bs j hb, decide_eq_true (by omega), Bool.true_and]

theorem semVldm_apply {s : State} {q : BitVec 3} {a : BitVec 6} {off : Option (BitVec 32)} (p : At) (hr : s.ready)
    (h : spadReadable s (globalVa s a off).toNat 64) :
    (semVldm q a off s p).apply s =
      { s with ctx := s.ctx.flying (.kmask q (maskOfBytes (s.ctx.spadBytes (globalVa s a off).toNat 64)) (BitVec.allOnes 512)) 4 } := by
  simp only [semVldm, srcSlot, SlotSem.effect, vecMemAddr_quiet p a off hr, loadBytes_readable p hr h, h.1, loadFault_good, landK,
    popAll_none p [] s (by simp), flying_quiet _ _ _ hr.1]

theorem maskLoadCompletes : MaskLoadCompletes := by
  intro s q a off hr va hva hread
  obtain ⟨hstall, hstop⟩ := vldm_checks q a off hr
  exact ⟨maskOfBytes (s.ctx.spadBytes va.toNat 64), fun j b hj hb => getLsbD_maskOfBytes _ hj hb,
    issueOne_result (sem := semVldm q a off) hr (by decide) hstall (hstop.trans (spadCheck_inside hva.1 hva.2)) rfl rfl rfl rfl
      (semVldm_apply _ hr hread)⟩

/-- Settles O21: VLD is a slot of the common shape without sources; VST and VLDM leave one result in flight. -/
theorem vectorLoadsAndStoresComplete : Obligations.VectorLoadsAndStoresComplete :=
  ⟨vectorLoadsComplete, maskLoadCompletes, vectorStoresComplete⟩

end Sys2Proof.VectorData
end

section
/-! Gathers and scatters (R174, R175): their lanes as addresses, the bytes that they read or write, and the one result that is owed. -/

namespace Sys2Proof.VectorData

open Sys2Proof Sys2Proof.Machine Sys2Proof.Claims Sys2Proof.ScalarControl Sys2Proof.Conversions Sys2Proof.VectorArithmetic

/-! ### Lanes that are addressed -/

/-- The address of each lane with its place among the lanes. -/
theorem laneAddrs_zipIdx (s : State) (k : BitVec 3) (a b : BitVec 6) (t : Fmt) :
    (laneAddrs t (vtag s b) (s.ctx.regs.getS a) (vlanes s b (vtag s b))).zipIdx.map
      (fun q => (q.1, (s.ctx.regs.getK k).getLsbD q.2)) = laneList s k a b t := by
  have hlanes : laneAddrs t (vtag s b) (s.ctx.regs.getS a) (vlanes s b (vtag s b)) =
      (vlanes s b (vtag s b)).map (laneVa s a t (vtag s b)) := rfl
  rw [hlanes, List.zipIdx_map, List.map_map, laneList]
  rfl

/-- A selected lane's address with its place is one of the lanes. -/
theorem lanesOk_of_mem {s : State} {k : BitVec 3} {a b : BitVec 6} {t : Fmt} (h : lanesOk s k a b t) {q : W64 × Nat}
    (hq : q ∈ (laneAddrs t (vtag s b) (s.ctx.regs.getS a) (vlanes s b (vtag s b))).zipIdx)
    (hsel : (s.ctx.regs.getK k).getLsbD q.2 = true) : inSpad s q.1 (t.width / 8) ∧ spadReadable s q.1.toNat (t.width / 8) :=
  h (q.1, (s.ctx.regs.getK k).getLsbD q.2) (laneAddrs_zipIdx s k a b t ▸ List.mem_map_of_mem hq) hsel

theorem laneStop_of_lanesOk {s : State} {k : BitVec 3} {a b : BitVec 6} {t : Fmt} (h : lanesOk s k a b t) :
    laneStop s (s.ctx.regs.getK k) (t.width / 8) (laneAddrs t (vtag s b) (s.ctx.regs.getS a) (vlanes s b (vtag s b))) = none := by
  rw [laneStop_eq, List.findSome?_eq_none_iff]
  exact fun l hl => laneCheck_of_inSpad fun hsel => (h l hl hsel).1

/-! ### VLDX (R174) -/

/-- The bytes that a gather brings: those of the selected lanes, zeros or nothing for the others. -/
def gathered (s : State) (m : VMask) (a b : BitVec 6) (t : Fmt) : List (Option Byte) :=
  (laneList s m.k a b t).flatMap fun l =>
    if l.2 then (s.ctx.spadBytes l.1.toNat (t.width / 8)).map some
    else if m.z then List.replicate (t.width / 8) (some 0) else List.replicate (t.width / 8) none

/-- Every selected lane reads the scratchpad as it stands (R99, R175). -/
theorem gathered_eq {s : State} {m : VMask} {a b : BitVec 6} {t : Fmt} (p : At) (hr : s.ready) (h : lanesOk s m.k a b t) :
    ((laneAddrs t (vtag s b) (s.ctx.regs.getS a) (vlanes s b (vtag s b))).zipIdx.flatMap fun q =>
      if (s.ctx.regs.getK m.k).getLsbD q.2 then
        (if s.ctx.basin.poisoned 2 q.1.toNat (t.width / 8) then
            (List.range (t.width / 8)).map fun i => some (Config.free s.freeCtr (p.site 5 + 4 * q.2 + i) 8)
          else (readSpadWith s (fun x => s.ctx.eng.busyAt false x) (p.site 6) (p.site 4 + 2 ^ 12 * q.2) q.1.toNat
            (t.width / 8)).map some)
      else if m.z then List.replicate (t.width / 8) (some 0)
      else List.replicate (t.width / 8) none) = gathered s m a b t := by
  rw [gathered, ← laneAddrs_zipIdx, List.flatMap_map]
  refine List.flatMap_congr fun q hq => ?_
  by_cases hsel : (s.ctx.regs.getK m.k).getLsbD q.2 = true
  · obtain ⟨-, hgood, hfree⟩ := lanesOk_of_mem h hq hsel
    rw [if_pos hsel, if_pos hsel, if_neg (by simp [hgood]), readSpadWith_quiet _ _ hr.1 hfree]
  · rw [if_neg hsel, if_neg hsel]

/-- No selected lane holds uncorrectable data (R109). -/
theorem activeLanes_good {s : State} {k : BitVec 3} {a b : BitVec 6} {t : Fmt} (h : lanesOk s k a b t) :
    ((activeLanes (s.ctx.regs.getK k) (laneAddrs t (vtag s b) (s.ctx.regs.getS a) (vlanes s b (vtag s b)))).find? fun q =>
      s.ctx.basin.poisoned 2 q.1.toNat (t.width / 8)) = none := by
  rw [List.find?_eq_none]
  intro q hq
  obtain ⟨hq, hsel⟩ := List.mem_filter.mp hq
  obtain ⟨-, hgood, -⟩ := lanesOk_of_mem h hq hsel
  simp [hgood]

/-- A context in which one scoreboarded result is owed (R27). -/
def owed (c : Ctx) (dst : SbDest) (src : SbSrc) (va : W64) : Ctx :=
  { c with pipe := { c.pipe with nextId := c.pipe.nextId + 1, sb := [⟨c.pipe.nextId, dst, src, va, false, []⟩] } }

/-- In a quiet pipeline the result that an indexed access owes is the only one. -/
theorem addSb_owed {c : Ctx} (ctr site : Nat) (dst : SbDest) (src : SbSrc) (va : W64) (ds : List PDest) (hp : c.pipe.pend = [])
    (hb : c.pipe.sb = []) :
    Ctx.addSb ctr site { c with pipe := { c.pipe with nextId := c.pipe.nextId + 1 } } ⟨c.pipe.nextId, dst, src, va, false, []⟩ ds =
      owed c dst src va := by
  rw [addSb_quiet _ _ _ _ _ (by exact hp)]
  simp [owed, hb]

theorem semVldx_apply {s : State} {m : VMask} {d a b : BitVec 6} (p : At) (hr : s.ready) (hd : vsrcOk s d) (hb : vsrcOk s b)
    (h : lanesOk s m.k a b (vtag s d)) :
    (semVldx m d a b s p).apply s = { s with
      ctx := owed { s.ctx with basin := s.ctx.basin.setTags (s.ctx.vecAddr d.toNat) 256 (vtag s d) } (.vec (s.ctx.vecAddr d.toNat))
        (.gather (gathered s m a b (vtag s d)) false) 0 } := by
  have hpop : popAll p (underMask (s.ctx.regs.getK m.k) [runSource s 0 d 0, runSource s 2 b 0]) s = s :=
    popAll_none p _ s (by simp [underMask_runSource, underMask_nil, runSource_quiet])
  simp only [semVldx, srcSlot, SlotSem.effect, vecSrc_eq_runSource p _ hr hd, vecSrc_eq_runSource p _ hr hb, runSource_tag_eq,
    Option.getD_some, runSource_lanes_eq, maskOf_quiet p m.k hr, readS_quiet _ _ _ hr.1, hpop, gathered_eq p hr h, activeLanes_good h]
  exact congrArg (fun c => { s with ctx := c }) (addSb_owed
    (c := { s.ctx with basin := s.ctx.basin.setTags (s.ctx.vecAddr d.toNat) 256 (vtag s d) }) _ _ _ _ _ _ hr.1 hr.2.1)

/-! ### VSTX (R174) -/

/-- The bytes that a scatter writes: those of the selected lanes, in ascending order. -/
def scattered (s : State) (k : BitVec 3) (d a b : BitVec 6) (t : Fmt) : List (Nat × Byte) :=
  ((laneList s k a b t).zip (vlanes s d t)).flatMap fun l =>
    if l.1.2 then (leBytes (t.width / 8) l.2).zipIdx.map fun x => (l.1.1.toNat + x.2, x.1) else []

theorem flatMap_filter {α β : Type} (p : α → Bool) (f : α → List β) (xs : List α) :
    (xs.filter p).flatMap f = xs.flatMap fun x => if p x then f x else [] := by
  induction xs with
  | nil => rfl
  | cons x xs ih => cases hp : p x <;> simp [hp, ih]

/-- Places given after two lists are paired are those given to the first. -/
theorem zipIdx_zip {α β : Type} (xs : List α) (ys : List β) :
    (xs.zip ys).zipIdx = (xs.zipIdx.zip ys).map fun q => ((q.1.1, q.2), q.1.2) := by
  refine List.ext_getElem (by simp) fun i h h' => ?_
  simp

theorem scatterBytes_eq (s : State) (k : BitVec 3) (d a b : BitVec 6) (t : Fmt) :
    scatterBytes t (s.ctx.regs.getK k) (laneAddrs t (vtag s b) (s.ctx.regs.getS a) (vlanes s b (vtag s b))) (vlanes s d t) =
      scattered s k d a b t := by
  rw [scattered, ← laneAddrs_zipIdx, List.zip_map_left, List.flatMap_map, scatterBytes, activeLanes, flatMap_filter, zipIdx_zip,
    List.flatMap_map]
  rfl

theorem semVstx_apply {s : State} {k : BitVec 3} {d a b : BitVec 6} (p : At) (hr : s.ready) (hd : vsrcOk s d) (hb : vsrcOk s b) :
    (semVstx k d a b s p).apply s =
      { s with ctx := owed s.ctx .spad (.scatter (scattered s k d a b (vtag s d)) s.ctx.pipe.bundleNo) p.ba } := by
  have hpop : popAll p (underMask (s.ctx.regs.getK k) [runSource s 0 d 0, runSource s 2 b 0]) s = s :=
    popAll_none p _ s (by simp [underMask_runSource, underMask_nil, runSource_quiet])
  simp only [semVstx, srcSlot, SlotSem.effect, vecSrc_eq_runSource p _ hr hd, vecSrc_eq_runSource p _ hr hb, runSource_tag_eq,
    Option.getD_some, runSource_lanes_eq, maskOf_quiet p k hr, readS_quiet _ _ _ hr.1, hpop, scatterBytes_eq,
    addSb_owed _ _ _ _ _ _ hr.1 hr.2.1]

/-! ### Gather and scatter as instructions -/

/-- A slot whose checks pass and whose effect is a result that it owes. -/
theorem issueOne_owed {s : State} {i : Instr} {sem : State → At → SlotSem} {b : Basin} {dst : SbDest} {src : SbSrc} {va : W64}
    (hr : s.ready) (hstall : (sem s (alone s i)).stall = false) (hstop : (sem s (alone s i)).stop = none)
    (hq : (sem s (alone s i)).enq = none) (ho : (sem s (alone s i)).offcore = false)
    (htr : (sem s (alone s i)).transfer = none) (he : (sem s (alone s i)).ends = false)
    (hap : (sem s (alone s i)).apply s = { s with ctx := owed { s.ctx with basin := b } dst src va }) :
    issueOne s i sem = .next (s.finished (owed { s.ctx with basin := b } dst src va) (s.nb i)) :=
  issueOne_later s i sem _ _ hr rfl hstall hstop hq ho hap htr he ⟨rfl, rfl⟩ rfl rfl (by simp [owed, hr.1])

/-- Settles O19: with every selected lane good, VLDX and VSTX pass their checks and owe what they gather and scatter. -/
theorem gatherAndScatterComplete : Obligations.GatherAndScatterComplete := by
  intro s d a b hr hd hb t size ht hit
  constructor
  · intro m hlanes
    obtain ⟨hstall, hstop⟩ := indexed_checks (m := m) a hr hd hb ht hit (semVldx m d a b) (by simp) (alone s (.vldx m d a b))
    exact issueOne_owed (sem := semVldx m d a b) hr hstall (hstop.trans (laneStop_of_lanesOk hlanes)) rfl rfl rfl rfl
      (semVldx_apply _ hr hd hb hlanes)
  · intro k hlanes
    obtain ⟨hstall, hstop⟩ :=
      indexed_checks (m := ⟨false, k⟩) a hr hd hb ht hit (semVstx k d a b) (by simp) (alone s (.vstx k d a b))
    exact issueOne_owed (sem := semVstx k d a b) (b := s.ctx.basin) hr hstall (hstop.trans (laneStop_of_lanesOk hlanes)) rfl rfl
      rfl rfl (semVstx_apply _ hr hd hb)

end Sys2Proof.VectorData
end

section
/-! The end of a bundle of one slot that raises flags at once (R24, R45), and what a change of one port leaves. -/

namespace Sys2Proof.VectorData

open Sys2Proof Sys2Proof.Machine Sys2Proof.Claims

/-! ### Results in flight -/

/-- What a result adds to those in flight: nothing where it is discarded. -/
def inFlight (d : PDest) (due : Nat) : List Pending := if d.discarded then [] else [⟨d, due, false⟩]

theorem inFlight_no_flags (due : Nat) : inFlight (.flags 0) due = [] := rfl

theorem inFlight_flags {f : Flags} (due : Nat) (h : f ≠ 0) : inFlight (.flags f) due = [⟨.flags f, due, false⟩] :=
  if_neg (by simpa [PDest.discarded] using h)

theorem flying_eq (c : Ctx) (d : PDest) (lat : Nat) :
    c.flying d lat = { c with pipe := { c.pipe with pend := c.pipe.pend ++ inFlight d (c.pipe.bundleNo + lat) } } := by
  unfold Ctx.flying inFlight
  split <;> simp

/-- Flags in flight meet no other result. -/
theorem overlaps_of_mem_inFlight_flags {f : Flags} {due : Nat} (d : PDest) :
    ∀ p ∈ inFlight (.flags f) due, p.dst.overlaps d = false := by
  unfold inFlight
  split
  · simp
  · simp [PDest.overlaps]

theorem flags_overlaps (d : PDest) (f : Flags) : d.overlaps (.flags f) = false := by cases d <;> rfl

theorem due_of_mem_inFlight {d : PDest} {due : Nat} : ∀ p ∈ inFlight d due, p.due = due := by
  unfold inFlight
  split <;> simp

/-! ### The end of a bundle -/

/-- The flags of a window that closes are raised; results of later windows stay in flight. -/
theorem landDue_flags {c : Ctx} {n : Nat} {f : Flags} {late : List Pending} (ctr : Nat)
    (hpend : c.pipe.pend = inFlight (.flags f) n ++ late) (hlate : ∀ p ∈ late, n < p.due) :
    c.landDue ctr n = { c with
      pipe := { c.pipe with pend := late }
      ctl := { c.ctl with fflags := c.ctl.fflags ||| ((0 : BitVec 59) ++ f) } } := by
  have hstay : (late.filter fun p => decide (n < p.due)) = late := List.filter_eq_self.mpr (by simpa using hlate)
  have hnone : (late.filter fun p => decide (p.due ≤ n)) = [] :=
    List.filter_eq_nil_iff.mpr (by simpa using hlate)
  by_cases hf : f = 0
  · subst hf
    rw [inFlight_no_flags, List.nil_append] at hpend
    simp [Ctx.landDue, hpend, hstay, hnone]
  · simp [Ctx.landDue, hpend, inFlight_flags n hf, hstay, hnone, Ctx.landOne, Ctx.writeDst, Ctx.hideStore]

/-- A bundle of one slot that takes `s` to `t`, transfers no control, and of whose results only flags `f` land at once. -/
theorem commit_flags {s t : State} {x : SlotSem} {f : Flags} {late : List Pending} (nb : W64) (h : s.noLoopEnd) (hap : x.apply s = t)
    (htr : x.transfer = none) (he : x.ends = false) (hloop0 : t.ctx.tr.lend0 = s.ctx.tr.lend0) (hloop1 : t.ctx.tr.lend1 = s.ctx.tr.lend1)
    (hpend : t.ctx.pipe.pend = inFlight (.flags f) (t.ctx.pipe.bundleNo + 1) ++ late)
    (hlate : ∀ p ∈ late, t.ctx.pipe.bundleNo + 1 < p.due) :
    commit s [(0, x)] s.ctx.regs.pc nb = t.finished
      { t.ctx with
        pipe := { t.ctx.pipe with pend := late }
        ctl := { t.ctx.ctl with fflags := t.ctx.ctl.fflags ||| ((0 : BitVec 59) ++ f) } } nb := by
  have hend (wrote : Bool → Bool) : t.ctx.loopEnd (fun n => s.ctx.loopActive n) wrote s.ctx.regs.pc nb =
      { t.ctx with regs := { t.ctx.regs with pc := nb } } :=
    loopEnd_plain _ _ _ _ _ (by rw [hloop0]; exact h.1) (by rw [hloop1]; exact h.2)
  simp only [commit, applySlots, List.foldl_cons, List.foldl_nil, hap, nextPc, List.findSome?_cons, htr, List.findSome?_nil, hend,
    closeBundle, List.any_cons, List.any_nil, he, Bool.or_false, Bool.false_eq_true, if_false]
  rw [landDue_flags _ (by exact hpend) hlate]
  rfl

/-- A bundle of one slot, of whose results none lands at once. -/
theorem commit_quiet {s t : State} {x : SlotSem} (nb : W64) (h : s.noLoopEnd) (hap : x.apply s = t) (htr : x.transfer = none)
    (he : x.ends = false) (htl : t.ctx.tr = s.ctx.tr) (hpend : t.ctx.pipe.pend = []) :
    commit s [(0, x)] s.ctx.regs.pc nb = t.finished t.ctx nb := by
  rw [commit_flags (f := 0) (late := []) nb h hap htr he (by rw [htl]) (by rw [htl]) (by rw [hpend, inFlight_no_flags, List.nil_append])
    (by simp)]
  simp [← hpend]

/-! ### Ports -/

theorem port_setPort_same (c : Ctx) {q : Nat} (p : Port) (hq : q < 4) : (c.setPort q p).port q = p := by
  simp [Ctx.port, Ctx.setPort, hq]

theorem port_setPort_ne (c : Ctx) {q r : Nat} (p : Port) (h : r ≠ q) : (c.setPort q p).port r = c.port r := by
  simp [Ctx.port, Ctx.setPort, Array.getD_eq_getD_getElem?, Array.getElem?_setIfInBounds_ne (Ne.symm h)]

/-- A change of the ports that keeps something of each keeps it of every port. -/
theorem port_map_keeps {γ : Type} (g : Port → γ) (f : Port → Port) (hf : ∀ p, g (f p) = g p) (c : Ctx) (r : Nat) :
    g (Ctx.port { c with eng := { c.eng with ports := c.eng.ports.map f } } r) = g (c.port r) := by
  by_cases hr : r < 4
  · simp [Ctx.port, Array.getD_eq_getD_getElem?, hr, hf]
  · simp [Ctx.port, Array.getD_eq_getD_getElem?, hr]

end Sys2Proof.VectorData
end

section
/-! Source ports as operands (R179, R183, R184): what a pop leaves of the machine, and the one-source operations on a port. -/

namespace Sys2Proof.VectorData

open Sys2Proof Sys2Proof.Machine Sys2Proof.Claims Sys2Proof.ScalarControl Sys2Proof.Conversions Sys2Proof.VectorArithmetic

/-! ### Pops -/

/-- What a port's place in its stream is made of: its state, chain word, template and position. -/
def streamPlace (p : Port) : PortState × W64 × Option (BitVec 1024) × Nat := (p.st, p.chain, p.tmpl, p.pos)

theorem streamPlace_mapLoads {f : Port → Port} (hf : ∀ p, streamPlace (f p) = streamPlace p) (c : Ctx) (cls r : Nat) :
    streamPlace ((c.mapLoads cls f).port r) = streamPlace (c.port r) :=
  port_map_keeps streamPlace _ (fun p => by split <;> [exact hf p; rfl]) c r

theorem streamPlace_classRead (c : Ctx) (cls : Nat) (lines : Option (List (Nat × Nat × Byte))) (lo hi : Nat)
    (before : Port → Option Bool) (r : Nat) : streamPlace ((c.classRead cls lines lo hi before).port r) = streamPlace (c.port r) :=
  streamPlace_mapLoads (fun p => by split <;> rfl) c cls r

theorem streamPlace_lineRead (c : Ctx) (cls line time : Nat) (before : Port → Option Bool) (r : Nat) :
    streamPlace ((c.lineRead cls line time before).port r) = streamPlace (c.port r) :=
  streamPlace_mapLoads (fun p => by split <;> rfl) c cls r

/-- The reads of a pop move no port on. -/
theorem streamPlace_popReads (s : State) (q : Nat) (v : Popped) (r : Nat) :
    streamPlace ((s.popReads q v).ctx.port r) = streamPlace (s.ctx.port r) := by
  unfold State.popReads
  refine (foldl_keeps (fun c : Ctx => streamPlace (c.port r)) _ (fun c l => streamPlace_lineRead ..) _ _).trans ?_
  refine (foldl_keeps (fun c : Ctx => streamPlace (c.port r)) _ (fun c t => streamPlace_classRead ..) _ _).trans ?_
  exact foldl_keeps (fun s : State => streamPlace (s.ctx.port r)) State.fillDie (fun _ _ => rfl) _ _

/-- A pop that fills no line and reads no global memory leaves the machine as it is. -/
theorem popReads_nothing (s : State) (q : Nat) {v : Popped} (ht : v.times = []) (hf : v.fills = []) (hl : v.lines = []) :
    s.popReads q v = s := by
  simp [State.popReads, ht, hf, hl]

/-- The port moves on by the lanes of a popped vector, or QENDn is set by a pop past the end (R183, R184). -/
def movedOn (c : Ctx) (q : Nat) (v : Popped) : Ctx :=
  if v.past then c.setQend q else c.setPort q { c.port q with pos := (c.port q).pos + v.tag.lanes }

theorem popPort_eq (ctr site : Nat) {c : Ctx} (q : Nat) {v : Popped} (hu : v.unc = none) (hp : c.pipe.pend = []) :
    c.popPort ctr site q v = (movedOn c q v).flying (.flags v.raised) 1 := by
  have hpend : (movedOn c q v).pipe.pend = [] := by unfold movedOn; split <;> exact hp
  simp only [Ctx.popPort, hu]
  exact flying_quiet _ _ _ hpend _ _

/-- What moving on leaves as it is. -/
theorem movedOn_keeps {γ : Type} (g : Ctx → γ) (hq : ∀ c q, g (c.setQend q) = g c) (hp : ∀ c q p, g (c.setPort q p) = g c) (c : Ctx)
    (q : Nat) (v : Popped) : g (movedOn c q v) = g c := by
  unfold movedOn
  split
  · exact hq c q
  · exact hp c q _

theorem port_movedOn (c : Ctx) {q : Nat} (v : Popped) (hq : q < 4) :
    (movedOn c q v).port q = if v.past then c.port q else { c.port q with pos := (c.port q).pos + v.tag.lanes } := by
  unfold movedOn
  split
  · rfl
  · exact port_setPort_same c _ hq

theorem tstat_movedOn (c : Ctx) (q : Nat) (v : Popped) :
    (movedOn c q v).tr.tstat = if v.past then c.tr.tstat ||| BitVec.ofNat 64 (2 ^ (4 + q)) else c.tr.tstat := by
  unfold movedOn
  split <;> rfl

theorem lend_movedOn (c : Ctx) (q : Nat) (v : Popped) :
    (movedOn c q v).tr.lend0 = c.tr.lend0 ∧ (movedOn c q v).tr.lend1 = c.tr.lend1 :=
  ⟨movedOn_keeps (fun c => c.tr.lend0) (fun _ _ => rfl) (fun _ _ _ => rfl) c q v,
    movedOn_keeps (fun c => c.tr.lend1) (fun _ _ => rfl) (fun _ _ _ => rfl) c q v⟩

/-- The flags of a popped vector are those that the chain raised for the elements of active lanes (R148). -/
theorem raised_under (v : Popped) (mask : BitVec 512) : (v.under fun i => mask.getLsbD i).raised = activeFlags mask v.flags := by
  simp only [Popped.raised, Popped.under, activeFlags, List.foldl_map]
  refine List.foldl_ext _ _ _ fun acc f _ => ?_
  split <;> simp

/-! ### Source ports as operands -/

/-- The vector at the head of a source port as an operand. -/
def portSource (field q : Nat) (v : Popped) : VSrc := ⟨field, some v.tag, v.bytes, zeroSide, 0, some (q, v), v.ready⟩

theorem vecSrc_source {s : State} {a : BitVec 6} {q : Nat} (i : Instr) (ha : portOf a = some q) (hst : (s.ctx.port q).st = .source) :
    vecSrc s (alone s i) 1 a 0 [] = portSource 1 q (popVec s ((alone s i).site 1 + 2 ^ 16) q 0) := by
  simp only [vecSrc, ha, hst]
  rfl

theorem underMask_portSource (mask : BitVec 512) (field q : Nat) (v : Popped) :
    (portSource field q v).under (lanewise v.tag mask) = portSource field q (v.under fun i => mask.getLsbD i) := rfl

/-- A one-source operation on a source port as a slot. -/
theorem vec1_source {s : State} {m : VMask} {d a : BitVec 6} {ok : Fmt → Bool} {q : Nat} {v : Popped} (lat : Nat)
    (f : Fmt → Nat → Elem)
    (p : At) (hr : s.ready) (ha : vecSrc s p 1 a 0 [] = portSource 1 q v) (hok : ok v.tag = true) :
    vec1 ok lat lanewise (perLane f) m d a s p =
      vecSlot s p d 1 [portSource 1 q (v.under fun i => (s.ctx.regs.getK m.k).getLsbD i)]
        [vecRange s p 0 d 1, vecRange s p 1 a 1] [checkDst s p m d 1 ok (some v.tag), checkTags p ok [portSource 1 q v] none]
        [dstStream s p d, srcStream s p 1 a] [] (lanesRes s m v.tag ((lanesOf v.tag.width v.bytes).map (f v.tag)) 0 lat) := by
  have htag : tagOf [portSource 1 q v] = v.tag := rfl
  have href : refTag [portSource 1 q v] = some v.tag := rfl
  simp only [vec1, ha, htag, href, hok, if_true, maskOf_quiet p m.k hr, List.map_cons, List.map_nil, underMask_portSource]
  rfl

/-! ### The end of a bundle that pops -/

/-- Flags meet nothing in flight. -/
theorem land_flags (ctr site : Nat) (c : Ctx) (f : Flags) (lat : Nat) : c.land ctr site (.flags f) lat = c.flying (.flags f) lat :=
  land_apart _ _ _ _ _ fun q _ => flags_overlaps q.dst f

/-- The result of a slot on its way to a register: tags at issue, bytes and flags in flight. -/
def resultFlying (c : Ctx) (addr : Nat) (r : VRes) : Ctx :=
  ({ c with basin := c.basin.setTags addr (256 * r.bytes.length) r.tag }.flying (.vec addr r.bytes.flatten r.sides.flatten) r.lat).flying
    (.flags r.flags) r.lat

/-- A result is delivered to a register where only flags are in flight. -/
theorem deliver_reg {t : State} {d : BitVec 6} {f : Flags} {due : Nat} (p : At) (addr : Nat) (r : VRes) (hd : d.toNat < 60)
    (hpend : t.ctx.pipe.pend = inFlight (.flags f) due) :
    deliver p d addr r t = { t with ctx := resultFlying t.ctx addr r } := by
  simp only [deliver, portOf_reg _ hd, resultFlying, land_flags]
  rw [land_apart _ _ _ _ _ fun q hq => overlaps_of_mem_inFlight_flags _ q (by rw [← hpend]; exact hq)]

/-- The machine after the pop of a vector and the issue of a result, before the bundle ends. -/
def poppedState (s : State) (q : Nat) (v : Popped) (addr : Nat) (r : VRes) : State :=
  let u := s.popReads q v
  { u with ctx := resultFlying ((movedOn u.ctx q v).flying (.flags v.raised) 1) addr r }

theorem vecSlot_apply_source {s : State} {d : BitVec 6} {q : Nat} {v : Popped} (p : At) (nd : Nat)
    (range format stream own : List (Option Stop)) (r : VRes) (hr : s.ready) (hd : d.toNat < 60) (hu : v.unc = none) :
    (vecSlot s p d nd [portSource 1 q v] range format stream own r).apply s = poppedState s q v (s.ctx.vecAddr d.toNat) r := by
  obtain ⟨-, -, -, -, -, -, -, -, -, -, -, -, -, hpipe, -⟩ := State.popReads_frame s q v
  have hpend : (s.popReads q v).ctx.pipe.pend = [] := by rw [hpipe]; exact hr.1
  have hmoved : (movedOn (s.popReads q v).ctx q v).pipe.pend = [] :=
    (movedOn_keeps (fun c => c.pipe.pend) (fun _ _ => rfl) (fun _ _ _ => rfl) _ q v).trans hpend
  simp only [vecSlot, popAll, portSource, List.foldl_cons, List.foldl_nil, popPort_eq _ _ q hu hpend]
  rw [deliver_reg (f := v.raised) (due := (movedOn (s.popReads q v).ctx q v).pipe.bundleNo + 1) p _ r hd
    (by simp [flying_eq, hmoved])]
  rfl

/-- What a slot leaves in flight of its result. -/
def lateResults (s : State) (addr : Nat) (r : VRes) : List Pending :=
  inFlight (.vec addr r.bytes.flatten r.sides.flatten) (s.ctx.pipe.bundleNo + r.lat) ++
    inFlight (.flags r.flags) (s.ctx.pipe.bundleNo + r.lat)

theorem poppedState_pipe (s : State) (q : Nat) (v : Popped) (addr : Nat) (r : VRes) (hr : s.ready) :
    (poppedState s q v addr r).ctx.pipe.pend = inFlight (.flags v.raised) (s.ctx.pipe.bundleNo + 1) ++ lateResults s addr r ∧
      (poppedState s q v addr r).ctx.pipe.bundleNo = s.ctx.pipe.bundleNo := by
  obtain ⟨-, -, -, -, -, -, -, -, -, -, -, -, -, hpipe, -⟩ := State.popReads_frame s q v
  have hmoved : (movedOn (s.popReads q v).ctx q v).pipe = s.ctx.pipe :=
    (movedOn_keeps Ctx.pipe (fun _ _ => rfl) (fun _ _ _ => rfl) _ q v).trans hpipe
  simp only [poppedState, resultFlying, flying_eq, hmoved, hr.1, lateResults, List.nil_append, List.append_assoc, and_self]

theorem lateResults_due {s : State} {addr : Nat} {r : VRes} (hl : 1 < r.lat) :
    ∀ p ∈ lateResults s addr r, s.ctx.pipe.bundleNo + 1 < p.due := by
  intro p hp
  have hdue : p.due = s.ctx.pipe.bundleNo + r.lat := (List.mem_append.mp hp).elim (due_of_mem_inFlight p) (due_of_mem_inFlight p)
  omega

/-- A slot that pops one vector and whose checks pass: its port has moved on, the flags of the chain are raised, and its result is in
flight. -/
theorem issueOne_source {s : State} {i : Instr} {sem : State → At → SlotSem} {d : BitVec 6} {q : Nat} {v : Popped} {r : VRes}
    {range format stream own : List (Option Stop)} (hr : s.ready) (hd : d.toNat < 60) (hl : 1 < r.lat)
    (hs : sem s (alone s i) = vecSlot s (alone s i) d 1 [portSource 1 q v] range format stream own r) (hready : v.ready = true)
    (hstop : v.stop = none) (hu : v.unc = none) (hchecks : ∀ o ∈ range ++ format ++ stream ++ own, o = none) :
    ∃ t, issueOne s i sem = .next t ∧ t.ctx.port q = (movedOn (s.popReads q v).ctx q v).port q ∧
      t.ctx.tr = (movedOn (s.popReads q v).ctx q v).tr ∧
      t.ctx.ctl.fflags = s.ctx.ctl.fflags ||| ((0 : BitVec 59) ++ v.raised) ∧ t.ctx.regs = { s.ctx.regs with pc := s.nb i } ∧
      t.mem = (s.popReads q v).mem ∧ t.ctx.pipe.pend = lateResults s (s.ctx.vecAddr d.toNat) r := by
  obtain ⟨-, -, -, -, -, -, -, -, -, hregs, hctl, htr, -, -, -⟩ := State.popReads_frame s q v
  obtain ⟨hpend, hno⟩ := poppedState_pipe s q v (s.ctx.vecAddr d.toNat) r hr
  obtain ⟨hloop0, hloop1⟩ := lend_movedOn (s.popReads q v).ctx q v
  have hstops : firstStop (range ++ format ++ stream ++ own ++ [portSource 1 q v].map popStop) = none :=
    firstStop_none _ fun o ho => (List.mem_append.mp ho).elim (hchecks o) fun ho => by
      simpa [popStop, portSource, hstop] using ho
  have hissue : issueBundle s [(0, sem s (alone s i))] s.ctx.regs.pc (s.nb i) =
      commit s [(0, sem s (alone s i))] s.ctx.regs.pc (s.nb i) := by
    rw [hs]
    refine issueBundle_one _ _ _ _ ?_ ?_ rfl rfl
    · simp [vecSlot, portSource, hready, dstBusy_of_reg _ _ hr hd]
    · simp only [vecSlot, hstops, pushStop, portOf_reg _ hd, Option.or_none]
  have hcommit := commit_flags (x := sem s (alone s i)) (f := v.raised) (late := lateResults s (s.ctx.vecAddr d.toNat) r) (s.nb i)
    hr.2.2 ((congrArg (fun x => x.apply s) hs).trans (vecSlot_apply_source _ _ _ _ _ _ r hr hd hu)) (congrArg SlotSem.transfer hs)
    (congrArg SlotSem.ends hs) (by simp only [poppedState, resultFlying, flying_eq, hloop0, htr])
    (by simp only [poppedState, resultFlying, flying_eq, hloop1, htr]) (by rw [hpend, hno]) (by rw [hno]; exact lateResults_due hl)
  refine ⟨_, congrArg Host.Outcome.next (hissue.trans hcommit), ?_, ?_, ?_, ?_, rfl, rfl⟩
  · simp only [State.finished, poppedState, resultFlying, flying_eq]
    rfl
  · simp only [State.finished, poppedState, resultFlying, flying_eq]
  · simp only [State.finished, poppedState, resultFlying, flying_eq]
    rw [movedOn_keeps Ctx.ctl (fun _ _ => rfl) (fun _ _ _ => rfl), hctl]
  · simp only [State.finished, poppedState, resultFlying, flying_eq]
    rw [movedOn_keeps Ctx.regs (fun _ _ => rfl) (fun _ _ _ => rfl), hregs]

end Sys2Proof.VectorData
end

section
/-! Stream ports in one-source operations (R148, R179, R183 to R185): a source port as the operand, and a sink port as the destination. -/

namespace Sys2Proof.VectorData

open Sys2Proof Sys2Proof.Machine Sys2Proof.Claims Sys2Proof.ScalarControl Sys2Proof.Conversions Sys2Proof.VectorArithmetic

/-! ### A source port as the operand -/

theorem lateResults_lanesRes (s : State) (m : VMask) (d : BitVec 6) (t : Fmt) (rs : List Elem) (lat : Nat) (hr : s.ready) :
    lateResults s (s.ctx.vecAddr d.toNat) (lanesRes s m t rs 0 lat) = (maskedResult s m d t rs 0 lat).pipe.pend := by
  simp [lateResults, maskedResult, vresult, flying_eq, lanesRes, plainRes, hr.1]

/-- A one-source operation on a source port takes the vector at its head. -/
theorem issueOne_vec1_source {s : State} {m : VMask} {d a : BitVec 6} {ok : Fmt → Bool} {q lat : Nat} (f : Fmt → Nat → Elem)
    (i : Instr) (hr : s.ready) (hl : 1 < lat) (ha : portOf a = some q) (hst : (s.ctx.port q).st = .source)
    (v : Popped) (hv : popVec s ((alone s i).site 1 + 2 ^ 16) q 0 = v) (hready : v.ready = true) (hstop : v.stop = none)
    (hu : v.unc = none) (hok : ok v.tag = true) (hd : vdstOk s m d v.tag) :
    let v' := v.under fun j => (s.ctx.regs.getK m.k).getLsbD j
    ∃ t, issueOne s i (vec1 ok lat lanewise (perLane f) m d a) = .next t ∧
      t.ctx.port q = (movedOn (s.popReads q v').ctx q v').port q ∧
      t.ctx.tr = (movedOn (s.popReads q v').ctx q v').tr ∧
      t.ctx.ctl.fflags = s.ctx.ctl.fflags ||| ((0 : BitVec 59) ++ activeFlags (s.ctx.regs.getK m.k) v.flags) ∧
      t.ctx.regs = { s.ctx.regs with pc := s.nb i } ∧ t.mem = (s.popReads q v').mem ∧
      t.ctx.pipe.pend = (maskedResult s m d v.tag ((lanesOf v.tag.width v.bytes).map (f v.tag)) 0 lat).pipe.pend := by
  intro v'
  have hsrc : vecSrc s (alone s i) 1 a 0 [] = portSource 1 q v := by rw [vecSrc_source i ha hst, hv]
  have htags : checkTags (alone s i) ok [portSource 1 q v] none = none :=
    checkTags_of_tag _ hok [portSource 1 q v] (by simp [portSource]) none (.inl rfl)
  obtain ⟨t, hissue, hport, htr, hflags, hregs, hmem, hpend⟩ := issueOne_source (i := i) (q := q) (v := v')
    (sem := vec1 ok lat lanewise (perLane f) m d a) hr hd.1.1 (by exact hl) (vec1_source lat f _ hr hsrc hok) hready hstop hu
    (by simp [vecRange_of_vregOk _ _ hd.1, vecRange_of_port _ _ _ ha, checkDst_masked _ ok hd, htags, dstStream_reg _ _ _ hd.1.1,
      srcStream, ha, hst])
  exact ⟨t, hissue, hport, htr, hflags.trans (by rw [raised_under]), hregs, hmem, hpend.trans (lateResults_lanesRes s m d _ _ _ hr)⟩

/-- What a pop leaves of its port and of the machine: the port has moved on, or QENDn is set. -/
theorem popped_port {s : State} {q : Nat} (v : Popped) (hq : q < 4) :
    streamPlace ((movedOn (s.popReads q v).ctx q v).port q) = ((s.ctx.port q).st, (s.ctx.port q).chain, (s.ctx.port q).tmpl,
      (s.ctx.port q).pos + (if v.past then 0 else v.tag.lanes)) := by
  have hplace := streamPlace_popReads s q v q
  simp only [streamPlace, Prod.mk.injEq] at hplace
  obtain ⟨hst, hchain, htmpl, hpos⟩ := hplace
  rw [port_movedOn _ v hq]
  split <;> simp [streamPlace, hst, hchain, htmpl, hpos]

/-! ### A sink port as the destination -/

/-- A vector pushed: the port takes it, or QENDn is set past its end (R185). -/
def pushedInto (c : Ctx) (q : Nat) (u : Pushed) : Ctx :=
  if u.past then c.setQend q
  else c.setPort q { c.port q with
    pos := (c.port q).pos + u.count
    part := u.part
    keys := u.keys
    buf := if u.writes.isEmpty then (c.port q).buf else (c.port q).buf ++ [u.writes] }

theorem pushPort_eq (ctr site : Nat) (c : Ctx) (q : Nat) (u : Pushed) (lat : Nat) :
    c.pushPort ctr site q u lat = (pushedInto c q u).flying (.flags u.flags) lat := land_flags ..

/-- What a push leaves as it is. -/
theorem pushedInto_keeps {γ : Type} (g : Ctx → γ) (hq : ∀ c q, g (c.setQend q) = g c) (hp : ∀ c q p, g (c.setPort q p) = g c)
    (c : Ctx) (q : Nat) (u : Pushed) : g (pushedInto c q u) = g c := by
  unfold pushedInto
  split
  · exact hq c q
  · exact hp c q _

theorem tstat_pushedInto (c : Ctx) (q : Nat) (u : Pushed) :
    (pushedInto c q u).tr.tstat = if u.past then c.tr.tstat ||| BitVec.ofNat 64 (2 ^ (4 + q)) else c.tr.tstat := by
  unfold pushedInto
  split <;> rfl

theorem port_pushedInto (c : Ctx) {q : Nat} (u : Pushed) (hq : q < 4) :
    (pushedInto c q u).port q = if u.past then c.port q else
      { c.port q with
        pos := (c.port q).pos + u.count
        part := u.part
        keys := u.keys
        buf := if u.writes.isEmpty then (c.port q).buf else (c.port q).buf ++ [u.writes] } := by
  unfold pushedInto
  split
  · rfl
  · exact port_setPort_same c _ hq

/-- The lanes that a masked result hands to a port: +0 where inactive. -/
def pushedLanes (s : State) (m : VMask) (rs : List Elem) : List Nat :=
  rs.zipIdx.map fun x => if (s.ctx.regs.getK m.k).getLsbD x.2 then x.1.1 else 0

/-- A masked result delivered to a port. -/
theorem deliver_port {s : State} {d : BitVec 6} {q : Nat} (p : At) (addr : Nat) (m : VMask) (t : Fmt) (rs : List Elem) (lat : Nat)
    (hd : portOf d = some q) :
    let u := pushVec s q (pushedLanes s m rs) []
    deliver p d addr (lanesRes s m t rs 0 lat) s = { s with
      ctx := ((pushedInto s.ctx q u).flying (.flags u.flags) lat).flying (.flags (lanesRes s m t rs 0 lat).flags) lat } := by
  simp only [deliver, hd, lanesRes, plainRes, List.isEmpty_nil, if_true, List.foldl_cons, List.foldl_nil, pushPort_eq, land_flags]
  rfl

theorem pushStop_port {s : State} {d : BitVec 6} {q : Nat} (p : At) (m : VMask) (t : Fmt) (rs : List Elem) (lat : Nat)
    (hd : portOf d = some q) : pushStop s p d (lanesRes s m t rs 0 lat) = (pushVec s q (pushedLanes s m rs) []).stop := by
  simp only [pushStop, hd, lanesRes, plainRes, List.isEmpty_nil, if_true, List.foldl_cons, List.foldl_nil, Option.none_or]
  rfl

/-- The destination check passes for a pushed tag that is the port's input format (R185). -/
theorem checkDst_port {s : State} {d : BitVec 6} {q : Nat} (p : At) (m : VMask) (ok : Fmt → Bool) {t : Fmt} (hd : portOf d = some q)
    (ht : (s.ctx.port q).fmt = t) : checkDst s p m d 1 ok (some t) = none := by
  simp [checkDst, hd, ht]

/-- A sink with a template and room for one more vector takes it at once. -/
theorem dstBusy_port {s : State} {d : BitVec 6} {q : Nat} (hd : portOf d = some q) (ht : (s.ctx.port q).tmpl.isSome = true)
    (hroom : (s.ctx.port q).held + 1 ≤ 8) : dstBusy s d 1 1 = false := by
  have hnone : (s.ctx.port q).tmpl.isNone = false := by simpa [Option.isSome_iff_ne_none] using ht
  have hfull : ¬8 < (s.ctx.port q).held + 1 := Nat.not_lt.mpr hroom
  simp only [dstBusy, hd, hnone, hfull, decide_false, Bool.or_self, Bool.and_false]

/-- A one-source operation into a sink port: the port has the lanes of its result, and flags are in flight. -/
theorem issueOne_vec1_sink {s : State} {m : VMask} {d a : BitVec 6} {ok : Fmt → Bool} {q lat : Nat} (f : Fmt → Nat → Elem) (i : Instr)
    (hr : s.ready) (hl : 1 < lat) (hd : portOf d = some q) (hst : (s.ctx.port q).st = .sink) (ha : vsrcOk s a)
    (hok : ok (vtag s a) = true) (hfmt : (s.ctx.port q).fmt = vtag s a) (htmpl : (s.ctx.port q).tmpl.isSome = true)
    (hroom : (s.ctx.port q).held + 1 ≤ 8) (u : Pushed)
    (hu : pushVec s q (pushedLanes s m ((vlanes s a (vtag s a)).map (f (vtag s a)))) [] = u) (hstop : u.stop = none) :
    ∃ c, issueOne s i (vec1 ok lat lanewise (perLane f) m d a) = .next (s.finished c (s.nb i)) ∧
      c.port q = (pushedInto s.ctx q u).port q ∧ c.tr = (pushedInto s.ctx q u).tr ∧ c.basin = s.ctx.basin ∧ c.regs = s.ctx.regs := by
  have hsem := vec1_reg (m := m) (d := d) lat lanewise (perLane f) (alone s i) hr ha hok
  have hchecks : firstStop ([vecRange s (alone s i) 0 d 1, vecRange s (alone s i) 1 a 1] ++
      [checkDst s (alone s i) m d 1 ok (some (vtag s a)), checkTags (alone s i) ok [runSource s 1 a 0] none] ++
      [dstStream s (alone s i) d, srcStream s (alone s i) 1 a] ++ [] ++ [runSource s 1 a 0].map popStop) = none := by
    refine firstStop_none _ ?_
    simp [vecRange_of_port _ _ _ hd, vecRange_of_vregOk _ _ ha.1, checkDst_port _ m ok hd hfmt,
      checkTags_of_tag _ hok [runSource s 1 a 0] (by simp [runSource_tag_eq]) none (.inl rfl), dstStream, hd, hst,
      srcStream_reg _ _ _ _ ha.1.1, popStop, runSource_quiet]
  have happly := deliver_port (s := s) (alone s i) (s.ctx.vecAddr d.toNat) m (vtag s a) ((vlanes s a (vtag s a)).map (f (vtag s a))) lat hd
  simp only [hu] at happly
  have hpop : popAll (alone s i) [runSource s 1 a 0] s = s := popAll_none _ _ _ (by simp [runSource_quiet])
  refine ⟨_, issueOne_later s i _ _ _ hr hsem ?_ ?_ rfl rfl ((congrArg (deliver _ _ _ _) hpop).trans happly) rfl rfl ?_ ?_ ?_ ?_,
    ?_, ?_, ?_, ?_⟩
  · simp only [vecSlot, List.any_cons, List.any_nil, runSource_quiet]
    exact dstBusy_port hd htmpl hroom
  · simp only [vecSlot, hchecks, perLane, pushStop_port _ _ _ _ _ hd, hu, hstop, Option.or_none]
  · simp only [flying_tr]
    exact ⟨pushedInto_keeps (fun c => c.tr.lend0) (fun _ _ => rfl) (fun _ _ _ => rfl) _ _ _,
      pushedInto_keeps (fun c => c.tr.lend1) (fun _ _ => rfl) (fun _ _ _ => rfl) _ _ _⟩
  · simp only [flying_ctl, pushedInto_keeps Ctx.ctl (fun _ _ => rfl) (fun _ _ _ => rfl)]
  · simp only [flying_no, pushedInto_keeps Ctx.pipe (fun _ _ => rfl) (fun _ _ _ => rfl)]
  · have hpipe := pushedInto_keeps Ctx.pipe (fun _ _ => rfl) (fun _ _ _ => rfl) s.ctx q u
    refine flying_due _ _ _ _ (flying_due _ _ _ _ (by simp [hpipe, hr.1]) ?_) ?_
    · rw [hpipe]; omega
    · rw [flying_no, hpipe]; omega
  · simp only [flying_eq]
    rfl
  · simp only [flying_tr]
  · simp only [flying_eq, pushedInto_keeps Ctx.basin (fun _ _ => rfl) (fun _ _ _ => rfl)]
  · simp only [flying_eq, pushedInto_keeps Ctx.regs (fun _ _ => rfl) (fun _ _ _ => rfl)]

/-- Settles O20: a source port is an operand whose pop lands with the bundle, a sink port a destination that takes the lanes. -/
theorem portsFeedAndTake : Obligations.PortsFeedAndTake := by
  intro row hrow s m q hq hr
  have hport := portOf_port hq
  have hl := latency_vec1Rows row hrow
  constructor
  · intro d hst a i v hready hstop hunc hok hd
    obtain ⟨t, hissue, hp, htr, hflags, hregs, hmem, hpend⟩ :=
      issueOne_vec1_source row.2.2.2 i hr hl hport hst v rfl hready hstop hunc hok hd
    obtain ⟨-, -, -, -, -, -, -, hg, hc, -, -, htr', -, -, -⟩ :=
      State.popReads_frame s q (v.under fun j => (s.ctx.regs.getK m.k).getLsbD j)
    have hplace := popped_port (s := s) (v.under fun j => (s.ctx.regs.getK m.k).getLsbD j) hq
    rw [← hp] at hplace
    simp only [streamPlace, Prod.mk.injEq] at hplace
    obtain ⟨hst', hchain, htmpl, hpos⟩ := hplace
    refine ⟨t, (exec_vec1Row row hrow ..).trans hissue, hst'.trans hst, hchain, htmpl, hpos, fun ht hf hln => ?_, ?_, hflags, hregs,
      by rw [hmem, hg], by rw [hmem, hc], hpend⟩
    · have hsame : s.popReads q (v.under fun j => (s.ctx.regs.getK m.k).getLsbD j) = s := popReads_nothing s q ht hf hln
      rw [hsame] at hp hmem
      exact ⟨hmem, hp.trans (port_movedOn _ _ hq)⟩
    · rw [htr, tstat_movedOn, htr']
      rfl
  · intro a ha hst d t i rs mask p u hok hfmt htmpl hroom hstop
    obtain ⟨c, hissue, hp, htr, hbasin, hregs⟩ := issueOne_vec1_sink row.2.2.2 i hr hl hport hst ha hok hfmt htmpl hroom u rfl hstop
    refine ⟨_, (exec_vec1Row row hrow ..).trans hissue, hp.trans (port_pushedInto _ u hq), ?_, hbasin, ?_, rfl⟩
    · exact (congrArg TrapRegs.tstat htr).trans (tstat_pushedInto ..)
    · simp only [State.finished, hregs]

end Sys2Proof.VectorData
end

section
/-! STRM and STRM.CL at issue (R179, R284): a bound port is closed, the instruction enters its queue, and the port changes. -/

namespace Sys2Proof.VectorData

open Sys2Proof Sys2Proof.Machine Sys2Proof.Claims Sys2Proof.Preemption

/-! ### What closing a port leaves (R185, R284) -/

/-- Entries made READY change the tile table and the fabric (R244). -/
theorem tilesReady_eq (es : List Nat) (s : State) :
    ∃ tiles fab, s.tilesReady es = { s with ctx := { s.ctx with eng := { s.ctx.eng with tiles := tiles } }, fab := fab } := by
  have one (s : State) (e : Nat) :
      ∃ tiles fab, s.tileReady e = { s with ctx := { s.ctx with eng := { s.ctx.eng with tiles := tiles } }, fab := fab } := by
    unfold State.tileReady
    dsimp only
    split <;> exact ⟨_, _, rfl⟩
  induction es generalizing s with
  | nil => exact ⟨_, _, rfl⟩
  | cons e es ih =>
    obtain ⟨tiles, fab, h⟩ := one s e
    obtain ⟨tiles', fab', h'⟩ := ih (s.tileReady e)
    exact ⟨tiles', fab', by rw [State.tilesReady, List.foldl_cons, ← State.tilesReady, h', h]⟩

/-- A port that is no sink keeps nothing to store. -/
theorem closePort_of_ne_sink {s : State} {q : Nat} (o : EngOp) (h : (s.ctx.port q).st ≠ .sink) : closePort s q o = (s, o) :=
  if_neg (by simpa using h)

/-- What closing a port may change: started instructions, the tile table, the fabric, and the refusals of the host. -/
def closedFrom (s t : State) : Prop :=
  ∃ started tiles fab refused, t = { s with
    ctx := { s.ctx with eng := { s.ctx.eng with started := started, tiles := tiles } }
    fab := fab
    mem := { s.mem with refused := refused } }

theorem closedFrom_refl (s : State) : closedFrom s s := ⟨_, _, _, _, rfl⟩

theorem closedFrom_trans {s t u : State} (h : closedFrom s t) (h' : closedFrom t u) : closedFrom s u := by
  obtain ⟨started, tiles, fab, refused, rfl⟩ := h
  obtain ⟨started', tiles', fab', refused', rfl⟩ := h'
  exact ⟨_, _, _, _, rfl⟩

theorem queue_of_closedFrom {s t : State} (h : closedFrom s t) : ∀ n, t.ctx.eng.queue n = s.ctx.eng.queue n := by
  obtain ⟨started, tiles, fab, refused, rfl⟩ := h
  exact fun | 0 | 1 | _ + 2 => rfl

theorem closedFrom_sinkFilled (s : State) (o : EngOp) : closedFrom s (sinkFilled s o) := by
  obtain ⟨tiles, fab, h⟩ := tilesReady_eq o.held s
  rw [sinkFilled, h]
  exact ⟨_, _, _, _, rfl⟩

theorem closedFrom_closePort (s : State) (q : Nat) (o : EngOp) : closedFrom s (closePort s q o).1 := by
  have filled (x : Option EngOp) (t : State) : closedFrom t ((x.map (sinkFilled t)).getD t) := by
    cases x with
    | none => exact closedFrom_refl t
    | some x => exact closedFrom_sinkFilled t x
  by_cases h : (s.ctx.port q).st = .sink
  · simp only [closePort, h, beq_self_eq_true, if_true]
    exact closedFrom_trans ⟨_, _, _, _, rfl⟩ (filled _ _)
  · rw [closePort_of_ne_sink o h]
    exact closedFrom_refl s

/-- The closing instruction stays what it is. -/
theorem closePort_op (s : State) (q : Nat) (o : EngOp) :
    (closePort s q o).2.instr = o.instr ∧ (closePort s q o).2.eng = o.eng := by
  by_cases h : (s.ctx.port q).st = .sink
  · simp only [closePort, h, beq_self_eq_true, if_true, and_self]
  · simp [closePort_of_ne_sink o h]

/-! ### What entering a queue leaves (R17, R53) -/

theorem setQueue_ports (e : Engines) (n : Nat) (q : List EngOp) : (e.setQueue n q).ports = e.ports := by
  unfold Engines.setQueue
  split <;> rfl

theorem queue_mapOps (e : Engines) (f : EngOp → EngOp) : ∀ n, (e.mapOps f).queue n = (e.queue n).map f
  | 0 | 1 | _ + 2 => rfl

/-- Bytes that change under queued instructions change none of these. -/
theorem queue_unsettle_instr (e : Engines) (rs : List (Bool × Nat × Nat)) (n : Nat) :
    ((e.unsettle rs).queue n).map EngOp.instr = (e.queue n).map EngOp.instr := by
  simp only [Engines.unsettle, queue_mapOps, List.map_map]
  exact List.map_congr_left fun o _ => by simp [apply_ite EngOp.instr]

theorem queue_newInstance (c : Ctx) (k : Nat) : ∀ n, (c.newInstance k).2.eng.queue n = c.eng.queue n
  | 0 | 1 | _ + 2 => rfl

/-- An instruction without a scalar result enters its queue last. -/
theorem enqueue_eq (p : At) (g : EGuard) (o : EngOp) (s : State) :
    ∃ e, enqueue p g o none s =
        { s with ctx := { s.ctx with pipe := { s.ctx.pipe with nextId := s.ctx.pipe.nextId + 1 }, eng := e } } ∧
      e.ports = s.ctx.eng.ports ∧ (e.queue o.eng).map EngOp.instr = (s.ctx.eng.queue o.eng).map EngOp.instr ++ [o.instr] := by
  unfold enqueue
  cases producesTok g <;> dsimp only <;> split <;>
    exact ⟨_, rfl, setQueue_ports _ _ _, by
      simp only [queue_setQueue_same, List.map_append, List.map_singleton, queue_unsettle_instr, queue_newInstance]⟩

/-! ### STRM and STRM.CL as slots -/

/-- A port closed, an instruction queued, and the port changed to what `P` makes of that state. -/
def portChanged (s : State) (p : At) (g : EGuard) (q : Nat) (o : EngOp) (P : State → Port) : State :=
  let c := closePort s q o
  let u := enqueue p g c.2 none c.1
  { u with ctx := u.ctx.setPort q (P u) }

theorem queue_setPort (c : Ctx) (q : Nat) (p : Port) : ∀ n, (c.setPort q p).eng.queue n = c.eng.queue n
  | 0 | 1 | _ + 2 => rfl

/-- A change of a port changes the engines, the fabric and the refusals of the host. -/
theorem portChanged_eq (s : State) (p : At) (g : EGuard) {q : Nat} (o : EngOp) (P : State → Port) :
    ∃ e u fab refused, portChanged s p g q o P = { s with
        ctx := Ctx.setPort { s.ctx with pipe := { s.ctx.pipe with nextId := s.ctx.pipe.nextId + 1 }, eng := e } q (P u)
        fab := fab
        mem := { s.mem with refused := refused } } ∧
      e.ports = s.ctx.eng.ports ∧ (e.queue o.eng).map EngOp.instr = (s.ctx.eng.queue o.eng).map EngOp.instr ++ [o.instr] ∧
      ((s.ctx.port q).st ≠ .sink → { s.mem with refused := refused } = s.mem) := by
  obtain ⟨started, tiles, fab, refused, hclosed⟩ := closedFrom_closePort s q o
  obtain ⟨hinstr, heng⟩ := closePort_op s q o
  obtain ⟨e, hqueued, hports, hqueue⟩ := enqueue_eq p g (closePort s q o).2 (closePort s q o).1
  have hmem : (s.ctx.port q).st ≠ .sink → (closePort s q o).1.mem = s.mem := fun h => by rw [closePort_of_ne_sink o h]
  rw [hinstr, heng, queue_of_closedFrom (closedFrom_closePort s q o)] at hqueue
  rw [hclosed] at hports hmem
  refine ⟨e, enqueue p g (closePort s q o).2 none (closePort s q o).1, fab, refused, ?_, hports, hqueue, hmem⟩
  simp only [portChanged]
  rw [hqueued, hclosed]

/-- The bundle of a slot that enters a queue with room, and neither stalls nor stops. -/
theorem issueBundle_engine {s : State} {x : SlotSem} {eng : Nat} (ba nb : W64) (hst : x.stall = false) (hsp : x.stop = none)
    (hq : x.enq = some eng) (hroom : (s.ctx.eng.queue eng).length < 16) (ho : x.offcore = false) :
    issueBundle s [(0, x)] ba nb = commit s [(0, x)] ba nb := by
  simp [issueBundle, stalls, hst, queueFull_room s x eng hq hroom, accessFull, ho, bundleStop, firstSlotStop, hsp, firstCollision,
    collisionFrom]

/-- A slot that would enter a queue with room takes its stop instead. -/
theorem issueOne_stop_engine {s : State} {i : Instr} {sem : State → At → SlotSem} {st : Stop} {eng : Nat}
    (hst : (sem s (alone s i)).stall = false) (hsp : (sem s (alone s i)).stop = some st) (hq : (sem s (alone s i)).enq = some eng)
    (hroom : (s.ctx.eng.queue eng).length < 16) (ho : (sem s (alone s i)).offcore = false) :
    issueOne s i sem = .next (takeStop s st s.ctx.regs.pc (s.nb i)).spend.tick := by
  simp [issueOne, issueBundle, stalls, hst, queueFull_room s _ eng hq hroom, accessFull, ho, bundleStop, firstSlotStop, hsp]
  rfl

/-- A slot under the guard `g` that closes port q, queues `o` and changes the port by `P`, unless the closing stops it. -/
structure PortSlot (s : State) (p : At) (g : EGuard) (q : Nat) (o : EngOp) (P : State → Port) (x : SlotSem) : Prop where
  stall : x.stall = false
  stop : x.stop = closeStop s q
  enq : x.enq = some o.eng
  offcore : x.offcore = false
  transfer : x.transfer = none
  ends : x.ends = false
  apply : x.apply s = portChanged s p g q o P

theorem portSlot_strm {s : State} {g : EGuard} (r : BitVec 2) (a : BitVec 6) (x : BitVec 4) (hr : s.ready) (hg : eGuard s g = true) :
    let i := Instr.strm g r a x
    ∃ o, o.instr = i ∧ o.eng = firstCopyEngine s ∧ PortSlot s (alone s i) g r.toNat o
      (fun u => boundPort s u (alone s i) (s.ctx.regs.getS a) s.ctx.pipe.nextId) (semStrm g r a x s (alone s i)) := by
  intro i
  have hbusy : engBusy s [a] none = false := engBusy_quiet s _ _ hr.2.1
  have hword : readS s ((alone s i).site 1) a = s.ctx.regs.getS a := readS_quiet _ _ _ hr.1
  let o : EngOp := { opOf s (alone s i) i (cEngine s (alone s i)) g with sa := s.ctx.regs.getS a }
  refine ⟨{ o with wr := sinkRuns s.ctx x o }, rfl, rfl, ?_⟩
  simp only [semStrm, engSlot, hg, hbusy, hword, Bool.not_true, Bool.false_eq_true, if_false]
  exact ⟨rfl, by cases h : closeStop s r.toNat <;> simp [firstStop], rfl, rfl, rfl, rfl, rfl⟩

theorem portSlot_strmCl {s : State} {g : EGuard} (r : BitVec 2) (hr : s.ready) (hg : eGuard s g = true) :
    let i := Instr.strmCl g r
    ∃ o, o.instr = i ∧ o.eng = firstCopyEngine s ∧
      PortSlot s (alone s i) g r.toNat o (fun _ => Port.start) (semStrmCl g r s (alone s i)) := by
  intro i
  have hbusy : engBusy s [] none = false := engBusy_quiet s _ _ hr.2.1
  refine ⟨opOf s (alone s i) i (cEngine s (alone s i)) g, rfl, rfl, ?_⟩
  simp only [semStrmCl, engSlot, hg, hbusy, Bool.not_true, Bool.false_eq_true, if_false]
  exact ⟨rfl, by cases h : closeStop s r.toNat <;> simp [firstStop], rfl, rfl, rfl, rfl, rfl⟩

/-! ### STRM and STRM.CL as instructions -/

section
variable {s : State} {i : Instr} {g : EGuard} {q : Nat} {o : EngOp} {P : State → Port} {sem : State → At → SlotSem}
  (hr : s.ready) (hroom : (s.ctx.eng.queue (firstCopyEngine s)).length < 16) (hi : o.instr = i) (he : o.eng = firstCopyEngine s)
  (hs : PortSlot s (alone s i) g q o P (sem s (alone s i)))
include hroom he hs

/-- A closing whose padding stops takes that stop. -/
theorem issueOne_closeStop {st : Stop} (hst : closeStop s q = some st) :
    issueOne s i sem = .next (takeStop s st s.ctx.regs.pc (s.nb i)).spend.tick :=
  issueOne_stop_engine hs.stall (hs.stop.trans hst) hs.enq (he ▸ hroom) hs.offcore

include hr hi

/-- A closing that completes changes the port and queues the instruction; the other ports, the basin and memory stay, and the memory
system too where no sink is closed. -/
theorem issueOne_portChanged (hq : q < 4) (hst : closeStop s q = none) :
    ∃ t, issueOne s i sem = .next t ∧ (∃ u, t.ctx.port q = P u) ∧ (∀ r, r < 4 → r ≠ q → t.ctx.port r = s.ctx.port r) ∧
      (t.ctx.eng.queue (firstCopyEngine s)).map EngOp.instr =
        (s.ctx.eng.queue (firstCopyEngine s)).map EngOp.instr ++ [i] ∧
      t.ctx.basin = s.ctx.basin ∧ t.ctx.regs = { s.ctx.regs with pc := s.nb i } ∧
      t.mem.gmem = s.mem.gmem ∧ t.mem.cistern = s.mem.cistern ∧ ((s.ctx.port q).st ≠ .sink → t.mem = s.mem) := by
  obtain ⟨e, u, fab, refused, heq, hports, hqueue, hmem⟩ := portChanged_eq s (alone s i) g (q := q) o P
  have happly := hs.apply.trans heq
  have hcommit := commit_quiet (s.nb i) hr.2.2 happly hs.transfer hs.ends rfl hr.1
  have hissue := issueBundle_engine (eng := o.eng) s.ctx.regs.pc (s.nb i) hs.stall (hs.stop.trans hst) hs.enq (he ▸ hroom) hs.offcore
  refine ⟨_, congrArg Host.Outcome.next (hissue.trans hcommit), ⟨u, port_setPort_same _ _ hq⟩, fun r _ hne => ?_, ?_, rfl, rfl, rfl,
    rfl, hmem⟩
  · refine (port_setPort_ne _ _ hne).trans ?_
    rw [Ctx.port, hports]
    rfl
  · rw [← he, ← hi, ← hqueue]
    exact congrArg _ (queue_setPort { s.ctx with eng := e } q (P u) o.eng)

end

/-- The port that STRM binds is a source or a sink as the chain word says, and unbound where that breaks R180 or R181. -/
theorem boundPort_st (s u : State) (p : At) (word : W64) (id : Nat) :
    (boundPort s u p word id).st = (match chainFormats word with
      | none => .unbound
      | some _ => if chDir word == 0 then .source else .sink) := by
  unfold boundPort
  cases chainFormats word <;> rfl

theorem streamPortsChangeAtIssue : StreamPortsChangeAtIssue := by
  intro s g r a x ⟨hr, hg, hroom⟩
  obtain ⟨o, hi, he, hs⟩ := portSlot_strm r a x hr hg
  obtain ⟨o', hi', he', hs'⟩ := portSlot_strmCl r hr hg
  constructor
  · simp only [List.forall_mem_cons]
    exact ⟨⟨fun pg h => issueOne_closeStop hroom he hs h, fun h => issueOne_closeStop hroom he hs h⟩,
      ⟨fun pg h => issueOne_closeStop hroom he' hs' h, fun h => issueOne_closeStop hroom he' hs' h⟩, by simp⟩
  · intro hst
    obtain ⟨t, hissue, ⟨u, hport⟩, hrest⟩ := issueOne_portChanged hr hroom hi he hs r.isLt hst
    obtain ⟨t', hissue', ⟨u', hport'⟩, hrest'⟩ := issueOne_portChanged hr hroom hi' he' hs' r.isLt hst
    exact ⟨⟨t, hissue, by rw [hport]; exact boundPort_st .., hrest⟩, t', hissue', hport', hrest'⟩

end Sys2Proof.VectorData
end

section
/-! SWP.SV and TOK.CL, which act at issue (R224, R293), and O32. -/

namespace Sys2Proof.VectorData

open Sys2Proof Sys2Proof.Machine Sys2Proof.Claims Sys2Proof.Preemption Sys2Proof.CascadeRuns

/-- A token after one of the tokens is set. -/
theorem token_setToken (c : Ctx) (k : Nat) (x : Token) {n : Nat} (hn : n < 16) :
    (c.setToken k x).token n = if n = k then x else c.token n := by
  by_cases h : n = k
  · subst h
    simp [Ctx.token, Ctx.setToken, hn]
  · simp [Ctx.token, Ctx.setToken, h, Ne.symm h]

/-! ### SWP.SV (R224) -/

/-- What a slot produces of its token, with its count, and the context where that is pending. -/
def producing (g : EGuard) (c : Ctx) : Option (Nat × Nat) × Ctx :=
  match producesTok g with
  | none => (none, c)
  | some n => (some (c.newInstance n.toNat).1, (c.newInstance n.toNat).2)

theorem producing_eq (g : EGuard) (c : Ctx) :
    ∃ tokens, (producing g c).2 = { c with eng := { c.eng with tokens := tokens } } := by
  unfold producing
  cases producesTok g <;> exact ⟨_, rfl⟩

/-- Bytes written to the scratchpad change the basin and what ports see. -/
theorem putSpad_eq (c : Ctx) (a : Nat) (bs : List (Option Byte)) :
    ∃ basin ports, c.putSpad a bs = { c with basin := basin, eng := { c.eng with ports := ports } } ∧
      basin.spad = c.basin.spad.write a bs := ⟨_, _, rfl, rfl⟩

/-- The context after SWP.SV with no sweep to interrupt: 64 zero bytes, and its token done. -/
def zeroSaved (g : EGuard) (a : Nat) (c : Ctx) : Ctx :=
  ((producing g c).2.putSpad a ((leBytes 64 0).map some)).finishToken (producing g c).1 0

/-- It changes the scratchpad, tokens, and what ports see. -/
theorem zeroSaved_eq (g : EGuard) (a : Nat) (c : Ctx) :
    ∃ basin ports tokens gone, zeroSaved g a c =
        { c with basin := basin, eng := { c.eng with ports := ports, tokens := tokens, withdrawn := gone } } ∧
      basin.spad = c.basin.spad.write a ((leBytes 64 0).map some) := by
  obtain ⟨pending, hp⟩ := producing_eq g c
  obtain ⟨basin, ports, hput, hspad⟩ := putSpad_eq (producing g c).2 a ((leBytes 64 0).map some)
  obtain ⟨tokens, gone, hdone⟩ :=
    finishToken_eq ((producing g c).2.putSpad a ((leBytes 64 0).map some)) (producing g c).1 0
  rw [hp] at hspad
  refine ⟨basin, ports, tokens, gone, ?_, hspad⟩
  rw [zeroSaved, hdone, hput, hp]

/-- The token that it produces is done, its count one more. -/
theorem token_zeroSaved {g : EGuard} {n : BitVec 4} (a : Nat) (c : Ctx) (h : producesTok g = some n) :
    (zeroSaved g a c).token n.toNat = ⟨(c.token n.toNat).inst + 1, true, 0⟩ := by
  have hpending : ((producing g c).2.putSpad a ((leBytes 64 0).map some)).token n.toNat =
      ⟨(c.token n.toNat).inst + 1, false, 0⟩ := by
    simp only [producing, h, Ctx.newInstance]
    exact (token_setToken c _ _ n.isLt).trans (if_pos rfl)
  rw [zeroSaved, token_finishToken _ _ _ n.isLt, hpending, if_pos (by simp [producing, h, Ctx.newInstance])]

/-- With nothing started there is no sweep to interrupt. -/
theorem saveSweep_idle {s : State} (a : Nat) (x : Option (Nat × Nat)) (h : s.ctx.eng.started = []) :
    saveSweep a x s = { s with ctx := (s.ctx.putSpad a ((leBytes 64 0).map some)).finishToken x 0 } := by
  have hnone : interruptible s = none := by simp [interruptible, h]
  have hzero : (0 : BitVec 512).toNat = 0 := BitVec.toNat_zero
  simp only [saveSweep, hnone, hzero]

theorem semSwpSv_apply {s : State} {g : EGuard} {a : BitVec 6} (p : At) (hr : s.ready) (hg : eGuard s g = true)
    (hs : s.ctx.eng.started = []) :
    (semSwpSv g a s p).apply s = { s with ctx := zeroSaved g (s.ctx.regs.getS a).toNat s.ctx } := by
  obtain ⟨tokens, hp⟩ := producing_eq g s.ctx
  have hidle : (producing g s.ctx).2.eng.started = [] := by rw [hp]; exact hs
  simp only [semSwpSv, hg, readS_quiet _ _ _ hr.1, Bool.not_true, Bool.false_eq_true, if_false, SlotSem.effect]
  exact saveSweep_idle (s := { s with ctx := (producing g s.ctx).2 }) _ _ hidle

theorem semSwpSv_stall {s : State} {g : EGuard} {a : BitVec 6} (p : At) (hr : s.ready) (hg : eGuard s g = true)
    (hc : ∀ x ∈ s.ctx.captures g, s.ctx.instDone x = true) : (semSwpSv g a s p).stall = false := by
  have hdone : ((s.ctx.captures g).any fun x => !(s.ctx.instDone x)) = false := by simpa using hc
  simp [semSwpSv, hg, sBusy_quiet _ _ hr.2.1, hdone]

theorem semSwpSv_stop {s : State} {g : EGuard} {a : BitVec 6} (p : At) (hr : s.ready) (hg : eGuard s g = true)
    (hf : imageFits s (s.ctx.regs.getS a) 64 64) : (semSwpSv g a s p).stop = none := by
  simp [semSwpSv, hg, readS_quiet _ _ _ hr.1, imageCheck, spadCheck_inside hf.1 hf.2]

theorem laidAt_replicate (a n x : Nat) (b : Byte) :
    laidAt a (List.replicate n (some b)) x = if a ≤ x ∧ x < a + n then some b else none := by
  rw [laidAt, List.getD_eq_getElem?_getD, List.getElem?_replicate]
  by_cases ha : a ≤ x
  · by_cases hx : x < a + n
    · rw [if_pos ha, if_pos (by omega : x - a < n), if_pos ⟨ha, hx⟩]
      rfl
    · rw [if_pos ha, if_neg (by omega : ¬ x - a < n), if_neg fun h => hx h.2]
      rfl
  · rw [if_neg ha, if_neg fun h => ha h.1]

theorem leBytes_zero (n : Nat) : leBytes n 0 = List.replicate n 0 := by
  simp [leBytes, List.map_const']

theorem swpSvCompletes {s : State} {g : EGuard} {a : BitVec 6} (hr : s.ready) (hg : eGuard s g = true)
    (hc : ∀ x ∈ s.ctx.captures g, s.ctx.instDone x = true) (hf : imageFits s (s.ctx.regs.getS a) 64 64)
    (hs : s.ctx.eng.started = []) :
    exec (.swpSv g a) s = .next (s.finished (zeroSaved g (s.ctx.regs.getS a).toNat s.ctx) (s.nb (.swpSv g a))) := by
  obtain ⟨basin, ports, tokens, gone, heq, -⟩ := zeroSaved_eq g (s.ctx.regs.getS a).toNat s.ctx
  have guarded : (semSwpSv g a s (alone s (.swpSv g a))).enq = none ∧ (semSwpSv g a s (alone s (.swpSv g a))).offcore = false ∧
      (semSwpSv g a s (alone s (.swpSv g a))).transfer = none ∧ (semSwpSv g a s (alone s (.swpSv g a))).ends = false := by
    simp only [semSwpSv, hg, Bool.not_true, Bool.false_eq_true, if_false]
    exact ⟨rfl, rfl, rfl, rfl⟩
  obtain ⟨hq, ho, htr, he⟩ := guarded
  exact issueOne_later s _ (semSwpSv g a) _ _ hr rfl (semSwpSv_stall _ hr hg hc) (semSwpSv_stop _ hr hg hf) hq ho
    (semSwpSv_apply _ hr hg hs) htr he (by rw [heq]; exact ⟨rfl, rfl⟩) (by rw [heq]) (by rw [heq]) (by rw [heq]; simp [hr.1])

/-! ### TOK.CL (R293) -/

theorem eraseDups_of_nodup {xs : List Nat} (h : xs.Nodup) : xs.eraseDups = xs := by
  induction xs with
  | nil => rfl
  | cons x xs ih =>
    obtain ⟨hx, hxs⟩ := List.nodup_cons.1 h
    have hkeep : xs.filter (fun y => !(y == x)) = xs := by
      rw [List.filter_eq_self]
      intro y hy
      simpa using fun e : y = x => hx (e ▸ hy)
    rw [List.eraseDups_cons, hkeep, ih hxs]

theorem maskTokens_nodup (mask : BitVec 16) : (maskTokens mask).Nodup := List.nodup_range.filter _

theorem mem_maskTokens (mask : BitVec 16) {n : Nat} (hn : n < 16) : n ∈ maskTokens mask ↔ mask.getLsbD n = true := by
  simp [maskTokens, hn]

/-- Tokens cleared one after the other. -/
def clearTokens (c : Ctx) (ns : List Nat) : Ctx := ns.foldl (fun c n => c.clearToken n) c

theorem clearTokens_eq (c : Ctx) (ns : List Nat) :
    ∃ tokens, clearTokens c ns = { c with eng := { c.eng with tokens := tokens } } := by
  induction ns generalizing c with
  | nil => exact ⟨_, rfl⟩
  | cons k ns ih =>
    obtain ⟨tokens, h⟩ := ih (c.clearToken k)
    exact ⟨tokens, h⟩

/-- Distinct tokens cleared are each done, with a count one more. -/
theorem token_clearTokens (c : Ctx) {ns : List Nat} (hd : ns.Nodup) {n : Nat} (hn : n < 16) :
    (clearTokens c ns).token n = if n ∈ ns then ⟨(c.token n).inst + 1, true, 0⟩ else c.token n := by
  induction ns generalizing c with
  | nil => rfl
  | cons k ns ih =>
    obtain ⟨hk, hns⟩ := List.nodup_cons.1 hd
    have hstep : (c.clearToken k).token n = if n = k then ⟨(c.token k).inst + 1, true, 0⟩ else c.token n :=
      token_setToken _ _ _ hn
    rw [clearTokens, List.foldl_cons, ← clearTokens, ih _ hns, hstep]
    by_cases h : n = k
    · subst h
      simp [hk]
    · simp [h]

theorem semTokCl_eq {s : State} {g : EGuard} {mask : BitVec 16} (p : At) (hg : eGuard s g = true) (ht : producesTok g = none)
    (hc : ∀ x ∈ s.ctx.captures g, s.ctx.instDone x = true) :
    semTokCl g mask s p = { SlotSem.effect ((maskTokens mask).map fun n => Writer.tok (BitVec.ofNat 4 n))
        (fun u => { u with ctx := clearTokens u.ctx (maskTokens mask) }) with enq := some (cEngine s p) } := by
  have hdone : ((s.ctx.captures g).all fun x => s.ctx.instDone x) = true := by simpa using hc
  have hall : (maskTokens mask ++ ([] : List Nat)).eraseDups = maskTokens mask := by
    rw [List.append_nil, eraseDups_of_nodup (maskTokens_nodup mask)]
  simp only [semTokCl, hg, ht, hdone, Option.toList_none, List.map_nil, hall, Bool.not_true, Bool.false_eq_true, if_false]
  rfl

theorem tokClCompletes {s : State} {g : EGuard} {mask : BitVec 16} (hr : s.ready) (hg : eGuard s g = true)
    (hc : ∀ x ∈ s.ctx.captures g, s.ctx.instDone x = true) (ht : producesTok g = none)
    (hroom : (s.ctx.eng.queue (firstCopyEngine s)).length < 16) :
    exec (.tokCl g mask) s = .next (s.finished (clearTokens s.ctx (maskTokens mask)) (s.nb (.tokCl g mask))) := by
  obtain ⟨tokens, heq⟩ := clearTokens_eq s.ctx (maskTokens mask)
  exact issueOne_engine s _ (semTokCl g mask) _ (firstCopyEngine s) _ hr (semTokCl_eq _ hg ht hc) rfl rfl rfl hroom (.inl rfl) rfl
    rfl rfl (by rw [heq]) (by rw [heq]) (by rw [heq]) (by rw [heq]; exact hr.1)

/-! ### O32 -/

theorem immediateEngineInstructions : ImmediateEngineInstructions := by
  intro s g hr hg hc
  constructor
  · intro a hf hs hwf
    obtain ⟨basin, ports, tokens, gone, heq, hspad⟩ := zeroSaved_eq g (s.ctx.regs.getS a).toNat s.ctx
    refine ⟨_, swpSvCompletes hr hg hc hf hs, fun x => ?_, ?_, ?_, rfl, fun n hn => token_zeroSaved _ s.ctx hn⟩
    · have hread : Mem.get (zeroSaved g (s.ctx.regs.getS a).toNat s.ctx).basin.spad x =
          (laidAt (s.ctx.regs.getS a).toNat ((leBytes 64 0).map some) x).or (Mem.get s.ctx.basin.spad x) := by
        rw [heq, hspad]
        exact (Mem.write_spec _ _ _ hwf).2.2 x
      refine hread.trans ?_
      rw [leBytes_zero, List.map_replicate, laidAt_replicate]
      split <;> rfl
    · rw [heq]
      rfl
    · rw [heq]
      rfl
  · intro mask ht hroom
    obtain ⟨tokens, heq⟩ := clearTokens_eq s.ctx (maskTokens mask)
    refine ⟨_, tokClCompletes hr hg hc ht hroom, fun n hn => ?_, ?_⟩
    · refine (token_clearTokens s.ctx (maskTokens_nodup mask) hn).trans ?_
      simp only [mem_maskTokens mask hn]
    · rw [heq]
      exact ⟨rfl, rfl, rfl, rfl, rfl⟩

/-- Settles O32: a closing stops or changes its port and queues the instruction; SWP.SV and TOK.CL act when their bundle issues. -/
theorem issueEffectsComplete : Obligations.IssueEffectsComplete := ⟨streamPortsChangeAtIssue, immediateEngineInstructions⟩

end Sys2Proof.VectorData
end
